-- ==== Sys2Proof/Word.lean ====
section
/-! DEFINITION. Words, addresses and identifiers of the Skelcen 9240, and the sparse table in one canonical form that
the state is built of. -/
namespace Sys2Proof

/-- A 64-bit register of a block page, of a core or of a message. -/
abbrev Word := BitVec 64
abbrev Byte := BitVec 8

/-- A system-physical address, 48 bits (R35, R97). -/
abbrev Spa := BitVec 48

/-- One line of 64 bytes; byte b of the line is bits [8b+7:8b] (R3, R4). -/
abbrev Line := BitVec 512

/-- The bytes of a little-endian value, least significant first (R3). -/
def bytesOf : Nat → Nat → List Byte
  | 0, _ => []
  | n + 1, v => BitVec.ofNat 8 v :: bytesOf n (v / 256)

/-- The value of little-endian bytes (R3). -/
def ofBytes : List Byte → Nat
  | [] => 0
  | b :: bs => b.toNat + 256 * ofBytes bs

/-- Bits [lo + w - 1 : lo] of a number. -/
def bitsOf (v lo w : Nat) : Nat := v / 2 ^ lo % 2 ^ w

/-- A number with bits [lo + w - 1 : lo] replaced. -/
def putBits (v lo w x : Nat) : Nat :=
  v % 2 ^ lo + (x % 2 ^ w) * 2 ^ lo + v / 2 ^ (lo + w) * 2 ^ (lo + w)

/-- A count that stops at its largest value (saturating at 2^w - 1). -/
def satAdd (w v x : Nat) : Nat := min (v + x) (2 ^ w - 1)

/-- A sparse table: keys strictly rising. -/
abbrev Tbl (α : Type) := List (Nat × α)

namespace Tbl
variable {α : Type}

def find (t : Tbl α) (k : Nat) : Option α :=
  match t with
  | [] => none
  | (k', v) :: r => if k' = k then some v else find r k

/-- The value at a key, `d` where the key is not listed. -/
def getD (t : Tbl α) (k : Nat) (d : α) : α := (t.find k).getD d

def erase (t : Tbl α) (k : Nat) : Tbl α := t.filter (fun e => e.1 != k)

/-- List a value at a key, keeping the keys rising. -/
def ins (t : Tbl α) (k : Nat) (v : α) : Tbl α :=
  match t with
  | [] => [(k, v)]
  | (k', v') :: r =>
    if k < k' then (k, v) :: (k', v') :: r
    else if k = k' then (k, v) :: r
    else (k', v') :: ins r k v

/-- Write a value at a key of a table whose unlisted keys read as `d`: writing `d` removes the entry. -/
def put [DecidableEq α] (t : Tbl α) (k : Nat) (v d : α) : Tbl α :=
  if v = d then t.erase k else t.ins k v

/-- Keys strictly rising and every key above `lo`. -/
def risingFrom (lo : Nat) : Tbl α → Bool
  | [] => true
  | (k, _) :: r => decide (lo < k) && risingFrom k r

/-- Keys strictly rising. -/
def rising : Tbl α → Bool
  | [] => true
  | (k, _) :: r => risingFrom k r

/-- The canonical form: keys rising and no entry equal to what an unlisted key reads as. -/
def wf [DecidableEq α] (t : Tbl α) (d : α) : Bool := t.rising && t.all (fun e => decide (e.2 ≠ d))

def keep (t : Tbl α) (p : Nat → α → Bool) : Tbl α := t.filter (fun e => p e.1 e.2)
def mapV (t : Tbl α) (f : Nat → α → α) : Tbl α := t.map (fun e => (e.1, f e.1 e.2))

end Tbl

end Sys2Proof
end

