-- ==== Sys2Proof/Syntax.lean ====
section
/-! DEFINITION. The commands the package takes: one constructor per row of the table of operations and events, with the
operands that name the part concerned (a die, a core, a quadrant, a page of control space) and what the environment
supplies (a written value, a message, a measurement). -/
namespace Sys2Proof

/-- The block types of R64. -/
inductive Block where
  | pkg | clk | mgmt | tap | lant | pmu | core | l3 | fab | hyl | home | msc | ddr | rake | tier | codec | bulk | ten
  | ciph | seed | guy | pg | ep
  deriving DecidableEq, Repr

/-- A page of control space: die, block type and instance (R35). -/
structure PageId where
  die : Fin 16
  blk : Block
  inst : Fin 64
  deriving DecidableEq, Repr

/-- Who makes a control-space access: a core at a privilege level, the management controller, or a foreign host
through BAR0/1, which is checked as a core at the highest level (R40, R42). -/
inductive Src where
  | core (pl : Fin 3)
  | mc
  | host
  deriving DecidableEq, Repr

/-- A core's place in the package (R12). -/
structure Cid where
  die : Fin 12
  core : Fin 20
  deriving DecidableEq, Repr

/-- How much of a 64-bit register an access reaches (R37). -/
inductive Half where
  | whole | low | high
  deriving DecidableEq, Repr

/-- What a register write names: a control-space register by its offset in the control region, or a system register
of a core. -/
inductive RegTarget where
  | control (addr : BitVec 28)
  | system (cid : Cid) (sreg : BitVec 10)
  deriving DecidableEq, Repr

/-- The pin whose fall makes a cold reset (R83). -/
inductive ResetPin where
  | pkgResetN | pwrgood
  deriving DecidableEq, Repr

/-- Why a Hylar module's training fails, other than by its version (R421). -/
inductive TrainFail where
  | noModule | repair | fwdClock
  deriving DecidableEq, Repr

/-- How a Hylar module's training ends (R416). -/
inductive TrainResult where
  | trained (revision : BitVec 4) (h1 h2 : Bool) (sparesTx sparesRx : Fin 8)
  | failed (cause : TrainFail)
  deriving DecidableEq, Repr

/-- What makes a load: an ordinary load, an instruction fetch, a speculative load or the load of an atomic
read-modify-write. -/
inductive LoadKind where
  | data | fetch | speculative | atomic
  deriving DecidableEq, Repr

/-- A message of the coherence protocol as it arrives (R186, R474, R475). Agents are numbered: compute dies 0 to 11, BULK
instances 16 to 19, TIER 20 to 23, CODEC 24 to 27, Rake 28 to 31, port groups 32 to 47, endpoints 48 to 63, the
management controller 64 and homes 72 to 75. Where the same message is already in flight, the one in flight is the one
that arrives. -/
structure Packet where
  src : Fin 80
  dst : Fin 80
  ackTo : Fin 80
  line : BitVec 42
  data : Line
  poison : Bool
  /-- SPEC of a request, KEEP of WbDirty, OFFER of Evict, "none" of SnpData, STALE of WbAck. -/
  flag : Bool
  /-- Grant state: 0 S, 1 E, 2 M, 3 O. -/
  grant : Fin 4
  /-- INVCOUNT, the cause of Refuse, the count of DurSync, or what Cmp completes (0 write, 1 Flush, 2 DurWb, 3 DurSync). -/
  count : BitVec 32
  /-- CID of Flush, DurWb, DurSync and Cmp; byte mask of WrPart; prefetch mark of a request; DUR of Data and Grant. -/
  aux : Word
  deriving DecidableEq, Repr

/-- The operation of a Flush (R196). -/
inductive FlushOp where
  | cln | inv | clninv
  deriving DecidableEq, Repr

/-- The level an evicted line is offered to (R164). -/
inductive OfferTo where
  /-- From a core's L2 to a way of its die's L3, with what the dead-line predictor and the reuse bit of the line that
  would make way say. -/
  | l3 (core : Fin 20) (way : Fin 16) (dead reuse : Bool)
  /-- From the die's L3 to the MSC part of the home. -/
  | msc
  deriving DecidableEq, Repr

/-- The attributes a TIER command gives a page (R273, R276). -/
structure PageAttrs where
  tenant : BitVec 11
  dur : Bool
  pin : Bool
  sleepok : Bool
  deriving DecidableEq, Repr

/-- What a channel's SPD shows of its DIMMs (R211): DDR5 registered, of x4 devices, how many a subchannel and rank have, the
capacity in GiB and the ranks. -/
structure Dimm where
  registered : Bool
  x4 : Bool
  devices : BitVec 8
  gib : BitVec 16
  ranks : BitVec 4
  deriving DecidableEq, Repr

/-- A DDR5 channel, and what stands on it. -/
structure DdrChan where
  n : Fin 16
  dimm : Dimm
  deriving DecidableEq, Repr

/-- Why a TIER instance demotes a page of its own accord (R251, R257). -/
inductive DemoteCause where
  | watermark | shed | age
  /-- A tenant above its share of Bed or, where `frame`, of Frame. -/
  | quota (tenant : BitVec 11) (frame : Bool)
  deriving DecidableEq, Repr

/-- The staging area of a tenant command (R352). -/
structure TenantCfg where
  kind : Fin 4
  durable : Bool
  rset : BitVec 12
  queues : BitVec 9
  qbase : BitVec 13
  bw : BitVec 8
  lant : BitVec 8
  ld : BitVec 10
  /-- TKEY 0 to 7: the slot where V is 1. -/
  keys : List (Option (BitVec 12))
  bed : BitVec 40
  frame : BitVec 40
  shed : BitVec 40
  deriving DecidableEq, Repr

/-- A partner's HELLO (R394): what it carries, the session keys wrapped under the pair key that the package with the lower
SERIAL exports (to the higher one's TX and RX slots), and a result by which the partner's own checks have ended the
formation (0 none). -/
structure Hello where
  serial : BitVec 63
  rev : Fin 4
  majors : Byte
  features : Byte
  codecMajor : Byte
  dregion : BitVec 17
  mwindow : BitVec 17
  tenants : List (BitVec 11)
  queues : List (BitVec 13)
  sets : List (BitVec 12)
  keyToPeer : List Byte
  keyFromPeer : List Byte
  refused : Fin 11
  deriving DecidableEq, Repr

/-- A batch of the mirror stream (R399, R425): SEQ of its first record, the invocation counter of its IV, ciphertext and tag. -/
structure Batch where
  seq : Word
  counter : Word
  cipher : List Byte
  tag : List Byte
  deriving DecidableEq, Repr

/-- A chunk of a firmware image (R92): an AES-256-GCM message with its own tag. -/
structure Chunk where
  iv : BitVec 96
  cipher : List Byte
  tag : List Byte
  deriving DecidableEq, Repr

/-- The common part of a Guyline link frame (R424): flags, FSEQ, ACKSEQ, CREDITS and its CRC as received. -/
structure FrameHdr where
  nak : Bool
  replay : Bool
  fseq : BitVec 16
  ackseq : BitVec 16
  credits : Byte
  crc : BitVec 32
  deriving DecidableEq, Repr

/-- A page whose copy a STATUS frame carries (R425). -/
inductive StatusPage where
  | pkg | lant | guy0 | guy1
  deriving DecidableEq, Repr

/-- A codeword pair of a lane after FEC decoding (R423): the pair header's bytes, how many of its codewords FEC corrected
and could not correct, and how many of its frames arrive with a failing CRC because of that. -/
structure PairHdr where
  pseq : BitVec 16
  lane : Byte
  active : Byte
  check : Byte
  corrected : Fin 3
  uncorrected : Fin 3
  deriving DecidableEq, Repr

/-- What a device asks of a root port (R436). -/
inductive DevReq where
  | read (addr : Word) (len : Fin 4097)
  | write (addr : Word) (data : List Byte)
  deriving DecidableEq, Repr

/-- What a shelf's link and device give a pitch (R444): nothing where the port is down or has no CXL.mem, the capacity in
GiB, and the 64 label bytes of page 0. -/
structure ShelfFound where
  linkLost : Bool
  capGib : BitVec 16
  label : List Byte
  deriving DecidableEq, Repr

/-- What a completion timeout ends (R437): the oldest device access outstanding to a root port, the read of a shelf unit, or
the wait of a pitch or of a strike's link release for a shelf. -/
inductive TimedOut where
  | device (port : Fin 64)
  | unit (shelf : Fin 64) (page : BitVec 36) (unit : Fin 8)
  | pitch (shelf : Fin 64)
  | release (shelf : Fin 64)
  deriving DecidableEq, Repr

/-- What a foreign host writes in a function's configuration space or through its BARs (R454–R457, R466). -/
inductive HostWrite where
  /-- Memory Space Enable and Bus Master Enable of the command register. -/
  | command (mse bme : Bool)
  | bar (i : Fin 6) (value : BitVec 32)
  | rom (value : BitVec 32)
  | msixControl (enable mask : Bool)
  | vector (i : BitVec 11) (address : Word) (data : BitVec 32) (masked : Bool)
  | ltrEnable (on : Bool)
  | hdm (base size : Word)
  | power (d3hot : Bool)
  /-- A write of 2^lg bytes, naturally aligned, in BAR2/3 (R358, R455). -/
  | doorbell (off : BitVec 23) (lg : Fin 4) (value : Word)
  deriving DecidableEq, Repr

/-- A DRAM device's ECS error count as Rake reads it at the end of a pass (R497). -/
structure EcsCount where
  chan : Fin 4
  rank : Fin 4
  sub : Fin 2
  device : Fin 10
  count : BitVec 16
  deriving DecidableEq, Repr

/-- A rail of steps 2 to 4 of R530. -/
inductive Rail where
  | cd (k : Fin 12)
  | iod | ser | serA | ddr
  deriving DecidableEq, Repr

/-- What a tagged instruction's record tells (R519): how it ended, its exception class, addresses (where valid), KIND and
latencies. -/
structure TagRec where
  retired : Bool
  exc : Option (Fin 64)
  pc : Word
  vaddr : Option Word
  paddr : Option (BitVec 48)
  load : Bool
  store : Bool
  branch : Bool
  mispredicted : Bool
  dtlbMiss : Bool
  walk : Bool
  source : Fin 8
  far : Bool
  decIss : Nat
  issCmp : Nat
  cmpRet : Nat
  deriving DecidableEq, Repr

/-- One command per row of spec/opcode_table.json. -/
inductive Instr where
  /-- R23. No REFCLK edge arrives within 64 AUXOSC cycles, or the root PLL loses lock; the PLL enters holdover, DRAM goes to self-refresh and the package raises a Fatal error and enters FROZEN. -/
  | refclkLoss (noEdge : Bool)
  /-- R22. The root PLL reports lock and the management controller moves from AUXOSC to PCLK, continuing bring-up. -/
  | rootPllLock
  /-- R547. During WARMRESET with the PLL in holdover, REFCLK returns and the PLL relocks; HOLDOVER clears and the warm BRINGUP proceeds. -/
  | holdoverRelock
  /-- R28. A write to PSTATE_REQ changes the requested performance state of cores, setting a new target for the clock unit. -/
  | pstateReqWrite (src : Src) (die : Fin 12) (value : Word)
  /-- R29. The clock unit finds a core's target differs from PSTATE_ACT, stops issue, changes the divider at a common root edge and resumes. -/
  | pstateSwitch (die : Fin 12) (core : Fin 20)
  /-- R54. A control-space or system-register write to a register with no behaviour of its own sets fields according to their class and access type. -/
  | registerWrite (src : Src) (target : RegTarget) (half : Half) (value : Word)
  /-- R49. Writing CONTROL.ENABLE to 1 requests the block to start running. -/
  | blockEnable (src : Src) (page : PageId)
  /-- R49. Writing CONTROL.ENABLE to 0 requests the block to stop once the work it took on has finished. -/
  | blockDisable (src : Src) (page : PageId)
  /-- R48. Writing CONTROL.QUIESCE stops the block taking new work while it stays enabled. -/
  | quiesce (src : Src) (page : PageId) (value : Bool)
  /-- R49. The block completes its start after ENABLE is set and STATUS.ENABLED becomes 1. -/
  | blockStarted (page : PageId)
  /-- R49. The block finishes all work taken on before ENABLE was cleared; STATUS.ENABLED and BUSY become 0. -/
  | blockStopped (page : PageId)
  /-- R86. Writing CONTROL.RESET performs a block reset when honoured, discarding staged commits and returning fields to reset values. -/
  | blockReset (src : Src) (page : PageId)
  /-- R56. Writing COMMIT.GO copies every Shadowed field into a staged set and sets COMMIT_PENDING. -/
  | commitGo (src : Src) (page : PageId)
  /-- R57. Writing COMMIT.CANCEL discards a staged commit not yet applied and clears COMMIT_PENDING. -/
  | commitCancel (src : Src) (page : PageId)
  /-- R56. At the block's safe point the whole staged set moves into the active copies, COMMIT_COUNT increments and COMMIT_PENDING clears. -/
  | safePointApply (page : PageId)
  /-- R509. A write to ERR_INJECT raises the named error as if it had occurred when injection is honoured, otherwise it is discarded and sets ACCESS. -/
  | errorInject (src : Src) (page : PageId) (value : Word)
  /-- R73. Standby rails come within limits and the package moves from OFF to AUX. -/
  | standbyPowerOn
  /-- R73. Standby power is lost and the package goes to OFF from any mode. -/
  | standbyPowerLost
  /-- R83. PKG_RESET_N or PWRGOOD goes low; the package enters AUX and state is reset as a cold reset. -/
  | coldReset (pin : ResetPin)
  /-- R73. The later of PWRGOOD and PKG_RESET_N rises while in AUX and the package enters BRINGUP. -/
  | bringupStart
  /-- R73. A MODE_REQ of SOLO from BRINGUP moves to SOLO, SEVERED or TAKEOVER as R408 names, or from APPLIANCE to SOLO, else sets REQ_ERR. -/
  | modeReqSolo (src : Src)
  /-- R76. A MODE_REQ of MAINTENANCE from BRINGUP enters MAINTENANCE. -/
  | modeReqMaintenance (src : Src)
  /-- R75. A MODE_REQ of APPLIANCE from SOLO sets PARK to 0xFFE and parks CD1 to CD11. -/
  | modeReqAppliance (src : Src)
  /-- R74. A MODE_REQ of DRAIN from a service mode enters DRAIN, holding new work. -/
  | modeReqDrain (src : Src)
  /-- R73. A MODE_REQ naming PREV_MODE while in DRAIN returns the package to that mode and releases held work. -/
  | modeReqReturn (src : Src) (code : BitVec 4)
  /-- R83. A MODE_REQ of WARMRESET from DRAIN with DRAINED 1, or from FROZEN, starts a warm reset keeping DRAM in self-refresh. -/
  | modeReqWarmreset (src : Src)
  /-- R87. A MODE_REQ of AUX from DRAIN with DRAINED 1 runs the orderly power-down: park, MSC writeback, shelf writes, self-refresh. -/
  | modeReqPowerdown (src : Src)
  /-- R74. In DRAIN, all work that began before entry reaches its acceptance point and DRAINED becomes 1. -/
  | drainComplete
  /-- R73. Re-initialisation during WARMRESET completes and the package enters BRINGUP, re-verifying the boot image. -/
  | warmReinitDone
  /-- R80. Writing a STRIKE bit stops issue on the die's cores, drains store buffers and writes back dirty lines. -/
  | dieStrike (src : Src) (dies : BitVec 12)
  /-- R80. Writing a PITCH bit trains the die's Hylar module and applies the selected coherence version. -/
  | diePitch (src : Src) (dies : BitVec 12)
  /-- R81. Setting a PARK bit stops issue and drains the die as for a strike, then turns off its core rail. -/
  | diePark (src : Src) (dies : BitVec 12)
  /-- R81. Clearing a PARK bit restarts a parked die with reset registers, or cancels a park not yet at its fence step. -/
  | dieRestart (src : Src) (dies : BitVec 12)
  /-- R80. Once a struck or parked die's outstanding requests complete, its Hylar module is fenced and STRUCK_MASK or PARKED is set. -/
  | dieFence (die : Fin 12)
  /-- R309. The seed store loads fused slots, generates M0, S0 and SYS and sets READY. -/
  | seedStoreReady
  /-- R92. Verification of a management controller image copy ends; on failure the B copy is tried, and if both fail FW_FAIL is set and FATAL_N asserted. -/
  | mcImageVerified (copyB : Bool) (major : Byte) (chunks : List Chunk) (version : BitVec 16) (config : List (BitVec 28 × Word))
  /-- R93. Verification of the boot firmware image ends; it is placed in the boot window and WINDOW_VALID set, or BOOT_FAIL set if both copies fail. -/
  | bootImageVerified (copyB : Bool) (major minor : Byte) (chunks : List Chunk)
  /-- R416. A Hylar module completes training and version exchange; CDREV is written, or the die is refused and stays struck. -/
  | hylarTrained (die : Fin 12) (result : TrainResult)
  /-- R94. A compute die reports READY; the first after WINDOW_VALID becomes BOOT_DIE and its core 0 starts at the boot window. -/
  | dieReady (die : Fin 12)
  /-- R228. A DDR channel completes training and initialisation, or warm restore, and sets READY. -/
  | ddrChannelReady (ch : DdrChan)
  /-- R90. A port group completes its initialisation and sets READY. -/
  | pgReady (pg : Fin 16)
  /-- R549. A Guyline port is enabled and its PHY initialised, so STATUS.READY and PKG.READY.GL become 1. -/
  | glPortReady (port : Fin 2)
  /-- R90. A Barkai quadrant's instances finish initialisation or warm recoveries and report READY. -/
  | barkaiReady (q : Fin 4)
  /-- R349. The TEN block sets READY and tenant 0 comes into existence. -/
  | tenReady
  /-- R176. Writing WINDOW_RELEASE empties the boot window and returns ways 12 to 15 of the Q0 MSC part to the cache. -/
  | windowRelease (src : Src)
  /-- R112. A core load is translated, checked in fault order and performed, possibly forwarding from its own store buffer. -/
  | load (cid : Cid) (rd : Fin 32) (va : Word) (lg : Fin 7) (kind : LoadKind) (ilen : Fin 17)
  /-- R118. A core store obtains ownership of its line, retires and enters the store buffer. -/
  | store (cid : Cid) (rs : Fin 32) (va : Word) (lg : Fin 7) (ilen : Fin 17)
  /-- R119. A store leaves the store buffer and becomes visible, going to the shed journal if its page has become Dormant. -/
  | storeDrain (cid : Cid) (index : Fin 64)
  /-- R117. FENCE.ALL completes all earlier accesses and cache maintenance, draining the store buffer. -/
  | fenceAll (cid : Cid)
  /-- R117. FENCE.LD orders earlier loads before later loads and stores. -/
  | fenceLd (cid : Cid)
  /-- R117. FENCE.ST makes earlier stores visible before later stores. -/
  | fenceSt (cid : Cid)
  /-- R117. FENCE.IO acts as FENCE.ALL and waits for earlier device stores to be acknowledged, then raises a pending DEVWRITE. -/
  | fenceIo (cid : Cid)
  /-- R123. DURSYNC drains the store buffer, sends DurWb for each DWL entry and a DurSync to each home. -/
  | dursync (cid : Cid) (d : Fin 32)
  /-- R123. All four homes answer the DurSync and DURSYNC writes 0 or LINE_LOST to its destination. -/
  | dursyncComplete (cid : Cid)
  /-- R124. CLN.L writes the line to its home if dirty and leaves it valid in every cache. -/
  | clnL (cid : Cid) (a : Fin 32)
  /-- R124. INV.L invalidates the line everywhere without writeback. -/
  | invL (cid : Cid) (a : Fin 32)
  /-- R124. CLNINV.L writes back the line if dirty and then invalidates it everywhere. -/
  | clninvL (cid : Cid) (a : Fin 32)
  /-- R148. TLBI.VA broadcasts invalidation of one virtual address under one address-space tag. -/
  | tlbiVa (cid : Cid) (a b : Fin 32)
  /-- R148. TLBI.TAG broadcasts invalidation of every entry under a tag. -/
  | tlbiTag (cid : Cid) (a : Fin 32)
  /-- R148. TLBI.ALL broadcasts invalidation of every translation entry. -/
  | tlbiAll (cid : Cid)
  /-- R117. LD.ACQ loads 2^X bytes and no later access is performed before it. -/
  | ldAcq (cid : Cid) (a d : Fin 32) (x : Fin 4)
  /-- R117. ST.REL drains the store buffer and stores 2^X bytes visible only after every earlier access. -/
  | stRel (cid : Cid) (a b : Fin 32) (x : Fin 4)
  /-- R126. SRR reads a system register into a general register, subject to privilege. -/
  | srr (cid : Cid) (sreg : BitVec 10) (d : Fin 32)
  /-- R126. SRW writes a general register into a system register, subject to privilege and read-only fields. -/
  | srw (cid : Cid) (sreg : BitVec 10) (d : Fin 32)
  /-- R129. ERET restores PL and IE from ESAVE and continues at EPC. -/
  | eret (cid : Cid)
  /-- R122. CALL takes a precise CALL exception to PL1 or PL2. -/
  | callInsn (cid : Cid) (x : Fin 32)
  /-- R122. WAIT stops issue until an interrupt could be taken or a DOORBELL write arrives. -/
  | waitInsn (cid : Cid)
  /-- R122. An instruction with an unlisted MINOR or non-zero unused field takes UNDEF. -/
  | undefInsn (cid : Cid) (word : BitVec 32)
  /-- R103. With IE 1 and IPEND AND IMASK non-zero, the core takes an INTERRUPT exception at an instruction boundary. -/
  | interrupt (cid : Cid)
  /-- R99. Writing RUN_CTL.RELEASE releases a parked core at CORE.ENTRY at PL2 with translation off. -/
  | coreRelease (src : Src) (cid : Cid)
  /-- R102. Writing CORE.DOORBELL sets bits of the target core's IPEND and ends a WAIT. -/
  | coreDoorbell (src : Src) (cid : Cid) (bits : Word)
  /-- R198. A request refused with SPEC set is sent again without SPEC when its access becomes the oldest unretired access. -/
  | nonspecResend (cid : Cid)
  /-- R149. A TlbiReq reaches a die's control stop; its cores remove matching entries, drain, wait for affected accesses and acknowledge. -/
  | tlbiReq (die : Fin 12)
  /-- R149. A die's TlbiAck reaches the die-12 control stop; when all have arrived the TLBI completes. -/
  | tlbiAck (die : Fin 12)
  /-- R157. Writing RSET_CTL.RANGE_INV sets INV_BUSY and starts invalidation of the selected range set in every range cache. -/
  | rangeInv (src : Src)
  /-- R157. All range caches drop the set and affected accesses complete; INV_BUSY clears. -/
  | rangeInvDone (set : BitVec 12)
  /-- R164. An evicted line is offered to the L3 or MSC, which accepts dirty lines and may decline clean ones. -/
  | evictionOffer (die : Fin 12) (line : BitVec 42) (offer : OfferTo)
  /-- R172. A write to L3.PRUNE_REQ requests way groups powered down or up; the slice starts acting on each difference. -/
  | pruneReqWrite (src : Src) (die : Fin 12) (slice : Fin 20) (value : Word)
  /-- R172. A slice finishes cleaning and powering down, or powering up, one way group; PRUNED and DONE_COUNT update and a Lantern event is sent. -/
  | pruneGroupDone (die : Fin 12) (slice : Fin 20)
  /-- R188. A RdShared reaches the home, which serves it from memory or forwards it to the owner, updating the filter. -/
  | rdShared (p : Packet)
  /-- R188. A RdOwn reaches the home, which invalidates other holders and gives the requester the line in M. -/
  | rdOwn (p : Packet)
  /-- R188. An Upgrade reaches the home, which invalidates other holders and sends a Grant, or serves it as RdOwn. -/
  | upgrade (p : Packet)
  /-- R196. A Flush carrying CLN, INV or CLNINV reaches the home, which applies the operation across the package. -/
  | flush (op : FlushOp) (p : Packet)
  /-- R192. A clean Evict reaches the home, which updates the filter and returns WbAck. -/
  | evict (p : Packet)
  /-- R192. A WbDirty reaches the home, which writes or discards the data according to the filter and returns WbAck. -/
  | wbDirty (p : Packet)
  /-- R195. A non-caching agent's RdCur is served from memory or by SnpCur to the owner. -/
  | rdCur (p : Packet)
  /-- R195. A full-line write invalidates every holder and writes the line. -/
  | wrLine (p : Packet)
  /-- R195. A byte-masked write takes the owner's data and merges into it, or is refused if the home copy is unreadable. -/
  | wrPart (p : Packet)
  /-- R386. A DurWb reaches the home, which commits the durable line through to its location and returns Cmp. -/
  | durWb (p : Packet)
  /-- R387. A DurSync reaches the home, which answers Cmp once the counted DurWbs of that CID have reached their acceptance point. -/
  | durSync (p : Packet)
  /-- R189. An owner receiving SnpFwdShared sends an S copy to the requester and moves to O. -/
  | snpFwdShared (p : Packet)
  /-- R189. An owner receiving SnpFwdOwn sends the line in M to the requester and invalidates. -/
  | snpFwdOwn (p : Packet)
  /-- R189. Under H1 an owner receiving SnpShared returns data to the home and keeps a copy. -/
  | snpShared (p : Packet)
  /-- R189. Under H1 an owner receiving SnpOwn returns data to the home and invalidates. -/
  | snpOwn (p : Packet)
  /-- R189. A holder receiving SnpInv invalidates and sends InvAck. -/
  | snpInv (p : Packet)
  /-- R189. An owner receiving SnpInvData returns any data to the home and invalidates. -/
  | snpInvData (p : Packet)
  /-- R189. An owner receiving SnpCur sends a copy and keeps its state. -/
  | snpCur (p : Packet)
  /-- R189. An owner receiving SnpClean writes back with KEEP if dirty and keeps a clean copy. -/
  | snpClean (p : Packet)
  /-- R191. A requester receives Data with its grant state and INVCOUNT and performs its one access. -/
  | dataMsg (p : Packet)
  /-- R191. A requester receives a Grant with INVCOUNT for an Upgrade. -/
  | grant (p : Packet)
  /-- R195. A non-caching agent receives a copy of the line. -/
  | dataCur (p : Packet)
  /-- R189. The home receives a die's snoop answer carrying the line or none. -/
  | snpData (p : Packet)
  /-- R191. An invalidation acknowledgement reaches its AckTo and is counted. -/
  | invAck (p : Packet)
  /-- R192. A die receives WbAck and leaves its transient eviction state. -/
  | wbAck (p : Packet)
  /-- R193. Under H1 the home receives CmpAck and the line stops being busy. -/
  | cmpAck (p : Packet)
  /-- R196. A requester receives Cmp for a write, Flush, DurWb or DurSync. -/
  | cmp (p : Packet)
  /-- R197. A requester receives Refuse with its cause and raises the matching exception or drops a speculative access. -/
  | refuse (p : Packet)
  /-- R220. A DDR controller reads and decodes a line's RS(80,64) codeword, returning clean, corrected, poisoned or uncorrectable. -/
  | memRd (spa lda : BitVec 48) (errs : List (Fin 80 × Byte))
  /-- R227. A DDR controller encrypts, encodes and queues a line write. -/
  | memWr (spa lda : BitVec 48) (data : Line) (poison : Bool)
  /-- R227. Decrypted read data returns from the DDR controller to the home. -/
  | memData (spa lda : BitVec 48)
  /-- R111. A device load reaches its target port or control stop. -/
  | devRd (cid : Cid) (port : Option (Fin 64))
  /-- R109. A device store reaches the I/O die; a Device-EA store is checked against the region table and may be acknowledged early. -/
  | devWr (cid : Cid) (port : Option (Fin 64))
  /-- R111. A device access response arrives; an error load returns all ones and a failed Device-NE store sets DEVWRITE_PEND. -/
  | devRsp (cid : Cid) (spa : BitVec 48) (data : Word) (err : Fin 3)
  /-- R204. A snoop goes unanswered for SNOOP_TIMEOUT.MICROS; the die is a dead agent and the domain goes down. -/
  | snoopTimeout (die : Fin 12) (line : BitVec 42)
  /-- R201. Writing HOME.SWEEP.GO starts removal of every filter entry of the named tenant. -/
  | sweepGo (src : Src) (q : Fin 4) (tenant : BitVec 11)
  /-- R356. A home's attach sweep ends and BUSY clears; when all four are clear, ATTACH ends with ATTACHED set. -/
  | sweepDone (q : Fin 4)
  /-- R229. A channel fails cold training and is struck; its quadrant drops to two-way interleave or its TIER does not become READY. -/
  | ddrTrainFail (ch : Fin 16) (ranks : BitVec 4)
  /-- R226. Writing DDR.ERASE_REQ.GO places a named device under erasure at once. -/
  | eraseReq (src : Src) (ch : Fin 16) (value : Word)
  /-- R231. A channel becomes unusable in service or fails warm restore; a Fatal error takes the package to FROZEN. -/
  | channelLost (ch : Fin 16)
  /-- R276. TIER command READ copies the page map entry into CMD_ENTRY without waiting. -/
  | tierRead (src : Src) (q : Fin 4) (page : BitVec 36)
  /-- R258. TIER command SET_ATTR sets TENANT, DUR, PIN and SLEEPOK on a page under the attribute rules. -/
  | tierSetAttr (src : Src) (q : Fin 4) (page : BitVec 36) (a : PageAttrs)
  /-- R276. TIER command ALLOC moves a None page to Zero with its tenant and attributes. -/
  | tierAlloc (src : Src) (q : Fin 4) (page : BitVec 36) (a : PageAttrs)
  /-- R276. TIER command FREE removes filter entries and MSC lines, frees storage and sets the entry None. -/
  | tierFree (src : Src) (q : Fin 4) (page : BitVec 36)
  /-- R276. TIER command ZERO acts as FREE but leaves the page Zero. -/
  | tierZero (src : Src) (q : Fin 4) (page : BitVec 36)
  /-- R276. TIER command PROMOTE promotes a Frame or Shed page to Bed and waits for the commit. -/
  | tierPromote (src : Src) (q : Fin 4) (page : BitVec 36)
  /-- R276. TIER command DEMOTE demotes a page to the named or chosen tier and waits for commit or abandonment. -/
  | tierDemote (src : Src) (q : Fin 4) (page : BitVec 36) (toTier : Fin 4)
  /-- R276. TIER command CLEAR_POISON sets a Poisoned page to Zero. -/
  | tierClearPoison (src : Src) (q : Fin 4) (page : BitVec 36)
  /-- R247. All lines are written to the destination; the entry becomes Stable Bed and the source is freed. -/
  | promotionCommit (q : Fin 4) (slot : Fin 64)
  /-- R251. A TIER instance chooses a page by watermark, age, command or quota and starts its demotion. -/
  | demotionStart (q : Fin 4) (cause : DemoteCause)
  /-- R254. Once the destination, and any shelf writes, are complete the entry becomes Stable in the new tier and the source is freed. -/
  | demotionCommit (q : Fin 4) (slot : Fin 64)
  /-- R246. Every PERIOD_S seconds a TIER instance begins a sweep adding 1 to the AGE of every entry. -/
  | ageingSweep (q : Fin 4)
  /-- R261. Writing SHELF_CFG.STRIKE_EVAC starts an evacuating strike of an Awake shelf. -/
  | strikeEvac (src : Src) (shelf : Fin 64)
  /-- R261. Writing SHELF_CFG.STRIKE_SLEEP starts a sleeping strike, promoting cached pages and setting the rest Dormant. -/
  | strikeSleep (src : Src) (shelf : Fin 64)
  /-- R261. When the journal holds no in-flight record for the shelf, its link is released and STATE becomes Empty or Asleep. -/
  | shelfStrikeDone (shelf : Fin 64) (released : Bool)
  /-- R262. Writing SHELF_CFG.RELEASE on an Asleep or Lost shelf poisons its pages, frees its space maps and makes it Empty. -/
  | shelfRelease (src : Src) (shelf : Fin 64)
  /-- R263. A shelf link goes down without a strike; the shelf becomes Lost, waiting reads are refused and a dormant sweep runs. -/
  | shelfLost (shelf : Fin 64)
  /-- R265. WAKE_RETRY_S seconds after it was set, WAKE_PEND clears. -/
  | wakeRetryExpire (shelf : Fin 64)
  /-- R267. A shelf completes a write and its shed journal record is freed, updating SHED_UNITS. -/
  | shelfWriteComplete (q : Fin 4) (seq : Word)
  /-- R331. SEED command GENERATE fills an Empty slot from the DRBG with the given attributes. -/
  | seedGenerate (src : Src) (slot : BitVec 12) (attr : BitVec 25) (fixed : Option (BitVec 32))
  /-- R332. SEED command IMPORT unwraps a wrapped key under a KEK and loads it into an Empty slot. -/
  | seedImport (src : Src) (slot kek : BitVec 12) (addr : BitVec 42) (attr : BitVec 25)
  /-- R331. SEED command EXPORT wraps an exportable slot under a KEK and writes the 56-byte blob. -/
  | seedExport (src : Src) (slot kek : BitVec 12) (addr : BitVec 42)
  /-- R331. SEED command RETIRE moves an Active slot to Retiring. -/
  | seedRetire (src : Src) (slot : BitVec 12)
  /-- R331. SEED command DESTROY empties a slot and zeroes every copy of its key. -/
  | seedDestroy (src : Src) (slot : BitVec 12)
  /-- R330. A noise-source health test fails; HEALTHY clears, DRBG_FAIL is set and GENERATE fails until a cold reset. -/
  | drbgHealthFail
  /-- R344. Slot storage is found unreadable and the slot becomes Empty. -/
  | slotUncorrectable (slot : BitVec 12)
  /-- R335. Writing MEMROT.GO generates the other memory pair, loads it into the DDR controllers and starts the rotation. -/
  | memrotGo (src : Src)
  /-- R335. The current memory pair's usage count reaches MEMROT_AT.USE with AUTO set and a rotation starts. -/
  | memrotAuto
  /-- R338. A TIER instance's cursor reaches an entry and rekeys, defers or passes the page. -/
  | memrotRekey (q : Fin 4)
  /-- R341. Writing SHEDROT.GO generates the other Shed slot, switches CUR and starts the rekey sweep of Shed pages. -/
  | shedrotGo (src : Src)
  /-- R341. The current Shed slot's count reaches SHEDROT_AT.USE with AUTO set and a Shed rotation starts. -/
  | shedrotAuto
  /-- R324. A suspended message resumes on its pipe, reloading its key and ending KEY_CHANGED if the slot changed. -/
  | messageResume (q : Fin 4) (pipe : Fin 6)
  /-- R326. A normal message suspended for SUSPEND_MAX_US resumes at the pipe's next boundary ahead of urgent work. -/
  | suspendTimeout (q : Fin 4) (pipe : Fin 6)
  /-- R353. TEN command CREATE applies the staging area to a Free context, which becomes Running with queues Off. -/
  | tenCreate (src : Src) (tenant : BitVec 11) (cfg : TenantCfg)
  /-- R357. TEN command RESIZE applies queues, keys, quotas, shares and DURABLE to a Running context. -/
  | tenResize (src : Src) (tenant : BitVec 11) (cfg : TenantCfg)
  /-- R354. TEN command RESET stops the tenant's queues and cancels its accepted work. -/
  | tenReset (src : Src) (tenant : BitVec 11)
  /-- R355. TEN command DESTROY cancels the tenant's work and returns its queues and range set to the pools. -/
  | tenantDestroy (src : Src) (tenant : BitVec 11)
  /-- R354. Every request of the cancelled work is performed or dropped; GEN advances, queues go Off and the context is Running or Free. -/
  | tenantWorkDrained (tenant : BitVec 11)
  /-- R356. TEN command ATTACH marks a foreign tenant attached at each home and starts the four filter sweeps. -/
  | tenAttach (src : Src) (tenant : BitVec 11)
  /-- R356. TEN command DETACH stops the logical device's traffic and clears ATTACHED. -/
  | tenDetach (src : Src) (tenant : BitVec 11)
  /-- R362. A write of TAIL to SQ_DB makes submission entries available to the engine. -/
  | sqDoorbell (tenant : BitVec 11) (index : BitVec 8) (tail : BitVec 16)
  /-- R362. A write of HEAD to CQ_DB frees completion slots and releases held completions. -/
  | cqDoorbell (tenant : BitVec 11) (index : BitVec 8) (head : BitVec 16)
  /-- R361. QCMD START moves an Off queue to Running, resuming from HEAD, TAIL and NEXT_SEQ. -/
  | queueStart (src : Src) (queue : BitVec 13)
  /-- R361. QCMD STOP stops fetching; the queue is Stopping until accepted work completes. -/
  | queueStop (src : Src) (queue : BitVec 13)
  /-- R365. A BULK instance reads a queue entry and checks GEN, SEQ and OPCODE before acceptance. -/
  | descriptorFetch (queue : BitVec 13)
  /-- R364. A COPY descriptor starts and copies LEN bytes from SRC to DST. -/
  | copy (queue : BitVec 13)
  /-- R364. A FILL descriptor starts and fills DST with an 8-byte pattern. -/
  | fill (queue : BitVec 13)
  /-- R293. A COMPRESS descriptor starts stream or Frame-page compression of its source. -/
  | compress (queue : BitVec 13)
  /-- R293. A DECOMPRESS descriptor starts stream or Frame-page decompression of its source. -/
  | decompress (queue : BitVec 13)
  /-- R320. An ENCRYPT descriptor checks its key and starts GCM, XTS or CTR encryption. -/
  | encrypt (queue : BitVec 13)
  /-- R320. A DECRYPT descriptor checks its key and starts decryption, writing output as produced. -/
  | decrypt (queue : BitVec 13)
  /-- R320. A HASH descriptor computes a SHA-256 or SHA-384 digest. -/
  | hash (queue : BitVec 13)
  /-- R320. A MAC descriptor computes a CMAC or HMAC tag. -/
  | mac (queue : BitVec 13)
  /-- R320. A PACK descriptor compresses and then GCM-encrypts its source. -/
  | pack (queue : BitVec 13)
  /-- R320. An UNPACK descriptor GCM-decrypts and then decompresses its source. -/
  | unpack (queue : BitVec 13)
  /-- R364. A PROMOTE_HINT descriptor issues PROMOTE on each of the tenant's pages in the range. -/
  | promoteHint (queue : BitVec 13)
  /-- R364. A DEMOTE_HINT descriptor issues DEMOTE on each of the tenant's pages in the range. -/
  | demoteHint (queue : BitVec 13)
  /-- R364. A PERSIST descriptor cleans every line of the range and accepts durable lines as a DURSYNC would. -/
  | persist (queue : BitVec 13)
  /-- R364. A FENCE descriptor completes after every earlier descriptor and holds later ones until then. -/
  | bulkFence (queue : BitVec 13)
  /-- R372. Once a descriptor's writes are visible, its completion is copied to the queue log, written to the ring and notified, or discarded if stale. -/
  | completionWrite (queue : BitVec 13) (index : BitVec 8)
  /-- R394. Writing PAIR_CTL.FORM starts pair formation with a HELLO exchange. -/
  | pairForm (src : Src)
  /-- R394. A partner's HELLO is received and checked for versions, numbers, windows and codec majors; session keys follow. -/
  | hello (h : Hello)
  /-- R413. Writing PAIR_CTL.UNPAIR sends SYNC on every stream to unpair in order. -/
  | unpair (src : Src)
  /-- R409. Writing PAIR_CTL.TAKEOVER in SEVERED makes the takeover decision and fences, or ends with PARTNER_ALIVE or FENCE_LOST. -/
  | takeover (src : Src)
  /-- R412. Writing PAIR_CTL.HANDBACK starts returning taken-over tenants to the Loser. -/
  | handback (src : Src)
  /-- R399. A received mirror batch is verified on the RX slot and its records placed in the inbound ring and acknowledged, or discarded. -/
  | mirrorBatch (stream : Fin 4) (b : Batch)
  /-- R402. A held LINE record is applied as a WrLine to the window address. -/
  | lineRecord (stream : Fin 4)
  /-- R402. A held PAGE record writes a whole page into the mirror window. -/
  | pageRecord (stream : Fin 4)
  /-- R402. A held MAP record applies ALLOC, FREE, ZERO, SET_ATTR or POISON to a window page. -/
  | mapRecord (stream : Fin 4)
  /-- R402. A held ACCEPT record writes the entry into the window copy of the queue log. -/
  | acceptRecord (stream : Fin 4)
  /-- R402. A held COMPLETE record writes the completion into the window copy of the queue log. -/
  | completeRecord (stream : Fin 4)
  /-- R402. A held CONTEXT record updates the shadow context table. -/
  | contextRecord (stream : Fin 4)
  /-- R402. A held QUEUE record updates the shadow queue table. -/
  | queueRecord (stream : Fin 4)
  /-- R402. A held RANGE record updates the shadow range-set table. -/
  | rangeRecord (stream : Fin 4)
  /-- R402. A held KEY record stores a wrapped key in the shadow tables or replaces a partner Shed slot. -/
  | keyRecord (stream : Fin 4)
  /-- R394. A SYNC record ends a stream's resynchronisation and is acknowledged. -/
  | syncRecord (stream : Fin 4)
  /-- R400. An acknowledgement covering a stream up to a SEQ arrives; records are freed and held acceptances given, completing formation or resync when SYNCs are covered. -/
  | mirrorAck (stream : Fin 4) (seq : Word)
  /-- R406. A valid token arrives on PAIR_FENCE_IN; FENCE_IN is set and a package not deciding takeover enters FROZEN. -/
  | fenceTokenIn (token : BitVec 63)
  /-- R406. 16 µs after sending its token the package wins or loses the fence by SERIAL. -/
  | fenceWaitExpire
  /-- R409. No Guyline port has been up for AUTO_TAKEOVER_MS with AUTO_TAKEOVER set, and the takeover decision is made. -/
  | autoTakeoverExpire
  /-- R468. Every Draining LD has been released by its host or FORCE_RELEASE; the Winner detaches and continues handback at step 3. -/
  | handbackReleased
  /-- R418. A Hylar link flit arrives; it is checked by CRC and TXSEQ, delivered with its credits, or discarded with NAK. -/
  | hylarFlit (die : Fin 12) (atDie : Bool) (flit : List Byte) (ctl crc : BitVec 32)
  /-- R420. A Hylar retrain ends; RETRAIN_LIMIT consecutive failures take the link down and make the die a dead agent. -/
  | hylarRetrainDone (die : Fin 12) (ok : Bool)
  /-- R420. A compute die loses its forwarded root clock, handled as loss of the Hylar link. -/
  | fwdClockLoss (die : Fin 12)
  /-- R423. A Guyline lane delivers a codeword pair; its header is checked, lock kept or lost, and frames deskewed. -/
  | codewordPair (port : Fin 2) (lane : Fin 16) (h : PairHdr)
  /-- R425. A DATA frame carrying mirror batch bytes arrives and is checked, acknowledged or NAKed for replay. -/
  | dataFrame (port : Fin 2) (h : FrameHdr) (stream : Fin 4) (payload : List Byte)
  /-- R425. An ACK frame arrives naming streams and SEQs acknowledged. -/
  | ackFrame (port : Fin 2) (h : FrameHdr) (entries : List (Fin 4 × Word))
  /-- R431. A STATUS frame updates the local partner view of the partner's die-12 pages. -/
  | statusFrame (port : Fin 2) (h : FrameHdr) (page : StatusPage) (offset : Fin 32) (mode : BitVec 4) (data : List Byte)
  /-- R428. A CONTROL RETRAIN_REQ reaches the leader, which retrains the port. -/
  | retrainReq (port : Fin 2) (h : FrameHdr)
  /-- R429. A CONTROL WIDTH_REQ reaches the leader, which may grant a width change. -/
  | widthReq (port : Fin 2) (h : FrameHdr) (lanes : Byte)
  /-- R428. A CONTROL GRANT names a new lane count and PSEQ at which both ends switch width. -/
  | widthGrant (port : Fin 2) (h : FrameHdr) (lanes : Byte) (pseq : BitVec 16)
  /-- R427. A TRAIN frame is exchanged; majors are negotiated and the peer checked for loopback or miscabling. -/
  | trainFrame (port : Fin 2) (crc : BitVec 32) (serial : BitVec 63) (majors minor lanes peerPort : Byte) (mode : BitVec 4)
  /-- R427. A Guyline port completes training; the leader sets ACTIVE and UP becomes 1. -/
  | guyTrainDone (port : Fin 2) (lanes : BitVec 16)
  /-- R428. Writing GUY.WIDTH.RETRAIN requests a retrain of the port. -/
  | guyRetrain (src : Src) (port : Fin 2)
  /-- R429. A write of GUY.WIDTH.REQ asks for a new active lane count. -/
  | widthReqWrite (src : Src) (port : Fin 2) (lanes : BitVec 5)
  /-- R430. A retrain that has not reached step 4 within 100 ms declares the port down. -/
  | guyRetrainTimeout (port : Fin 2)
  /-- R430. At the end of a DOWN_WINDOW_US window whose failure count exceeds DOWN_COUNT the port is declared down. -/
  | downWindowEnd (port : Fin 2)
  /-- R431. Every 10 µs each end sends a STATUS round on each up port. -/
  | statusRoundTimer
  /-- R431. No STATUS frame arrives within STATUS_TIMEOUT_US; PARTNER_VIEW.VALID clears and die-13 pages read all ones. -/
  | partnerStatusTimeout
  /-- R432. Every 100 µs the package sends a sideband beacon with its SERIAL and mode. -/
  | beaconTimer
  /-- R432. A partner beacon arrives; SB_PRESENT and PEER_SB_MODE update. -/
  | sidebandBeacon (port : Fin 2) (serial : BitVec 63) (mode : BitVec 4)
  /-- R433. No beacon arrives within 1 ms and SB_PRESENT clears. -/
  | sbPresentTimeout (port : Fin 2)
  /-- R435. A port-group port trains and reports its rate, width, FLIT mode and CXL.mem. -/
  | portLinkUp (port : Fin 64) (rate : Fin 5) (width : Fin 17) (flit cxlmem : Bool)
  /-- R437. A root port's link drops or meets an uncorrectable error; with DPC_EN it enters containment and outstanding requests fail. -/
  | portLinkDown (port : Fin 64) (dropped : Bool)
  /-- R436. A device request on a root port is served as an interrupt write or matched to a binding and translated, or refused as unbound. -/
  | deviceRequest (port : Fin 64) (rid : BitVec 16) (req : DevReq)
  /-- R437. A non-posted request waits CTO_10US × 10 µs and ends with an error result. -/
  | completionTimeout (what : TimedOut)
  /-- R437. Writing PORT_CTL.RELEASE_DPC ends containment of the port. -/
  | releaseDpc (src : Src) (port : Fin 64)
  /-- R440. Writing PORT_CTL.RETRAIN retrains the port's link. -/
  | portRetrain (src : Src) (port : Fin 64)
  /-- R444. Writing SHELF_PITCH.GO checks group, TIER readiness and state, then starts pitching the shelf. -/
  | shelfPitch (src : Src) (group : Fin 16) (shelf : Fin 64) (format : Bool)
  /-- R444. A port with CXL.mem trains for an Asleep or Lost shelf and a pitch starts without software. -/
  | autopitch (shelf : Fin 64)
  /-- R443. The shelf's identity and label are read and verified or written; the shelf becomes Awake or returns to its former state. -/
  | shelfPitchDone (shelf : Fin 64) (found : ShelfFound)
  /-- R461. A host CXL.mem request is translated and served at the home, or refused with poison and a refusal record. -/
  | hostMemRequest (group : Fin 16) (ld : Fin 64) (write : Bool) (dpa : BitVec 64) (data : Line) (mask : BitVec 64)
  /-- R463. The group's PERST# goes low and every LD's function state is reset, tenants kept. -/
  | fundamentalReset (group : Fin 16)
  /-- R463. An in-band hot reset or LD reset resets that function's state. -/
  | hotReset (group : Fin 16) (ld : Fin 64)
  /-- R463. Initiate FLR resets the function and runs RESET on its bound tenant. -/
  | flr (group : Fin 16) (ld : Fin 64)
  /-- R465. The upstream link drops without PERST#; partial requests are discarded and writes performed without completion. -/
  | upstreamSurpriseDown (port : Fin 64)
  /-- R465. An upstream link trains again and the LDs are presented as before. -/
  | upstreamLinkUp (port : Fin 64) (rate : Fin 5) (width : Fin 17) (flit mld : Bool)
  /-- R468. A host writes HOST_CTL.RELEASE for a Draining LD. -/
  | hostRelease (group : Fin 16) (ld : Fin 64)
  /-- R468. The manager writes EP.LD FORCE_RELEASE, acting as the host's release. -/
  | forceRelease (src : Src) (group : Fin 16) (ld : Fin 64)
  /-- R452. The mailbox answers Identify Memory Device with the LD's capacity. -/
  | identifyMemoryDevice (group : Fin 16) (ld : Fin 64)
  /-- R457. The mailbox answers Get Health Info. -/
  | getHealthInfo (group : Fin 16) (ld : Fin 64)
  /-- R457. The mailbox returns event records. -/
  | getEventRecords (group : Fin 16) (ld : Fin 64) (log : Fin 4)
  /-- R457. The mailbox clears event records. -/
  | clearEventRecords (group : Fin 16) (ld : Fin 64) (log : Fin 4) (handles : List (BitVec 16))
  /-- R457. The mailbox returns the event interrupt policy. -/
  | getEventInterruptPolicy (group : Fin 16) (ld : Fin 64)
  /-- R457. The mailbox sets the event interrupt policy. -/
  | setEventInterruptPolicy (group : Fin 16) (ld : Fin 64) (policy : BitVec 32)
  /-- R457. The mailbox returns the supported logs. -/
  | getSupportedLogs (group : Fin 16) (ld : Fin 64)
  /-- R457. The mailbox returns a log. -/
  | getLog (group : Fin 16) (ld : Fin 64)
  /-- R457. The mailbox returns the timestamp. -/
  | getTimestamp (group : Fin 16) (ld : Fin 64)
  /-- R457. The mailbox sets the timestamp. -/
  | setTimestamp (group : Fin 16) (ld : Fin 64) (ns : Word)
  /-- R450. The FM-owned LD answers Get LD Info. -/
  | getLdInfo (port : Fin 64)
  /-- R450. The FM-owned LD answers Get LD Allocations. -/
  | getLdAllocations (port : Fin 64)
  /-- R450. Set LD Allocations and QoS commands return Unsupported. -/
  | setLdAllocations (port : Fin 64)
  /-- R457. Any other mailbox command returns Unsupported. -/
  | unsupportedCommand (group : Fin 16) (ld : Fin 64) (opcode : BitVec 16)
  /-- R466. An LD's chosen latency value differs from LAST and MIN_INTERVAL_US has passed, so an LTR message is sent. -/
  | ltrSend (group : Fin 16) (ld : Fin 64)
  /-- R483. An uncorrectable header word on a mesh link is a Fatal error that takes the domain down. -/
  | meshHeaderError (die : Fin 13) (inst : Fin 4)
  /-- R486. Writing TCTL.CLEAR empties the trace buffer and clears TSTAT. -/
  | traceClear (src : Src) (die : Fin 13) (inst : Fin 4)
  /-- R506. At the end of a COALESCE_MS window each counted entry sends one COALESCED record and DROPPED records are sent. -/
  | coalesceWindowEnd
  /-- R504. Sideband GET_EVENTS returns up to 8 queued records. -/
  | getEvents
  /-- R504. Sideband ACK_EVENTS frees queued records up to a SEQ. -/
  | ackEvents (seq : BitVec 32)
  /-- R504. Sideband GET_STATUS returns mode, struck mask, pair state, reset cause and store status. -/
  | getStatus
  /-- R504. Sideband GET_STORE returns 32 incident-store slots. -/
  | getStore (slot : BitVec 11)
  /-- R505. Sideband ACK_ALARM clears ALERT_PEND and releases ALERT_N. -/
  | ackAlarm
  /-- R505. Writing 1 to ALARM.ALERT_PEND clears it and releases ALERT_N. -/
  | alertPendClear (src : Src)
  /-- R507. STORE_CTL.CLEAR_BANK0 empties Fatal bank 0. -/
  | clearBank0 (src : Src)
  /-- R507. STORE_CTL.CLEAR_BANK1 empties Fatal bank 1. -/
  | clearBank1 (src : Src)
  /-- R507. STORE_CTL.CLEAR_GENERAL empties the general area. -/
  | clearGeneral (src : Src)
  /-- R502. Writing RING_HEAD frees package ring slots so waiting records may be written. -/
  | ringHeadWrite (src : Src) (head : BitVec 20)
  /-- R497. Rake reads and scrubs the next line of its quarter at its paced rate. -/
  | rakeRead (q : Fin 4) (errs : List (Fin 80 × Byte)) (ecs : List EcsCount) (late : Bool)
  /-- R515. A core counter wraps past 2^48 − 1, setting OVF and optionally IPEND and freezing counters. -/
  | pmCounterOverflow (c : Cid) (n : Fin 8) (rest : BitVec 6)
  /-- R522. An uncore counter wraps, setting OVF and optionally freezing counting. -/
  | uncoreOverflow (die : Fin 13) (inst : Fin 4) (n : Fin 4) (rest : BitVec 9)
  /-- R518. The decoded-instruction count reaches the interval and an instruction is tagged, or the interval is postponed. -/
  | tagSelect (c : Cid)
  /-- R519. A tagged instruction retires, is discarded or faults, and its 64-byte record is written to the tag ring or dropped. -/
  | tagRecord (c : Cid) (r : TagRec)
  /-- R524. With ARM set, package time reaches SNAP_AT.TIME and the PMU page copies its counters into USNAP. -/
  | pmuSnapshot (die : Fin 13) (inst : Fin 4)
  /-- R534. Every 1 ms thermal control updates each die's thermal cap and PSTATE_CAP, flagging OVERTEMP. -/
  | thermalControlTick (temps : List (Fin 13 × BitVec 16))
  /-- R534. Every 1 ms power control raises or lowers core power caps against LIMIT_W. -/
  | powerControlTick (power : BitVec 16)
  /-- R536. A sensor reaches 125 °C; THERMTRIP_N asserts and a Fatal error takes the package to FROZEN. -/
  | thermtrip
  /-- R528. An AVSBus transaction fails or a regulator reports a fault, setting AVS_FAULT. -/
  | avsFault
  /-- R531. A monitored rail leaves its range while PWRGOOD is high, a Fatal error or a dead die. -/
  | railLost (rail : Rail)
  /-- R544. Each second outside OFF and AUX adds temperature-weighted equivalent time to LIFE_USED. -/
  | lifeAccrual
  /-- R544. Every 24 hours the management controller saves LIFE_USED to SPI flash. -/
  | lifeSave
  /-- R538. TRST_N low holds the TAP in Test-Logic-Reset with IDCODE selected. -/
  | tapReset
  /-- R538. TAP instruction IDCODE selects the identification register. -/
  | tapIdcode
  /-- R538. TAP instruction SAMPLE/PRELOAD samples or preloads the boundary register. -/
  | tapSamplePreload
  /-- R538. TAP instruction EXTEST drives the boundary register in MAINTENANCE, otherwise acts as BYPASS. -/
  | tapExtest
  /-- R538. TAP instruction CLAMP, honoured as EXTEST is. -/
  | tapClamp
  /-- R538. TAP instruction HIGHZ, honoured as EXTEST is. -/
  | tapHighz
  /-- R539. TAP instruction IJTAG selects the IEEE 1687 network when allowed, otherwise acts as BYPASS. -/
  | tapIjtag
  /-- R538. TAP instruction BYPASS, also taken by every undefined code. -/
  | tapBypass (code : Byte)
  /-- R408. The partner's PAIR_FENCE_OUT returns high at step 3 of handback; FENCE_IN clears and the Loser creates the contexts with GEN + 1 and resumes them (step 4 of R412). -/
  | pairFenceInHigh
  /-- R249. A CXL.mem read of a shelf unit and its tag entry completes; the unit is verified on the SHED channel and the line is returned, poisoned on tag failure, or the promotion continues. -/
  | shelfReadComplete (shelf : Fin 64) (page : BitVec 36) (unit : Fin 8) (intact : Bool)
  /-- R457. A foreign host writes an LD's configuration space or BAR registers, for example unmasking an MSI-X vector whose PBA bit is set, which sends the pending message. -/
  | hostConfigWrite (group : Fin 16) (ld : Fin 64) (w : HostWrite)
  /-- R223. ERASE_WINDOW_H hours pass, and corrected reads older than the window drop out of a device's DEVCOUNT. -/
  | eraseWindowExpiry (ch : Fin 16) (n : Fin 80) (old : BitVec 16)
  /-- R539. The TAP passes through Capture-DR (and the shift and update that follow); held insertion bits take effect, and EXTEST updates drive the boundary register. -/
  | captureDr (data : List Bool)
  deriving DecidableEq, Repr

end Sys2Proof
end

