-- ==== Sys2Proof/Decode.lean ====
section
/-! DEFINITION. Reading a command from bits. The table of this hardware gives no row any bits: its commands are register writes,
protocol messages and events, not instruction words. The one encoding the spec gives is that of a core's system instructions
(R121, R122). -/
namespace Sys2Proof

/-- The command a word of the table spells: no row has bits, so no word spells one. -/
def decodeTableWord (_nbits _w : Nat) : Option Instr := none

/-- The fields of R121: MINOR, A, B, D and X, and SREG in place of A and B. -/
def sysMinor (w : BitVec 32) : Nat := bitsOf w.toNat 20 6
def sysA (w : BitVec 32) : Fin 32 := Fin.ofNat 32 (bitsOf w.toNat 15 5)
def sysB (w : BitVec 32) : Fin 32 := Fin.ofNat 32 (bitsOf w.toNat 10 5)
def sysD (w : BitVec 32) : Fin 32 := Fin.ofNat 32 (bitsOf w.toNat 5 5)
def sysX (w : BitVec 32) : Fin 32 := Fin.ofNat 32 (bitsOf w.toNat 0 5)
def sysSreg (w : BitVec 32) : BitVec 10 := BitVec.ofNat 10 (bitsOf w.toNat 10 10)

/-- The system instruction a core's instruction word encodes: MAJOR 0x3D, a MINOR listed in R122, and every unused field 0. -/
def decodeSystem (c : Cid) (w : BitVec 32) : Option Instr :=
  let a := sysA w
  let b := sysB w
  let d := sysD w
  let x := sysX w
  let only (ok : Bool) (i : Instr) : Option Instr := if ok then some i else none
  if bitsOf w.toNat 26 6 ≠ 0x3D then none
  else match sysMinor w with
    | 0x00 => only (a == 0 && b == 0 && d == 0 && x == 0) (.fenceAll c)
    | 0x01 => only (a == 0 && b == 0 && d == 0 && x == 0) (.fenceLd c)
    | 0x02 => only (a == 0 && b == 0 && d == 0 && x == 0) (.fenceSt c)
    | 0x03 => only (a == 0 && b == 0 && d == 0 && x == 0) (.fenceIo c)
    | 0x04 => only (a == 0 && b == 0 && x == 0) (.dursync c d)
    | 0x08 => only (b == 0 && d == 0 && x == 0) (.clnL c a)
    | 0x09 => only (b == 0 && d == 0 && x == 0) (.invL c a)
    | 0x0A => only (b == 0 && d == 0 && x == 0) (.clninvL c a)
    | 0x10 => only (d == 0 && x == 0) (.tlbiVa c a b)
    | 0x11 => only (b == 0 && d == 0 && x == 0) (.tlbiTag c a)
    | 0x12 => only (a == 0 && b == 0 && d == 0 && x == 0) (.tlbiAll c)
    | 0x18 => only (b == 0 && decide (x.val < 4)) (.ldAcq c a d (Fin.ofNat 4 x.val))
    | 0x19 => only (d == 0 && decide (x.val < 4)) (.stRel c a b (Fin.ofNat 4 x.val))
    | 0x20 => only (x == 0) (.srr c (sysSreg w) d)
    | 0x21 => only (x == 0) (.srw c (sysSreg w) d)
    | 0x28 => only (a == 0 && b == 0 && d == 0 && x == 0) (.eret c)
    | 0x29 => only (a == 0 && b == 0 && d == 0) (.callInsn c x)
    | 0x2C => only (a == 0 && b == 0 && d == 0 && x == 0) (.waitInsn c)
    | _ => none

end Sys2Proof
end

