-- ==== Sys2Proof/Machine/Crypto.lean ====
section
/-! DEFINITION. The ciphers and hashes the chapter on the cipher engine names by their standards (R310, R314, R318–R320,
R332): AES (FIPS 197), CTR, GCM (NIST SP 800-38D), XTS (IEEE 1619), CMAC (SP 800-38B), AES-KW (RFC 3394), SHA-2 (FIPS 180-4)
and HMAC (FIPS 198-1). The spec names the standards; their texts are not in it (log 24). -/
namespace Sys2Proof.Crypto

/-! ### AES -/

/-- Doubling in GF(2^8) under x^8 + x^4 + x^3 + x + 1. -/
def xtime (a : Nat) : Nat := if a < 128 then 2 * a else Nat.xor (2 * a) 0x11B

def gmulAux : Nat → Nat → Nat → Nat
  | 0, _, _ => 0
  | n + 1, a, b => Nat.xor (if b % 2 = 1 then a else 0) (gmulAux n (xtime a) (b / 2))

def gmul (a b : Nat) : Nat := gmulAux 8 a b

/-- a^254, the inverse of a (0 for 0): the product of a^2, a^4, …, a^128. -/
def ginv (a : Nat) : Nat :=
  ((List.range 7).foldl (fun (r : Nat × Nat) _ =>
    let s := gmul r.2 r.2
    (gmul r.1 s, s)) (1, a)).1

def rotl8 (v n : Nat) : Nat := (v * 2 ^ n + v / 2 ^ (8 - n)) % 256

/-- One entry of the S-box: the inverse and the affine map. -/
def subByte (a : Nat) : Nat :=
  let b := ginv a
  [rotl8 b 1, rotl8 b 2, rotl8 b 3, rotl8 b 4, 0x63].foldl Nat.xor b

/-- The S-box, entry a in bits 8a to 8a + 7: `subByte` of every byte. -/
def sboxTable : Nat :=
  0x16BB54B00F2D99416842E6BF0D89A18CDF2855CEE9871E9B948ED9691198F8E19E1DC186B95735610EF6034866B53E708A8BBD4B1F74DDE8C6B4A61C2E2578BA08AE7A65EAF4566CA94ED58D6D37C8E779E4959162ACD3C25C2406490A3A32E0DB0B5EDE14B8EE4688902A22DC4F816073195D643D7EA7C41744975FEC130CCDD2F3FF1021DAB6BCF5389D928F40A351A89F3C507F02F94585334D43FBAAEFD0CF584C4A39BECB6A5BB1FC20ED00D153842FE329B3D63B52A05A6E1B1A2C830975B227EBE28012079A059618C323C7041531D871F1E5A534CCF73F362693FDB7C072A49CAFA2D4ADF04759FA7DC982CA76ABD7FE2B670130C56F6BF27B777C63

/-- The inverse S-box. -/
def invTable : Nat :=
  0x7D0C2155631469E126D677BA7E042B17619953833CBBEBC8B0F52AAE4D3BE0A0EF9CC9939F7AE52D0D4AB519A97F51605FEC8027591012B131C7078833A8DD1FF45ACD78FEC0DB9A2079D2C64B3E56FC1BBE18AA0E62B76F89C5291D711AF1476EDF751CE837F9E28535ADE72274AC9673E6B4F0CECFF297EADC674F4111913A6B8A130103BDAFC1020F3FCA8F1E2CD00645B3B80558E4F70AD3BC8C00ABD890849D8DA75746155EDAB9EDFD5048706C92B6655DCC5CA4D41698688664F6F87225D18B6D49A25B76B224D92866A12E084EC3FA420B954CEE3D23C2A632947B54CBE9DEC444438E3487FF2F9B8239E37CFBD7F3819EA340BF38A53630D56A0952

def tableAt (t a : Nat) : Nat := t / 256 ^ a % 256

def xorL (a b : List Nat) : List Nat := List.zipWith Nat.xor a b

/-- The key schedule: 4-byte words, Nk of them from the key. -/
def expand (key : List Nat) : List (List Nat) :=
  let nk := key.length / 4
  let ws := (List.range nk).map (fun i => (key.drop (4 * i)).take 4)
  ((List.range (4 * (nk + 7) - nk)).foldl (fun (r : List (List Nat) × Nat) j =>
    let i := j + nk
    let prev := r.1.headD []
    let back := (r.1.drop (nk - 1)).headD []
    let sub (w : List Nat) : List Nat := w.map (tableAt sboxTable)
    let t := if i % nk = 0 then xorL (sub (prev.drop 1 ++ prev.take 1)) [r.2, 0, 0, 0]
      else if 6 < nk ∧ i % nk = 4 then sub prev else prev
    (xorL back t :: r.1, if i % nk = 0 then xtime r.2 else r.2)) (ws.reverse, 1)).1.reverse

def roundKey (ws : List (List Nat)) (r : Nat) : List Nat := ((ws.drop (4 * r)).take 4).flatten

def shiftRows (b : List Nat) : List Nat := (List.range 16).map (fun i => b.getD ((i + 4 * (i % 4)) % 16) 0)
def unshiftRows (b : List Nat) : List Nat := (List.range 16).map (fun i => b.getD ((i + 16 - 4 * (i % 4)) % 16) 0)

def mixCol (m : List Nat) (c : List Nat) : List Nat :=
  (List.range 4).map (fun i => (List.range 4).foldl (fun a j => Nat.xor a (gmulAux 4 (c.getD j 0) (m.getD ((j + 4 - i) % 4) 0))) 0)

def mixCols (m b : List Nat) : List Nat := (List.range 4).flatMap (fun c => mixCol m ((b.drop (4 * c)).take 4))

/-- AES of one 16-byte block under a 16- or 32-byte key. -/
def aesEnc (key blk : List Nat) : List Nat :=
  let ws := expand key
  let n := key.length / 4 + 6
  let sub (b : List Nat) : List Nat := b.map (tableAt sboxTable)
  let b := (List.range (n - 1)).foldl (fun b r => xorL (mixCols [2, 3, 1, 1] (shiftRows (sub b))) (roundKey ws (r + 1)))
    (xorL blk (roundKey ws 0))
  xorL (shiftRows (sub b)) (roundKey ws n)

/-- The inverse. -/
def aesDec (key blk : List Nat) : List Nat :=
  let ws := expand key
  let n := key.length / 4 + 6
  let sub (b : List Nat) : List Nat := b.map (tableAt invTable)
  let b := (List.range (n - 1)).foldl (fun b r => mixCols [14, 11, 13, 9] (xorL (sub (unshiftRows b)) (roundKey ws (n - 1 - r))))
    (xorL blk (roundKey ws n))
  xorL (sub (unshiftRows b)) (roundKey ws 0)

/-! ### Block modes -/

def beBytes (n v : Nat) : List Nat := (List.range n).map (fun i => v / 256 ^ (n - 1 - i) % 256)
def beVal (b : List Nat) : Nat := b.foldl (fun a x => 256 * a + x) 0
def leBytes (n v : Nat) : List Nat := (List.range n).map (fun i => v / 256 ^ i % 256)
def leVal (b : List Nat) : Nat := b.reverse.foldl (fun a x => 256 * a + x) 0

def zeros (n : Nat) : List Nat := List.replicate n 0

/-- Pieces of n bytes, the last one shorter. -/
def chunks (n : Nat) (b : List Nat) : List (List Nat) :=
  (List.range ((b.length + n - 1) / n)).map (fun i => (b.drop (n * i)).take n)

/-- CTR from an initial counter block; `inc` makes the counter block of block i. -/
def ctrWith (key : List Nat) (ctr : Nat → List Nat) (data : List Nat) : List Nat :=
  (chunks 16 data).zipIdx.flatMap (fun c => xorL c.1 (aesEnc key (ctr c.2)))

/-- AES-CTR: the whole block counts, big-endian (R319). -/
def ctr (key iv data : List Nat) : List Nat := ctrWith key (fun i => beBytes 16 ((beVal iv + i) % 2 ^ 128)) data

/-- The product in GF(2^128) of GCM, bit 0 the most significant bit of the first byte. -/
def ghashMul (x y : Nat) : Nat :=
  ((List.range 128).foldl (fun (r : Nat × Nat) i =>
    let z := if x / 2 ^ (127 - i) % 2 = 1 then Nat.xor r.1 r.2 else r.1
    (z, if r.2 % 2 = 1 then Nat.xor (r.2 / 2) (0xE1 * 2 ^ 120) else r.2 / 2)) (0, y)).1

def padTo16 (b : List Nat) : List Nat := b ++ zeros ((16 - b.length % 16) % 16)

/-- The GHASH state after whole blocks. -/
def ghashOver (h : Nat) (b : List Nat) : Nat := (chunks 16 b).foldl (fun a c => ghashMul (Nat.xor a (beVal c)) h) 0

def ghash (h : Nat) (aad data : List Nat) : Nat :=
  ghashOver h (padTo16 aad ++ padTo16 data ++ beBytes 8 (8 * aad.length) ++ beBytes 8 (8 * data.length))

/-- The GCM counter blocks of a 96-bit IV: J0 is the IV and 1. -/
def gcmCtr (iv : List Nat) (i : Nat) : List Nat := iv ++ beBytes 4 ((1 + i) % 2 ^ 32)

def gcmCrypt (key iv data : List Nat) : List Nat := ctrWith key (fun i => gcmCtr iv (i + 1)) data

/-- The 16-byte tag over a ciphertext. -/
def gcmTag (key iv aad ct : List Nat) : List Nat :=
  xorL (beBytes 16 (ghash (beVal (aesEnc key (zeros 16))) aad ct)) (aesEnc key (gcmCtr iv 0))

/-- Multiplication of an XTS tweak by α. -/
def xtsAlpha (t : Nat) : Nat := if t < 2 ^ 127 then 2 * t else Nat.xor (2 * t - 2 ^ 128) 0x87

def xtsTweak (k2 : List Nat) (unit : Nat) : Nat → Nat
  | 0 => leVal (aesEnc k2 (leBytes 16 unit))
  | j + 1 => xtsAlpha (xtsTweak k2 unit j)

def xtsBlock (enc : Bool) (k1 : List Nat) (t : Nat) (b : List Nat) : List Nat :=
  let w := leBytes 16 t
  xorL (if enc then aesEnc k1 (xorL b w) else aesDec k1 (xorL b w)) w

/-- AES-XTS of a data unit of at least 16 bytes, with ciphertext stealing. -/
def xts (enc : Bool) (k1 k2 : List Nat) (unit : Nat) (data : List Nat) : List Nat :=
  let n := data.length / 16
  let r := data.length % 16
  let bs := chunks 16 data
  let t (j : Nat) : Nat := xtsTweak k2 unit j
  let whole (m : Nat) : List Nat := ((bs.take m).zipIdx).flatMap (fun c => xtsBlock enc k1 (t c.2) c.1)
  if r = 0 then whole n
  else
    let last := bs.getD (n - 1) []
    let tail := bs.getD n []
    if enc then
      let cc := xtsBlock true k1 (t (n - 1)) last
      whole (n - 1) ++ xtsBlock true k1 (t n) (tail ++ cc.drop r) ++ cc.take r
    else
      let pp := xtsBlock false k1 (t n) last
      whole (n - 1) ++ xtsBlock false k1 (t (n - 1)) (tail ++ pp.drop r) ++ pp.take r

/-- Doubling of a CMAC subkey. -/
def cmacDbl (l : Nat) : Nat := if l < 2 ^ 127 then 2 * l else Nat.xor (2 * l - 2 ^ 128) 0x87

/-- The CBC chaining value after blocks of 16 bytes. -/
def cbcMac (key : List Nat) (bs : List (List Nat)) : List Nat := bs.foldl (fun x b => aesEnc key (xorL x b)) (zeros 16)

/-- AES-CMAC: 16 bytes. -/
def cmac (key data : List Nat) : List Nat :=
  let k1 := cmacDbl (beVal (aesEnc key (zeros 16)))
  let k2 := cmacDbl k1
  let bs := if data = [] then [[]] else chunks 16 data
  let last := bs.getLastD []
  let m := if last.length = 16 then xorL last (beBytes 16 k1) else xorL (last ++ [0x80] ++ zeros (15 - last.length)) (beBytes 16 k2)
  aesEnc key (xorL (cbcMac key bs.dropLast) m)

/-! ### AES-KW (RFC 3394) with the default initial value -/

def kwIv : List Nat := List.replicate 8 0xA6

def kwWrap (kek data : List Nat) : List Nat :=
  let n := data.length / 8
  let r := (List.range (6 * n)).foldl (fun (s : List Nat × List (List Nat)) t =>
    let i := t % n
    let b := aesEnc kek (s.1 ++ s.2.getD i [])
    (xorL (b.take 8) (beBytes 8 (t + 1)), s.2.set i (b.drop 8))) (kwIv, chunks 8 data)
  r.1 ++ r.2.flatten

/-- The unwrapped data, none where the integrity check fails. -/
def kwUnwrap (kek blob : List Nat) : Option (List Nat) :=
  let n := blob.length / 8 - 1
  let r := (List.range (6 * n)).foldl (fun (s : List Nat × List (List Nat)) k =>
    let t := 6 * n - 1 - k
    let i := t % n
    let b := aesDec kek (xorL s.1 (beBytes 8 (t + 1)) ++ s.2.getD i [])
    (b.take 8, s.2.set i (b.drop 8))) (blob.take 8, chunks 8 (blob.drop 8))
  if r.1 = kwIv then some r.2.flatten else none

/-! ### SHA-2 and HMAC -/

/-- The constants and rotations of one SHA-2 word size. -/
structure Sha where
  /-- Word bits. -/
  w : Nat
  rounds : Nat
  /-- Σ0, Σ1: three rotations each; σ0, σ1: two rotations and a shift. -/
  bs0 : Nat × Nat × Nat
  bs1 : Nat × Nat × Nat
  ss0 : Nat × Nat × Nat
  ss1 : Nat × Nat × Nat
  k : List Nat
  init : List Nat
  out : Nat

/-- Fractional bits of a root: the largest r with r^e ≤ p · 2^(e·w), modulo 2^w, found bit by bit. -/
def rootFrac (e w p : Nat) : Nat :=
  ((List.range (w + 8)).foldl (fun a i =>
    let b := a + 2 ^ (w + 7 - i)
    if b ^ e ≤ p * 2 ^ (e * w) then b else a) 0) % 2 ^ w

def isPrime (n : Nat) : Bool := decide (2 ≤ n) && (List.range (n - 2)).all (fun i => n % (i + 2) != 0)

/-- The primes below 410, of which the first 80 are used. -/
def primes : List Nat := (List.range 410).filter isPrime

def sha256P : Sha :=
  ⟨32, 64, (2, 13, 22), (6, 11, 25), (7, 18, 3), (17, 19, 10), (primes.take 64).map (rootFrac 3 32), (primes.take 8).map (rootFrac 2 32), 32⟩

def sha384P : Sha :=
  ⟨64, 80, (28, 34, 39), (14, 18, 41), (1, 8, 7), (19, 61, 6), (primes.take 80).map (rootFrac 3 64),
    ((primes.drop 8).take 8).map (rootFrac 2 64), 48⟩

def rotr (w n x : Nat) : Nat := (x / 2 ^ n + x * 2 ^ (w - n)) % 2 ^ w

def bigS (p : Sha) (r : Nat × Nat × Nat) (x : Nat) : Nat := Nat.xor (rotr p.w r.1 x) (Nat.xor (rotr p.w r.2.1 x) (rotr p.w r.2.2 x))
def smallS (p : Sha) (r : Nat × Nat × Nat) (x : Nat) : Nat := Nat.xor (rotr p.w r.1 x) (Nat.xor (rotr p.w r.2.1 x) (x / 2 ^ r.2.2))

/-- The message schedule, newest word first. -/
def schedule (p : Sha) (ws : List Nat) : List Nat :=
  ((List.range (p.rounds - 16)).foldl (fun r _ =>
    (smallS p p.ss1 (r.getD 1 0) + r.getD 6 0 + smallS p p.ss0 (r.getD 14 0) + r.getD 15 0) % 2 ^ p.w :: r) ws.reverse).reverse

def compress (p : Sha) (h ws : List Nat) : List Nat :=
  let md := 2 ^ p.w
  let s := (List.zip (schedule p ws) p.k).foldl (fun s wk =>
    match s with
    | [a, b, c, d, e, f, g, hh] =>
      let ch := Nat.xor (Nat.land e f) (Nat.land (md - 1 - e) g)
      let maj := Nat.xor (Nat.land a b) (Nat.xor (Nat.land a c) (Nat.land b c))
      let t1 := hh + bigS p p.bs1 e + ch + wk.2 + wk.1
      [(t1 + bigS p p.bs0 a + maj) % md, a, b, c, (d + t1) % md, e, f, g]
    | s => s) h
  List.zipWith (fun x y => (x + y) % md) h s

/-- The chaining value after whole blocks. -/
def shaOver (p : Sha) (b : List Nat) : List Nat :=
  (chunks (2 * p.w) b).foldl (fun h b => compress p h ((chunks (p.w / 8) b).map beVal)) p.init

def sha (p : Sha) (data : List Nat) : List Nat :=
  let blk := 2 * p.w
  let lenB := p.w / 4
  let padLen := (2 * blk - 1 - lenB - data.length % blk) % blk
  let msg := data ++ [0x80] ++ zeros padLen ++ beBytes lenB (8 * data.length)
  ((shaOver p msg).flatMap (beBytes (p.w / 8))).take p.out

/-- A key filled up to a block and taken with a pad byte. -/
def hmacPad (p : Sha) (key : List Nat) (x : Nat) : List Nat :=
  let blk := 2 * p.w
  let k0 := if key.length ≤ blk then key else sha p key
  (k0 ++ zeros (blk - k0.length)).map (Nat.xor x)

def hmac (p : Sha) (key data : List Nat) : List Nat :=
  sha p (hmacPad p key 0x5C ++ sha p (hmacPad p key 0x36 ++ data))

/-- The bytes of a list of numbers below 256. -/
def toBytes (b : List Nat) : List Byte := b.map (BitVec.ofNat 8)
def ofB (b : List Byte) : List Nat := b.map BitVec.toNat

end Sys2Proof.Crypto
end

