-- ==== Sys2Proof/Machine/Regs.lean ====
section
/-! DEFINITION. The register map of the block pages: one constant per named field (its block, offset, lowest bit and
width), and per block the list of its fields with class, access type and reset value, as the register tables of the
spec give them. Fused fields have reset 0 here; `regReset` (Machine/Ops.lean) puts the fused values in. -/
namespace Sys2Proof.Machine

/-- A field of a register: its block, the register's offset, the lowest bit, the width, and for a register array the
distance between two members. -/
structure Fld where
  blk : Block
  off : Nat
  lo : Nat
  w : Nat
  stride : Nat := 0
  deriving DecidableEq, Repr

/-- Member n of a register array. -/
def Fld.at (f : Fld) (n : Nat) : Fld := { f with off := f.off + f.stride * n }

/-- The whole register a field lies in. -/
def Fld.reg (f : Fld) : Fld := { f with lo := 0, w := 64 }

/-- The field classes of *Control space and block pages*; `plain` for a field whose Class entry names an access only. -/
inductive FClass where
  | plain | live | shadowed | locked
  deriving DecidableEq, Repr

/-- The access types of R5. -/
inductive FAccess where
  | rw | ro | w1c | wo
  deriving DecidableEq, Repr

/-- One row of a register table: the field, how many members the register array has, class, access and reset value. -/
structure FSpec where
  f : Fld
  count : Nat
  cls : FClass
  acc : FAccess
  reset : Nat
  deriving DecidableEq, Repr

/-- An error bit of a block's ERR_STATUS; its number is also its cause (R493). -/
structure ErrBit where
  blk : Block
  bit : Nat
  deriving DecidableEq, Repr

namespace R

-- HDR: R44
def HDR_ID_TYPE : Fld := ⟨.pkg, 0x0, 0, 6, 0⟩
def HDR_ID_INSTANCE : Fld := ⟨.pkg, 0x0, 6, 6, 0⟩
def HDR_ID_DIE : Fld := ⟨.pkg, 0x0, 12, 4, 0⟩
def HDR_ID_SIGNATURE : Fld := ⟨.pkg, 0x0, 32, 16, 0⟩
-- HDR: R45
def HDR_VERSION_MINOR : Fld := ⟨.pkg, 0x8, 0, 8, 0⟩
def HDR_VERSION_MAJOR : Fld := ⟨.pkg, 0x8, 8, 8, 0⟩
def HDR_VERSION_FEATURES : Fld := ⟨.pkg, 0x8, 16, 32, 0⟩
-- HDR: R47
def HDR_STATUS_READY : Fld := ⟨.pkg, 0x10, 0, 1, 0⟩
def HDR_STATUS_BUSY : Fld := ⟨.pkg, 0x10, 1, 1, 0⟩
def HDR_STATUS_STRUCK : Fld := ⟨.pkg, 0x10, 2, 1, 0⟩
def HDR_STATUS_ERR : Fld := ⟨.pkg, 0x10, 3, 1, 0⟩
def HDR_STATUS_COMMIT_PENDING : Fld := ⟨.pkg, 0x10, 4, 1, 0⟩
def HDR_STATUS_ENABLED : Fld := ⟨.pkg, 0x10, 5, 1, 0⟩
def HDR_STATUS_COMMIT_COUNT : Fld := ⟨.pkg, 0x10, 16, 16, 0⟩
-- HDR: R48
def HDR_CONTROL_ENABLE : Fld := ⟨.pkg, 0x18, 0, 1, 0⟩
def HDR_CONTROL_QUIESCE : Fld := ⟨.pkg, 0x18, 1, 1, 0⟩
def HDR_CONTROL_RESET : Fld := ⟨.pkg, 0x18, 2, 1, 0⟩
-- HDR: R50
def HDR_COMMIT_GO : Fld := ⟨.pkg, 0x20, 0, 1, 0⟩
def HDR_COMMIT_CANCEL : Fld := ⟨.pkg, 0x20, 1, 1, 0⟩
-- HDR: R51
def HDR_ERR_STATUS_LOCKED_WRITE : Fld := ⟨.pkg, 0x28, 0, 1, 0⟩
def HDR_ERR_STATUS_ACCESS : Fld := ⟨.pkg, 0x28, 1, 1, 0⟩
def HDR_ERR_STATUS_RESERVED_ENC : Fld := ⟨.pkg, 0x28, 2, 1, 0⟩
def HDR_ERR_STATUS_REG_PARITY : Fld := ⟨.pkg, 0x28, 3, 1, 0⟩
-- PKG: R15
def PKG_PART_CODE : Fld := ⟨.pkg, 0x200, 0, 4, 0⟩
def PKG_PART_IOD_REV : Fld := ⟨.pkg, 0x200, 4, 4, 0⟩
def PKG_PART_CORES_PER_DIE : Fld := ⟨.pkg, 0x200, 8, 5, 0⟩
def PKG_PART_TDP_NOM : Fld := ⟨.pkg, 0x200, 16, 10, 0⟩
def PKG_PART_TDP_MIN : Fld := ⟨.pkg, 0x200, 26, 10, 0⟩
def PKG_PART_TDP_MAX : Fld := ⟨.pkg, 0x200, 36, 10, 0⟩
-- PKG: R16
def PKG_DIEREV_CDREV : Fld := ⟨.pkg, 0x208, 0, 48, 0⟩
-- PKG: R17
def PKG_SERIAL_SERIAL : Fld := ⟨.pkg, 0x210, 0, 63, 0⟩
-- PKG: R32
def PKG_COMPAT_FORCE_H1 : Fld := ⟨.pkg, 0x218, 0, 1, 0⟩
def PKG_COMPAT_COH_VER : Fld := ⟨.pkg, 0x218, 4, 4, 0⟩
-- PKG: R68
def PKG_PARTNER_VIEW_VALID : Fld := ⟨.pkg, 0x220, 0, 1, 0⟩
def PKG_PARTNER_VIEW_AGE : Fld := ⟨.pkg, 0x220, 16, 16, 0⟩
-- PKG: R69
def PKG_MODE_MODE : Fld := ⟨.pkg, 0x100, 0, 4, 0⟩
def PKG_MODE_PREV_MODE : Fld := ⟨.pkg, 0x100, 4, 4, 0⟩
def PKG_MODE_REQ_ERR : Fld := ⟨.pkg, 0x100, 8, 1, 0⟩
def PKG_MODE_DRAINED : Fld := ⟨.pkg, 0x100, 9, 1, 0⟩
def PKG_MODE_DEGRADED : Fld := ⟨.pkg, 0x100, 10, 1, 0⟩
def PKG_MODE_TRANSITIONS : Fld := ⟨.pkg, 0x100, 16, 16, 0⟩
-- PKG: R70
def PKG_MODE_REQ_REQ : Fld := ⟨.pkg, 0x108, 0, 4, 0⟩
-- PKG: R78
def PKG_STRUCK_MASK_DIES : Fld := ⟨.pkg, 0x110, 0, 12, 0⟩
-- PKG: R79
def PKG_DIE_CTL_STRIKE : Fld := ⟨.pkg, 0x118, 0, 12, 0⟩
def PKG_DIE_CTL_PITCH : Fld := ⟨.pkg, 0x118, 12, 12, 0⟩
def PKG_DIE_CTL_PARK : Fld := ⟨.pkg, 0x118, 24, 12, 0⟩
def PKG_DIE_STATE_PARKED : Fld := ⟨.pkg, 0x120, 0, 12, 0⟩
def PKG_DIE_STATE_BUSY : Fld := ⟨.pkg, 0x120, 12, 12, 0⟩
-- PKG: R88
def PKG_RESET_CAUSE_LAST : Fld := ⟨.pkg, 0x130, 0, 3, 0⟩
def PKG_RESET_CAUSE_FROZEN_CAUSE : Fld := ⟨.pkg, 0x130, 8, 8, 0⟩
def PKG_RESET_CAUSE_WARM_COUNT : Fld := ⟨.pkg, 0x130, 16, 16, 0⟩
-- PKG: R89
def PKG_READY_CD : Fld := ⟨.pkg, 0x128, 0, 12, 0⟩
def PKG_READY_DDR : Fld := ⟨.pkg, 0x128, 12, 16, 0⟩
def PKG_READY_PG : Fld := ⟨.pkg, 0x128, 28, 16, 0⟩
def PKG_READY_BARKAI : Fld := ⟨.pkg, 0x128, 44, 4, 0⟩
def PKG_READY_GL : Fld := ⟨.pkg, 0x128, 48, 2, 0⟩
def PKG_READY_SEED : Fld := ⟨.pkg, 0x128, 50, 1, 0⟩
def PKG_READY_MGMT_FW : Fld := ⟨.pkg, 0x128, 51, 1, 0⟩
def PKG_READY_TEN : Fld := ⟨.pkg, 0x128, 52, 1, 0⟩
-- PKG: R93
def PKG_BOOT_BOOT_DIE : Fld := ⟨.pkg, 0x138, 0, 4, 0⟩
def PKG_BOOT_FW_SLOT : Fld := ⟨.pkg, 0x138, 4, 1, 0⟩
def PKG_BOOT_FW_FAIL : Fld := ⟨.pkg, 0x138, 5, 1, 0⟩
def PKG_BOOT_WINDOW_VALID : Fld := ⟨.pkg, 0x138, 6, 1, 0⟩
def PKG_BOOT_WINDOW_RELEASE : Fld := ⟨.pkg, 0x138, 7, 1, 0⟩
def PKG_BOOT_BOOT_SLOT : Fld := ⟨.pkg, 0x138, 8, 1, 0⟩
def PKG_BOOT_BOOT_FAIL : Fld := ⟨.pkg, 0x138, 9, 1, 0⟩
def PKG_BOOT_FW_VERSION : Fld := ⟨.pkg, 0x138, 16, 16, 0⟩
-- PKG: R106
def PKG_REGION_BASE_VALID : Fld := ⟨.pkg, 0x400, 0, 1, 16⟩
def PKG_REGION_BASE_BASE_PAGE : Fld := ⟨.pkg, 0x400, 12, 36, 16⟩
-- PKG: R107
def PKG_REGION_LIMIT_LIMIT_PAGE : Fld := ⟨.pkg, 0x408, 12, 36, 16⟩
-- PKG: R389
def PKG_PAIR_CTL_ENABLE : Fld := ⟨.pkg, 0x300, 0, 1, 0⟩
def PKG_PAIR_CTL_FORM : Fld := ⟨.pkg, 0x300, 1, 1, 0⟩
def PKG_PAIR_CTL_UNPAIR : Fld := ⟨.pkg, 0x300, 2, 1, 0⟩
def PKG_PAIR_CTL_TAKEOVER : Fld := ⟨.pkg, 0x300, 3, 1, 0⟩
def PKG_PAIR_CTL_HANDBACK : Fld := ⟨.pkg, 0x300, 4, 1, 0⟩
def PKG_PAIR_CTL_AUTO_TAKEOVER : Fld := ⟨.pkg, 0x300, 5, 1, 0⟩
-- PKG: R390
def PKG_PAIR_STATE_STATE : Fld := ⟨.pkg, 0x308, 0, 3, 0⟩
def PKG_PAIR_STATE_WAS_PAIRED : Fld := ⟨.pkg, 0x308, 3, 1, 0⟩
def PKG_PAIR_STATE_FENCE_OUT : Fld := ⟨.pkg, 0x308, 4, 1, 0⟩
def PKG_PAIR_STATE_FENCE_IN : Fld := ⟨.pkg, 0x308, 5, 1, 0⟩
def PKG_PAIR_STATE_RESYNC_NEEDED : Fld := ⟨.pkg, 0x308, 6, 1, 0⟩
def PKG_PAIR_STATE_RESULT : Fld := ⟨.pkg, 0x308, 8, 8, 0⟩
def PKG_PAIR_STATE_MIRROR_MAJOR : Fld := ⟨.pkg, 0x308, 16, 4, 0⟩
def PKG_PAIR_STATE_FEATURES : Fld := ⟨.pkg, 0x308, 20, 8, 0⟩
-- PKG: R391
def PKG_PAIR_PEER_SERIAL : Fld := ⟨.pkg, 0x310, 0, 63, 0⟩
def PKG_PAIR_DREGION_BASE_GIB : Fld := ⟨.pkg, 0x318, 0, 17, 0⟩
def PKG_PAIR_DREGION_SIZE_GIB : Fld := ⟨.pkg, 0x318, 32, 17, 0⟩
def PKG_PAIR_MWINDOW_BASE_GIB : Fld := ⟨.pkg, 0x320, 0, 17, 0⟩
def PKG_PAIR_MWINDOW_SIZE_GIB : Fld := ⟨.pkg, 0x320, 32, 17, 0⟩
def PKG_PAIR_KEYS_KEK : Fld := ⟨.pkg, 0x328, 0, 12, 0⟩
def PKG_PAIR_KEYS_TX : Fld := ⟨.pkg, 0x328, 12, 12, 0⟩
def PKG_PAIR_KEYS_RX : Fld := ⟨.pkg, 0x328, 24, 12, 0⟩
def PKG_PAIR_KEYS_PSHED0 : Fld := ⟨.pkg, 0x328, 36, 12, 0⟩
def PKG_PAIR_KEYS_PSHED1 : Fld := ⟨.pkg, 0x328, 48, 12, 0⟩
def PKG_PAIR_TIMERS_STATUS_TIMEOUT_US : Fld := ⟨.pkg, 0x330, 0, 16, 0⟩
def PKG_PAIR_TIMERS_AUTO_TAKEOVER_MS : Fld := ⟨.pkg, 0x330, 16, 16, 0⟩
def PKG_MIRROR_TX_UNACKED : Fld := ⟨.pkg, 0x340, 0, 32, 8⟩
def PKG_MIRROR_TX_FULL : Fld := ⟨.pkg, 0x340, 32, 1, 8⟩
def PKG_MIRROR_RX_PENDING : Fld := ⟨.pkg, 0x360, 0, 32, 8⟩
def PKG_MIRROR_BYTES_COUNT : Fld := ⟨.pkg, 0x380, 0, 64, 0⟩
def PKG_FENCE_TOKEN_TOKEN : Fld := ⟨.pkg, 0x388, 0, 63, 0⟩
def PKG_FENCE_TOKEN_VALID : Fld := ⟨.pkg, 0x388, 63, 1, 0⟩
-- PKG: R533
def PKG_DIE_TEMP_TEMP : Fld := ⟨.pkg, 0x240, 0, 16, 8⟩
def PKG_DIE_TEMP_VALID : Fld := ⟨.pkg, 0x240, 16, 1, 8⟩
def PKG_THERM_CTL_THROTTLE_C : Fld := ⟨.pkg, 0x2a8, 0, 8, 0⟩
def PKG_THERM_CTL_HYST_C : Fld := ⟨.pkg, 0x2a8, 8, 4, 0⟩
def PKG_THERM_CTL_ALERT_C : Fld := ⟨.pkg, 0x2a8, 16, 8, 0⟩
def PKG_POWER_LIMIT_LIMIT_W : Fld := ⟨.pkg, 0x2b0, 0, 10, 0⟩
def PKG_POWER_LIMIT_WINDOW_MS : Fld := ⟨.pkg, 0x2b0, 16, 10, 0⟩
def PKG_POWER_STATUS_POWER : Fld := ⟨.pkg, 0x2b8, 0, 16, 0⟩
def PKG_POWER_STATUS_LIMITING : Fld := ⟨.pkg, 0x2b8, 16, 1, 0⟩
def PKG_POWER_STATUS_HOT : Fld := ⟨.pkg, 0x2b8, 17, 1, 0⟩
def PKG_POWER_STATUS_CAP_STEPS : Fld := ⟨.pkg, 0x2b8, 32, 32, 0⟩
def PKG_LIFE_USED_EQ : Fld := ⟨.pkg, 0x2c0, 0, 48, 0⟩
-- CLK: R24
def CLK_ROOT_STATUS_LOCKED : Fld := ⟨.clk, 0x100, 0, 1, 0⟩
def CLK_ROOT_STATUS_REFCLK_OK : Fld := ⟨.clk, 0x100, 1, 1, 0⟩
def CLK_ROOT_STATUS_HOLDOVER : Fld := ⟨.clk, 0x100, 2, 1, 0⟩
def CLK_ROOT_STATUS_LOSS_COUNT : Fld := ⟨.clk, 0x100, 8, 8, 0⟩
-- CLK: R25
def CLK_FWD_STATUS_FWD_OK : Fld := ⟨.clk, 0x108, 0, 1, 0⟩
def CLK_FWD_STATUS_DESKEW_DONE : Fld := ⟨.clk, 0x108, 1, 1, 0⟩
-- CLK: R27
def CLK_PSTATE_REQ : Fld := ⟨.clk, 0x140, 0, 40, 0⟩
def CLK_PSTATE_CAP : Fld := ⟨.clk, 0x148, 0, 40, 0⟩
def CLK_PSTATE_ACT : Fld := ⟨.clk, 0x150, 0, 40, 0⟩
-- TAP: R540
def TAP_ACCESS_INSTR_EN : Fld := ⟨.tap, 0x100, 0, 1, 0⟩
def TAP_SEGMENTS_INSERTED : Fld := ⟨.tap, 0x108, 0, 12, 0⟩
def TAP_SEGMENTS_HELD : Fld := ⟨.tap, 0x108, 12, 12, 0⟩
def TAP_SEGMENTS_IOD_INSERTED : Fld := ⟨.tap, 0x108, 24, 1, 0⟩
-- LANT: R510
def LANT_CTL_TRACE_TIER : Fld := ⟨.lant, 0x100, 0, 1, 0⟩
def LANT_CTL_COALESCE_MS : Fld := ⟨.lant, 0x100, 16, 16, 0⟩
def LANT_RING_SIZE_LOG2 : Fld := ⟨.lant, 0x108, 0, 5, 0⟩
def LANT_RING_BASE : Fld := ⟨.lant, 0x108, 12, 36, 0⟩
def LANT_RING_HEAD_HEAD : Fld := ⟨.lant, 0x110, 0, 20, 0⟩
def LANT_RING_TAIL_TAIL : Fld := ⟨.lant, 0x118, 0, 20, 0⟩
def LANT_RING_TAIL_PHASE : Fld := ⟨.lant, 0x118, 20, 1, 0⟩
def LANT_RESERVE_FATAL_SLOTS : Fld := ⟨.lant, 0x120, 0, 8, 0⟩
def LANT_RESERVE_ALERT_SLOTS : Fld := ⟨.lant, 0x120, 8, 8, 0⟩
def LANT_TRING_SEL_TENANT : Fld := ⟨.lant, 0x128, 0, 11, 0⟩
def LANT_TRING_EN : Fld := ⟨.lant, 0x130, 0, 1, 0⟩
def LANT_TRING_BASE : Fld := ⟨.lant, 0x130, 12, 36, 0⟩
def LANT_TRING_POS_INDEX : Fld := ⟨.lant, 0x138, 0, 16, 0⟩
def LANT_TRING_POS_PHASE : Fld := ⟨.lant, 0x138, 16, 1, 0⟩
def LANT_TRING_POS_DROPS : Fld := ⟨.lant, 0x138, 32, 32, 0⟩
def LANT_DROP_TRACE_COUNT : Fld := ⟨.lant, 0x140, 0, 64, 0⟩
def LANT_DROP_NOTICE_COUNT : Fld := ⟨.lant, 0x148, 0, 64, 0⟩
def LANT_DROP_ALERT_COUNT : Fld := ⟨.lant, 0x150, 0, 64, 0⟩
def LANT_MISSED_FATAL_COUNT : Fld := ⟨.lant, 0x158, 0, 64, 0⟩
def LANT_SB_DROPS_ALERT : Fld := ⟨.lant, 0x160, 0, 32, 0⟩
def LANT_SB_DROPS_FATAL : Fld := ⟨.lant, 0x160, 32, 32, 0⟩
def LANT_ALARM_ALERT_PEND : Fld := ⟨.lant, 0x168, 0, 1, 0⟩
def LANT_ALARM_FATAL : Fld := ⟨.lant, 0x168, 1, 1, 0⟩
def LANT_INJECT_EN : Fld := ⟨.lant, 0x170, 0, 1, 0⟩
def LANT_INJECT_FATAL_OK : Fld := ⟨.lant, 0x170, 1, 1, 0⟩
def LANT_INJECT_ADDR_ADDR : Fld := ⟨.lant, 0x178, 0, 64, 0⟩
def LANT_STORE_SEL_SLOT : Fld := ⟨.lant, 0x180, 0, 11, 0⟩
def LANT_STORE_DATA_DATA : Fld := ⟨.lant, 0x188, 0, 64, 8⟩
def LANT_STORE_CTL_CLEAR_BANK0 : Fld := ⟨.lant, 0x1a8, 0, 1, 0⟩
def LANT_STORE_CTL_CLEAR_BANK1 : Fld := ⟨.lant, 0x1a8, 1, 1, 0⟩
def LANT_STORE_CTL_CLEAR_GENERAL : Fld := ⟨.lant, 0x1a8, 2, 1, 0⟩
def LANT_STORE_STAT_COUNT0 : Fld := ⟨.lant, 0x1b0, 0, 10, 0⟩
def LANT_STORE_STAT_COUNT1 : Fld := ⟨.lant, 0x1b0, 10, 10, 0⟩
def LANT_STORE_STAT_CUR : Fld := ⟨.lant, 0x1b0, 20, 1, 0⟩
def LANT_STORE_STAT_PARTIAL : Fld := ⟨.lant, 0x1b0, 21, 4, 0⟩
def LANT_STORE_STAT_GEN_WPTR : Fld := ⟨.lant, 0x1b0, 25, 10, 0⟩
def LANT_STORE_STAT_GEN_WRAPPED : Fld := ⟨.lant, 0x1b0, 35, 1, 0⟩
def LANT_STORE_STAT_UNREPLAYED : Fld := ⟨.lant, 0x1b0, 36, 1, 0⟩
def LANT_STORE_STAT_INCIDENTS : Fld := ⟨.lant, 0x1b0, 48, 16, 0⟩
def LANT_SEQ_NEXT : Fld := ⟨.lant, 0x1b8, 0, 32, 0⟩
-- PMU: R521
def PMU_UGLOBAL_EN : Fld := ⟨.pmu, 0x100, 0, 4, 0⟩
def PMU_UGLOBAL_FREEZE_ON_OVF : Fld := ⟨.pmu, 0x100, 4, 1, 0⟩
def PMU_UGLOBAL_OVF : Fld := ⟨.pmu, 0x100, 8, 4, 0⟩
def PMU_SNAP_AT_TIME : Fld := ⟨.pmu, 0x108, 0, 48, 0⟩
def PMU_SNAP_AT_ARM : Fld := ⟨.pmu, 0x108, 48, 1, 0⟩
def PMU_SNAP_STAT_DONE : Fld := ⟨.pmu, 0x110, 0, 1, 0⟩
def PMU_SNAP_STAT_LATE : Fld := ⟨.pmu, 0x110, 1, 1, 0⟩
def PMU_SNAP_TIME_TIME : Fld := ⟨.pmu, 0x118, 0, 48, 0⟩
def PMU_USEL_EVENT : Fld := ⟨.pmu, 0x140, 0, 8, 16⟩
def PMU_USEL_INSTANCE : Fld := ⟨.pmu, 0x140, 8, 6, 16⟩
def PMU_USEL_EDGE : Fld := ⟨.pmu, 0x140, 14, 1, 16⟩
def PMU_USEL_INV : Fld := ⟨.pmu, 0x140, 15, 1, 16⟩
def PMU_USEL_THRESH : Fld := ⟨.pmu, 0x140, 16, 8, 16⟩
def PMU_USEL_TENANT : Fld := ⟨.pmu, 0x140, 24, 11, 16⟩
def PMU_USEL_TENANT_EN : Fld := ⟨.pmu, 0x140, 35, 1, 16⟩
def PMU_UCNT_COUNT : Fld := ⟨.pmu, 0x148, 0, 48, 16⟩
def PMU_USNAP_COUNT : Fld := ⟨.pmu, 0x180, 0, 48, 8⟩
-- CORE: R99
def CORE_RUN_CTL_RELEASE : Fld := ⟨.core, 0x100, 0, 1, 0⟩
-- CORE: R100
def CORE_ENTRY_ADDR : Fld := ⟨.core, 0x108, 2, 46, 0⟩
-- CORE: R101
def CORE_STATUS_RUNSTATE : Fld := ⟨.core, 0x110, 0, 2, 0⟩
def CORE_STATUS_PL : Fld := ⟨.core, 0x110, 2, 2, 0⟩
def CORE_STATUS_SB_EMPTY : Fld := ⟨.core, 0x110, 4, 1, 0⟩
def CORE_STATUS_DEVWRITE_PEND : Fld := ⟨.core, 0x110, 5, 1, 0⟩
def CORE_STATUS_SB_COUNT : Fld := ⟨.core, 0x110, 8, 7, 0⟩
-- CORE: R102
def CORE_DOORBELL_SET : Fld := ⟨.core, 0x118, 0, 64, 0⟩
-- L3: R169
def L3_POLICY_DEAD_EN : Fld := ⟨.l3, 0x100, 0, 1, 0⟩
def L3_POLICY_PRUNED_DECLINE : Fld := ⟨.l3, 0x100, 1, 1, 0⟩
def L3_POLICY_PF_EN : Fld := ⟨.l3, 0x100, 2, 1, 0⟩
-- L3: R170
def L3_PRUNE_REQ_GROUPS : Fld := ⟨.l3, 0x108, 1, 3, 0⟩
def L3_PRUNE_STATUS_PRUNED : Fld := ⟨.l3, 0x110, 1, 3, 0⟩
def L3_PRUNE_STATUS_BUSY : Fld := ⟨.l3, 0x110, 4, 1, 0⟩
def L3_PRUNE_STATUS_DONE_COUNT : Fld := ⟨.l3, 0x110, 16, 16, 0⟩
-- L3: R171
def L3_OFFERS_OFFERED : Fld := ⟨.l3, 0x118, 0, 32, 0⟩
def L3_OFFERS_DECLINED : Fld := ⟨.l3, 0x118, 32, 32, 0⟩
-- FAB: R484
def FAB_ROUTE_SEL_NI : Fld := ⟨.fab, 0x100, 0, 7, 0⟩
def FAB_ROUTE_SEL_DEST : Fld := ⟨.fab, 0x100, 8, 11, 0⟩
def FAB_ROUTE_A : Fld := ⟨.fab, 0x108, 0, 30, 0⟩
def FAB_ROUTE_VALID : Fld := ⟨.fab, 0x108, 30, 1, 0⟩
def FAB_ROUTE_B : Fld := ⟨.fab, 0x108, 32, 30, 0⟩
def FAB_DROPS_NOROUTE : Fld := ⟨.fab, 0x110, 0, 32, 0⟩
def FAB_PCFG_ROUTER : Fld := ⟨.fab, 0x140, 0, 5, 32⟩
def FAB_PCFG_POINT : Fld := ⟨.fab, 0x140, 5, 2, 32⟩
def FAB_PCFG_EN : Fld := ⟨.fab, 0x140, 7, 1, 32⟩
def FAB_PCFG_TRACE : Fld := ⟨.fab, 0x140, 8, 1, 32⟩
def FAB_PCFG_CCLASS_MASK : Fld := ⟨.fab, 0x140, 9, 6, 32⟩
def FAB_PMSG_MASK : Fld := ⟨.fab, 0x148, 0, 64, 32⟩
def FAB_PMATCH_NODE : Fld := ⟨.fab, 0x150, 0, 11, 32⟩
def FAB_PMATCH_NODE_MASK : Fld := ⟨.fab, 0x150, 11, 11, 32⟩
def FAB_PMATCH_ON_DST : Fld := ⟨.fab, 0x150, 22, 1, 32⟩
def FAB_PMATCH_TENANT : Fld := ⟨.fab, 0x150, 23, 11, 32⟩
def FAB_PMATCH_TENANT_EN : Fld := ⟨.fab, 0x150, 34, 1, 32⟩
def FAB_PCOUNT_COUNT : Fld := ⟨.fab, 0x158, 0, 48, 32⟩
def FAB_TCTL_EN : Fld := ⟨.fab, 0x1c0, 0, 1, 0⟩
def FAB_TCTL_WRAP : Fld := ⟨.fab, 0x1c0, 1, 1, 0⟩
def FAB_TCTL_CLEAR : Fld := ⟨.fab, 0x1c0, 2, 1, 0⟩
def FAB_TSTAT_WPTR : Fld := ⟨.fab, 0x1c8, 0, 11, 0⟩
def FAB_TSTAT_FULL : Fld := ⟨.fab, 0x1c8, 11, 1, 0⟩
def FAB_TSTAT_DROPPED : Fld := ⟨.fab, 0x1c8, 32, 32, 0⟩
def FAB_TIDX_INDEX : Fld := ⟨.fab, 0x1d0, 0, 11, 0⟩
def FAB_TDATA_DATA : Fld := ⟨.fab, 0x1d8, 0, 64, 8⟩
-- HYL: R421
def HYL_LINK_STATUS_UP : Fld := ⟨.hyl, 0x100, 0, 1, 0⟩
def HYL_LINK_STATUS_TRAINING : Fld := ⟨.hyl, 0x100, 1, 1, 0⟩
def HYL_LINK_STATUS_VERSION : Fld := ⟨.hyl, 0x100, 2, 2, 0⟩
def HYL_LINK_STATUS_FAIL_CAUSE : Fld := ⟨.hyl, 0x100, 4, 4, 0⟩
def HYL_LINK_STATUS_SPARES_TX : Fld := ⟨.hyl, 0x100, 8, 3, 0⟩
def HYL_LINK_STATUS_SPARES_RX : Fld := ⟨.hyl, 0x100, 11, 3, 0⟩
def HYL_LINK_CTL_REPLAY_LIMIT : Fld := ⟨.hyl, 0x108, 0, 4, 0⟩
def HYL_LINK_CTL_RETRAIN_LIMIT : Fld := ⟨.hyl, 0x108, 4, 4, 0⟩
def HYL_ERRORS_CRC : Fld := ⟨.hyl, 0x110, 0, 32, 0⟩
def HYL_ERRORS_REPLAYS : Fld := ⟨.hyl, 0x110, 32, 32, 0⟩
def HYL_RETRAINS_COUNT : Fld := ⟨.hyl, 0x118, 0, 16, 0⟩
-- HOME: R205
def HOME_SF_STATUS_CAPACITY : Fld := ⟨.home, 0x100, 0, 23, 0⟩
def HOME_SF_STATUS_OCCUPIED : Fld := ⟨.home, 0x100, 32, 23, 0⟩
def HOME_SF_COUNTS_BACKINV : Fld := ⟨.home, 0x108, 0, 32, 0⟩
def HOME_SF_COUNTS_STALE : Fld := ⟨.home, 0x108, 32, 32, 0⟩
def HOME_FWD_COUNTS_FORWARDS : Fld := ⟨.home, 0x110, 0, 32, 0⟩
def HOME_FWD_COUNTS_REFUSALS : Fld := ⟨.home, 0x110, 32, 32, 0⟩
def HOME_SWEEP_TENANT : Fld := ⟨.home, 0x118, 0, 11, 0⟩
def HOME_SWEEP_GO : Fld := ⟨.home, 0x118, 11, 1, 0⟩
def HOME_SWEEP_BUSY : Fld := ⟨.home, 0x118, 12, 1, 0⟩
def HOME_SWEEP_LINES : Fld := ⟨.home, 0x118, 16, 24, 0⟩
def HOME_SNOOP_TIMEOUT_MICROS : Fld := ⟨.home, 0x120, 0, 16, 0⟩
def HOME_DOMAIN_POISONED : Fld := ⟨.home, 0x128, 0, 24, 0⟩
def HOME_DOMAIN_DISCARDED : Fld := ⟨.home, 0x128, 24, 24, 0⟩
def HOME_DOMAIN_PAGES : Fld := ⟨.home, 0x128, 48, 16, 0⟩
-- MSC: R175
def MSC_POLICY_CLEAN_LIMIT : Fld := ⟨.msc, 0x100, 0, 5, 0⟩
def MSC_POLICY_QUOTA_EN : Fld := ⟨.msc, 0x100, 8, 1, 0⟩
def MSC_OCC_CLEAN : Fld := ⟨.msc, 0x108, 0, 19, 0⟩
def MSC_OCC_DIRTY : Fld := ⟨.msc, 0x108, 32, 19, 0⟩
def MSC_QSEL_TENANT : Fld := ⟨.msc, 0x110, 0, 11, 0⟩
def MSC_QUOTA_LINES : Fld := ⟨.msc, 0x118, 0, 19, 0⟩
def MSC_QUSE_LINES : Fld := ⟨.msc, 0x120, 0, 19, 0⟩
def MSC_OFFERS_OFFERED : Fld := ⟨.msc, 0x128, 0, 32, 0⟩
def MSC_OFFERS_DECLINED : Fld := ⟨.msc, 0x128, 32, 32, 0⟩
def MSC_WINDOW_BOOTWAYS : Fld := ⟨.msc, 0x130, 0, 1, 0⟩
-- DDR: R232
def DDR_CONFIG_SPEED : Fld := ⟨.ddr, 0x100, 0, 2, 0⟩
def DDR_CONFIG_DPC2 : Fld := ⟨.ddr, 0x100, 2, 1, 0⟩
def DDR_CONFIG_RANKS2 : Fld := ⟨.ddr, 0x100, 3, 1, 0⟩
def DDR_CONFIG_SIZE : Fld := ⟨.ddr, 0x100, 4, 3, 0⟩
def DDR_CONFIG_STACKED : Fld := ⟨.ddr, 0x100, 7, 1, 0⟩
def DDR_MAP_WAYS : Fld := ⟨.ddr, 0x108, 0, 2, 0⟩
def DDR_MAP_WAY : Fld := ⟨.ddr, 0x108, 2, 2, 0⟩
def DDR_MAP_PAIR : Fld := ⟨.ddr, 0x108, 4, 1, 0⟩
def DDR_MAP_QSIZE_GIB : Fld := ⟨.ddr, 0x108, 16, 12, 0⟩
def DDR_TRAIN_TRAINED : Fld := ⟨.ddr, 0x110, 0, 1, 0⟩
def DDR_TRAIN_FAILED : Fld := ⟨.ddr, 0x110, 1, 1, 0⟩
def DDR_TRAIN_INIT_DONE : Fld := ⟨.ddr, 0x110, 2, 1, 0⟩
def DDR_TRAIN_SELF_REFRESH : Fld := ⟨.ddr, 0x110, 3, 1, 0⟩
def DDR_TRAIN_FAIL_RANKS : Fld := ⟨.ddr, 0x110, 4, 4, 0⟩
def DDR_ECC_CTL_ERASE_THRESH : Fld := ⟨.ddr, 0x118, 0, 8, 0⟩
def DDR_ECC_CTL_ERASE_WINDOW_H : Fld := ⟨.ddr, 0x118, 8, 8, 0⟩
def DDR_ECC_CTL_SCRUB_ON_READ : Fld := ⟨.ddr, 0x118, 16, 1, 0⟩
def DDR_ECC_CTL_ERASE_EN : Fld := ⟨.ddr, 0x118, 17, 1, 0⟩
def DDR_CE_COUNT_CORRECTED : Fld := ⟨.ddr, 0x120, 0, 32, 0⟩
def DDR_CE_COUNT_ERASED_ASSIST : Fld := ⟨.ddr, 0x120, 32, 32, 0⟩
def DDR_UE_COUNT_UNCORRECTABLE : Fld := ⟨.ddr, 0x128, 0, 32, 0⟩
def DDR_UE_COUNT_POISON_READS : Fld := ⟨.ddr, 0x128, 32, 32, 0⟩
def DDR_ERASE_REQ_RANK : Fld := ⟨.ddr, 0x138, 0, 2, 0⟩
def DDR_ERASE_REQ_SUBCH : Fld := ⟨.ddr, 0x138, 2, 1, 0⟩
def DDR_ERASE_REQ_DEVICE : Fld := ⟨.ddr, 0x138, 3, 4, 0⟩
def DDR_ERASE_REQ_GO : Fld := ⟨.ddr, 0x138, 7, 1, 0⟩
def DDR_ERASE_V : Fld := ⟨.ddr, 0x140, 0, 1, 8⟩
def DDR_ERASE_DEVICE : Fld := ⟨.ddr, 0x140, 1, 4, 8⟩
def DDR_ERASE_BY_REQ : Fld := ⟨.ddr, 0x140, 5, 1, 8⟩
def DDR_DEVCOUNT_COUNT : Fld := ⟨.ddr, 0x180, 0, 16, 8⟩
-- RAKE: R498
def RAKE_CTL_PERIOD_H : Fld := ⟨.rake, 0x100, 0, 16, 0⟩
def RAKE_CTL_ECS_THRESH : Fld := ⟨.rake, 0x100, 16, 16, 0⟩
def RAKE_CTL_CE_ALERT : Fld := ⟨.rake, 0x100, 32, 16, 0⟩
def RAKE_STATUS_CURSOR : Fld := ⟨.rake, 0x108, 0, 35, 0⟩
def RAKE_STATUS_ACTIVE : Fld := ⟨.rake, 0x108, 35, 1, 0⟩
def RAKE_STATUS_PASSES : Fld := ⟨.rake, 0x108, 48, 16, 0⟩
def RAKE_FOUND_CORRECTED : Fld := ⟨.rake, 0x110, 0, 32, 0⟩
def RAKE_FOUND_UNCORRECTABLE : Fld := ⟨.rake, 0x110, 32, 32, 0⟩
def RAKE_LAST_PASS_CORRECTED : Fld := ⟨.rake, 0x118, 0, 32, 0⟩
def RAKE_LAST_PASS_UNCORRECTABLE : Fld := ⟨.rake, 0x118, 32, 32, 0⟩
-- TIER: R259
def TIER_SHELF_CFG_SLEEPCAP : Fld := ⟨.tier, 0x800, 0, 1, 16⟩
def TIER_SHELF_CFG_AUTOPITCH : Fld := ⟨.tier, 0x800, 1, 1, 16⟩
def TIER_SHELF_CFG_PLACE_EN : Fld := ⟨.tier, 0x800, 2, 1, 16⟩
def TIER_SHELF_CFG_PORT : Fld := ⟨.tier, 0x800, 8, 6, 16⟩
def TIER_SHELF_CFG_STRIKE_EVAC : Fld := ⟨.tier, 0x800, 16, 1, 16⟩
def TIER_SHELF_CFG_STRIKE_SLEEP : Fld := ⟨.tier, 0x800, 17, 1, 16⟩
def TIER_SHELF_CFG_RELEASE : Fld := ⟨.tier, 0x800, 18, 1, 16⟩
def TIER_SHELF_STAT_STATE : Fld := ⟨.tier, 0x808, 0, 3, 16⟩
def TIER_SHELF_STAT_WAKE_PEND : Fld := ⟨.tier, 0x808, 3, 1, 16⟩
def TIER_SHELF_STAT_SWEEPING : Fld := ⟨.tier, 0x808, 4, 1, 16⟩
def TIER_SHELF_STAT_CAP_GIB : Fld := ⟨.tier, 0x808, 16, 12, 16⟩
def TIER_SHELF_STAT_PAGES : Fld := ⟨.tier, 0x808, 32, 32, 16⟩
-- TIER: R273
def TIER_LAYOUT_MAP_TIB : Fld := ⟨.tier, 0x100, 0, 7, 0⟩
def TIER_LAYOUT_MIRROR : Fld := ⟨.tier, 0x100, 7, 1, 0⟩
def TIER_LAYOUT_SMAP_GIB : Fld := ⟨.tier, 0x100, 16, 4, 0⟩
def TIER_POLICY_SAMPLE_SHIFT : Fld := ⟨.tier, 0x108, 0, 4, 0⟩
def TIER_POLICY_DEMOTE_AGE : Fld := ⟨.tier, 0x108, 4, 3, 0⟩
def TIER_POLICY_FORCE_AGE : Fld := ⟨.tier, 0x108, 7, 3, 0⟩
def TIER_POLICY_AGE_DEMOTE : Fld := ⟨.tier, 0x108, 10, 1, 0⟩
def TIER_POLICY_SHED_PROMOTE_AGE : Fld := ⟨.tier, 0x108, 11, 3, 0⟩
def TIER_POLICY_FRAME_EN : Fld := ⟨.tier, 0x108, 14, 1, 0⟩
def TIER_POLICY_SHED_EN : Fld := ⟨.tier, 0x108, 15, 1, 0⟩
def TIER_POLICY_SHED_CMP : Fld := ⟨.tier, 0x108, 16, 1, 0⟩
def TIER_TIMERS_PERIOD_S : Fld := ⟨.tier, 0x110, 0, 16, 0⟩
def TIER_TIMERS_WAKE_RETRY_S : Fld := ⟨.tier, 0x110, 16, 16, 0⟩
def TIER_WM_FREE_LOW : Fld := ⟨.tier, 0x118, 0, 32, 0⟩
def TIER_WM_FREE_HIGH : Fld := ⟨.tier, 0x118, 32, 32, 0⟩
def TIER_WM_SHED_SHED_LOW : Fld := ⟨.tier, 0x120, 0, 32, 0⟩
def TIER_WM_SHED_SHED_HIGH : Fld := ⟨.tier, 0x120, 32, 32, 0⟩
def TIER_FREE_FREE_FRAMES : Fld := ⟨.tier, 0x128, 0, 32, 0⟩
def TIER_FREE_PLOT_FRAMES : Fld := ⟨.tier, 0x128, 32, 32, 0⟩
def TIER_MOVES_ACTIVE : Fld := ⟨.tier, 0x130, 0, 7, 0⟩
def TIER_PROMOTED_COUNT : Fld := ⟨.tier, 0x140, 0, 64, 0⟩
def TIER_DEMOTED_FRAME_COUNT : Fld := ⟨.tier, 0x148, 0, 64, 0⟩
def TIER_DEMOTED_SHED_COUNT : Fld := ⟨.tier, 0x150, 0, 64, 0⟩
def TIER_ABANDONED_COUNT : Fld := ⟨.tier, 0x158, 0, 64, 0⟩
def TIER_DORMANT_REFUSED_COUNT : Fld := ⟨.tier, 0x160, 0, 64, 0⟩
def TIER_WAKE_SENT_COUNT : Fld := ⟨.tier, 0x168, 0, 64, 0⟩
def TIER_SERVED_IN_PLACE_COUNT : Fld := ⟨.tier, 0x170, 0, 64, 0⟩
def TIER_ZERO_EVENTS_COUNT : Fld := ⟨.tier, 0x178, 0, 64, 0⟩
def TIER_RATIO_HIST_COUNT : Fld := ⟨.tier, 0x180, 0, 64, 8⟩
def TIER_JOURNAL_IN_FLIGHT : Fld := ⟨.tier, 0x1c0, 0, 16, 0⟩
def TIER_JOURNAL_DORMANT : Fld := ⟨.tier, 0x1c0, 16, 16, 0⟩
def TIER_JOURNAL_PEAK : Fld := ⟨.tier, 0x1c0, 32, 16, 0⟩
def TIER_CMD_OP : Fld := ⟨.tier, 0x1d0, 0, 4, 0⟩
def TIER_CMD_GO : Fld := ⟨.tier, 0x1d0, 4, 1, 0⟩
def TIER_CMD_BUSY : Fld := ⟨.tier, 0x1d0, 5, 1, 0⟩
def TIER_CMD_TENANT : Fld := ⟨.tier, 0x1d0, 16, 11, 0⟩
def TIER_CMD_DUR : Fld := ⟨.tier, 0x1d0, 27, 1, 0⟩
def TIER_CMD_PIN : Fld := ⟨.tier, 0x1d0, 28, 1, 0⟩
def TIER_CMD_SLEEPOK : Fld := ⟨.tier, 0x1d0, 29, 1, 0⟩
def TIER_CMD_TO_TIER : Fld := ⟨.tier, 0x1d0, 30, 2, 0⟩
def TIER_CMD_RESULT : Fld := ⟨.tier, 0x1d0, 32, 8, 0⟩
def TIER_CMD_ARG_PAGE : Fld := ⟨.tier, 0x1d8, 12, 36, 0⟩
def TIER_CMD_ENTRY_ENTRY : Fld := ⟨.tier, 0x1e0, 0, 64, 0⟩
def TIER_TQSEL_TENANT : Fld := ⟨.tier, 0x1e8, 0, 11, 0⟩
def TIER_TQUSE_BED : Fld := ⟨.tier, 0x1f0, 0, 32, 0⟩
def TIER_TQUSE_FRAME : Fld := ⟨.tier, 0x1f0, 32, 32, 0⟩
def TIER_TQUSE2_SHED : Fld := ⟨.tier, 0x1f8, 0, 32, 0⟩
def TIER_TQUSE2_PINNED : Fld := ⟨.tier, 0x1f8, 32, 32, 0⟩
-- CODEC: R301
def CODEC_CTL_DICT_MAX : Fld := ⟨.codec, 0x100, 0, 5, 0⟩
def CODEC_CTL_DICT_MIN : Fld := ⟨.codec, 0x100, 8, 4, 0⟩
def CODEC_FORMATS_DECODE : Fld := ⟨.codec, 0x108, 0, 16, 0⟩
def CODEC_FORMATS_ENCODE : Fld := ⟨.codec, 0x108, 16, 4, 0⟩
def CODEC_PAGES_ENC_COUNT : Fld := ⟨.codec, 0x110, 0, 64, 0⟩
def CODEC_PAGES_DEC_COUNT : Fld := ⟨.codec, 0x118, 0, 64, 0⟩
def CODEC_PAGES_OVER_COUNT : Fld := ⟨.codec, 0x120, 0, 64, 0⟩
def CODEC_LINE_MODES_COUNT : Fld := ⟨.codec, 0x140, 0, 64, 8⟩
def CODEC_STREAMS_COMPLETED : Fld := ⟨.codec, 0x180, 0, 32, 0⟩
def CODEC_STREAMS_FAILED : Fld := ⟨.codec, 0x180, 32, 32, 0⟩
def CODEC_STREAM_IN_BYTES : Fld := ⟨.codec, 0x188, 0, 64, 0⟩
def CODEC_STREAM_OUT_BYTES : Fld := ⟨.codec, 0x190, 0, 64, 0⟩
def CODEC_STREAM_ERR_VALID : Fld := ⟨.codec, 0x198, 0, 1, 0⟩
def CODEC_STREAM_ERR_REASON : Fld := ⟨.codec, 0x198, 1, 4, 0⟩
def CODEC_STREAM_ERR_FMT : Fld := ⟨.codec, 0x198, 5, 3, 0⟩
def CODEC_STREAM_ERR_TENANT : Fld := ⟨.codec, 0x198, 8, 11, 0⟩
def CODEC_STREAM_ERR_OFFSET : Fld := ⟨.codec, 0x198, 32, 32, 0⟩
-- BULK: R376
def BULK_CTL_INFLIGHT : Fld := ⟨.bulk, 0x100, 0, 8, 0⟩
def BULK_CTL_ACCEPT_BATCH : Fld := ⟨.bulk, 0x100, 8, 8, 0⟩
def BULK_STARTED_COUNT : Fld := ⟨.bulk, 0x108, 0, 64, 0⟩
def BULK_COMPLETED_COUNT : Fld := ⟨.bulk, 0x110, 0, 64, 0⟩
def BULK_BYTES_IN_COUNT : Fld := ⟨.bulk, 0x118, 0, 64, 0⟩
def BULK_BYTES_OUT_COUNT : Fld := ⟨.bulk, 0x120, 0, 64, 0⟩
def BULK_REPLAYED_COUNT : Fld := ⟨.bulk, 0x128, 0, 64, 0⟩
def BULK_STALE_DISCARDS : Fld := ⟨.bulk, 0x130, 0, 32, 0⟩
-- TEN: R152
def TEN_RSET_SEL_SET : Fld := ⟨.ten, 0x800, 0, 12, 0⟩
def TEN_RSET_CTL_RANGE_INV : Fld := ⟨.ten, 0x808, 0, 1, 0⟩
def TEN_RSET_CTL_INV_BUSY : Fld := ⟨.ten, 0x808, 1, 1, 0⟩
-- TEN: R153
def TEN_RB_BASE_V : Fld := ⟨.ten, 0x900, 0, 1, 32⟩
def TEN_RB_BASE_R : Fld := ⟨.ten, 0x900, 1, 1, 32⟩
def TEN_RB_BASE_W : Fld := ⟨.ten, 0x900, 2, 1, 32⟩
def TEN_RB_BASE_BASE : Fld := ⟨.ten, 0x900, 21, 27, 32⟩
def TEN_RB_TARGET_TARGET : Fld := ⟨.ten, 0x908, 21, 27, 32⟩
def TEN_RB_SIZE_UNITS_M1 : Fld := ⟨.ten, 0x910, 0, 25, 32⟩
-- TEN: R156
def TEN_RSET_FAULT_ADDR_ADDR : Fld := ⟨.ten, 0x810, 0, 64, 0⟩
def TEN_RSET_FAULT_INFO_VALID : Fld := ⟨.ten, 0x818, 0, 1, 0⟩
def TEN_RSET_FAULT_INFO_CAUSE : Fld := ⟨.ten, 0x818, 1, 3, 0⟩
def TEN_RSET_FAULT_INFO_SOURCE : Fld := ⟨.ten, 0x818, 4, 2, 0⟩
def TEN_RSET_FAULT_INFO_COUNT : Fld := ⟨.ten, 0x818, 16, 16, 0⟩
-- TEN: R352
def TEN_TSEL_TENANT : Fld := ⟨.ten, 0x100, 0, 11, 0⟩
def TEN_TCMD_OP : Fld := ⟨.ten, 0x108, 0, 4, 0⟩
def TEN_TCMD_GO : Fld := ⟨.ten, 0x108, 4, 1, 0⟩
def TEN_TCMD_BUSY : Fld := ⟨.ten, 0x108, 5, 1, 0⟩
def TEN_TCMD_RESULT : Fld := ⟨.ten, 0x108, 8, 8, 0⟩
def TEN_TSTATE_STATE : Fld := ⟨.ten, 0x110, 0, 3, 0⟩
def TEN_TSTATE_ATTACHED : Fld := ⟨.ten, 0x110, 3, 1, 0⟩
def TEN_TSTATE_CONSENT : Fld := ⟨.ten, 0x110, 4, 1, 0⟩
def TEN_TSTATE_GEN : Fld := ⟨.ten, 0x110, 16, 16, 0⟩
def TEN_TCFG_KIND : Fld := ⟨.ten, 0x118, 0, 2, 0⟩
def TEN_TCFG_DURABLE : Fld := ⟨.ten, 0x118, 2, 1, 0⟩
def TEN_TCFG_RSET : Fld := ⟨.ten, 0x118, 4, 12, 0⟩
def TEN_TCFG_QUEUES : Fld := ⟨.ten, 0x118, 16, 9, 0⟩
def TEN_TCFG_QBASE : Fld := ⟨.ten, 0x118, 25, 13, 0⟩
def TEN_TCFG_BW_SHARE : Fld := ⟨.ten, 0x118, 38, 8, 0⟩
def TEN_TCFG_LANT_SHARE : Fld := ⟨.ten, 0x118, 46, 8, 0⟩
def TEN_TCFG_LD : Fld := ⟨.ten, 0x118, 54, 10, 0⟩
def TEN_TKEY_SLOT : Fld := ⟨.ten, 0x120, 0, 12, 8⟩
def TEN_TKEY_V : Fld := ⟨.ten, 0x120, 12, 1, 8⟩
def TEN_TQ_BED_PAGES : Fld := ⟨.ten, 0x160, 0, 40, 0⟩
def TEN_TQ_FRAME_PAGES : Fld := ⟨.ten, 0x168, 0, 40, 0⟩
def TEN_TQ_SHED_PAGES : Fld := ⟨.ten, 0x170, 0, 40, 0⟩
def TEN_TACCEPTED_COUNT : Fld := ⟨.ten, 0x178, 0, 64, 0⟩
def TEN_TCOMPLETED_COUNT : Fld := ⟨.ten, 0x180, 0, 64, 0⟩
def TEN_TSTALE_STALE_COMPL : Fld := ⟨.ten, 0x188, 0, 32, 0⟩
def TEN_TSTALE_STALE_DESC : Fld := ⟨.ten, 0x188, 32, 32, 0⟩
-- TEN: R359
def TEN_QSEL_QUEUE : Fld := ⟨.ten, 0x400, 0, 13, 0⟩
def TEN_QCFG_SIZE_LOG2 : Fld := ⟨.ten, 0x408, 0, 5, 0⟩
def TEN_QCFG_QUADRANT : Fld := ⟨.ten, 0x408, 5, 2, 0⟩
def TEN_QCFG_URGENT_OK : Fld := ⟨.ten, 0x408, 7, 1, 0⟩
def TEN_QCFG_NOTIFY : Fld := ⟨.ten, 0x408, 8, 2, 0⟩
def TEN_QCFG_CID : Fld := ⟨.ten, 0x408, 10, 9, 0⟩
def TEN_QCFG_BIT : Fld := ⟨.ten, 0x408, 19, 6, 0⟩
def TEN_QCFG_VECTOR : Fld := ⟨.ten, 0x408, 25, 11, 0⟩
def TEN_QSQ_BASE : Fld := ⟨.ten, 0x410, 6, 42, 0⟩
def TEN_QCQ_BASE : Fld := ⟨.ten, 0x418, 5, 43, 0⟩
def TEN_QACC_BASE : Fld := ⟨.ten, 0x420, 4, 44, 0⟩
def TEN_QLOG_BASE : Fld := ⟨.ten, 0x428, 12, 36, 0⟩
def TEN_QCMD_OP : Fld := ⟨.ten, 0x430, 0, 2, 0⟩
def TEN_QCMD_STATE : Fld := ⟨.ten, 0x430, 2, 3, 0⟩
def TEN_QCMD_HALT_CAUSE : Fld := ⟨.ten, 0x430, 8, 8, 0⟩
def TEN_QPOS_NEXT_SEQ : Fld := ⟨.ten, 0x438, 0, 32, 0⟩
def TEN_QPOS_HEAD : Fld := ⟨.ten, 0x438, 32, 16, 0⟩
def TEN_QPOS_CQ_TAIL : Fld := ⟨.ten, 0x438, 48, 16, 0⟩
-- CIPH: R345
def CIPH_SCHED_SUSPEND_MAX_US : Fld := ⟨.ciph, 0x100, 0, 16, 0⟩
def CIPH_SCHED_SUSPEND_EN : Fld := ⟨.ciph, 0x100, 16, 1, 0⟩
def CIPH_PIPE_STATUS_SUSPENDED : Fld := ⟨.ciph, 0x108, 0, 5, 0⟩
def CIPH_PIPE_STATUS_BUSY : Fld := ⟨.ciph, 0x108, 5, 1, 0⟩
def CIPH_PIPE_STATUS_URGENT : Fld := ⟨.ciph, 0x108, 6, 1, 0⟩
def CIPH_MESSAGES_COUNT : Fld := ⟨.ciph, 0x110, 0, 64, 0⟩
def CIPH_SUSPENDS_COUNT : Fld := ⟨.ciph, 0x118, 0, 64, 0⟩
def CIPH_AUTH_FAIL_ORDINARY : Fld := ⟨.ciph, 0x120, 0, 32, 0⟩
def CIPH_AUTH_FAIL_PRIVILEGED : Fld := ⟨.ciph, 0x120, 32, 32, 0⟩
def CIPH_BYTES_COUNT : Fld := ⟨.ciph, 0x128, 0, 64, 0⟩
-- SEED: R343
def SEED_SLOT_SEL_SLOT : Fld := ⟨.seed, 0x100, 0, 12, 0⟩
def SEED_SLOT_ATTR_ATTR : Fld := ⟨.seed, 0x108, 0, 64, 0⟩
def SEED_SLOT_USE_COUNT : Fld := ⟨.seed, 0x110, 0, 48, 0⟩
def SEED_SLOT_LIMIT_LIMIT : Fld := ⟨.seed, 0x118, 0, 48, 0⟩
def SEED_SLOT_IV_IVCTR : Fld := ⟨.seed, 0x120, 0, 64, 0⟩
def SEED_SLOT_FIXED_FIXED : Fld := ⟨.seed, 0x128, 0, 32, 0⟩
def SEED_CMD_OP : Fld := ⟨.seed, 0x130, 0, 4, 0⟩
def SEED_CMD_GO : Fld := ⟨.seed, 0x130, 4, 1, 0⟩
def SEED_CMD_BUSY : Fld := ⟨.seed, 0x130, 5, 1, 0⟩
def SEED_CMD_RESULT : Fld := ⟨.seed, 0x130, 8, 8, 0⟩
def SEED_CMD_SLOT : Fld := ⟨.seed, 0x130, 16, 12, 0⟩
def SEED_CMD_KEK : Fld := ⟨.seed, 0x130, 28, 12, 0⟩
def SEED_CMD_ADDR_ADDR : Fld := ⟨.seed, 0x138, 6, 42, 0⟩
def SEED_CMD_ATTR_ATTR : Fld := ⟨.seed, 0x140, 3, 25, 0⟩
def SEED_CMD_ATTR_ALG : Fld := ⟨.seed, 0x140, 3, 3, 0⟩
def SEED_CMD_ATTR_REST : Fld := ⟨.seed, 0x140, 6, 22, 0⟩
def SEED_CMD_ATTR_FIXED_GIVEN : Fld := ⟨.seed, 0x140, 28, 1, 0⟩
def SEED_CMD_ATTR_FIXED : Fld := ⟨.seed, 0x140, 32, 32, 0⟩
def SEED_DRBG_HEALTHY : Fld := ⟨.seed, 0x148, 0, 1, 0⟩
def SEED_DRBG_FAILS : Fld := ⟨.seed, 0x148, 16, 16, 0⟩
def SEED_DRBG_RESEEDS : Fld := ⟨.seed, 0x148, 32, 32, 0⟩
def SEED_MEMROT_GO : Fld := ⟨.seed, 0x150, 0, 1, 0⟩
def SEED_MEMROT_ACTIVE : Fld := ⟨.seed, 0x150, 1, 1, 0⟩
def SEED_MEMROT_CUR : Fld := ⟨.seed, 0x150, 2, 1, 0⟩
def SEED_MEMROT_AUTO : Fld := ⟨.seed, 0x150, 3, 1, 0⟩
def SEED_MEMROT_REFUSED : Fld := ⟨.seed, 0x150, 4, 1, 0⟩
def SEED_MEMROT_COUNT : Fld := ⟨.seed, 0x150, 16, 16, 0⟩
def SEED_MEMROT_AT_USE : Fld := ⟨.seed, 0x158, 0, 48, 0⟩
def SEED_MEMROT_CUR_CURSOR : Fld := ⟨.seed, 0x160, 0, 33, 8⟩
def SEED_MEMROT_CUR_DEFERRED : Fld := ⟨.seed, 0x160, 33, 7, 8⟩
def SEED_REKEY_PAGE_PAGE : Fld := ⟨.seed, 0x180, 0, 32, 16⟩
def SEED_REKEY_PAGE_VALID : Fld := ⟨.seed, 0x180, 32, 1, 16⟩
def SEED_REKEY_DONE_DONE : Fld := ⟨.seed, 0x188, 0, 64, 16⟩
def SEED_SHEDROT_GO : Fld := ⟨.seed, 0x1c0, 0, 1, 0⟩
def SEED_SHEDROT_ACTIVE : Fld := ⟨.seed, 0x1c0, 1, 1, 0⟩
def SEED_SHEDROT_CUR : Fld := ⟨.seed, 0x1c0, 2, 1, 0⟩
def SEED_SHEDROT_AUTO : Fld := ⟨.seed, 0x1c0, 3, 1, 0⟩
def SEED_SHEDROT_REFUSED : Fld := ⟨.seed, 0x1c0, 4, 1, 0⟩
def SEED_SHEDROT_COUNT : Fld := ⟨.seed, 0x1c0, 16, 16, 0⟩
def SEED_SHEDROT_AT_USE : Fld := ⟨.seed, 0x1c8, 0, 48, 0⟩
def SEED_SHED_UNITS_UNITS : Fld := ⟨.seed, 0x1d0, 0, 48, 8⟩
-- GUY: R433
def GUY_STATUS_UP : Fld := ⟨.guy, 0x100, 0, 1, 0⟩
def GUY_STATUS_TRAINING : Fld := ⟨.guy, 0x100, 1, 1, 0⟩
def GUY_STATUS_LEADER : Fld := ⟨.guy, 0x100, 2, 1, 0⟩
def GUY_STATUS_ACTIVE : Fld := ⟨.guy, 0x100, 3, 5, 0⟩
def GUY_STATUS_MAJOR : Fld := ⟨.guy, 0x100, 8, 4, 0⟩
def GUY_STATUS_FAIL_CAUSE : Fld := ⟨.guy, 0x100, 12, 3, 0⟩
def GUY_STATUS_SB_PRESENT : Fld := ⟨.guy, 0x100, 15, 1, 0⟩
def GUY_STATUS_PEER_SB_MODE : Fld := ⟨.guy, 0x100, 16, 4, 0⟩
def GUY_CTL_DOWN_COUNT : Fld := ⟨.guy, 0x108, 0, 8, 0⟩
def GUY_CTL_DOWN_WINDOW_US : Fld := ⟨.guy, 0x108, 8, 16, 0⟩
def GUY_WIDTH_REQ : Fld := ⟨.guy, 0x110, 0, 5, 0⟩
def GUY_WIDTH_RETRAIN : Fld := ⟨.guy, 0x110, 5, 1, 0⟩
def GUY_FEC_CORRECTED : Fld := ⟨.guy, 0x118, 0, 32, 0⟩
def GUY_FEC_UNCORRECTED : Fld := ⟨.guy, 0x118, 32, 32, 0⟩
def GUY_FRAMES_CRC_FAIL : Fld := ⟨.guy, 0x120, 0, 32, 0⟩
def GUY_FRAMES_REPLAYED : Fld := ⟨.guy, 0x120, 32, 32, 0⟩
def GUY_PEER_SERIAL : Fld := ⟨.guy, 0x128, 0, 63, 0⟩
def GUY_EVENTS_DOWNS : Fld := ⟨.guy, 0x130, 0, 16, 0⟩
def GUY_EVENTS_RETRAINS : Fld := ⟨.guy, 0x130, 16, 16, 0⟩
-- PG: R440
def PG_CFG_ROLE : Fld := ⟨.pg, 0x100, 0, 1, 0⟩
def PG_CFG_SPLIT : Fld := ⟨.pg, 0x100, 1, 2, 0⟩
def PG_CFG_MAX_RATE : Fld := ⟨.pg, 0x100, 3, 3, 0⟩
def PG_CFG_SRIS : Fld := ⟨.pg, 0x100, 6, 1, 0⟩
def PG_CFG_CXL : Fld := ⟨.pg, 0x100, 7, 1, 0⟩
def PG_PORT_STATUS_UP : Fld := ⟨.pg, 0x110, 0, 1, 8⟩
def PG_PORT_STATUS_RATE : Fld := ⟨.pg, 0x110, 1, 3, 8⟩
def PG_PORT_STATUS_WIDTH : Fld := ⟨.pg, 0x110, 4, 5, 8⟩
def PG_PORT_STATUS_FLIT : Fld := ⟨.pg, 0x110, 9, 1, 8⟩
def PG_PORT_STATUS_CXLMEM : Fld := ⟨.pg, 0x110, 10, 1, 8⟩
def PG_PORT_STATUS_CONTAINED : Fld := ⟨.pg, 0x110, 11, 1, 8⟩
def PG_PORT_STATUS_PRESENT : Fld := ⟨.pg, 0x110, 12, 1, 8⟩
def PG_PORT_CTL_CTO_10US : Fld := ⟨.pg, 0x130, 0, 16, 8⟩
def PG_PORT_CTL_DPC_EN : Fld := ⟨.pg, 0x130, 16, 1, 8⟩
def PG_PORT_CTL_RELEASE_DPC : Fld := ⟨.pg, 0x130, 17, 1, 8⟩
def PG_PORT_CTL_LINK_DISABLE : Fld := ⟨.pg, 0x130, 18, 1, 8⟩
def PG_PORT_CTL_RETRAIN : Fld := ⟨.pg, 0x130, 19, 1, 8⟩
def PG_MSIWIN_V : Fld := ⟨.pg, 0x150, 0, 1, 0⟩
def PG_MSIWIN_BASE : Fld := ⟨.pg, 0x150, 12, 36, 0⟩
def PG_BIND_RID : Fld := ⟨.pg, 0x180, 0, 16, 8⟩
def PG_BIND_RID_MASK : Fld := ⟨.pg, 0x180, 16, 16, 8⟩
def PG_BIND_RSET : Fld := ⟨.pg, 0x180, 32, 12, 8⟩
def PG_BIND_V : Fld := ⟨.pg, 0x180, 44, 1, 8⟩
def PG_BIND_IRQ_OK : Fld := ⟨.pg, 0x180, 45, 1, 8⟩
def PG_BIND_PORT : Fld := ⟨.pg, 0x180, 46, 2, 8⟩
def PG_SHELF_PITCH_SHELF : Fld := ⟨.pg, 0x280, 0, 6, 0⟩
def PG_SHELF_PITCH_FORMAT : Fld := ⟨.pg, 0x280, 6, 1, 0⟩
def PG_SHELF_PITCH_GO : Fld := ⟨.pg, 0x280, 7, 1, 0⟩
def PG_SHELF_PITCH_BUSY : Fld := ⟨.pg, 0x280, 8, 1, 0⟩
def PG_SHELF_PITCH_RESULT : Fld := ⟨.pg, 0x280, 12, 4, 0⟩
def PG_LINKERR_CORRECTABLE : Fld := ⟨.pg, 0x288, 0, 32, 0⟩
def PG_LINKERR_CONTAINMENTS : Fld := ⟨.pg, 0x288, 32, 32, 0⟩
-- EP: R453
def EP_LD_V : Fld := ⟨.ep, 0x100, 0, 1, 8⟩
def EP_LD_MGR : Fld := ⟨.ep, 0x100, 1, 1, 8⟩
def EP_LD_STANDBY : Fld := ⟨.ep, 0x100, 2, 1, 8⟩
def EP_LD_PEER_TENANT : Fld := ⟨.ep, 0x100, 4, 11, 8⟩
def EP_LD_TENANT : Fld := ⟨.ep, 0x100, 16, 11, 8⟩
def EP_LD_BOUND : Fld := ⟨.ep, 0x100, 27, 1, 8⟩
def EP_LD_STATE : Fld := ⟨.ep, 0x100, 28, 3, 8⟩
def EP_LD_FORCE_RELEASE : Fld := ⟨.ep, 0x100, 31, 1, 8⟩
def EP_LTR_CTL_BUSY_DEPTH : Fld := ⟨.ep, 0x300, 0, 16, 0⟩
def EP_LTR_CTL_MIN_INTERVAL_US : Fld := ⟨.ep, 0x300, 16, 16, 0⟩
def EP_LTR_VAL_BUSY : Fld := ⟨.ep, 0x308, 0, 16, 0⟩
def EP_LTR_VAL_IDLE : Fld := ⟨.ep, 0x308, 16, 16, 0⟩
def EP_LTR_VAL_WAKE : Fld := ⟨.ep, 0x308, 32, 16, 0⟩
def EP_RESETS_FUNDAMENTAL : Fld := ⟨.ep, 0x310, 0, 16, 0⟩
def EP_RESETS_HOT : Fld := ⟨.ep, 0x310, 16, 16, 0⟩
def EP_RESETS_FLR : Fld := ⟨.ep, 0x310, 32, 16, 0⟩
def EP_RESETS_SURPRISE : Fld := ⟨.ep, 0x310, 48, 16, 0⟩
def EP_DROPS_REFUSED_MEM : Fld := ⟨.ep, 0x318, 0, 32, 0⟩
def EP_DROPS_NOTIFY_DROPPED : Fld := ⟨.ep, 0x318, 32, 32, 0⟩
end R

namespace E
/-- HOME ERR_STATUS.SF_CORRECTED (R204). -/
def HOME_SF_CORRECTED : ErrBit := ⟨.home, 16⟩
/-- HOME ERR_STATUS.SF_UNCORRECTABLE (R204). -/
def HOME_SF_UNCORRECTABLE : ErrBit := ⟨.home, 17⟩
/-- HOME ERR_STATUS.PROTOCOL (R204). -/
def HOME_PROTOCOL : ErrBit := ⟨.home, 18⟩
/-- HOME ERR_STATUS.SNOOP_TIMEOUT (R204). -/
def HOME_SNOOP_TIMEOUT : ErrBit := ⟨.home, 19⟩
/-- DDR ERR_STATUS.UNSUPPORTED_DIMM (R233). -/
def DDR_UNSUPPORTED_DIMM : ErrBit := ⟨.ddr, 16⟩
/-- DDR ERR_STATUS.TRAIN_FAIL (R233). -/
def DDR_TRAIN_FAIL : ErrBit := ⟨.ddr, 17⟩
/-- DDR ERR_STATUS.ERASE_EXHAUSTED (R233). -/
def DDR_ERASE_EXHAUSTED : ErrBit := ⟨.ddr, 18⟩
/-- DDR ERR_STATUS.CHANNEL_LOST (R233). -/
def DDR_CHANNEL_LOST : ErrBit := ⟨.ddr, 19⟩
/-- TIER ERR_STATUS.JOURNAL_FULL (R274). -/
def TIER_JOURNAL_FULL : ErrBit := ⟨.tier, 16⟩
/-- TIER ERR_STATUS.STARVED (R274). -/
def TIER_STARVED : ErrBit := ⟨.tier, 17⟩
/-- TIER ERR_STATUS.MAP_UNCORRECTABLE (R274). -/
def TIER_MAP_UNCORRECTABLE : ErrBit := ⟨.tier, 18⟩
/-- TIER ERR_STATUS.SHELF_AUTH (R274). -/
def TIER_SHELF_AUTH : ErrBit := ⟨.tier, 19⟩
/-- CODEC ERR_STATUS.FRAME_FORMAT (R302). -/
def CODEC_FRAME_FORMAT : ErrBit := ⟨.codec, 16⟩
/-- CODEC ERR_STATUS.FRAME_VERSION (R302). -/
def CODEC_FRAME_VERSION : ErrBit := ⟨.codec, 17⟩
/-- CODEC ERR_STATUS.BUFFER_UNCORRECTABLE (R302). -/
def CODEC_BUFFER_UNCORRECTABLE : ErrBit := ⟨.codec, 18⟩
/-- SEED ERR_STATUS.DRBG_FAIL (R344). -/
def SEED_DRBG_FAIL : ErrBit := ⟨.seed, 16⟩
/-- SEED ERR_STATUS.SLOT_UNCORRECTABLE (R344). -/
def SEED_SLOT_UNCORRECTABLE : ErrBit := ⟨.seed, 17⟩
/-- SEED ERR_STATUS.LIMIT_OVERRUN (R344). -/
def SEED_LIMIT_OVERRUN : ErrBit := ⟨.seed, 18⟩
/-- CIPH ERR_STATUS.PIPE_UNCORRECTABLE (R346). -/
def CIPH_PIPE_UNCORRECTABLE : ErrBit := ⟨.ciph, 16⟩
/-- CIPH ERR_STATUS.PRIV_TOO_LONG (R346). -/
def CIPH_PRIV_TOO_LONG : ErrBit := ⟨.ciph, 17⟩
/-- TEN ERR_STATUS.QUEUE_HALT (R377). -/
def TEN_QUEUE_HALT : ErrBit := ⟨.ten, 16⟩
/-- TEN ERR_STATUS.QUEUE_BUSY (R377). -/
def TEN_QUEUE_BUSY : ErrBit := ⟨.ten, 17⟩
/-- TEN ERR_STATUS.CONTEXT_UNCORRECTABLE (R377). -/
def TEN_CONTEXT_UNCORRECTABLE : ErrBit := ⟨.ten, 18⟩
/-- BULK ERR_STATUS.LOG_UNCORRECTABLE (R377). -/
def BULK_LOG_UNCORRECTABLE : ErrBit := ⟨.bulk, 16⟩
/-- HYL ERR_STATUS.LINK_DOWN (R449). -/
def HYL_LINK_DOWN : ErrBit := ⟨.hyl, 16⟩
/-- HYL ERR_STATUS.REPAIRED (R449). -/
def HYL_REPAIRED : ErrBit := ⟨.hyl, 17⟩
/-- GUY ERR_STATUS.DECLARED_DOWN (R449). -/
def GUY_DECLARED_DOWN : ErrBit := ⟨.guy, 16⟩
/-- GUY ERR_STATUS.REFUSED (R449). -/
def GUY_REFUSED : ErrBit := ⟨.guy, 17⟩
/-- PG ERR_STATUS.UNBOUND_RID (R449). -/
def PG_UNBOUND_RID : ErrBit := ⟨.pg, 16⟩
/-- PG ERR_STATUS.COMPLETION_TIMEOUT (R449). -/
def PG_COMPLETION_TIMEOUT : ErrBit := ⟨.pg, 17⟩
/-- PG ERR_STATUS.SURPRISE_DOWN (R449). -/
def PG_SURPRISE_DOWN : ErrBit := ⟨.pg, 18⟩
/-- PG ERR_STATUS.SHELF_RELEASE (R449). -/
def PG_SHELF_RELEASE : ErrBit := ⟨.pg, 19⟩
/-- FAB ERR_STATUS.FLIT_CORRECTED (R487). -/
def FAB_FLIT_CORRECTED : ErrBit := ⟨.fab, 16⟩
/-- FAB ERR_STATUS.PAYLOAD_POISONED (R487). -/
def FAB_PAYLOAD_POISONED : ErrBit := ⟨.fab, 17⟩
/-- FAB ERR_STATUS.HEADER_UNCORRECTABLE (R487). -/
def FAB_HEADER_UNCORRECTABLE : ErrBit := ⟨.fab, 18⟩
/-- FAB ERR_STATUS.NOROUTE (R487). -/
def FAB_NOROUTE : ErrBit := ⟨.fab, 19⟩
/-- RAKE ERR_STATUS.CE_RATE (R499). -/
def RAKE_CE_RATE : ErrBit := ⟨.rake, 16⟩
/-- RAKE ERR_STATUS.PASS_LATE (R499). -/
def RAKE_PASS_LATE : ErrBit := ⟨.rake, 17⟩
/-- RAKE ERR_STATUS.ECS_HIGH (R499). -/
def RAKE_ECS_HIGH : ErrBit := ⟨.rake, 18⟩
/-- PKG ERR_STATUS.THERMTRIP (R537). -/
def PKG_THERMTRIP : ErrBit := ⟨.pkg, 16⟩
/-- PKG ERR_STATUS.OVERTEMP (R537). -/
def PKG_OVERTEMP : ErrBit := ⟨.pkg, 17⟩
/-- PKG ERR_STATUS.AVS_FAULT (R537). -/
def PKG_AVS_FAULT : ErrBit := ⟨.pkg, 18⟩
/-- PKG ERR_STATUS.POWER_LIMITING (R537). -/
def PKG_POWER_LIMITING : ErrBit := ⟨.pkg, 19⟩
/-- PKG ERR_STATUS.RAIL_LOST (R537). -/
def PKG_RAIL_LOST : ErrBit := ⟨.pkg, 20⟩
end E

open R

def headerFields : List FSpec :=
  [⟨HDR_ID_TYPE, 1, .plain, .ro, 0⟩,
   ⟨HDR_ID_INSTANCE, 1, .plain, .ro, 0⟩,
   ⟨HDR_ID_DIE, 1, .plain, .ro, 0⟩,
   ⟨HDR_ID_SIGNATURE, 1, .plain, .ro, 0xf07e⟩,
   ⟨HDR_VERSION_MINOR, 1, .plain, .ro, 0⟩,
   ⟨HDR_VERSION_MAJOR, 1, .plain, .ro, 0⟩,
   ⟨HDR_VERSION_FEATURES, 1, .plain, .ro, 0⟩,
   ⟨HDR_STATUS_READY, 1, .plain, .ro, 0⟩,
   ⟨HDR_STATUS_BUSY, 1, .plain, .ro, 0⟩,
   ⟨HDR_STATUS_STRUCK, 1, .plain, .ro, 0⟩,
   ⟨HDR_STATUS_ERR, 1, .plain, .ro, 0⟩,
   ⟨HDR_STATUS_COMMIT_PENDING, 1, .plain, .ro, 0⟩,
   ⟨HDR_STATUS_ENABLED, 1, .plain, .ro, 0⟩,
   ⟨HDR_STATUS_COMMIT_COUNT, 1, .plain, .ro, 0⟩,
   ⟨HDR_CONTROL_ENABLE, 1, .live, .rw, 0⟩,
   ⟨HDR_CONTROL_QUIESCE, 1, .live, .rw, 0⟩,
   ⟨HDR_CONTROL_RESET, 1, .plain, .wo, 0⟩,
   ⟨HDR_COMMIT_GO, 1, .plain, .wo, 0⟩,
   ⟨HDR_COMMIT_CANCEL, 1, .plain, .wo, 0⟩,
   ⟨HDR_ERR_STATUS_LOCKED_WRITE, 1, .plain, .w1c, 0⟩,
   ⟨HDR_ERR_STATUS_ACCESS, 1, .plain, .w1c, 0⟩,
   ⟨HDR_ERR_STATUS_RESERVED_ENC, 1, .plain, .w1c, 0⟩,
   ⟨HDR_ERR_STATUS_REG_PARITY, 1, .plain, .w1c, 0⟩]
def pkgFields0 : List FSpec :=
  [⟨PKG_PART_CODE, 1, .plain, .ro, 0⟩,
   ⟨PKG_PART_IOD_REV, 1, .plain, .ro, 0⟩,
   ⟨PKG_PART_CORES_PER_DIE, 1, .plain, .ro, 0⟩,
   ⟨PKG_PART_TDP_NOM, 1, .plain, .ro, 0⟩,
   ⟨PKG_PART_TDP_MIN, 1, .plain, .ro, 0⟩,
   ⟨PKG_PART_TDP_MAX, 1, .plain, .ro, 0⟩,
   ⟨PKG_DIEREV_CDREV, 1, .plain, .ro, 0⟩,
   ⟨PKG_SERIAL_SERIAL, 1, .plain, .ro, 0⟩,
   ⟨PKG_COMPAT_FORCE_H1, 1, .locked, .rw, 0⟩,
   ⟨PKG_COMPAT_COH_VER, 1, .plain, .ro, 0⟩,
   ⟨PKG_PARTNER_VIEW_VALID, 1, .plain, .ro, 0⟩,
   ⟨PKG_PARTNER_VIEW_AGE, 1, .plain, .ro, 0xffff⟩,
   ⟨PKG_MODE_MODE, 1, .plain, .ro, 1⟩,
   ⟨PKG_MODE_PREV_MODE, 1, .plain, .ro, 0⟩,
   ⟨PKG_MODE_REQ_ERR, 1, .plain, .w1c, 0⟩,
   ⟨PKG_MODE_DRAINED, 1, .plain, .ro, 0⟩,
   ⟨PKG_MODE_DEGRADED, 1, .plain, .ro, 0⟩,
   ⟨PKG_MODE_TRANSITIONS, 1, .plain, .ro, 0⟩,
   ⟨PKG_MODE_REQ_REQ, 1, .plain, .wo, 0⟩,
   ⟨PKG_STRUCK_MASK_DIES, 1, .plain, .ro, 0xfff⟩,
   ⟨PKG_DIE_CTL_STRIKE, 1, .plain, .wo, 0⟩,
   ⟨PKG_DIE_CTL_PITCH, 1, .plain, .wo, 0⟩,
   ⟨PKG_DIE_CTL_PARK, 1, .live, .rw, 0⟩,
   ⟨PKG_DIE_STATE_PARKED, 1, .plain, .ro, 0⟩,
   ⟨PKG_DIE_STATE_BUSY, 1, .plain, .ro, 0⟩,
   ⟨PKG_RESET_CAUSE_LAST, 1, .plain, .ro, 0⟩,
   ⟨PKG_RESET_CAUSE_FROZEN_CAUSE, 1, .plain, .ro, 0⟩,
   ⟨PKG_RESET_CAUSE_WARM_COUNT, 1, .plain, .ro, 0⟩,
   ⟨PKG_READY_CD, 1, .plain, .ro, 0⟩,
   ⟨PKG_READY_DDR, 1, .plain, .ro, 0⟩,
   ⟨PKG_READY_PG, 1, .plain, .ro, 0⟩,
   ⟨PKG_READY_BARKAI, 1, .plain, .ro, 0⟩,
   ⟨PKG_READY_GL, 1, .plain, .ro, 0⟩,
   ⟨PKG_READY_SEED, 1, .plain, .ro, 0⟩,
   ⟨PKG_READY_MGMT_FW, 1, .plain, .ro, 0⟩,
   ⟨PKG_READY_TEN, 1, .plain, .ro, 0⟩,
   ⟨PKG_BOOT_BOOT_DIE, 1, .plain, .ro, 0xf⟩,
   ⟨PKG_BOOT_FW_SLOT, 1, .plain, .ro, 0⟩,
   ⟨PKG_BOOT_FW_FAIL, 1, .plain, .ro, 0⟩,
   ⟨PKG_BOOT_WINDOW_VALID, 1, .plain, .ro, 0⟩]
def pkgFields1 : List FSpec :=
  [⟨PKG_BOOT_WINDOW_RELEASE, 1, .plain, .wo, 0⟩,
   ⟨PKG_BOOT_BOOT_SLOT, 1, .plain, .ro, 0⟩,
   ⟨PKG_BOOT_BOOT_FAIL, 1, .plain, .ro, 0⟩,
   ⟨PKG_BOOT_FW_VERSION, 1, .plain, .ro, 0⟩,
   ⟨PKG_REGION_BASE_VALID, 64, .shadowed, .rw, 0⟩,
   ⟨PKG_REGION_BASE_BASE_PAGE, 64, .shadowed, .rw, 0⟩,
   ⟨PKG_REGION_LIMIT_LIMIT_PAGE, 64, .shadowed, .rw, 0⟩,
   ⟨PKG_PAIR_CTL_ENABLE, 1, .live, .rw, 0⟩,
   ⟨PKG_PAIR_CTL_FORM, 1, .plain, .wo, 0⟩,
   ⟨PKG_PAIR_CTL_UNPAIR, 1, .plain, .wo, 0⟩,
   ⟨PKG_PAIR_CTL_TAKEOVER, 1, .plain, .wo, 0⟩,
   ⟨PKG_PAIR_CTL_HANDBACK, 1, .plain, .wo, 0⟩,
   ⟨PKG_PAIR_CTL_AUTO_TAKEOVER, 1, .live, .rw, 0⟩,
   ⟨PKG_PAIR_STATE_STATE, 1, .plain, .ro, 0⟩,
   ⟨PKG_PAIR_STATE_WAS_PAIRED, 1, .plain, .ro, 0⟩,
   ⟨PKG_PAIR_STATE_FENCE_OUT, 1, .plain, .ro, 0⟩,
   ⟨PKG_PAIR_STATE_FENCE_IN, 1, .plain, .ro, 0⟩,
   ⟨PKG_PAIR_STATE_RESYNC_NEEDED, 1, .plain, .ro, 0⟩,
   ⟨PKG_PAIR_STATE_RESULT, 1, .plain, .ro, 0⟩,
   ⟨PKG_PAIR_STATE_MIRROR_MAJOR, 1, .plain, .ro, 0⟩,
   ⟨PKG_PAIR_STATE_FEATURES, 1, .plain, .ro, 0⟩,
   ⟨PKG_PAIR_PEER_SERIAL, 1, .plain, .ro, 0⟩,
   ⟨PKG_PAIR_DREGION_BASE_GIB, 1, .live, .rw, 0⟩,
   ⟨PKG_PAIR_DREGION_SIZE_GIB, 1, .live, .rw, 0⟩,
   ⟨PKG_PAIR_MWINDOW_BASE_GIB, 1, .live, .rw, 0⟩,
   ⟨PKG_PAIR_MWINDOW_SIZE_GIB, 1, .live, .rw, 0⟩,
   ⟨PKG_PAIR_KEYS_KEK, 1, .live, .rw, 0⟩,
   ⟨PKG_PAIR_KEYS_TX, 1, .live, .rw, 0⟩,
   ⟨PKG_PAIR_KEYS_RX, 1, .live, .rw, 0⟩,
   ⟨PKG_PAIR_KEYS_PSHED0, 1, .live, .rw, 0⟩,
   ⟨PKG_PAIR_KEYS_PSHED1, 1, .live, .rw, 0⟩,
   ⟨PKG_PAIR_TIMERS_STATUS_TIMEOUT_US, 1, .live, .rw, 0xc8⟩,
   ⟨PKG_PAIR_TIMERS_AUTO_TAKEOVER_MS, 1, .live, .rw, 0x3e8⟩,
   ⟨PKG_MIRROR_TX_UNACKED, 4, .plain, .ro, 0⟩,
   ⟨PKG_MIRROR_TX_FULL, 4, .plain, .ro, 0⟩,
   ⟨PKG_MIRROR_RX_PENDING, 4, .plain, .ro, 0⟩,
   ⟨PKG_MIRROR_BYTES_COUNT, 1, .plain, .ro, 0⟩,
   ⟨PKG_FENCE_TOKEN_TOKEN, 1, .plain, .ro, 0⟩,
   ⟨PKG_FENCE_TOKEN_VALID, 1, .plain, .ro, 0⟩,
   ⟨PKG_DIE_TEMP_TEMP, 13, .plain, .ro, 0⟩]
def pkgFields2 : List FSpec :=
  [⟨PKG_DIE_TEMP_VALID, 13, .plain, .ro, 0⟩,
   ⟨PKG_THERM_CTL_THROTTLE_C, 1, .shadowed, .rw, 0x64⟩,
   ⟨PKG_THERM_CTL_HYST_C, 1, .shadowed, .rw, 3⟩,
   ⟨PKG_THERM_CTL_ALERT_C, 1, .shadowed, .rw, 0x6e⟩,
   ⟨PKG_POWER_LIMIT_LIMIT_W, 1, .shadowed, .rw, 0⟩,
   ⟨PKG_POWER_LIMIT_WINDOW_MS, 1, .shadowed, .rw, 0xa⟩,
   ⟨PKG_POWER_STATUS_POWER, 1, .plain, .ro, 0⟩,
   ⟨PKG_POWER_STATUS_LIMITING, 1, .plain, .ro, 0⟩,
   ⟨PKG_POWER_STATUS_HOT, 1, .plain, .ro, 0⟩,
   ⟨PKG_POWER_STATUS_CAP_STEPS, 1, .plain, .ro, 0⟩,
   ⟨PKG_LIFE_USED_EQ, 1, .plain, .ro, 0⟩]
def pkgFields : List FSpec := pkgFields0 ++ pkgFields1 ++ pkgFields2
def clkFields : List FSpec :=
  [⟨CLK_ROOT_STATUS_LOCKED, 1, .plain, .ro, 0⟩,
   ⟨CLK_ROOT_STATUS_REFCLK_OK, 1, .plain, .ro, 0⟩,
   ⟨CLK_ROOT_STATUS_HOLDOVER, 1, .plain, .ro, 0⟩,
   ⟨CLK_ROOT_STATUS_LOSS_COUNT, 1, .plain, .ro, 0⟩,
   ⟨CLK_FWD_STATUS_FWD_OK, 1, .plain, .ro, 0⟩,
   ⟨CLK_FWD_STATUS_DESKEW_DONE, 1, .plain, .ro, 0⟩,
   ⟨CLK_PSTATE_REQ, 1, .live, .rw, 0xaaaaaaaaaa⟩,
   ⟨CLK_PSTATE_CAP, 1, .plain, .ro, 0⟩,
   ⟨CLK_PSTATE_ACT, 1, .plain, .ro, 0xaaaaaaaaaa⟩]
def mgmtFields : List FSpec := []
def tapFields : List FSpec :=
  [⟨TAP_ACCESS_INSTR_EN, 1, .live, .rw, 0⟩,
   ⟨TAP_SEGMENTS_INSERTED, 1, .plain, .ro, 0⟩,
   ⟨TAP_SEGMENTS_HELD, 1, .plain, .ro, 0xfff⟩,
   ⟨TAP_SEGMENTS_IOD_INSERTED, 1, .plain, .ro, 0⟩]
def lantFields : List FSpec :=
  [⟨LANT_CTL_TRACE_TIER, 1, .live, .rw, 0⟩,
   ⟨LANT_CTL_COALESCE_MS, 1, .shadowed, .rw, 0x3e8⟩,
   ⟨LANT_RING_SIZE_LOG2, 1, .locked, .rw, 0xc⟩,
   ⟨LANT_RING_BASE, 1, .locked, .rw, 0⟩,
   ⟨LANT_RING_HEAD_HEAD, 1, .live, .rw, 0⟩,
   ⟨LANT_RING_TAIL_TAIL, 1, .plain, .ro, 0⟩,
   ⟨LANT_RING_TAIL_PHASE, 1, .plain, .ro, 1⟩,
   ⟨LANT_RESERVE_FATAL_SLOTS, 1, .shadowed, .rw, 0x10⟩,
   ⟨LANT_RESERVE_ALERT_SLOTS, 1, .shadowed, .rw, 0x30⟩,
   ⟨LANT_TRING_SEL_TENANT, 1, .live, .rw, 0⟩,
   ⟨LANT_TRING_EN, 1, .live, .rw, 0⟩,
   ⟨LANT_TRING_BASE, 1, .live, .rw, 0⟩,
   ⟨LANT_TRING_POS_INDEX, 1, .plain, .ro, 0⟩,
   ⟨LANT_TRING_POS_PHASE, 1, .plain, .ro, 1⟩,
   ⟨LANT_TRING_POS_DROPS, 1, .plain, .ro, 0⟩,
   ⟨LANT_DROP_TRACE_COUNT, 1, .plain, .ro, 0⟩,
   ⟨LANT_DROP_NOTICE_COUNT, 1, .plain, .ro, 0⟩,
   ⟨LANT_DROP_ALERT_COUNT, 1, .plain, .ro, 0⟩,
   ⟨LANT_MISSED_FATAL_COUNT, 1, .plain, .ro, 0⟩,
   ⟨LANT_SB_DROPS_ALERT, 1, .plain, .ro, 0⟩,
   ⟨LANT_SB_DROPS_FATAL, 1, .plain, .ro, 0⟩,
   ⟨LANT_ALARM_ALERT_PEND, 1, .plain, .w1c, 0⟩,
   ⟨LANT_ALARM_FATAL, 1, .plain, .ro, 0⟩,
   ⟨LANT_INJECT_EN, 1, .live, .rw, 0⟩,
   ⟨LANT_INJECT_FATAL_OK, 1, .live, .rw, 0⟩,
   ⟨LANT_INJECT_ADDR_ADDR, 1, .live, .rw, 0⟩,
   ⟨LANT_STORE_SEL_SLOT, 1, .live, .rw, 0⟩,
   ⟨LANT_STORE_DATA_DATA, 4, .plain, .ro, 0⟩,
   ⟨LANT_STORE_CTL_CLEAR_BANK0, 1, .plain, .wo, 0⟩,
   ⟨LANT_STORE_CTL_CLEAR_BANK1, 1, .plain, .wo, 0⟩,
   ⟨LANT_STORE_CTL_CLEAR_GENERAL, 1, .plain, .wo, 0⟩,
   ⟨LANT_STORE_STAT_COUNT0, 1, .plain, .ro, 0⟩,
   ⟨LANT_STORE_STAT_COUNT1, 1, .plain, .ro, 0⟩,
   ⟨LANT_STORE_STAT_CUR, 1, .plain, .ro, 0⟩,
   ⟨LANT_STORE_STAT_PARTIAL, 1, .plain, .ro, 0⟩,
   ⟨LANT_STORE_STAT_GEN_WPTR, 1, .plain, .ro, 0⟩,
   ⟨LANT_STORE_STAT_GEN_WRAPPED, 1, .plain, .ro, 0⟩,
   ⟨LANT_STORE_STAT_UNREPLAYED, 1, .plain, .ro, 0⟩,
   ⟨LANT_STORE_STAT_INCIDENTS, 1, .plain, .ro, 0⟩,
   ⟨LANT_SEQ_NEXT, 1, .plain, .ro, 0⟩]
def pmuFields : List FSpec :=
  [⟨PMU_UGLOBAL_EN, 1, .live, .rw, 0⟩,
   ⟨PMU_UGLOBAL_FREEZE_ON_OVF, 1, .live, .rw, 0⟩,
   ⟨PMU_UGLOBAL_OVF, 1, .plain, .w1c, 0⟩,
   ⟨PMU_SNAP_AT_TIME, 1, .live, .rw, 0⟩,
   ⟨PMU_SNAP_AT_ARM, 1, .live, .rw, 0⟩,
   ⟨PMU_SNAP_STAT_DONE, 1, .plain, .w1c, 0⟩,
   ⟨PMU_SNAP_STAT_LATE, 1, .plain, .w1c, 0⟩,
   ⟨PMU_SNAP_TIME_TIME, 1, .plain, .ro, 0⟩,
   ⟨PMU_USEL_EVENT, 4, .live, .rw, 0⟩,
   ⟨PMU_USEL_INSTANCE, 4, .live, .rw, 0x3f⟩,
   ⟨PMU_USEL_EDGE, 4, .live, .rw, 0⟩,
   ⟨PMU_USEL_INV, 4, .live, .rw, 0⟩,
   ⟨PMU_USEL_THRESH, 4, .live, .rw, 0⟩,
   ⟨PMU_USEL_TENANT, 4, .live, .rw, 0⟩,
   ⟨PMU_USEL_TENANT_EN, 4, .live, .rw, 0⟩,
   ⟨PMU_UCNT_COUNT, 4, .live, .rw, 0⟩,
   ⟨PMU_USNAP_COUNT, 4, .plain, .ro, 0⟩]
def coreFields : List FSpec :=
  [⟨CORE_RUN_CTL_RELEASE, 1, .plain, .wo, 0⟩,
   ⟨CORE_ENTRY_ADDR, 1, .live, .rw, 0⟩,
   ⟨CORE_STATUS_RUNSTATE, 1, .plain, .ro, 0⟩,
   ⟨CORE_STATUS_PL, 1, .plain, .ro, 2⟩,
   ⟨CORE_STATUS_SB_EMPTY, 1, .plain, .ro, 1⟩,
   ⟨CORE_STATUS_DEVWRITE_PEND, 1, .plain, .ro, 0⟩,
   ⟨CORE_STATUS_SB_COUNT, 1, .plain, .ro, 0⟩,
   ⟨CORE_DOORBELL_SET, 1, .plain, .wo, 0⟩]
def l3Fields : List FSpec :=
  [⟨L3_POLICY_DEAD_EN, 1, .shadowed, .rw, 1⟩,
   ⟨L3_POLICY_PRUNED_DECLINE, 1, .shadowed, .rw, 1⟩,
   ⟨L3_POLICY_PF_EN, 1, .shadowed, .rw, 1⟩,
   ⟨L3_PRUNE_REQ_GROUPS, 1, .live, .rw, 0⟩,
   ⟨L3_PRUNE_STATUS_PRUNED, 1, .plain, .ro, 0⟩,
   ⟨L3_PRUNE_STATUS_BUSY, 1, .plain, .ro, 0⟩,
   ⟨L3_PRUNE_STATUS_DONE_COUNT, 1, .plain, .ro, 0⟩,
   ⟨L3_OFFERS_OFFERED, 1, .plain, .ro, 0⟩,
   ⟨L3_OFFERS_DECLINED, 1, .plain, .ro, 0⟩]
def fabFields : List FSpec :=
  [⟨FAB_ROUTE_SEL_NI, 1, .live, .rw, 0⟩,
   ⟨FAB_ROUTE_SEL_DEST, 1, .live, .rw, 0⟩,
   ⟨FAB_ROUTE_A, 1, .plain, .ro, 0⟩,
   ⟨FAB_ROUTE_VALID, 1, .plain, .ro, 0⟩,
   ⟨FAB_ROUTE_B, 1, .plain, .ro, 0⟩,
   ⟨FAB_DROPS_NOROUTE, 1, .plain, .ro, 0⟩,
   ⟨FAB_PCFG_ROUTER, 4, .live, .rw, 0⟩,
   ⟨FAB_PCFG_POINT, 4, .live, .rw, 0⟩,
   ⟨FAB_PCFG_EN, 4, .live, .rw, 0⟩,
   ⟨FAB_PCFG_TRACE, 4, .live, .rw, 0⟩,
   ⟨FAB_PCFG_CCLASS_MASK, 4, .live, .rw, 0x3f⟩,
   ⟨FAB_PMSG_MASK, 4, .live, .rw, 0xffffffffffffffff⟩,
   ⟨FAB_PMATCH_NODE, 4, .live, .rw, 0⟩,
   ⟨FAB_PMATCH_NODE_MASK, 4, .live, .rw, 0⟩,
   ⟨FAB_PMATCH_ON_DST, 4, .live, .rw, 0⟩,
   ⟨FAB_PMATCH_TENANT, 4, .live, .rw, 0⟩,
   ⟨FAB_PMATCH_TENANT_EN, 4, .live, .rw, 0⟩,
   ⟨FAB_PCOUNT_COUNT, 4, .plain, .ro, 0⟩,
   ⟨FAB_TCTL_EN, 1, .live, .rw, 0⟩,
   ⟨FAB_TCTL_WRAP, 1, .live, .rw, 0⟩,
   ⟨FAB_TCTL_CLEAR, 1, .plain, .wo, 0⟩,
   ⟨FAB_TSTAT_WPTR, 1, .plain, .ro, 0⟩,
   ⟨FAB_TSTAT_FULL, 1, .plain, .ro, 0⟩,
   ⟨FAB_TSTAT_DROPPED, 1, .plain, .ro, 0⟩,
   ⟨FAB_TIDX_INDEX, 1, .live, .rw, 0⟩,
   ⟨FAB_TDATA_DATA, 4, .plain, .ro, 0⟩]
def hylFields : List FSpec :=
  [⟨HYL_LINK_STATUS_UP, 1, .plain, .ro, 0⟩,
   ⟨HYL_LINK_STATUS_TRAINING, 1, .plain, .ro, 0⟩,
   ⟨HYL_LINK_STATUS_VERSION, 1, .plain, .ro, 0⟩,
   ⟨HYL_LINK_STATUS_FAIL_CAUSE, 1, .plain, .ro, 0⟩,
   ⟨HYL_LINK_STATUS_SPARES_TX, 1, .plain, .ro, 0⟩,
   ⟨HYL_LINK_STATUS_SPARES_RX, 1, .plain, .ro, 0⟩,
   ⟨HYL_LINK_CTL_REPLAY_LIMIT, 1, .shadowed, .rw, 8⟩,
   ⟨HYL_LINK_CTL_RETRAIN_LIMIT, 1, .shadowed, .rw, 3⟩,
   ⟨HYL_ERRORS_CRC, 1, .plain, .ro, 0⟩,
   ⟨HYL_ERRORS_REPLAYS, 1, .plain, .ro, 0⟩,
   ⟨HYL_RETRAINS_COUNT, 1, .plain, .ro, 0⟩]
def homeFields : List FSpec :=
  [⟨HOME_SF_STATUS_CAPACITY, 1, .plain, .ro, 0x400000⟩,
   ⟨HOME_SF_STATUS_OCCUPIED, 1, .plain, .ro, 0⟩,
   ⟨HOME_SF_COUNTS_BACKINV, 1, .plain, .ro, 0⟩,
   ⟨HOME_SF_COUNTS_STALE, 1, .plain, .ro, 0⟩,
   ⟨HOME_FWD_COUNTS_FORWARDS, 1, .plain, .ro, 0⟩,
   ⟨HOME_FWD_COUNTS_REFUSALS, 1, .plain, .ro, 0⟩,
   ⟨HOME_SWEEP_TENANT, 1, .live, .rw, 0⟩,
   ⟨HOME_SWEEP_GO, 1, .plain, .wo, 0⟩,
   ⟨HOME_SWEEP_BUSY, 1, .plain, .ro, 0⟩,
   ⟨HOME_SWEEP_LINES, 1, .plain, .ro, 0⟩,
   ⟨HOME_SNOOP_TIMEOUT_MICROS, 1, .locked, .rw, 0x3e8⟩,
   ⟨HOME_DOMAIN_POISONED, 1, .plain, .ro, 0⟩,
   ⟨HOME_DOMAIN_DISCARDED, 1, .plain, .ro, 0⟩,
   ⟨HOME_DOMAIN_PAGES, 1, .plain, .ro, 0⟩]
def mscFields : List FSpec :=
  [⟨MSC_POLICY_CLEAN_LIMIT, 1, .shadowed, .rw, 0xc⟩,
   ⟨MSC_POLICY_QUOTA_EN, 1, .shadowed, .rw, 0⟩,
   ⟨MSC_OCC_CLEAN, 1, .plain, .ro, 0⟩,
   ⟨MSC_OCC_DIRTY, 1, .plain, .ro, 0⟩,
   ⟨MSC_QSEL_TENANT, 1, .live, .rw, 0⟩,
   ⟨MSC_QUOTA_LINES, 1, .live, .rw, 0x40000⟩,
   ⟨MSC_QUSE_LINES, 1, .plain, .ro, 0⟩,
   ⟨MSC_OFFERS_OFFERED, 1, .plain, .ro, 0⟩,
   ⟨MSC_OFFERS_DECLINED, 1, .plain, .ro, 0⟩,
   ⟨MSC_WINDOW_BOOTWAYS, 1, .plain, .ro, 0⟩]
def ddrFields : List FSpec :=
  [⟨DDR_CONFIG_SPEED, 1, .locked, .rw, 0⟩,
   ⟨DDR_CONFIG_DPC2, 1, .locked, .rw, 0⟩,
   ⟨DDR_CONFIG_RANKS2, 1, .locked, .rw, 0⟩,
   ⟨DDR_CONFIG_SIZE, 1, .locked, .rw, 0⟩,
   ⟨DDR_CONFIG_STACKED, 1, .locked, .rw, 0⟩,
   ⟨DDR_MAP_WAYS, 1, .locked, .rw, 0⟩,
   ⟨DDR_MAP_WAY, 1, .locked, .rw, 0⟩,
   ⟨DDR_MAP_PAIR, 1, .locked, .rw, 0⟩,
   ⟨DDR_MAP_QSIZE_GIB, 1, .locked, .rw, 0⟩,
   ⟨DDR_TRAIN_TRAINED, 1, .plain, .ro, 0⟩,
   ⟨DDR_TRAIN_FAILED, 1, .plain, .ro, 0⟩,
   ⟨DDR_TRAIN_INIT_DONE, 1, .plain, .ro, 0⟩,
   ⟨DDR_TRAIN_SELF_REFRESH, 1, .plain, .ro, 0⟩,
   ⟨DDR_TRAIN_FAIL_RANKS, 1, .plain, .ro, 0⟩,
   ⟨DDR_ECC_CTL_ERASE_THRESH, 1, .shadowed, .rw, 0x10⟩,
   ⟨DDR_ECC_CTL_ERASE_WINDOW_H, 1, .shadowed, .rw, 0x18⟩,
   ⟨DDR_ECC_CTL_SCRUB_ON_READ, 1, .shadowed, .rw, 1⟩,
   ⟨DDR_ECC_CTL_ERASE_EN, 1, .shadowed, .rw, 1⟩,
   ⟨DDR_CE_COUNT_CORRECTED, 1, .plain, .ro, 0⟩,
   ⟨DDR_CE_COUNT_ERASED_ASSIST, 1, .plain, .ro, 0⟩,
   ⟨DDR_UE_COUNT_UNCORRECTABLE, 1, .plain, .ro, 0⟩,
   ⟨DDR_UE_COUNT_POISON_READS, 1, .plain, .ro, 0⟩,
   ⟨DDR_ERASE_REQ_RANK, 1, .plain, .wo, 0⟩,
   ⟨DDR_ERASE_REQ_SUBCH, 1, .plain, .wo, 0⟩,
   ⟨DDR_ERASE_REQ_DEVICE, 1, .plain, .wo, 0⟩,
   ⟨DDR_ERASE_REQ_GO, 1, .plain, .wo, 0⟩,
   ⟨DDR_ERASE_V, 8, .plain, .ro, 0⟩,
   ⟨DDR_ERASE_DEVICE, 8, .plain, .ro, 0⟩,
   ⟨DDR_ERASE_BY_REQ, 8, .plain, .ro, 0⟩,
   ⟨DDR_DEVCOUNT_COUNT, 80, .plain, .ro, 0⟩]
def rakeFields : List FSpec :=
  [⟨RAKE_CTL_PERIOD_H, 1, .shadowed, .rw, 0x18⟩,
   ⟨RAKE_CTL_ECS_THRESH, 1, .shadowed, .rw, 0x100⟩,
   ⟨RAKE_CTL_CE_ALERT, 1, .shadowed, .rw, 0x400⟩,
   ⟨RAKE_STATUS_CURSOR, 1, .plain, .ro, 0⟩,
   ⟨RAKE_STATUS_ACTIVE, 1, .plain, .ro, 0⟩,
   ⟨RAKE_STATUS_PASSES, 1, .plain, .ro, 0⟩,
   ⟨RAKE_FOUND_CORRECTED, 1, .plain, .ro, 0⟩,
   ⟨RAKE_FOUND_UNCORRECTABLE, 1, .plain, .ro, 0⟩,
   ⟨RAKE_LAST_PASS_CORRECTED, 1, .plain, .ro, 0⟩,
   ⟨RAKE_LAST_PASS_UNCORRECTABLE, 1, .plain, .ro, 0⟩]
def tierFields0 : List FSpec :=
  [⟨TIER_SHELF_CFG_SLEEPCAP, 64, .live, .rw, 0⟩,
   ⟨TIER_SHELF_CFG_AUTOPITCH, 64, .live, .rw, 0⟩,
   ⟨TIER_SHELF_CFG_PLACE_EN, 64, .live, .rw, 0⟩,
   ⟨TIER_SHELF_CFG_PORT, 64, .live, .rw, 0⟩,
   ⟨TIER_SHELF_CFG_STRIKE_EVAC, 64, .plain, .wo, 0⟩,
   ⟨TIER_SHELF_CFG_STRIKE_SLEEP, 64, .plain, .wo, 0⟩,
   ⟨TIER_SHELF_CFG_RELEASE, 64, .plain, .wo, 0⟩,
   ⟨TIER_SHELF_STAT_STATE, 64, .plain, .ro, 0⟩,
   ⟨TIER_SHELF_STAT_WAKE_PEND, 64, .plain, .ro, 0⟩,
   ⟨TIER_SHELF_STAT_SWEEPING, 64, .plain, .ro, 0⟩,
   ⟨TIER_SHELF_STAT_CAP_GIB, 64, .plain, .ro, 0⟩,
   ⟨TIER_SHELF_STAT_PAGES, 64, .plain, .ro, 0⟩,
   ⟨TIER_LAYOUT_MAP_TIB, 1, .locked, .rw, 0⟩,
   ⟨TIER_LAYOUT_MIRROR, 1, .locked, .rw, 0⟩,
   ⟨TIER_LAYOUT_SMAP_GIB, 1, .locked, .rw, 0⟩,
   ⟨TIER_POLICY_SAMPLE_SHIFT, 1, .shadowed, .rw, 4⟩,
   ⟨TIER_POLICY_DEMOTE_AGE, 1, .shadowed, .rw, 4⟩,
   ⟨TIER_POLICY_FORCE_AGE, 1, .shadowed, .rw, 7⟩,
   ⟨TIER_POLICY_AGE_DEMOTE, 1, .shadowed, .rw, 1⟩,
   ⟨TIER_POLICY_SHED_PROMOTE_AGE, 1, .shadowed, .rw, 2⟩,
   ⟨TIER_POLICY_FRAME_EN, 1, .shadowed, .rw, 1⟩,
   ⟨TIER_POLICY_SHED_EN, 1, .shadowed, .rw, 1⟩,
   ⟨TIER_POLICY_SHED_CMP, 1, .shadowed, .rw, 1⟩,
   ⟨TIER_TIMERS_PERIOD_S, 1, .shadowed, .rw, 0x258⟩,
   ⟨TIER_TIMERS_WAKE_RETRY_S, 1, .shadowed, .rw, 0x1e⟩,
   ⟨TIER_WM_FREE_LOW, 1, .shadowed, .rw, 0x40000⟩,
   ⟨TIER_WM_FREE_HIGH, 1, .shadowed, .rw, 0x80000⟩,
   ⟨TIER_WM_SHED_SHED_LOW, 1, .shadowed, .rw, 0x20000⟩,
   ⟨TIER_WM_SHED_SHED_HIGH, 1, .shadowed, .rw, 0x40000⟩,
   ⟨TIER_FREE_FREE_FRAMES, 1, .plain, .ro, 0⟩,
   ⟨TIER_FREE_PLOT_FRAMES, 1, .plain, .ro, 0⟩,
   ⟨TIER_MOVES_ACTIVE, 1, .plain, .ro, 0⟩,
   ⟨TIER_PROMOTED_COUNT, 1, .plain, .ro, 0⟩,
   ⟨TIER_DEMOTED_FRAME_COUNT, 1, .plain, .ro, 0⟩,
   ⟨TIER_DEMOTED_SHED_COUNT, 1, .plain, .ro, 0⟩,
   ⟨TIER_ABANDONED_COUNT, 1, .plain, .ro, 0⟩,
   ⟨TIER_DORMANT_REFUSED_COUNT, 1, .plain, .ro, 0⟩,
   ⟨TIER_WAKE_SENT_COUNT, 1, .plain, .ro, 0⟩,
   ⟨TIER_SERVED_IN_PLACE_COUNT, 1, .plain, .ro, 0⟩,
   ⟨TIER_ZERO_EVENTS_COUNT, 1, .plain, .ro, 0⟩]
def tierFields1 : List FSpec :=
  [⟨TIER_RATIO_HIST_COUNT, 8, .plain, .ro, 0⟩,
   ⟨TIER_JOURNAL_IN_FLIGHT, 1, .plain, .ro, 0⟩,
   ⟨TIER_JOURNAL_DORMANT, 1, .plain, .ro, 0⟩,
   ⟨TIER_JOURNAL_PEAK, 1, .plain, .ro, 0⟩,
   ⟨TIER_CMD_OP, 1, .live, .rw, 0⟩,
   ⟨TIER_CMD_GO, 1, .plain, .wo, 0⟩,
   ⟨TIER_CMD_BUSY, 1, .plain, .ro, 0⟩,
   ⟨TIER_CMD_TENANT, 1, .live, .rw, 0⟩,
   ⟨TIER_CMD_DUR, 1, .live, .rw, 0⟩,
   ⟨TIER_CMD_PIN, 1, .live, .rw, 0⟩,
   ⟨TIER_CMD_SLEEPOK, 1, .live, .rw, 0⟩,
   ⟨TIER_CMD_TO_TIER, 1, .live, .rw, 0⟩,
   ⟨TIER_CMD_RESULT, 1, .plain, .ro, 0⟩,
   ⟨TIER_CMD_ARG_PAGE, 1, .live, .rw, 0⟩,
   ⟨TIER_CMD_ENTRY_ENTRY, 1, .plain, .ro, 0⟩,
   ⟨TIER_TQSEL_TENANT, 1, .live, .rw, 0⟩,
   ⟨TIER_TQUSE_BED, 1, .plain, .ro, 0⟩,
   ⟨TIER_TQUSE_FRAME, 1, .plain, .ro, 0⟩,
   ⟨TIER_TQUSE2_SHED, 1, .plain, .ro, 0⟩,
   ⟨TIER_TQUSE2_PINNED, 1, .plain, .ro, 0⟩]
def tierFields : List FSpec := tierFields0 ++ tierFields1
def codecFields : List FSpec :=
  [⟨CODEC_CTL_DICT_MAX, 1, .shadowed, .rw, 0x10⟩,
   ⟨CODEC_CTL_DICT_MIN, 1, .shadowed, .rw, 3⟩,
   ⟨CODEC_FORMATS_DECODE, 1, .plain, .ro, 2⟩,
   ⟨CODEC_FORMATS_ENCODE, 1, .plain, .ro, 1⟩,
   ⟨CODEC_PAGES_ENC_COUNT, 1, .plain, .ro, 0⟩,
   ⟨CODEC_PAGES_DEC_COUNT, 1, .plain, .ro, 0⟩,
   ⟨CODEC_PAGES_OVER_COUNT, 1, .plain, .ro, 0⟩,
   ⟨CODEC_LINE_MODES_COUNT, 8, .plain, .ro, 0⟩,
   ⟨CODEC_STREAMS_COMPLETED, 1, .plain, .ro, 0⟩,
   ⟨CODEC_STREAMS_FAILED, 1, .plain, .ro, 0⟩,
   ⟨CODEC_STREAM_IN_BYTES, 1, .plain, .ro, 0⟩,
   ⟨CODEC_STREAM_OUT_BYTES, 1, .plain, .ro, 0⟩,
   ⟨CODEC_STREAM_ERR_VALID, 1, .plain, .w1c, 0⟩,
   ⟨CODEC_STREAM_ERR_REASON, 1, .plain, .ro, 0⟩,
   ⟨CODEC_STREAM_ERR_FMT, 1, .plain, .ro, 0⟩,
   ⟨CODEC_STREAM_ERR_TENANT, 1, .plain, .ro, 0⟩,
   ⟨CODEC_STREAM_ERR_OFFSET, 1, .plain, .ro, 0⟩]
def bulkFields : List FSpec :=
  [⟨BULK_CTL_INFLIGHT, 1, .shadowed, .rw, 0x40⟩,
   ⟨BULK_CTL_ACCEPT_BATCH, 1, .shadowed, .rw, 0x10⟩,
   ⟨BULK_STARTED_COUNT, 1, .plain, .ro, 0⟩,
   ⟨BULK_COMPLETED_COUNT, 1, .plain, .ro, 0⟩,
   ⟨BULK_BYTES_IN_COUNT, 1, .plain, .ro, 0⟩,
   ⟨BULK_BYTES_OUT_COUNT, 1, .plain, .ro, 0⟩,
   ⟨BULK_REPLAYED_COUNT, 1, .plain, .ro, 0⟩,
   ⟨BULK_STALE_DISCARDS, 1, .plain, .ro, 0⟩]
def tenFields0 : List FSpec :=
  [⟨TEN_RSET_SEL_SET, 1, .live, .rw, 0⟩,
   ⟨TEN_RSET_CTL_RANGE_INV, 1, .plain, .wo, 0⟩,
   ⟨TEN_RSET_CTL_INV_BUSY, 1, .plain, .ro, 0⟩,
   ⟨TEN_RB_BASE_V, 8, .live, .rw, 0⟩,
   ⟨TEN_RB_BASE_R, 8, .live, .rw, 0⟩,
   ⟨TEN_RB_BASE_W, 8, .live, .rw, 0⟩,
   ⟨TEN_RB_BASE_BASE, 8, .live, .rw, 0⟩,
   ⟨TEN_RB_TARGET_TARGET, 8, .live, .rw, 0⟩,
   ⟨TEN_RB_SIZE_UNITS_M1, 8, .live, .rw, 0⟩,
   ⟨TEN_RSET_FAULT_ADDR_ADDR, 1, .plain, .ro, 0⟩,
   ⟨TEN_RSET_FAULT_INFO_VALID, 1, .plain, .w1c, 0⟩,
   ⟨TEN_RSET_FAULT_INFO_CAUSE, 1, .plain, .ro, 0⟩,
   ⟨TEN_RSET_FAULT_INFO_SOURCE, 1, .plain, .ro, 0⟩,
   ⟨TEN_RSET_FAULT_INFO_COUNT, 1, .plain, .ro, 0⟩,
   ⟨TEN_TSEL_TENANT, 1, .live, .rw, 0⟩,
   ⟨TEN_TCMD_OP, 1, .live, .rw, 0⟩,
   ⟨TEN_TCMD_GO, 1, .plain, .wo, 0⟩,
   ⟨TEN_TCMD_BUSY, 1, .plain, .ro, 0⟩,
   ⟨TEN_TCMD_RESULT, 1, .plain, .ro, 0⟩,
   ⟨TEN_TSTATE_STATE, 1, .plain, .ro, 0⟩,
   ⟨TEN_TSTATE_ATTACHED, 1, .plain, .ro, 0⟩,
   ⟨TEN_TSTATE_CONSENT, 1, .plain, .ro, 0⟩,
   ⟨TEN_TSTATE_GEN, 1, .plain, .ro, 0⟩,
   ⟨TEN_TCFG_KIND, 1, .live, .rw, 0⟩,
   ⟨TEN_TCFG_DURABLE, 1, .live, .rw, 0⟩,
   ⟨TEN_TCFG_RSET, 1, .live, .rw, 0⟩,
   ⟨TEN_TCFG_QUEUES, 1, .live, .rw, 0⟩,
   ⟨TEN_TCFG_QBASE, 1, .live, .rw, 0⟩,
   ⟨TEN_TCFG_BW_SHARE, 1, .live, .rw, 0⟩,
   ⟨TEN_TCFG_LANT_SHARE, 1, .live, .rw, 0⟩,
   ⟨TEN_TCFG_LD, 1, .live, .rw, 0⟩,
   ⟨TEN_TKEY_SLOT, 8, .live, .rw, 0⟩,
   ⟨TEN_TKEY_V, 8, .live, .rw, 0⟩,
   ⟨TEN_TQ_BED_PAGES, 1, .live, .rw, 0⟩,
   ⟨TEN_TQ_FRAME_PAGES, 1, .live, .rw, 0⟩,
   ⟨TEN_TQ_SHED_PAGES, 1, .live, .rw, 0⟩,
   ⟨TEN_TACCEPTED_COUNT, 1, .plain, .ro, 0⟩,
   ⟨TEN_TCOMPLETED_COUNT, 1, .plain, .ro, 0⟩,
   ⟨TEN_TSTALE_STALE_COMPL, 1, .plain, .ro, 0⟩,
   ⟨TEN_TSTALE_STALE_DESC, 1, .plain, .ro, 0⟩]
def tenFields1 : List FSpec :=
  [⟨TEN_QSEL_QUEUE, 1, .live, .rw, 0⟩,
   ⟨TEN_QCFG_SIZE_LOG2, 1, .live, .rw, 6⟩,
   ⟨TEN_QCFG_QUADRANT, 1, .live, .rw, 0⟩,
   ⟨TEN_QCFG_URGENT_OK, 1, .live, .rw, 0⟩,
   ⟨TEN_QCFG_NOTIFY, 1, .live, .rw, 0⟩,
   ⟨TEN_QCFG_CID, 1, .live, .rw, 0⟩,
   ⟨TEN_QCFG_BIT, 1, .live, .rw, 0⟩,
   ⟨TEN_QCFG_VECTOR, 1, .live, .rw, 0⟩,
   ⟨TEN_QSQ_BASE, 1, .live, .rw, 0⟩,
   ⟨TEN_QCQ_BASE, 1, .live, .rw, 0⟩,
   ⟨TEN_QACC_BASE, 1, .live, .rw, 0⟩,
   ⟨TEN_QLOG_BASE, 1, .live, .rw, 0⟩,
   ⟨TEN_QCMD_OP, 1, .plain, .wo, 0⟩,
   ⟨TEN_QCMD_STATE, 1, .plain, .ro, 0⟩,
   ⟨TEN_QCMD_HALT_CAUSE, 1, .plain, .ro, 0⟩,
   ⟨TEN_QPOS_NEXT_SEQ, 1, .plain, .ro, 0⟩,
   ⟨TEN_QPOS_HEAD, 1, .plain, .ro, 0⟩,
   ⟨TEN_QPOS_CQ_TAIL, 1, .plain, .ro, 0⟩]
def tenFields : List FSpec := tenFields0 ++ tenFields1
def ciphFields : List FSpec :=
  [⟨CIPH_SCHED_SUSPEND_MAX_US, 1, .shadowed, .rw, 0x64⟩,
   ⟨CIPH_SCHED_SUSPEND_EN, 1, .shadowed, .rw, 1⟩,
   ⟨CIPH_PIPE_STATUS_SUSPENDED, 1, .plain, .ro, 0⟩,
   ⟨CIPH_PIPE_STATUS_BUSY, 1, .plain, .ro, 0⟩,
   ⟨CIPH_PIPE_STATUS_URGENT, 1, .plain, .ro, 0⟩,
   ⟨CIPH_MESSAGES_COUNT, 1, .plain, .ro, 0⟩,
   ⟨CIPH_SUSPENDS_COUNT, 1, .plain, .ro, 0⟩,
   ⟨CIPH_AUTH_FAIL_ORDINARY, 1, .plain, .ro, 0⟩,
   ⟨CIPH_AUTH_FAIL_PRIVILEGED, 1, .plain, .ro, 0⟩,
   ⟨CIPH_BYTES_COUNT, 1, .plain, .ro, 0⟩]
def seedFields : List FSpec :=
  [⟨SEED_SLOT_SEL_SLOT, 1, .live, .rw, 0⟩,
   ⟨SEED_SLOT_ATTR_ATTR, 1, .plain, .ro, 0⟩,
   ⟨SEED_SLOT_USE_COUNT, 1, .plain, .ro, 0⟩,
   ⟨SEED_SLOT_LIMIT_LIMIT, 1, .live, .rw, 0⟩,
   ⟨SEED_SLOT_IV_IVCTR, 1, .plain, .ro, 0⟩,
   ⟨SEED_SLOT_FIXED_FIXED, 1, .plain, .ro, 0⟩,
   ⟨SEED_CMD_OP, 1, .live, .rw, 0⟩,
   ⟨SEED_CMD_GO, 1, .plain, .wo, 0⟩,
   ⟨SEED_CMD_BUSY, 1, .plain, .ro, 0⟩,
   ⟨SEED_CMD_RESULT, 1, .plain, .ro, 0⟩,
   ⟨SEED_CMD_SLOT, 1, .live, .rw, 0⟩,
   ⟨SEED_CMD_KEK, 1, .live, .rw, 0⟩,
   ⟨SEED_CMD_ADDR_ADDR, 1, .live, .rw, 0⟩,
   ⟨SEED_CMD_ATTR_ALG, 1, .live, .rw, 0⟩,
   ⟨SEED_CMD_ATTR_REST, 1, .live, .rw, 0⟩,
   ⟨SEED_CMD_ATTR_FIXED_GIVEN, 1, .live, .rw, 0⟩,
   ⟨SEED_CMD_ATTR_FIXED, 1, .live, .rw, 0⟩,
   ⟨SEED_DRBG_HEALTHY, 1, .plain, .ro, 0⟩,
   ⟨SEED_DRBG_FAILS, 1, .plain, .ro, 0⟩,
   ⟨SEED_DRBG_RESEEDS, 1, .plain, .ro, 0⟩,
   ⟨SEED_MEMROT_GO, 1, .plain, .wo, 0⟩,
   ⟨SEED_MEMROT_ACTIVE, 1, .plain, .ro, 0⟩,
   ⟨SEED_MEMROT_CUR, 1, .plain, .ro, 0⟩,
   ⟨SEED_MEMROT_AUTO, 1, .live, .rw, 0⟩,
   ⟨SEED_MEMROT_REFUSED, 1, .plain, .w1c, 0⟩,
   ⟨SEED_MEMROT_COUNT, 1, .plain, .ro, 0⟩,
   ⟨SEED_MEMROT_AT_USE, 1, .live, .rw, 0⟩,
   ⟨SEED_MEMROT_CUR_CURSOR, 4, .plain, .ro, 0⟩,
   ⟨SEED_MEMROT_CUR_DEFERRED, 4, .plain, .ro, 0⟩,
   ⟨SEED_REKEY_PAGE_PAGE, 4, .plain, .ro, 0⟩,
   ⟨SEED_REKEY_PAGE_VALID, 4, .plain, .ro, 0⟩,
   ⟨SEED_REKEY_DONE_DONE, 4, .plain, .ro, 0⟩,
   ⟨SEED_SHEDROT_GO, 1, .plain, .wo, 0⟩,
   ⟨SEED_SHEDROT_ACTIVE, 1, .plain, .ro, 0⟩,
   ⟨SEED_SHEDROT_CUR, 1, .plain, .ro, 0⟩,
   ⟨SEED_SHEDROT_AUTO, 1, .live, .rw, 0⟩,
   ⟨SEED_SHEDROT_REFUSED, 1, .plain, .w1c, 0⟩,
   ⟨SEED_SHEDROT_COUNT, 1, .plain, .ro, 0⟩,
   ⟨SEED_SHEDROT_AT_USE, 1, .live, .rw, 0⟩,
   ⟨SEED_SHED_UNITS_UNITS, 2, .plain, .ro, 0⟩]
def guyFields : List FSpec :=
  [⟨GUY_STATUS_UP, 1, .plain, .ro, 0⟩,
   ⟨GUY_STATUS_TRAINING, 1, .plain, .ro, 0⟩,
   ⟨GUY_STATUS_LEADER, 1, .plain, .ro, 0⟩,
   ⟨GUY_STATUS_ACTIVE, 1, .plain, .ro, 0⟩,
   ⟨GUY_STATUS_MAJOR, 1, .plain, .ro, 0⟩,
   ⟨GUY_STATUS_FAIL_CAUSE, 1, .plain, .ro, 0⟩,
   ⟨GUY_STATUS_SB_PRESENT, 1, .plain, .ro, 0⟩,
   ⟨GUY_STATUS_PEER_SB_MODE, 1, .plain, .ro, 0⟩,
   ⟨GUY_CTL_DOWN_COUNT, 1, .shadowed, .rw, 0x10⟩,
   ⟨GUY_CTL_DOWN_WINDOW_US, 1, .shadowed, .rw, 0x3e8⟩,
   ⟨GUY_WIDTH_REQ, 1, .live, .rw, 0x10⟩,
   ⟨GUY_WIDTH_RETRAIN, 1, .plain, .wo, 0⟩,
   ⟨GUY_FEC_CORRECTED, 1, .plain, .ro, 0⟩,
   ⟨GUY_FEC_UNCORRECTED, 1, .plain, .ro, 0⟩,
   ⟨GUY_FRAMES_CRC_FAIL, 1, .plain, .ro, 0⟩,
   ⟨GUY_FRAMES_REPLAYED, 1, .plain, .ro, 0⟩,
   ⟨GUY_PEER_SERIAL, 1, .plain, .ro, 0⟩,
   ⟨GUY_EVENTS_DOWNS, 1, .plain, .ro, 0⟩,
   ⟨GUY_EVENTS_RETRAINS, 1, .plain, .ro, 0⟩]
def pgFields : List FSpec :=
  [⟨PG_CFG_ROLE, 1, .locked, .rw, 0⟩,
   ⟨PG_CFG_SPLIT, 1, .locked, .rw, 0⟩,
   ⟨PG_CFG_MAX_RATE, 1, .locked, .rw, 4⟩,
   ⟨PG_CFG_SRIS, 1, .locked, .rw, 0⟩,
   ⟨PG_CFG_CXL, 1, .locked, .rw, 0⟩,
   ⟨PG_PORT_STATUS_UP, 4, .plain, .ro, 0⟩,
   ⟨PG_PORT_STATUS_RATE, 4, .plain, .ro, 0⟩,
   ⟨PG_PORT_STATUS_WIDTH, 4, .plain, .ro, 0⟩,
   ⟨PG_PORT_STATUS_FLIT, 4, .plain, .ro, 0⟩,
   ⟨PG_PORT_STATUS_CXLMEM, 4, .plain, .ro, 0⟩,
   ⟨PG_PORT_STATUS_CONTAINED, 4, .plain, .ro, 0⟩,
   ⟨PG_PORT_STATUS_PRESENT, 4, .plain, .ro, 0⟩,
   ⟨PG_PORT_CTL_CTO_10US, 4, .shadowed, .rw, 0x3e8⟩,
   ⟨PG_PORT_CTL_DPC_EN, 4, .shadowed, .rw, 1⟩,
   ⟨PG_PORT_CTL_RELEASE_DPC, 4, .plain, .wo, 0⟩,
   ⟨PG_PORT_CTL_LINK_DISABLE, 4, .live, .rw, 0⟩,
   ⟨PG_PORT_CTL_RETRAIN, 4, .plain, .wo, 0⟩,
   ⟨PG_MSIWIN_V, 1, .live, .rw, 0⟩,
   ⟨PG_MSIWIN_BASE, 1, .live, .rw, 0⟩,
   ⟨PG_BIND_RID, 32, .live, .rw, 0⟩,
   ⟨PG_BIND_RID_MASK, 32, .live, .rw, 0⟩,
   ⟨PG_BIND_RSET, 32, .live, .rw, 0⟩,
   ⟨PG_BIND_V, 32, .live, .rw, 0⟩,
   ⟨PG_BIND_IRQ_OK, 32, .live, .rw, 0⟩,
   ⟨PG_BIND_PORT, 32, .live, .rw, 0⟩,
   ⟨PG_SHELF_PITCH_SHELF, 1, .live, .rw, 0⟩,
   ⟨PG_SHELF_PITCH_FORMAT, 1, .live, .rw, 0⟩,
   ⟨PG_SHELF_PITCH_GO, 1, .plain, .wo, 0⟩,
   ⟨PG_SHELF_PITCH_BUSY, 1, .plain, .ro, 0⟩,
   ⟨PG_SHELF_PITCH_RESULT, 1, .plain, .ro, 0⟩,
   ⟨PG_LINKERR_CORRECTABLE, 1, .plain, .ro, 0⟩,
   ⟨PG_LINKERR_CONTAINMENTS, 1, .plain, .ro, 0⟩]
def epFields : List FSpec :=
  [⟨EP_LD_V, 64, .live, .rw, 0⟩,
   ⟨EP_LD_MGR, 64, .live, .rw, 0⟩,
   ⟨EP_LD_STANDBY, 64, .live, .rw, 0⟩,
   ⟨EP_LD_PEER_TENANT, 64, .live, .rw, 0⟩,
   ⟨EP_LD_TENANT, 64, .plain, .ro, 0⟩,
   ⟨EP_LD_BOUND, 64, .plain, .ro, 0⟩,
   ⟨EP_LD_STATE, 64, .plain, .ro, 0⟩,
   ⟨EP_LD_FORCE_RELEASE, 64, .plain, .wo, 0⟩,
   ⟨EP_LTR_CTL_BUSY_DEPTH, 1, .shadowed, .rw, 0x40⟩,
   ⟨EP_LTR_CTL_MIN_INTERVAL_US, 1, .shadowed, .rw, 0x64⟩,
   ⟨EP_LTR_VAL_BUSY, 1, .shadowed, .rw, 0x880a⟩,
   ⟨EP_LTR_VAL_IDLE, 1, .shadowed, .rw, 0x8c1f⟩,
   ⟨EP_LTR_VAL_WAKE, 1, .shadowed, .rw, 0x9478⟩,
   ⟨EP_RESETS_FUNDAMENTAL, 1, .plain, .ro, 0⟩,
   ⟨EP_RESETS_HOT, 1, .plain, .ro, 0⟩,
   ⟨EP_RESETS_FLR, 1, .plain, .ro, 0⟩,
   ⟨EP_RESETS_SURPRISE, 1, .plain, .ro, 0⟩,
   ⟨EP_DROPS_REFUSED_MEM, 1, .plain, .ro, 0⟩,
   ⟨EP_DROPS_NOTIFY_DROPPED, 1, .plain, .ro, 0⟩]

/-- The fields of a block's own registers, from offset 0x100 of its page. -/
def fieldsOf : Block → List FSpec
  | .pkg => pkgFields
  | .clk => clkFields
  | .mgmt => mgmtFields
  | .tap => tapFields
  | .lant => lantFields
  | .pmu => pmuFields
  | .core => coreFields
  | .l3 => l3Fields
  | .fab => fabFields
  | .hyl => hylFields
  | .home => homeFields
  | .msc => mscFields
  | .ddr => ddrFields
  | .rake => rakeFields
  | .tier => tierFields
  | .codec => codecFields
  | .bulk => bulkFields
  | .ten => tenFields
  | .ciph => ciphFields
  | .seed => seedFields
  | .guy => guyFields
  | .pg => pgFields
  | .ep => epFields

end Sys2Proof.Machine
end

