-- ==== Sys2Proof/Config.lean ====
section
/-! DEFINITION. What an implementation fixes and what the spec leaves open. The free values are opaque: nothing can
evaluate them, and a statement about one holds for every value. -/
namespace Sys2Proof.Config

/-- A value the spec leaves undefined, fresh at each use: the argument is the free-value counter of the state (log 3). -/
opaque freeWord : Nat → Word

/-- A line of data the spec leaves undefined. -/
opaque freeLine : Nat → Line

/-- Registers of the partner's view that no STATUS frame has brought yet, by their offset in the control region (R66, log 86). -/
opaque unseen : Nat → Word

/-- How a DDR controller maps a channel address to a rank: internal to it (R217). -/
opaque rankOf : Nat → Nat → Nat

/-- The keys blown into the fuses: slot 0 FWKEY and slot 1 DEVKEK (R308). -/
opaque fuseKey : Nat → List Byte

/-- The input bytes of each block of a stream the stream unit makes in a format at a level (R294, R295 bound them; log 27). -/
opaque blockCuts : Nat → Nat → List Nat → List Nat

/-- One block of a Deflate stream the stream unit makes at a level, as bits from BTYPE on, least significant first: the input before it,
its own input, and its type, 1 fixed and 2 dynamic Huffman. R294 leaves the choice of matches open. -/
opaque huffBits : Nat → List Nat → List Nat → Nat → List Bool

/-- The content of a Compressed block of a Zstandard frame the stream unit makes at a level: the input before it and its own. R295 leaves
it open. -/
opaque zstdContent : Nat → List Nat → List Nat → List Nat

/-- How far a message on a pipe has got when an urgent one comes: the free-value counter, and the queue and SEQ of its descriptor. The spec
gives no rate (R323, R324). -/
opaque progress : Nat → Nat → Nat → Nat

/-- The UUID of the refusal record (R459, R461). -/
opaque refusalUuid : List Byte

/-- The set of the L2 directory of its slice that a line's entry lies in: R179 gives the ways and not the index. -/
opaque dirSet : Nat → Nat

end Sys2Proof.Config
end

