-- ==== Sys2Proof/Machine/State.lean ====
section
/-! DEFINITION. The state of the package as plain data, the reset state, the reasons a step can stop, and the working
machine a command's effect is computed on. -/
namespace Sys2Proof.Machine

/-- Byte-addressed storage: addresses rising, no entry equal to 0, which is what an unlisted address reads as (log 1). -/
abbrev Memory := List Host.Cell

/-- The canonical form of the memory. -/
def Memory.wf (m : Memory) : Bool := Tbl.wf m (0 : Byte)

/-- The values fixed in each package at manufacture (R15, R17, R92, R309); no command changes them. -/
structure Fuses where
  code : Nat
  iodRev : Nat
  coresPerDie : Nat
  tdpNom : Nat
  tdpMin : Nat
  tdpMax : Nat
  serial : Nat
  deriving DecidableEq, Repr

/-- The pins the chapters on modes and electrical behaviour name (R526, R73, R405). The two fence fields are true while
their line, which idles high, is held low after a token. -/
structure Pins where
  standby : Bool
  pwrgood : Bool
  pkgResetN : Bool
  alertN : Bool
  fatalN : Bool
  thermtripN : Bool
  pairFenceOut : Bool
  pairFenceIn : Bool
  deriving DecidableEq, Repr

/-- RUNSTATE of R101. -/
inductive RunState where
  | parked | running | waiting | stopped
  deriving DecidableEq, Repr

/-- One store of the store buffer (R118): at most 8 bytes, already translated. -/
structure SbEntry where
  spa : Nat
  /-- Bytes, 1 to 8, within one line. -/
  n : Nat
  data : Word
  mtype : Nat
  pl : Nat
  deriving DecidableEq, Repr

/-- A device store waiting for its acknowledgement (R120). -/
structure DevTrk where
  spa : Nat
  lg : Nat
  pl : Nat
  deriving DecidableEq, Repr

/-- The first failed Device-NE store kept for DEVWRITE, and how many failed after it (R128). -/
structure DevFail where
  spa : Nat
  sub : Nat
  lg : Nat
  pl : Nat
  more : Nat
  deriving DecidableEq, Repr


/-- An entry of a core's translation caches (R147): address space, page range and what the walk found. -/
structure TlbEntry where
  tag : Nat
  /-- First segment offset and size of the mapping. -/
  vbase : Nat
  span : Nat
  sbase : Nat
  /-- R, W, X, U of the leaf in bits 0 to 3. -/
  perm : Nat
  mtype : Nat
  deriving DecidableEq, Repr

/-- A table entry in a core's walk cache (R147): address-space tag, granule and level, the segment offsets it covers, and the
entry as it was read. -/
structure WalkEnt where
  tag : Nat
  gran : Nat
  lvl : Nat
  vbase : Nat
  span : Nat
  word : Nat
  deriving DecidableEq, Repr

/-- What a fault reports: class, sub-cause and INFO (R127). -/
structure Flt where
  cls : Nat
  sub : Nat
  info : Nat
  deriving DecidableEq, Repr

/-- An access of a core that waits for a line, of its data or of a table its walk reads (R138, R182): run again when the line
arrives. Cache maintenance is 0 CLN.L, 1 INV.L, 2 CLNINV.L on the address in a register. -/
inductive Access where
  | load (rd lg va : Nat) (kind : LoadKind) (ilen : Nat) (acq : Bool)
  | store (rs lg va : Nat) (ilen : Nat) (rel : Bool)
  | cmo (op a : Nat)
  | tlbiVa (a : Nat)
  | drain
  deriving DecidableEq, Repr

/-- How far an instruction that has been issued and not retired is: it waits for a line, with the lines its data lie in once it is
translated; it is performed and its value waits for older loads; it met a fault, to be taken once it is the oldest; or it was
dropped while speculative, or is held, until it is the oldest (R111, R198). -/
inductive FlightSt where
  | waiting (lines : List Nat)
  | done (v : Nat)
  | faulted (f : Flt) (addr : Nat)
  | dropped
  deriving DecidableEq, Repr

structure Flight where
  acc : Access
  st : FlightSt
  deriving DecidableEq, Repr

/-- A DURSYNC under way (R123, R387): the homes that have not answered, the destination register, and whether the core waits at
the instruction: an exception leaves it, and executing it again returns to it. -/
structure SyncSt where
  homes : List Nat
  rd : Nat
  here : Bool
  deriving DecidableEq, Repr

/-- Instruction tagging (R518, R519): level and tenant of the tagged instruction in flight, whether an interval waits for
its record, the number of the next sample, and the current interval. -/
structure TagSt where
  flight : Option (Nat × Nat)
  wait : Bool
  seq : Nat
  interval : Nat
  deriving DecidableEq, Repr

/-- A core (R96–R129): run state, privilege, pc, general registers, the system registers by their SREG number, the store
buffer, the device-write tracker and the durability state of R386–R387. -/
structure CoreSt where
  run : RunState
  pl : Nat
  ie : Bool
  pc : Word
  g : Tbl Word
  sr : Tbl Word
  sb : List SbEntry
  trk : List DevTrk
  dfail : Option DevFail
  /-- The durable write list, oldest first, as line numbers (R385). -/
  dwl : List Nat
  /-- Lines whose DurWb waits for its Cmp (R386). -/
  dwPend : List Nat
  /-- DurWbs sent to each home since the last DurSync to it (R387). -/
  dwCount : Tbl Nat
  sync : Option SyncSt
  /-- First durable line lost before acceptance since the last DURSYNC (R123, R386). -/
  lost : Option Nat
  /-- Lines whose Flush is not yet complete (R117, R124, R196). -/
  maint : List Nat
  tlb : List TlbEntry
  /-- The segment descriptor cache: words 0 and 1 by segment number, a further copy of a segment's 256 on (R132, R145, R147). -/
  segc : Tbl (Nat × Nat)
  /-- The walk cache: table entries of levels 0 to 2 (R147). -/
  walkc : List WalkEnt
  /-- Instructions issued and not retired, oldest first (R111, R114, R127, R198). -/
  flight : List Flight
  tag : TagSt
  deriving DecidableEq, Repr

/-- A device access on its way (R109–R111): a load, a store or a response; the core, address, size, data, destination
register of a load, whether a store is to be acknowledged by its completer, and the error a response carries (1
NO_RESPONSE, 2 ERROR_RESPONSE). -/
structure DevMsg where
  /-- 0 DevRd, 1 DevWr, 2 DevRsp. -/
  k : Nat
  cid : Nat
  spa : Nat
  lg : Nat
  data : Nat
  rd : Option Nat
  /-- Instruction length, by which a load's completion advances the pc. -/
  ilen : Nat
  ne : Bool
  err : Nat
  pl : Nat
  /-- The root port it has reached. -/
  port : Option Nat
  deriving DecidableEq, Repr

/-- A TLBI broadcast (R148, R149): its number, the issuing core, 0 VA, 1 TAG, 2 ALL, the tag, the segment offset, the dies
asked that have not handled it and those whose acknowledgement has not arrived, and whether the core waits at the instruction. -/
structure Tlbi where
  id : Nat
  cid : Nat
  op : Nat
  tag : Nat
  off : Nat
  asked : List Nat
  acks : List Nat
  here : Bool
  deriving DecidableEq, Repr

/-- One 32-byte event record (R500). -/
structure EventRec where
  typ : Nat
  cls : Nat
  sev : Nat
  phase : Bool
  coalesced : Bool
  replayed : Bool
  injected : Bool
  cause : Nat
  seq : Nat
  time : Nat
  source : Nat
  tenant : Option Nat
  count : Nat
  detail : Nat
  addr : Nat
  deriving DecidableEq, Repr

/-- One of the hub's 64 coalescing entries (R506). -/
structure CoalEntry where
  source : Nat
  typ : Nat
  cause : Nat
  count : Nat
  addr : Nat
  detail : Nat
  tenant : Option Nat
  sev : Nat
  /-- An occurrence has been delivered as itself in this window. -/
  sent : Bool
  deriving DecidableEq, Repr

/-- A tenant's Lantern ring (R503, R510). -/
structure TenantRing where
  en : Bool
  base : Nat
  index : Nat
  phase : Bool
  drops : Nat
  deriving DecidableEq, Repr

/-- An answer of the sideband (R504): queued records, the values of PKG.MODE, STRUCK_MASK, PAIR_STATE, RESET_CAUSE and
STORE_STAT, or slots of the incident store. -/
inductive SbAnswer where
  | none
  | events (recs : List EventRec)
  | status (regs : List Nat)
  | slots (bytes : List (List Byte))
  deriving DecidableEq, Repr

/-- The Lantern hub beyond its registers (R502–R508). -/
structure LantSt where
  coal : List CoalEntry
  /-- (class, sideband) of what was dropped in the current window. -/
  dropped : List (Nat × Bool)
  sbq : List EventRec
  store : Tbl EventRec
  ringStopped : Bool
  /-- A Fatal error has been escalated since BRINGUP last ended. -/
  incident : Bool
  /-- Fatal handling runs (R495). -/
  handling : Bool
  /-- Slots of bank CUR the ring has taken of a replay (R508). -/
  replayed : Nat
  trings : Tbl TenantRing
  /-- What the sideband last answered (R504). -/
  answer : SbAnswer
  /-- The ring has been enabled while UNREPLAYED was 1, and takes bank CUR (R508). -/
  replaying : Bool
  deriving DecidableEq, Repr


/-- Under which key and data unit a stored line was encrypted (R227, R310): the key's bytes and the tweak. -/
structure Seal where
  key : List Byte
  tweak : Nat
  deriving DecidableEq, Repr

/-- What a line of DRAM holds beside its data: poison written under R221, the errors its cells have taken, as
(codeword position, symbol), and its encryption. An unlisted line holds the raw all-zero codeword of R228. -/
structure LineMeta where
  poison : Bool
  err : List (Nat × Nat)
  enc : Option Seal
  deriving DecidableEq, Repr

/-- What a read of a line returns to the home (R220). -/
inductive ReadRes where
  | ok (d : Line)
  | poison
  | unreadable
  deriving DecidableEq, Repr

/-- A line returned by a DDR controller and not yet taken by the home (R227). -/
structure MemResp where
  spa : Nat
  lda : Nat
  res : ReadRes
  deriving DecidableEq, Repr


/-- A key slot (R327, R331–R334). -/
structure Slot where
  /-- 0 Empty, 1 Active, 2 Retiring, 3 Exhausted, 4 Fused. -/
  state : Nat
  alg : Nat
  usage : Nat
  owner : Nat
  pkgOwned : Bool
  gen : Nat
  use : Nat
  limit : Nat
  ivctr : Nat
  fixed : Nat
  key : List Byte
  deriving DecidableEq, Repr

/-- A tag entry of a shelf (R316) with what its GCM invocation covered (R313): slot and counter, the key at the time, the
label identity, the page, the unit index, CMP and PLOTS. -/
structure TagEntry where
  /-- TAG as the entry's 16 bytes. -/
  tag : Nat
  slot : Nat
  counter : Nat
  key : List Byte
  ident : Nat
  spa : Nat
  unit : Nat
  cmp : Bool
  plots : Nat
  deriving DecidableEq, Repr


/-- States of a line in a compute die: stable (R181) and transient (R182). -/
inductive LSt where
  | i | s | e | o | m
  | isd | imd | smd | mia | oia | eia | sia
  deriving DecidableEq, Repr

/-- Messages of the protocols and of the device and translation traffic (R186, R476). -/
inductive MsgK where
  | rdShared | rdOwn | upgrade | flushCln | flushInv | flushClnInv | evict | wbDirty | wbKeep
  | rdCur | wrLine | wrPart | durWb | durSync
  | snpFwdShared | snpFwdOwn | snpShared | snpOwn | snpInv | snpInvData | snpCur | snpClean
  | data | grant | dataCur | snpData | snpNone | invAck | wbAck | cmpAck | cmp | refuse
  | tlbiReq | tlbiAck
  deriving DecidableEq, Repr

/-- A message in flight. `src`, `dst` and `ackTo` are agents (`Machine.agentDie` and its fellows number them); the other
fields are used by the kinds that carry them. -/
structure Msg where
  k : MsgK
  src : Nat
  dst : Nat
  line : Nat
  ackTo : Nat := 0
  data : Line := 0
  poison : Bool := false
  /-- The grant state of Data. -/
  st : LSt := .i
  /-- INVCOUNT, or a cause, or the size of a device access. -/
  n : Nat := 0
  /-- SPEC of a request, STALE of WbAck, the wake flag of Refuse. -/
  flag : Bool := false
  /-- Byte mask of WrPart, tag of a broadcast, 1 + CID of a Flush; DUR and, from bit 1 up, TENANT of Data and Grant. -/
  aux : Nat := 0
  deriving DecidableEq, Repr

/-- A line as a compute die holds it: state, contents, what a pending request still needs (R191), the snoops it queues
(R190), the accesses that wait, where in the die copies lie (L2 caches by core, which is the directory entry of R179, and L3
way), and which cores have written a durable line since they last sent a DurWb (R386). -/
structure DieLine where
  st : LSt
  data : Line
  poison : Bool
  /-- DUR of the page as the Data or Grant carried it (R385). -/
  dur : Bool
  got : Bool
  granted : LSt
  need : Nat
  acks : Nat
  snq : List Msg
  wait : List (Nat × Access)
  l2 : List Nat
  l3 : Option Nat
  writers : List Nat
  /-- Bytes stored since the line arrived poisoned, bit i for byte i (R119). -/
  merged : Nat := 0
  /-- The L1 caches that hold the line: core, whether its L1I, and virtual bit 12 of the set (R158, R162). -/
  l1 : List (Nat × Bool × Nat) := []
  /-- Cores whose L2 has a prefetch of the line outstanding, and whether its L3 slice has (R167). -/
  pf : List Nat := []
  pf3 : Bool := false
  /-- TENANT of the page as Data or Grant carried it (R473). -/
  tenant : Nat := 0
  deriving DecidableEq, Repr

/-- States of a snoop filter entry (R183). -/
inductive FSt where
  | i | s | o | x
  deriving DecidableEq, Repr

/-- A snoop filter entry (R183), with the time of its last use for the choice of R184. -/
structure FEnt where
  st : FSt
  owner : Nat
  pres : List Nat
  tenant : Nat
  used : Nat
  deriving DecidableEq, Repr

/-- A line of the memory-side cache (R165, R548). -/
structure MscLine where
  data : Line
  dirty : Bool
  poison : Bool
  tenant : Nat
  deriving DecidableEq, Repr

/-- A request as a home takes it. -/
structure HReq where
  k : MsgK
  src : Nat
  line : Nat
  data : Line := 0
  mask : Nat := 0
  poison : Bool := false
  spec : Bool := false
  prefetch : Bool := false
  /-- The CID of a DurWb or DurSync. -/
  cid : Nat := 0
  /-- Ordered before its tenant was attached (R201). -/
  pre : Bool := false
  deriving DecidableEq, Repr

/-- A transaction a home has open: the request, the dies whose InvAck and whose answer with the line are awaited, the data
returned, and whether it waits for CmpAck (H1, R193) or for the home's copy of the line. -/
structure HTx where
  req : HReq
  acks : List Nat
  want : Option Nat
  data : Option (Line × Bool)
  cmpAck : Bool
  /-- The home's copy: 0 not needed or here, 1 read from a frame (R227), 2 waits for the tier engine, 3 read from a shelf, 4 cannot
  be read; 5 the line written waits for the tier engine (R196). -/
  fill : Nat
  /-- The grant state the answer will carry. -/
  grant : LSt
  inv : Nat
  /-- The sharers are invalidated once the home's copy is in, so that a refusal invalidates none (R188, R197). -/
  defer : Bool
  deriving DecidableEq, Repr


/-- A move of a page between tiers: one record of the move log (R270) and what the engine holds for it. -/
structure Move where
  page : Nat
  promote : Bool
  srcTier : Nat
  srcLoc : Nat
  srcPlots : Nat
  srcCmp : Bool
  dstTier : Nat
  dstLoc : Nat
  dstPlots : Nat
  dstCmp : Bool
  /-- DONE: lines written to the destination, bit i for line i. -/
  done : Nat
  /-- 0 free, 1 copying, 2 entry switched. -/
  phase : Nat
  /-- Units of a Shed source read and verified, bit u for unit u. -/
  units : Nat
  /-- Shelf writes of the move not yet completed. -/
  writes : Nat
  /-- Marked for roll-back at domain-down (R272). -/
  rollBack : Bool
  /-- STATE becomes Poisoned once the roll-back or rekey is done (R210). -/
  poisonAfter : Bool
  deriving DecidableEq, Repr

/-- A shed journal record (R268): the fields of its 128 bytes, the format of the page it belongs to, and whether it has been sent to
the shelf. -/
structure JRec where
  q : Nat
  /-- The line's address; for KIND 2 that of the first unit. -/
  spa : Nat
  kind : Nat
  poison : Bool
  shelf : Nat
  /-- Slot (CMP 0) or plot (CMP 1) number; for KIND 2 the first tag entry of an aligned pair (R316). -/
  place : Nat
  /-- Offset in 64-byte units. -/
  off : Nat
  mask : Nat
  seq : Nat
  move : Option Nat
  /-- The unit the first tag written belongs to, for KIND 2. -/
  unit : Nat
  cmp : Bool
  plots : Nat
  sent : Bool
  data : Line
  deriving DecidableEq, Repr

/-- What a shelf number holds beside its registers (R260, R442): the label identity recorded at its first pitch, whether
its space maps are allocated, the state it had before Pitching, the kind of strike under way, the sleep capability read
at pitch, and the step of R261 a strike is at (0 none, 1 waits for moves, 2 promotes cached pages, 3 moves or sweeps, 4 waits for
the journal). -/
structure Shelf where
  ident : Nat
  mapped : Bool
  before : Nat
  evac : Bool
  sleepcap : Bool
  phase : Nat
  /-- Tenant whose request sent the outstanding wake request (R466). -/
  wakeBy : Nat
  deriving DecidableEq, Repr

/-- A TIER command in progress (R276): what CMD and CMD_ARG held when GO was written, and how far it is: 0 to be judged,
1 removing filter entries, 2 its move under way, 3 a promotion that waits for room (R250). -/
structure TierCmd where
  op : Nat
  page : Nat
  tenant : Nat
  dur : Bool
  pin : Bool
  sleepok : Bool
  toTier : Nat
  stage : Nat
  deriving DecidableEq, Repr

/-- The tiers' state of one quadrant beyond its registers. -/
structure TierQ where
  /-- The journal's next SEQ (R268). -/
  seq : Nat
  /-- Requests since the ageing sampler last took one (R246). -/
  sample : Nat
  /-- The cursor of the choice of pages to demote (R251), as a quadrant-local index. -/
  cursor : Nat
  /-- Pages a memory rotation deferred (R336). -/
  deferred : List Nat
  /-- Requests held at the home until the page can serve them (R243, R244, R250, R269). -/
  held : List HReq
  cmd : Option TierCmd
  /-- Pages to be set to Poisoned once a roll-back or rekey ends (R210). -/
  poisonLater : List Nat
  /-- AGE of the entries nothing has changed since cold bring-up (R246). -/
  bare : Nat
  /-- Poisoned pages whose shelf has been released, so that nothing is freed for them (R262). -/
  gone : List Nat
  /-- Pages waiting for a promotion (R250, R258, R264). -/
  want : List Nat
  /-- Pages whose encoding has failed and lies where it lay (R289). -/
  failed : List Nat
  /-- Watermark and Shed demotion run (R251). -/
  wmOn : Bool
  shedOn : Bool
  /-- Pages whose units a Shed rotation has written into the journal (R341). -/
  rekeys : List Nat
  deriving DecidableEq, Repr

/-- A read of a shelf unit that a home waits for (R249): the request that caused it. -/
structure ShelfRead where
  shelf : Nat
  page : Nat
  unit : Nat
  req : Option HReq
  move : Option Nat
  deriving DecidableEq, Repr


/-- A tenant context (R347, R349, R352): 0 Free and the other states of TSTATE, and the fields CREATE and RESIZE apply. -/
structure Tenant where
  state : Nat
  attached : Bool
  consent : Bool
  gen : Nat
  kind : Nat
  durable : Bool
  rset : Nat
  queues : Nat
  qbase : Nat
  bw : Nat
  lant : Nat
  ld : Nat
  /-- TKEY n: slot number, or none. -/
  keys : List (Option Nat)
  /-- SLOT of the TKEY n that are not bound. -/
  unbound : List Nat
  qBed : Nat
  qFrame : Nat
  qShed : Nat
  accepted : Nat
  completed : Nat
  staleCompl : Nat
  staleDesc : Nat
  deriving DecidableEq, Repr


/-- A range block (R153): BASE and TARGET in bytes. -/
structure RBlock where
  v : Bool
  r : Bool
  w : Bool
  base : Nat
  target : Nat
  unitsM1 : Nat
  deriving DecidableEq, Repr

/-- The first range fault of a set and how many there were (R156). -/
structure RFault where
  addr : Nat
  cause : Nat
  source : Nat
  count : Nat
  deriving DecidableEq, Repr


/-- What a mirror record carries (R398). -/
inductive MBody where
  | line (addr tenant : Nat) (data : Line) (poison : Bool)
  | page (addr tenant : Nat) (sleepok zero poison : Bool) (data : List Line)
  | map (addr tenant op : Nat) (sleepok : Bool)
  | accept (queue gen seq : Nat) (entry : List Byte)
  | complete (queue gen seq index : Nat) (phase : Bool) (rec : List Byte)
  | context (tenant op gen cfg : Nat) (keys : List Nat) (quotas : List Nat)
  | queue (queue st : Nat) (regs : List Nat)
  | range (set block base target size : Nat)
  | key (slot gen : Nat) (destroyed : Bool) (wrapped : List Byte)
  | sync
  deriving DecidableEq, Repr

/-- A mirror record: SEQ, RESEND, body, and the DurWb (CID and quadrant) or queue that its acknowledgement accepts. -/
structure MRec where
  seq : Nat
  resend : Bool
  body : MBody
  forDur : Option Nat
  deriving DecidableEq, Repr

/-- The pair logic: per stream the outbound records not yet acknowledged, next SEQ out, highest SEQ held, records held
and not yet applied, batches failed in a row, SYNC sent, SYNC acknowledged, SYNC received; the shadow tables of R402 (contexts, queues, range
blocks by set × 8 + block, wrapped keys); whether a takeover has been decided and its token sent; the step of a
formation or handback under way; the command that RESULT will answer (1 FORM, 2 UNPAIR, 4 HANDBACK); the last ACCEPT record of
a queue and the COMPLETE records by queue × 2^16 + log slot; which slot a key of the partner was imported from (R410); the
partner's durable region in GiB (R402); acceptances owed whose record a full ring did not keep (0 and a DurWb, or queue + 1
and SEQ) (R403, R404); tenants taken over that wait for ATTACH, with their logical device (R467); whether a status frame not
reporting FROZEN has arrived within STATUS_TIMEOUT_US (R409); and the bytes of each stream's batch sequence received in DATA
frames (R425); the last SEQ of each stream that has gone out; the batches that have gone out, with the SEQ of their last record and their
bytes (R399, R425); the SEQ the last acknowledgement sent for each stream named (R400); the last HELLO sent (R394); and the streams whose
ring keeps no new record since it overflowed (R403). -/
structure PairSt where
  out : Tbl (List MRec)
  next : Tbl Nat
  held : Tbl Nat
  inb : List (Nat × MRec)
  fails : Tbl Nat
  syncOut : List Nat
  syncAcked : List Nat
  syncIn : List Nat
  shCtx : Tbl MBody
  shQueue : Tbl MBody
  shRange : Tbl MBody
  shKey : Tbl MBody
  deciding : Bool
  step : Nat
  cmd : Nat
  shAcc : Tbl MBody
  shDone : Tbl MBody
  keyMap : Tbl Nat
  peerBase : Nat
  peerSize : Nat
  owed : List (Nat × Nat)
  attaches : List (Nat × Nat)
  alive : Bool
  rx : Tbl (List Byte)
  /-- The last COMPLETE record of a queue (R410). -/
  shLast : Tbl MBody
  sent : Tbl Nat
  wire : Tbl (List (Nat × List Byte))
  ackOut : Tbl Nat
  hello : Option Hello
  lost : List Nat
  deriving DecidableEq, Repr

/-- One end of a Hylar module (R417–R419): the next TXSEQ it expects, the last ACKSEQ it received, flits of credit it holds for
each class, consecutive replays without a new acknowledgement, consecutive failed retrains, whether its last answer is NAK,
and the last fabric flit delivered. -/
structure HylEnd where
  expect : Nat
  acked : Nat
  credits : List Nat
  runs : Nat
  fails : Nat
  nak : Bool
  last : List Byte
  deriving DecidableEq, Repr

/-- A Guyline port (R423–R430): lanes with codeword lock, bad pair headers in a row by lane, the next PSEQ in order and
the pairs received ahead of it, the next FSEQ expected, the next FSEQ to send, the last ACKSEQ received, whether NAK is
due, DATA credits held, whether a TRAIN frame has been accepted, the lanes its sender had with lock, its mode, whether a
retrain is in progress and whether it has been a retrain request of this end or a width (`ask`: 32 retrain), a granted
width and the PSEQ it starts at, and the failures counted in the window. -/
structure GuyPort where
  lanes : List Nat
  bad : Tbl Nat
  nextPair : Nat
  pairs : List Nat
  expect : Nat
  next : Nat
  acked : Nat
  nak : Bool
  credits : Nat
  trained : Bool
  peerLanes : Nat
  peerMode : Nat
  retrain : Bool
  ask : Option Nat
  grant : Option (Nat × Nat)
  window : Nat
  deriving DecidableEq, Repr


/-- A descriptor a BULK instance has fetched (R363, R365): its bytes, the GEN its records carry, its IV for IVGEN (R366) and
whether one could be taken, whether it has a queue-log entry (an entry refused under R365 has none), whether it waits for
its partner's acknowledgement, what its completion will say, the lines of its output that the homes hold, the mirror
records that must be acknowledged first (PERSIST), and the pipe its message has (R323). -/
structure Desc where
  bytes : List Byte
  gen : Nat
  seq : Nat
  iv : List Byte
  ivOk : Bool
  logged : Bool
  waitAck : Bool
  replayed : Bool
  partner : Bool
  cancelled : Bool
  untrusted : Bool
  status : Nat
  out : Nat
  info : Nat
  heldLines : List Nat
  acks : List (Nat × Nat)
  pipe : Option Nat
  suspended : Bool
  /-- The tenant it was fetched for (R351). -/
  tenant : Nat
  /-- The tag its parameter block receives when it ends (R319). -/
  tag : Option (List Byte)
  deriving DecidableEq, Repr

/-- A pool queue (R358–R362): the registers QCFG, QSQ, QCQ, QACC and QLOG, its state, positions, and the descriptors it
has: not yet started in SEQ order, started or refused, and finished ones that wait for a slot of the completion ring. -/
structure Queue where
  cfg : Nat
  sq : Nat
  cq : Nat
  acc : Nat
  log : Nat
  state : Nat
  halt : Nat
  nextSeq : Nat
  head : Nat
  tail : Nat
  cqHead : Nat
  cqTail : Nat
  phase : Bool
  count : Nat
  live : List Desc
  run : List Desc
  held : List Desc
  deriving DecidableEq, Repr

/-- What a context save slot holds of a message beside its slot number and GEN (R325): its position in bytes, its counter block or
tweak state, its GHASH or CMAC state (of a hash, its chaining value), and the bytes of AAD it has done. -/
structure SavedCtx where
  pos : Nat
  counter : Nat
  auth : Nat
  aad : Nat
  deriving DecidableEq, Repr

/-- A message on a pipe or in a context save slot (R325): the queue and SEQ of its descriptor, its key slot and slot GEN, whether it is
urgent, whether SUSPEND_MAX_US has passed (R326), its MODE, its IV, initial counter block or data unit number, its AAD, the bytes its
authentication runs over, its length, the position before which it is not suspended again (R326), and its saved context. -/
structure CMsg where
  queue : Nat
  seq : Nat
  slot : Option (Nat × Nat)
  urgent : Bool
  due : Bool
  mode : Nat
  iv : List Nat
  aad : List Nat
  text : List Nat
  len : Nat
  floor : Nat
  ctx : SavedCtx
  deriving DecidableEq, Repr

/-- An AES pipe (0 to 3) or hash engine (4, 5) of a CIPH instance: the message it runs and those suspended, oldest first. -/
structure Pipe where
  run : Option CMsg
  saved : List CMsg
  deriving DecidableEq, Repr

/-- The round-robin of a BULK instance (R368): the tenant it last served and how many descriptors that one may still start in its turn. -/
structure Arb where
  tenant : Nat
  left : Nat
  deriving DecidableEq, Repr


/-- A record of a CXL event log (R461, R467): log (0 Informational, 1 Warning), handle, and for a refusal its address, cause,
flags and shelf; the other records carry only a cause (0 in service after a takeover, 1 draining). -/
structure HostEv where
  log : Nat
  handle : Nat
  refusal : Bool
  dpa : Nat
  cause : Nat
  flags : Nat
  shelf : Nat
  deriving DecidableEq, Repr

/-- The answer to a foreign host's CXL.mem request: data of a read with its poison, or a write's completion. -/
structure HostResp where
  write : Bool
  dpa : Nat
  data : Line
  poison : Bool
  deriving DecidableEq, Repr

/-- What a mailbox command answers (R450, R452, R457): nothing yet, success with no payload, Unsupported, the capacity that is
both total and volatile, records of a log, the interrupt policy, the timestamp in ns, contents the spec does not give (a free
value), LD information (total capacity, LDs), or LD allocations in units of 256 MiB. -/
inductive MailAnswer where
  | none
  | done
  | unsupported
  | identify (capacity : Nat)
  | records (recs : List HostEv)
  | policy (v : Nat)
  | time (ns : Nat)
  | open (v : Word)
  | ldInfo (memory lds : Nat)
  | allocations (units : List Nat)
  deriving DecidableEq, Repr

/-- A logical device's function (R454–R457, R463–R468): Memory Space Enable, Bus Master Enable, the BAR dwords (6 the expansion
ROM), D3hot, MSI-X enable and function mask, the MSI-X table (address, data, masked), the PBA, the last MSI-X message and how
many were sent, LTR enable, LAST, SENT and when, the HDM decoder, the event logs, the interrupt policy, the timestamp as
set and when, the mailbox's last answer, the last CXL.mem answer, the drop counters, the release of R468,
and whether an FLR's RESET still runs; CHANGE and the held copy of the catalogue (R458, R459). -/
structure LdFn where
  mse : Bool
  bme : Bool
  bars : Tbl Nat
  d3 : Bool
  msixOn : Bool
  msixMask : Bool
  msix : Tbl (Nat × Nat × Bool)
  pba : List Nat
  lastMsg : Option (Nat × Nat)
  msgs : Nat
  ltrEn : Bool
  ltrLast : Nat
  ltrSent : Nat
  ltrAt : Option Nat
  hdm : Option (Nat × Nat)
  logs : List HostEv
  nextHandle : Nat
  policy : Nat
  stamp : Nat
  stampAt : Nat
  mail : MailAnswer
  resp : Option HostResp
  dropsN : Nat
  dropsM : Nat
  draining : Bool
  released : Bool
  flr : Bool
  change : Nat
  cat : List Byte
  deriving DecidableEq, Repr


/-- The last completion a root port has sent to a device: 0 success, 1 Unsupported Request, 2 aborted, with the data of a
read (R155, R436), whether its link retrains (R440), and for
an upstream port whether it runs as a multi-logical device and what its FM-owned LD last answered (R450). -/
structure PgPort where
  code : Nat
  data : List Byte
  retrain : Bool
  mld : Bool
  mail : MailAnswer
  deriving DecidableEq, Repr


/-- What the TAP's instruction register selects (R538). -/
inductive TapInsn where
  | idcode | samplePreload | extest | clamp | highz | ijtag | bypass
  deriving DecidableEq, Repr

/-- What the selected data register captured last: the identification word, the bypass bit, the lands (the pins the model
holds and, for the rest, a free value), or the insertion bits of the IEEE 1687 network, CD0 to CD11 and then the I/O die. -/
inductive TapData where
  | none
  | id (v : Nat)
  | bypass
  | lands (p : Pins) (rest : Word)
  | network (inserted : Nat)
  deriving DecidableEq, Repr

/-- The test access port (R538, R539): its instruction, what the last Capture-DR took, and the update stage of the boundary
register, from the cell next to TDO. -/
structure TapSt where
  insn : TapInsn
  captured : TapData
  boundary : List Bool
  deriving DecidableEq, Repr

/-- Everything the package holds but the queue, the memory and the fused values. -/
structure Dev where
  /-- Control-space registers by their offset in the control region; an unlisted one holds its reset value. -/
  regs : Tbl Word
  /-- Active copies of registers with Shadowed fields (R55). -/
  active : Tbl Word
  /-- Staged sets of commits not yet applied (R56). -/
  staged : Tbl Word
  /-- Package time in FCLK cycles, modulo 2^48 (R486). -/
  time : Nat
  /-- The model's own counter of free values used (log 3). -/
  free : Nat
  /-- Levels of the board pins; right after power-on with standby power on (log 2). -/
  pins : Pins
  /-- Cores by CID; an unlisted one is as at reset. -/
  cores : Tbl CoreSt
  /-- The Lantern hub. -/
  lant : LantSt
  /-- Poison, stored errors and encryption of lines by LDA ÷ 64. -/
  lineMeta : Tbl LineMeta
  /-- Lines returned by the DDR controllers and not yet taken by a home. -/
  memResp : List MemResp
  /-- Key slots by number; an unlisted one is Empty (R327). -/
  slots : Tbl Slot
  /-- Counter values a CIPH instance has drawn and not used, by slot × 4 + quadrant: the next and the end of the block (R315). -/
  ivBlocks : Tbl (Nat × Nat)
  /-- Tag entries of shelves by shelf × 2^40 + entry (R316). -/
  tags : Tbl TagEntry
  /-- Lines held by the compute dies, by die × 2^42 + line number; an unlisted one is in I. -/
  lines : Tbl DieLine
  /-- Messages in flight, oldest first. -/
  net : List Msg
  /-- TLBI broadcasts not yet acknowledged by every die (R149). -/
  tlbis : List Tlbi
  /-- Device accesses on their way, oldest first. -/
  devq : List DevMsg
  /-- Snoop filter entries of the four homes by line number; an unlisted one is in I (R183). -/
  filter : Tbl FEnt
  /-- Lines of the four MSC parts by line number. -/
  msc : Tbl MscLine
  /-- Open transactions of the homes, oldest first. -/
  htx : List HTx
  /-- Requests waiting behind an open transaction of their line, oldest first. -/
  hq : List HReq
  /-- Foreign tenants the homes hold as attached (R200). -/
  attached : List Nat
  /-- The way group an L3 slice is at, by die × 64 + slice, and whether it is to be powered down (R172). -/
  pruning : Tbl (Nat × Bool)
  /-- The tenant a home's sweep under way is for (R201). -/
  sweeping : Tbl Nat
  /-- DurWbs received since the last DurSync answer, by CID × 4 + quadrant (R387). -/
  durGot : Tbl Nat
  /-- How many of those have reached their acceptance point. -/
  durAcc : Tbl Nat
  /-- DurSyncs waiting for an answer: CID, quadrant and count. -/
  durWaits : List (Nat × Nat × Nat)
  /-- Page map entries by page number; an unlisted one is 0x0000_0000_0000_000C (R240). -/
  pmap : Tbl Word
  /-- Pages whose map entry cannot be read (R238, R275). -/
  mapBad : List Nat
  /-- Map-cache lines the map cache holds dirty, by LDA ÷ 64 (R241). -/
  mapDirty : List Nat
  /-- Frames of the pools by LDA ÷ 4096: 256 a Bed frame, 1 to 255 the plots in use of a plot frame. -/
  frames : Tbl Nat
  /-- Move slots in use, by quadrant × 64 + slot. -/
  moves : Tbl Move
  /-- The shed journals, in SEQ order. -/
  journal : List JRec
  /-- Shelf space maps by shelf × 2^32 + slot (R255). -/
  smap : Tbl Nat
  /-- The shelf table beyond SHELF_CFG and SHELF_STAT. -/
  shelves : Tbl Shelf
  /-- Per-quadrant tier engine state. -/
  tierq : Tbl TierQ
  /-- Shelf units being read. -/
  shelfReads : List ShelfRead
  /-- MSC quotas by quadrant × 2048 + tenant; an unlisted one is 0x4_0000 (R175). -/
  mscQuota : Tbl Nat
  /-- Tenant contexts by number; an unlisted one is Free. -/
  tenants : Tbl Tenant
  /-- GEN of the contexts that are not listed: the warm resets since the last cold one (R350). -/
  tenGen : Nat
  /-- The pair logic beyond its registers (R389–R414). -/
  pair : PairSt
  /-- Master copies of the range blocks by set × 8 + block (R151); an unlisted one is all zero. -/
  rblocks : Tbl RBlock
  /-- Contents a changed block had when the range caches last took it up (R157). -/
  rstale : Tbl RBlock
  /-- Fault records of the range sets (R156). -/
  rfaults : Tbl RFault
  /-- Range sets whose invalidation is in progress, once for each RANGE_INV that is not done (R157). -/
  rinv : List Nat
  /-- Pages (offset of the page) that hold an error without a mask bit since FIRST was clear (R47). -/
  err64 : List Nat
  /-- Why the package last entered FROZEN: 1 Fatal error, 2 fence lost, 3 REFCLK loss (R88). -/
  frozenCause : Nat
  /-- Pool queues by number; an unlisted one is Off with its reset values (R359). -/
  queues : Tbl Queue
  /-- Pipes and hash engines by quadrant × 8 + number. -/
  pipes : Tbl Pipe
  /-- The round-robin of each BULK instance (R368). -/
  arb : Tbl Arb
  /-- The pool queue a BULK instance last served of a tenant, by quadrant × 2048 + tenant (R368). -/
  turns : Tbl Nat
  /-- Functions of the logical devices by port group × 64 + n. -/
  lds : Tbl LdFn
  /-- Tenants taken over from the partner and not handed back (R410, R412). -/
  taken : List Nat
  /-- The tenant command in progress: OP and tenant (R352, R353). -/
  tenCmd : Option (Nat × Nat)
  /-- Link ends of the Hylar modules by 2 × die + end (0 the I/O die's, 1 the compute die's). -/
  hylEnds : Tbl HylEnd
  /-- The two Guyline ports beyond their registers. -/
  guys : Tbl GuyPort
  /-- The last sideband beacon sent: SERIAL and mode (R432). -/
  beacon : Option (Nat × Nat)
  /-- Port-group ports by port number, beyond their registers. -/
  pgDevs : Tbl PgPort
  /-- Pitches in progress by shelf (R444): FORMAT, and the port group whose mailbox shows it. -/
  pitch : Tbl (Bool × Nat)
  /-- Shelves that a warm reset left Lost and that are pitched when their port trains (R447). -/
  repitch : List Nat
  /-- SERIAL of the last sideband beacon received, by Guyline port (R432). -/
  sbSerial : Tbl Nat
  /-- Package time when the partner's copy was last refreshed; none where it never was or AGE has saturated (R68). -/
  statusAt : Option Nat
  /-- (Hylar bridge, destination) of the ANY flits a bridge has last sent on route A, the next one taking route B (R480). -/
  fabAlt : List (Nat × Nat)
  /-- Trace records by FAB page (die × 4 + instance) × 2048 + index (R486). -/
  trace : Tbl (List Byte)
  /-- Thermal caps by compute die (R534). -/
  tcap : Tbl Nat
  /-- Power caps by CID (R534). -/
  pcap : Tbl Nat
  /-- The test access port. -/
  tap : TapSt
  /-- Consumed life below 1/16 h, in equivalent seconds ÷ 2^48 (R544, log 36). -/
  lifeFrac : Nat
  /-- LIFE_USED as SPI flash holds it (R544). -/
  lifeSaved : Nat
  /-- Rails out of range (R531). -/
  railsLost : List Rail
  /-- The operation DIE_STATE.BUSY shows for a die: 1 strike, 2 park, 3 pitch, 4 restart (R80, R81). -/
  dieOp : Tbl Nat
  /-- The step of R91 the management controller is at; 0 outside BRINGUP. -/
  bring : Nat
  /-- The management controller runs from PCLK (R22). -/
  onPclk : Bool
  /-- The configuration record: registers the management controller writes, by their offset in the control region (R91). -/
  config : List (BitVec 28 × Word)
  deriving DecidableEq, Repr

/-- The package right after the power-on reset (AUX): every register at its reset value (log 2). -/
def Dev.reset : Dev where
  regs := []
  active := []
  staged := []
  time := 0
  free := 0
  pins := ⟨true, false, false, true, true, true, false, false⟩
  cores := []
  lant := ⟨[], [], [], [], false, false, false, 0, [], .none, false⟩
  lineMeta := []
  memResp := []
  slots := []
  ivBlocks := []
  tags := []
  lines := []
  net := []
  tlbis := []
  devq := []
  filter := []
  msc := []
  htx := []
  hq := []
  attached := []
  pruning := []
  sweeping := []
  durGot := []
  durAcc := []
  durWaits := []
  pmap := []
  mapBad := []
  mapDirty := []
  frames := []
  moves := []
  journal := []
  smap := []
  shelves := []
  tierq := []
  shelfReads := []
  mscQuota := []
  tenants := []
  tenGen := 0
  pair := ⟨[], [], [], [], [], [], [], [], [], [], [], [], false, 0, 0, [], [], [], 0, 0, [], [], false, [], [], [], [], [], none, []⟩
  rblocks := []
  rstale := []
  rfaults := []
  rinv := []
  err64 := []
  frozenCause := 0
  queues := []
  pipes := []
  arb := []
  turns := []
  lds := []
  taken := []
  tenCmd := none
  hylEnds := []
  guys := []
  beacon := none
  pgDevs := []
  pitch := []
  repitch := []
  sbSerial := []
  statusAt := none
  fabAlt := []
  trace := []
  tcap := []
  pcap := []
  tap := ⟨.idcode, .none, []⟩
  lifeFrac := 0
  lifeSaved := 0
  railsLost := []
  dieOp := []
  bring := 0
  onPclk := false
  config := []

/-- A stop that is a fault: none is raised, since every access has an effect in the spec (log 5). -/
inductive Fault where
  /-- Raised by no command: kept so that the interface has a fault type. Safe. -/
  | unused
  deriving DecidableEq, Repr

/-- Why a command is refused. -/
inductive Refusal where
  /-- The command has no meaning in the model yet; raised by the dispatch only. Safe. -/
  | notModelled (mnemonic : String)
  deriving DecidableEq, Repr

/-- The state: the waiting commands, the fused values, the storage behind the DDR channels and shelves, and the rest. -/
structure State where
  /-- Commands waiting, first in, first out. -/
  pending : List Instr
  fuses : Fuses
  mem : Memory
  dev : Dev
  deriving DecidableEq, Repr

/-- The fused values of an SKC9240-A (log 4). -/
def Fuses.reset : Fuses := ⟨0, 2, 20, 600, 450, 700, 1⟩

/-- The machine right after power-on. -/
def State.reset : State := ⟨[], Fuses.reset, [], Dev.reset⟩

end Sys2Proof.Machine
end

