-- ==== Sys2Proof/Machine/Ops.lean ====
section
/-! DEFINITION. The named operations over the state: control-space registers and their fields, bytes of storage, the
errors and events a command raises, and how a command's effect becomes the next state. -/
namespace Sys2Proof.Machine

abbrev Out := Host.Outcome State Fault Refusal

/-! ### Memory -/

/-- One byte of storage; an address nothing has written reads as 0 (log 1). -/
def Memory.get (m : Memory) (a : Nat) : Byte := Tbl.getD m a 0

/-- Store one byte, keeping the canonical form. -/
def Memory.put (m : Memory) (a : Nat) (b : Byte) : Memory := Tbl.put m a b 0

/-- Store bytes, the last of the list first: the list is in the order newest first. -/
def Memory.commit (m : Memory) : List Host.Cell → Memory
  | [] => m
  | (a, b) :: r => (Memory.commit m r).put a b

/-- How many lines n bytes from an address up lie in. -/
def linesIn (a n : Nat) : Nat := if n = 0 then 0 else (a + n + 63) / 64 - a / 64

/-! ### The machine a command works on -/

/-- An error a block detects (R488–R493): page, cause, severity (0 Corrected, 1 Deferred, 2 Contained, 3 Fatal),
address where there is one, INFO, tenant, and whether it was injected. -/
structure ErrRec where
  die : Nat
  blk : Block
  inst : Nat
  cause : Nat
  sev : Nat
  addr : Option Nat
  info : Nat
  tenant : Option Nat
  injected : Bool
  deriving DecidableEq, Repr

/-- An event that is no error (R501): type, class, page, tenant, DETAIL and ADDR. -/
structure EvRec where
  typ : Nat
  cls : Nat
  die : Nat
  blk : Block
  inst : Nat
  tenant : Option Nat
  detail : Nat
  addr : Nat
  deriving DecidableEq, Repr

/-- The working machine: the package, its storage as it was before the command, the bytes the command has written so
far (newest first), and the errors and events it has raised so far (newest first). -/
structure Mach extends Dev where
  fuses : Fuses
  base : Memory
  wr : List Host.Cell
  errs : List ErrRec
  evs : List EvRec
  /-- A Fatal error detected while the Fatal handling of this command's own error runs (R495). -/
  second : Option ErrRec
  /-- What FROZEN will give as its cause if this command's errors bring it about: 1 Fatal error, 3 REFCLK loss (R88). -/
  fcause : Nat
  /-- A BULK instance writes a queue log: no LINE record is sent for it (R398). -/
  quiet : Bool
  /-- A line whose home has just refused it, with what a data access reports of that, while the accesses that wait for it run
  again (R141, R197). -/
  refused : Option (Nat × Flt)
  deriving DecidableEq

namespace Mach

/-- One byte of storage as the command sees it: its own writes first. -/
def byte (m : Mach) (a : Nat) : Byte :=
  match m.wr.find? (fun c => c.1 == a) with
  | some c => c.2
  | none => m.base.get a

def setByte (m : Mach) (a : Nat) (b : Byte) : Mach := { m with wr := (a, b) :: m.wr }

/-- n bytes from an address up. -/
def bytes (m : Mach) (a : Nat) : Nat → List Byte
  | 0 => []
  | n + 1 => m.byte a :: bytes m (a + 1) n

def setBytes (m : Mach) (a : Nat) : List Byte → Mach
  | [] => m
  | b :: bs => (m.setByte a b).setBytes (a + 1) bs

/-- A free value of the model: the next use of the counter (log 3). -/
def fresh (m : Mach) : Mach × Word := ({ m with free := m.free + 1 }, Config.freeWord m.free)

end Mach

/-! ### Control space -/

/-- The type code of a block (R64). -/
def blockCode : Block → Nat
  | .pkg => 0x00 | .clk => 0x01 | .mgmt => 0x02 | .tap => 0x03 | .lant => 0x04 | .pmu => 0x05
  | .core => 0x08 | .l3 => 0x09 | .fab => 0x0A | .hyl => 0x0B
  | .home => 0x10 | .msc => 0x11 | .ddr => 0x12 | .rake => 0x13 | .tier => 0x14 | .codec => 0x15
  | .bulk => 0x16 | .ten => 0x17 | .ciph => 0x18 | .seed => 0x19 | .guy => 0x1A | .pg => 0x1B | .ep => 0x1C

/-- The block with a type code; codes not listed are reserved (R64). -/
def blockOfCode : Nat → Option Block
  | 0x00 => some .pkg | 0x01 => some .clk | 0x02 => some .mgmt | 0x03 => some .tap | 0x04 => some .lant
  | 0x05 => some .pmu | 0x08 => some .core | 0x09 => some .l3 | 0x0A => some .fab | 0x0B => some .hyl
  | 0x10 => some .home | 0x11 => some .msc | 0x12 => some .ddr | 0x13 => some .rake | 0x14 => some .tier
  | 0x15 => some .codec | 0x16 => some .bulk | 0x17 => some .ten | 0x18 => some .ciph | 0x19 => some .seed
  | 0x1A => some .guy | 0x1B => some .pg | 0x1C => some .ep
  | _ => none

/-- Offset of a page in the control region (R35). -/
def pageOff (die : Nat) (b : Block) (inst : Nat) : Nat := die * 0x1000000 + blockCode b * 0x40000 + inst * 0x1000

/-- How many instances of a block a die has (R64); 0 where the die has none. -/
def instances (fu : Fuses) (die : Nat) (b : Block) : Nat :=
  if die < 12 then
    match b with
    | .clk | .tap | .pmu | .fab | .hyl => 1
    | .core => min 20 fu.coresPerDie
    | .l3 => 20
    | _ => 0
  else if die = 12 then
    match b with
    | .pkg | .clk | .mgmt | .tap | .lant | .seed | .ten => 1
    | .pmu | .fab | .home | .msc | .rake | .tier | .codec | .bulk | .ciph => 4
    | .hyl => 12
    | .ddr | .pg | .ep => 16
    | .guy => 2
    | _ => 0
  else if die = 13 then
    match b with
    | .pkg | .lant => 1
    | .guy => 2
    | _ => 0
  else 0

/-- R65: the populated pages. -/
def populated (fu : Fuses) (die : Nat) (b : Block) (inst : Nat) : Bool := decide (inst < instances fu die b)

/-- The record base B of a block's error records (R490). -/
def recBase : Block → Nat
  | .pkg => 0x800
  | .pg => 0x300
  | .ddr | .ep => 0x400
  | _ => 0x200

/-- Reset value of the field of one table row within the register at an offset. -/
def FSpec.resetAt (e : FSpec) (off : Nat) : Nat :=
  if e.f.off ≤ off ∧ (off = e.f.off ∨ (e.f.stride ≠ 0 ∧ (off - e.f.off) % e.f.stride = 0 ∧ (off - e.f.off) / e.f.stride < e.count))
  then e.reset * 2 ^ e.f.lo else 0

/-- Reset value of the register at an offset of the control region: the header (R44–R53), the fused fields (R15, R17,
R533, R440), the performance states of an SKC9192-A (R27), and otherwise the sum of the fields' reset values. -/
def regReset (fu : Fuses) (k : Nat) : Nat :=
  let off := k % 0x1000
  let inst := k / 0x1000 % 0x40
  let die := k / 0x1000000
  match blockOfCode (k / 0x40000 % 0x40) with
  | none => 0
  | some b =>
    if off = 0 then blockCode b + inst * 0x40 + die * 0x1000 + 0xF07E * 2 ^ 32
    else if off = 8 then 0x100
    else if off < 0x100 then 0
    else if recBase b ≤ off ∧ off < recBase b + 0x48 then 0
    else
      let t := (fieldsOf b).foldl (fun a e => a + e.resetAt off) 0
      match b, off with
      | .pkg, 0x200 => fu.code + fu.iodRev * 2 ^ 4 + fu.coresPerDie * 2 ^ 8 + fu.tdpNom * 2 ^ 16 + fu.tdpMin * 2 ^ 26 + fu.tdpMax * 2 ^ 36
      | .pkg, 0x210 => fu.serial
      | .pkg, 0x2B0 => t + fu.tdpNom
      | .pg, 0x100 => if fu.code = 2 then 3 * 2 ^ 3 else t
      | .clk, 0x140 => if fu.coresPerDie = 20 then t else t % 2 ^ 32
      | .clk, 0x150 => if fu.coresPerDie = 20 then t else t % 2 ^ 32
      | _, _ => t

/-- Keys of one page in a table by register offset. -/
def inPage (page k : Nat) : Bool := k / 0x1000 == page / 0x1000

/-- Bit k of a field with one bit for each die, channel, group or quadrant. -/
def Fld.bit (f : Fld) (k : Nat) : Fld := { f with lo := f.lo + k, w := 1 }

/-- AGE of a copy refreshed at a package time: µs of 2,400 FCLK cycles, saturating (R68, R486). -/
def statusAge (now at_ : Nat) : Nat := min 0xFFFF ((now + 2 ^ 48 - at_) % 2 ^ 48 / 2400)

namespace Mach

/-- A stored register by its offset in the control region. -/
def reg (m : Mach) (k : Nat) : Nat :=
  match m.regs.find k with
  | some v => v.toNat
  | none => regReset m.fuses k

def setReg (m : Mach) (k v : Nat) : Mach := { m with regs := m.regs.ins k (BitVec.ofNat 64 v) }

/-- A field of the block's page on a die; by default on the I/O die, instance 0. -/
def get (m : Mach) (f : Fld) (inst : Nat := 0) (die : Nat := 12) : Nat :=
  bitsOf (m.reg (pageOff die f.blk inst + f.off)) f.lo f.w

def set (m : Mach) (f : Fld) (v : Nat) (inst : Nat := 0) (die : Nat := 12) : Mach :=
  let k := pageOff die f.blk inst + f.off
  m.setReg k (putBits (m.reg k) f.lo f.w v)

def on (m : Mach) (f : Fld) (inst : Nat := 0) (die : Nat := 12) : Bool := m.get f inst die != 0

/-- Add to a counter field, modulo its width. -/
def add (m : Mach) (f : Fld) (n : Nat) (inst : Nat := 0) (die : Nat := 12) : Mach := m.set f (m.get f inst die + n) inst die

/-- Add to a saturating counter field. -/
def addSat (m : Mach) (f : Fld) (n : Nat) (inst : Nat := 0) (die : Nat := 12) : Mach :=
  m.set f (satAdd f.w (m.get f inst die) n) inst die

/-- A field of the page header: the field's own block is replaced by the page's. -/
def hget (m : Mach) (f : Fld) (b : Block) (inst : Nat := 0) (die : Nat := 12) : Nat := m.get { f with blk := b } inst die
def hset (m : Mach) (f : Fld) (b : Block) (v : Nat) (inst : Nat := 0) (die : Nat := 12) : Mach := m.set { f with blk := b } v inst die
def hon (m : Mach) (f : Fld) (b : Block) (inst : Nat := 0) (die : Nat := 12) : Bool := m.hget f b inst die != 0

/-- The active copy of a Shadowed field (R55): what the block operates on. -/
def act (m : Mach) (f : Fld) (inst : Nat := 0) (die : Nat := 12) : Nat :=
  let k := pageOff die f.blk inst + f.off
  bitsOf (match m.active.find k with | some v => v.toNat | none => regReset m.fuses k) f.lo f.w

/-- Raise an error that has an ERR_STATUS bit. -/
def err (m : Mach) (e : ErrBit) (sev : Nat) (inst : Nat := 0) (die : Nat := 12) (addr : Option Nat := none) (info : Nat := 0)
    (tenant : Option Nat := none) : Mach :=
  { m with errs := ⟨die, e.blk, inst, e.bit, sev, addr, info, tenant, false⟩ :: m.errs }

/-- Raise an error of a cause without an ERR_STATUS bit (R493). -/
def errCause (m : Mach) (b : Block) (cause sev : Nat) (inst : Nat) (die : Nat) (addr : Option Nat) (info : Nat)
    (tenant : Option Nat := none) : Mach :=
  { m with errs := ⟨die, b, inst, cause, sev, addr, info, tenant, false⟩ :: m.errs }

/-- Raise an event that is no error (R501). -/
def ev (m : Mach) (typ cls : Nat) (b : Block) (detail : Nat) (addr : Nat := 0) (inst : Nat := 0) (die : Nat := 12)
    (tenant : Option Nat := none) : Mach :=
  { m with evs := ⟨typ, cls, die, b, inst, tenant, detail, addr⟩ :: m.evs }

/-- A block with a software enable takes new work: it has started, ENABLE is 1 and QUIESCE is 0 (R48, R49). -/
def takesNew (m : Mach) (b : Block) (inst : Nat) : Bool :=
  m.hon R.HDR_STATUS_ENABLED b inst && m.hon R.HDR_CONTROL_ENABLE b inst && !m.hon R.HDR_CONTROL_QUIESCE b inst

/-- A page's staged set is discarded (R57). -/
def commitCancel (m : Mach) (die : Nat) (b : Block) (inst : Nat) : Mach :=
  if m.hon R.HDR_STATUS_COMMIT_PENDING b inst die then
    ({ m with staged := m.staged.keep (fun k _ => !inPage (pageOff die b inst) k) } : Mach).hset R.HDR_STATUS_COMMIT_PENDING b 0 inst die
  else m

/-- A page's safe point (R56): the staged set moves into the active copies. -/
def safePoint (m : Mach) (die : Nat) (b : Block) (inst : Nat) : Mach :=
  if m.hon R.HDR_STATUS_COMMIT_PENDING b inst die then
    let m := (m.staged.filter (fun e => inPage (pageOff die b inst) e.1)).foldl (fun m e => { m with active := m.active.ins e.1 e.2 }) m
    let m := m.hset R.HDR_STATUS_COMMIT_COUNT b (m.hget R.HDR_STATUS_COMMIT_COUNT b inst die + 1) inst die
    m.commitCancel die b inst
  else m

/-- The operating mode (R72). -/
def mode (m : Mach) : Nat := m.get R.PKG_MODE_MODE

end Mach

/-- Apply f for each number below n, from 0 up. -/
def forN {α : Type} : Nat → (Nat → α → α) → α → α
  | 0, _, a => a
  | n + 1, f, a => f n (forN n f a)

/-- The severities of R488. -/
def sevCorrected : Nat := 0
def sevDeferred : Nat := 1
def sevContained : Nat := 2
def sevFatal : Nat := 3

end Sys2Proof.Machine
end

