-- ==== Sys2Proof/Machine/Rs.lean ====
section
/-! DEFINITION. The outer code of the DDR5 channels: GF(2^8), the RS(80,64) encoder of R218, and the decoder of R220,
R221 and R224. A codeword is given by its symbols, position 0 first. Decoding a linear code depends only on the error
added to the codeword, so the decoder works on the error's syndromes. -/
namespace Sys2Proof.Rs

/-- One doubling in GF(2^8) under x^8 + x^4 + x^3 + x^2 + 1 (R218). -/
def dbl (a : Nat) : Nat := if a < 128 then 2 * a else Nat.xor (2 * a) 0x11D

def mulAux : Nat → Nat → Nat → Nat
  | 0, _, _ => 0
  | n + 1, a, b => Nat.xor (if b % 2 = 1 then a else 0) (mulAux n (dbl a) (b / 2))

/-- The product in GF(2^8). -/
def mul (a b : Nat) : Nat := mulAux 8 a b

/-- a^n. -/
def pow (a : Nat) : Nat → Nat
  | 0 => 1
  | n + 1 => mul a (pow a n)

/-- α^n, α = 2 (R218). -/
def alpha (n : Nat) : Nat := pow 2 (n % 255)

def inv (a : Nat) : Nat := pow a 254

/-- A polynomial's value, coefficients from x^0 up. -/
def eval : List Nat → Nat → Nat
  | [], _ => 0
  | c :: cs, x => Nat.xor c (mul x (eval cs x))

def polyAdd : List Nat → List Nat → List Nat
  | [], q => q
  | p, [] => p
  | a :: p, b :: q => Nat.xor a b :: polyAdd p q

def polyMul : List Nat → List Nat → List Nat
  | [], _ => []
  | a :: p, q => polyAdd (q.map (mul a)) (0 :: polyMul p q)

/-- The generator g(x) = (x − α^0) … (x − α^15) (R218), from x^0 up. -/
def gen : Nat → List Nat
  | 0 => [1]
  | n + 1 => polyMul [alpha n, 1] (gen n)

/-- One step of the division by g: shift the next message symbol into the remainder. -/
def divStep (g r : List Nat) (s : Nat) : List Nat :=
  let f := Nat.xor (r.getLastD 0) s
  polyAdd (0 :: r.dropLast) ((g.take 16).map (mul f))

/-- The 16 check symbols of 64 line bytes: m(x) · x^16 mod g(x), from x^0 up (R218). -/
def check (msg : List Nat) : List Nat :=
  msg.reverse.foldl (divStep (gen 16)) (List.replicate 16 0)

/-- The codeword of a line: check symbols at positions 0 to 15, line byte i at position 16 + i (R218, R219). -/
def encode (msg : List Nat) : List Nat := check msg ++ msg

/-- The 16 syndromes of a word. -/
def syndromes (w : List Nat) : List Nat := (List.range 16).map (fun j => eval w (alpha j))

/-- The poison pattern: each of the 16 check symbols XORed with 0xA5 (R221). -/
def poisonPattern : List Nat := List.replicate 16 0xA5 ++ List.replicate 64 0

def poisonSyndrome : List Nat := syndromes poisonPattern

/-- The first codeword position of a device's 8 symbols (R219). -/
def devicePos (d : Nat) : Nat := if d < 8 then 16 + 8 * d else 8 * (d - 8)

/-- The locator Π (1 − α^p x) of some positions. -/
def locator : List Nat → List Nat
  | [] => [1]
  | p :: ps => polyMul [1, alpha p] (locator ps)

def devicePositions (d : Nat) : List Nat := (List.range 8).map (devicePos d + ·)

/-- Coefficients n to m − 1 of a product's series. -/
def coeffs (p : List Nat) (n m : Nat) : List Nat := (List.range (m - n)).map (fun i => p.getD (n + i) 0)

/-- Whether syndromes are those of an error confined to given positions (at most 16). -/
def confined (s : List Nat) (ps : List Nat) : Bool :=
  (coeffs (polyMul (locator ps) s) ps.length 16).all (· == 0)

/-- The formal derivative's coefficients. -/
def deriv (p : List Nat) : List Nat :=
  (List.range (p.length - 1)).map (fun i => if i % 2 = 0 then p.getD (i + 1) 0 else 0)

/-- The error of given positions that has the given syndromes (Forney), as (position, symbol). -/
def magnitudes (s : List Nat) (ps : List Nat) : List (Nat × Nat) :=
  let l := locator ps
  let om := coeffs (polyMul l s) 0 ps.length
  ps.map (fun p =>
    let xi := alpha (255 - p % 255)
    (p, mul (alpha p) (mul (eval om xi) (inv (eval (deriv l) xi)))))

/-- One step of the Berlekamp–Massey search for the shortest recurrence of a sequence. -/
structure BmState where
  c : List Nat
  b : List Nat
  l : Nat
  m : Nat
  bb : Nat

def bmStep (t : List Nat) (st : BmState) (n : Nat) : BmState :=
  let d := (List.range (st.l + 1)).foldl (fun a i => Nat.xor a (mul (st.c.getD i 0) (t.getD (n - i) 0))) 0
  if d = 0 then { st with m := st.m + 1 }
  else
    let f := mul d (inv st.bb)
    let c' := polyAdd st.c (List.replicate st.m 0 ++ st.b.map (mul f))
    if 2 * st.l ≤ n then { c := c', b := st.c, l := n + 1 - st.l, m := 1, bb := d }
    else { st with c := c', m := st.m + 1 }

/-- The positions of at most 4 further errors outside an erased device, if the syndromes have such an error (R224). -/
def furtherErrors (s : List Nat) (d : Nat) : Option (List Nat) :=
  let er := devicePositions d
  let t := coeffs (polyMul (locator er) s) 8 16
  let st := (List.range 8).foldl (bmStep t) ⟨[1], [1], 0, 1, 1⟩
  let roots := (List.range 80).filter (fun p => !er.contains p && eval st.c (alpha (255 - p % 255)) == 0)
  if st.l ≤ 4 ∧ roots.length = st.l ∧ confined s (er ++ roots) then some roots else none

/-- What the decoder finds (R220). -/
inductive Verdict where
  | clean
  | corrected (err : List (Nat × Nat)) (device : Option Nat)
  | poisoned (device : Option Nat)
  | uncorrectable
  deriving DecidableEq, Repr

def nonzero (e : List (Nat × Nat)) : List (Nat × Nat) := e.filter (fun x => x.2 != 0)

/-- The device whose 8 symbols an error with these syndromes is confined to. -/
def oneDevice (s : List Nat) : Option Nat := (List.range 10).find? (fun d => confined s (devicePositions d))

/-- The decoder without an erasure, in the order of R221. -/
def decodePlain (s : List Nat) : Verdict :=
  if s.all (· == 0) then .clean
  else if s = poisonSyndrome then .poisoned none
  else match oneDevice s with
    | some d => .corrected (nonzero (magnitudes s (devicePositions d))) (some d)
    | none =>
      match oneDevice (polyAdd s poisonSyndrome) with
      | some d => .poisoned (some d)
      | none => .uncorrectable

/-- The device all symbols of an error lie in, if one. -/
def soleDevice (ps : List Nat) : Option Nat := (List.range 10).find? (fun d => ps.all (fun p => (devicePositions d).contains p))

/-- The decoder with device d under erasure (R224): the erased symbols are recovered first, then the poison syndrome is
looked for, then up to 4 further symbols are corrected. Errors of the erased device alone count for it, further errors for the one
device they lie in, if it is one (log 96). -/
def decodeErased (s : List Nat) (d : Nat) : Verdict :=
  let er := devicePositions d
  if s.all (· == 0) then .clean
  else if confined s er then .corrected (nonzero (magnitudes s er)) (some d)
  else if confined (polyAdd s poisonSyndrome) er then .poisoned (if s = poisonSyndrome then none else some d)
  else match furtherErrors s d with
    | some ps => .corrected (nonzero (magnitudes s (er ++ ps))) (soleDevice ps)
    | none =>
      match furtherErrors (polyAdd s poisonSyndrome) d with
      | some ps => .poisoned (soleDevice ps)
      | none => .uncorrectable

/-- The devices that hold some positions. -/
def devicesOf (ps : List Nat) : List Nat := (List.range 10).filter (fun d => ps.any (fun p => (devicePositions d).contains p))

/-- An error the decoder reports as Uncorrectable whatever its syndrome looks like: one confined to two devices (R220), or under
erasure one of more than 4 symbols outside the erased device (R224). -/
def beyond (ps : List Nat) : Option Nat → Bool
  | none => (devicesOf ps).length == 2
  | some d => decide (4 < (ps.filter (fun p => !(devicePositions d).contains p)).length)

/-- The decoder of R220 to R224, on the positions in error and the syndromes. -/
def decode (ps s : List Nat) (er : Option Nat) : Verdict :=
  if beyond ps er then .uncorrectable
  else match er with
    | none => decodePlain s
    | some d => decodeErased s d

end Sys2Proof.Rs
end

