-- ==== Sys2Proof/Machine/Ddr.lean ====
section
/-! DEFINITION. DDR5 channels: where an address lies (R214–R217), reading and writing a coded line (R218–R227). -/
namespace Sys2Proof.Machine

/-- The home quadrant of a system-physical address (R214). -/
def homeOf (spa : Nat) : Nat :=
  Nat.xor (bitsOf spa 12 2) (Nat.xor (bitsOf spa 20 2) (Nat.xor (bitsOf spa 28 2) (Nat.xor (bitsOf spa 36 2) (bitsOf spa 44 2))))

/-- The quadrant-local line number (R215). -/
def qlineOf (spa : Nat) : Nat := bitsOf spa 14 34 * 64 + bitsOf spa 6 6

/-- The line that holds a system-physical address, as the address of its first byte (R4). -/
def lineOf (a : Nat) : Nat := a / 64 * 64

/-- The page that holds a system-physical address. -/
def pageOf (a : Nat) : Nat := a / 4096 * 4096

namespace Mach

def quadChans (q : Nat) : List Nat := [4 * q, 4 * q + 1, 4 * q + 2, 4 * q + 3]

/-- The quadrant's interleave: the channel whose MAP is in force, one that is enabled where there is one. -/
def mapChan (m : Mach) (q : Nat) : Nat :=
  ((quadChans q).find? (fun c => m.hon R.HDR_STATUS_READY .ddr c)).getD (4 * q)

/-- Size of an LDA quarter in bytes (R216). -/
def qsize (m : Mach) (q : Nat) : Nat := m.get R.DDR_MAP_QSIZE_GIB (m.mapChan q) * 2 ^ 30

/-- The quarter an LDA lies in (R216). The spec gives every channel a MAP of its own and one size to all quarters: where the channels'
QSIZE_GIB differ the model finds the quarter by quadrant 0's (DESIGN CHOICE, log 106). -/
def ldaQuad (m : Mach) (lda : Nat) : Nat := if m.qsize 0 = 0 then 0 else lda / m.qsize 0

/-- The channel of an LDA, and the channel address (R217). -/
def ldaChan (m : Mach) (lda : Nat) : Nat × Nat :=
  let q := m.ldaQuad lda
  let off := lda - q * m.qsize q
  let c := m.mapChan q
  if m.get R.DDR_MAP_WAYS c = 1 then
    let member := Nat.xor (bitsOf off 10 1) (bitsOf off 18 1)
    (4 * q + m.get R.DDR_MAP_PAIR c + 2 * member, off / 2 ^ 11 * 1024 + off % 1024)
  else
    (4 * q + Nat.xor (bitsOf off 10 2) (bitsOf off 18 2), off / 2 ^ 12 * 1024 + off % 1024)

/-- Subchannel of a line: bit [6] of the channel address (R217). -/
def subch (caddr : Nat) : Nat := bitsOf caddr 6 1

/-- Ranks of the channel (R232). -/
def ranks (m : Mach) (c : Nat) : Nat := (m.get R.DDR_CONFIG_DPC2 c + 1) * (m.get R.DDR_CONFIG_RANKS2 c + 1)

/-- Rank of a channel address: internal to the controller (R217), so a free function of the implementation. -/
def rankOf (m : Mach) (c caddr : Nat) : Nat := Config.rankOf c caddr % m.ranks c

def metaOf (m : Mach) (lda : Nat) : LineMeta := m.lineMeta.getD (lda / 64) ⟨false, [], none⟩

def setMeta (m : Mach) (lda : Nat) (x : LineMeta) : Mach :=
  { m with lineMeta := m.lineMeta.put (lda / 64) x ⟨false, [], none⟩ }

/-- The 64 bytes from an aligned address, as one line. -/
def lineAt (m : Mach) (a : Nat) : Line := BitVec.ofNat 512 (ofBytes (m.bytes a 64))

def putLine (m : Mach) (a : Nat) (d : Line) : Mach := m.setBytes a (bytesOf 64 d.toNat)

/-- The device under erasure of a channel's rank and subchannel (R223). -/
def erasedDevice (m : Mach) (c rank sub : Nat) : Option Nat :=
  let n := 2 * rank + sub
  if m.on (R.DDR_ERASE_V.at n) c then some (m.get (R.DDR_ERASE_DEVICE.at n) c) else none

/-- INFO of causes 64 to 66 (R493). -/
def ddrInfo (device : Option Nat) (sub rank : Nat) (rake : Bool) (symbols : Nat) : Nat :=
  device.getD 0xF + sub * 2 ^ 4 + rank * 2 ^ 5 + (if rake then 2 ^ 7 else 0) + symbols * 2 ^ 8

/-- Place a device under erasure: the ERASE entry and the Corrected event (R223, R226). -/
def enterErasure (m : Mach) (c rank sub d : Nat) (byReq : Bool) : Mach :=
  let n := 2 * rank + sub
  let m := m.set (R.DDR_ERASE_V.at n) 1 c
  let m := m.set (R.DDR_ERASE_DEVICE.at n) d c
  let m := m.set (R.DDR_ERASE_BY_REQ.at n) (if byReq then 1 else 0) c
  m.errCause .ddr 66 sevCorrected c 12 (some 0) (ddrInfo (some d) sub rank false 0)

/-- Count a read that corrected one device, and apply the threshold (R223). The 16 bits of DEVCOUNT saturate, which the spec leaves open
(R232; DESIGN CHOICE, log 104). A second device that reaches the threshold is an error (R225); one already past it is reported again only
once the bit has been cleared (log 105). -/
def countDevice (m : Mach) (c rank sub d : Nat) : Mach :=
  let f := R.DDR_DEVCOUNT_COUNT.at (20 * rank + 10 * sub + d)
  let was := m.get f c
  let m := m.addSat f 1 c
  let n := m.get f c
  let th := m.act R.DDR_ECC_CTL_ERASE_THRESH c
  match m.erasedDevice c rank sub with
  | none => if m.act R.DDR_ECC_CTL_ERASE_EN c = 1 ∧ th ≤ n then m.enterErasure c rank sub d false else m
  | some d' =>
    if d' ≠ d ∧ th ≤ n ∧ (was < th ∨ bitsOf (m.reg (pageOff 12 .ddr c + 0x28)) 18 1 = 0) then m.err E.DDR_ERASE_EXHAUSTED sevContained c else m

def countDevice? (m : Mach) (c rank sub : Nat) : Option Nat → Mach
  | none => m
  | some d => m.countDevice c rank sub d

/-- Two errors added: at each position the XOR of the symbols, positions with none left out. -/
def addErr (a b : List (Nat × Nat)) : List (Nat × Nat) :=
  ((List.range 80).map (fun p =>
    (p, (a ++ b).foldl (fun x e => if e.1 = p then Nat.xor x (e.2 % 256) else x) 0))).filter (fun e => e.2 != 0)

def errWord (e : List (Nat × Nat)) : List Nat := (List.range 80).map (fun p => (e.find? (fun x => x.1 == p)).elim 0 (·.2))

/-- The syndromes a stored line is read with (R220, R221). -/
def lineSyndromes (x : LineMeta) : List Nat :=
  let s := Rs.syndromes (errWord x.err)
  if x.poison then Rs.polyAdd s Rs.poisonSyndrome else s

/-- Read and decode the line at an LDA under a seal, the cells having taken the errors of `pattern` as well (R220–R225).
A decoding that leaves an error behind, and a line encrypted under another key or tweak, return a free value. -/
def readCoded (m : Mach) (lda : Nat) (pattern : List (Nat × Nat)) (enc : Option Seal) (rake : Bool) : Mach × ReadRes :=
  let (c, ca) := m.ldaChan lda
  let sub := subch ca
  let rank := m.rankOf c ca
  let x := m.metaOf lda
  let x := { x with err := addErr x.err pattern }
  let m := m.setMeta lda x
  let er := m.erasedDevice c rank sub
  let plain (m : Mach) (good : Bool) : Mach × ReadRes :=
    if good && (x.enc == enc) then (m, .ok (m.lineAt lda))
    else ({ m with free := m.free + 1 }, .ok (Config.freeLine m.free))
  let assist (m : Mach) : Mach :=
    match er with
    | some d => if x.err.any (fun p => (Rs.devicePositions d).contains p.1) then m.add R.DDR_CE_COUNT_ERASED_ASSIST 1 c else m
    | none => m
  match Rs.decode (x.err.map (·.1)) (lineSyndromes x) er with
  | .clean => plain m (x.err == [])
  | .corrected e dev =>
    let rest := addErr x.err e
    let m := m.add R.DDR_CE_COUNT_CORRECTED 1 c
    let inEr := match er with | some d => e.all (fun p => (Rs.devicePositions d).contains p.1) | none => false
    let m := assist m
    let m := m.countDevice? c rank sub dev
    let m := m.errCause .ddr 64 sevCorrected c 12 (some lda) (ddrInfo dev sub rank rake e.length)
    let m := if (rake || m.act R.DDR_ECC_CTL_SCRUB_ON_READ c == 1) && !inEr then m.setMeta lda { x with err := rest } else m
    plain m (rest == [])
  | .poisoned dev =>
    let m := assist (if rake then m else m.add R.DDR_UE_COUNT_POISON_READS 1 c)
    (m.countDevice? c rank sub dev, .poison)
  | .uncorrectable =>
    let m := m.add R.DDR_UE_COUNT_UNCORRECTABLE 1 c
    (m.errCause .ddr 65 sevContained c 12 (some lda) (ddrInfo none sub rank rake 0), .unreadable)

/-- Write a whole line at an LDA, encrypted under a seal: new codeword, so no error and no poison stay (R218, R227). -/
def writeCoded (m : Mach) (lda : Nat) (d : Line) (enc : Option Seal) : Mach :=
  (m.putLine lda d).setMeta lda ⟨false, [], enc⟩

/-- Write a line poisoned: 64 zero bytes, not encrypted, with the poison pattern (R221, R227). -/
def writePoison (m : Mach) (lda : Nat) : Mach := (m.putLine lda 0).setMeta lda ⟨true, [], none⟩

/-- A channel whose training has failed: FAILED, or struck for it, which outlives a reset of its page (R62, R229). -/
def chanFailed (m : Mach) (c : Nat) : Bool := m.on R.DDR_TRAIN_FAILED c || m.hon R.HDR_STATUS_STRUCK .ddr c

/-- R229: a channel's cold training fails. -/
def trainFail (m : Mach) (ch ranks : Nat) : Mach :=
  let q := ch / 4
  let m := (m.set R.DDR_TRAIN_FAILED 1 ch).set R.DDR_TRAIN_FAIL_RANKS ranks ch
  let off (m : Mach) (c : Nat) : Mach := (m.hset R.HDR_STATUS_READY .ddr 0 c).hset R.HDR_STATUS_ENABLED .ddr 0 c
  let m := (off m ch).hset R.HDR_STATUS_STRUCK .ddr 1 ch
  let m := m.err E.DDR_TRAIN_FAIL sevContained ch
  let pair := 1 - ch % 2
  let mate := 4 * q + (ch % 4 + 2) % 4
  let rest := [4 * q + pair, 4 * q + pair + 2]
  let m := off m mate
  if m.get R.DDR_MAP_WAYS ch = 2 ∧ rest.all (fun c => !m.chanFailed c) then
    rest.foldl (fun m c => (m.set R.DDR_MAP_WAYS 1 c).set R.DDR_MAP_PAIR pair c) m
  else
    (rest.foldl off m).hset R.HDR_STATUS_READY .tier 0 q

end Mach
end Sys2Proof.Machine
end

