-- ==== Sys2Proof/Machine/Frame.lean ====
section
/-! DEFINITION. The Frame page format (R278–R292): the encoder, fixed to the bit, and the decoder with the checks of
R287 and R290. A page is 64 lines of eight 64-bit words. -/
namespace Sys2Proof.Frame

/-- Words 0 to 7 of a line, little-endian (R3). -/
def words (l : Line) : List Nat := (List.range 8).map (fun k => l.toNat / 2 ^ (64 * k) % 2 ^ 64)

def lineOfWords (ws : List Nat) : Line :=
  BitVec.ofNat 512 (ws.foldr (fun w a => w % 2 ^ 64 + 2 ^ 64 * a) 0)

def allEqual (ws : List Nat) : Bool := ws.all (· == ws.headD 0)

/-- Lines that enter the dictionary pass: not all zero, equal to no earlier line, not eight equal words (R292). -/
def eligible (ls : List (List Nat)) : List (List Nat) :=
  (List.range ls.length).filterMap (fun i =>
    let l := ls.getD i []
    if l.all (· == 0) || (ls.take i).contains l || allEqual l then none else some l)

def firsts : List Nat → List Nat → List Nat
  | seen, [] => seen.reverse
  | seen, w :: ws => if seen.contains w then firsts seen ws else firsts (w :: seen) ws

/-- Pass 1 of R292: the dict_max most frequent values with at least dict_min occurrences, ties to the earlier first
occurrence, in the order of first occurrence. -/
def dictionary (ls : List (List Nat)) (dictMin dictMax : Nat) : List Nat :=
  let ws := (eligible ls).flatten
  let cand := ((firsts [] ws).map (fun v => (v, ws.count v))).filter (fun c => decide (dictMin ≤ c.2))
  ((List.range cand.length).filterMap (fun i =>
    match cand[i]? with
    | none => none
    | some c =>
      let before := ((List.range cand.length).filter (fun j =>
        match cand[j]? with
        | none => false
        | some c' => decide (c.2 < c'.2) || (c'.2 == c.2 && decide (j < i)))).length
      if before < dictMax then some c.1 else none))

/-- The line modes of R281. -/
inductive Mode where
  | zero | repeat8 | base (n : Nat) | dict | sameAs (j : Nat) | raw
  deriving DecidableEq, Repr

def Mode.code : Mode → Nat
  | .zero => 0
  | .repeat8 => 1
  | .base 1 => 2
  | .base 2 => 3
  | .base _ => 4
  | .dict => 5
  | .sameAs _ => 6
  | .raw => 7

/-- A delta modulo 2^64 that fits a signed integer of n bytes (R282, R292). -/
def fits (n d : Nat) : Bool := decide (d < 2 ^ (8 * n - 1)) || decide (2 ^ 64 - 2 ^ (8 * n - 1) ≤ d)

def deltas (ws : List Nat) : List Nat := ws.map (fun w => (w + 2 ^ 64 - ws.headD 0) % 2 ^ 64)

def dictHits (dict ws : List Nat) : Nat := (ws.filter dict.contains).length

/-- Body bytes of a mode for a line (R281). -/
def bodySize (dict ws : List Nat) : Mode → Nat
  | .zero => 0
  | .repeat8 => 8
  | .base n => 8 + 8 * n
  | .dict => 1 + (dictHits dict ws + 1) / 2 + 8 * (8 - dictHits dict ws)
  | .sameAs _ => 1
  | .raw => 64

/-- Whether a mode can hold a line (R292). -/
def canHold (ws : List Nat) : Mode → Bool
  | .repeat8 => allEqual ws
  | .base n => (deltas ws).all (fits n)
  | .dict | .raw => true
  | _ => false

/-- Pass 2 of R292 for line i. -/
def chooseMode (ls : List (List Nat)) (dict : List Nat) (i : Nat) : Mode :=
  let ws := ls.getD i []
  if ws.all (· == 0) then .zero
  else match (List.range i).find? (fun j => ls.getD j [] == ws) with
    | some j => .sameAs j
    | none =>
      ([Mode.repeat8, .base 1, .base 2, .base 4, .dict].filter (canHold ws)).reverse.foldl
        (fun best md => if bodySize dict ws md ≤ bodySize dict ws best then md else best) .raw

/-- Pairs of 4-bit indexes, the first in the low nibble (R283). -/
def nibbles : List Nat → List Nat
  | [] => []
  | [a] => [a]
  | a :: b :: r => (a + 16 * b) :: nibbles r

def word8 (w : Nat) : List Byte := bytesOf 8 w

/-- The body of a line (R281–R284). -/
def body (dict ws : List Nat) : Mode → List Byte
  | .zero => []
  | .repeat8 => word8 (ws.headD 0)
  | .base n => word8 (ws.headD 0) ++ (deltas ws).flatMap (fun d => bytesOf n d)
  | .dict =>
    let map := (List.range 8).foldl (fun a k => if dict.contains (ws.getD k 0) then a + 2 ^ k else a) 0
    let idx := (ws.filter dict.contains).map (fun w => dict.idxOf w)
    BitVec.ofNat 8 map :: ((nibbles idx).map (BitVec.ofNat 8)) ++ (ws.filter (fun w => !dict.contains w)).flatMap word8
  | .sameAs j => [BitVec.ofNat 8 j]
  | .raw => ws.flatMap word8

/-- An encoding's parts. -/
structure Encoded where
  bytes : List Byte
  modes : List Nat
  deriving DecidableEq, Repr

/-- The encoder of R292, VERSION 1. -/
def encode (dictMin dictMax : Nat) (page : List Line) : Encoded :=
  let ls := page.map words
  let d0 := if dictMax = 0 then [] else dictionary ls (max 2 dictMin) (min 16 dictMax)
  let modes := (List.range ls.length).map (chooseMode ls d0)
  let used := (List.range ls.length).flatMap (fun i => if modes.getD i .raw = .dict then ls.getD i [] else [])
  let dict := d0.filter used.contains
  let bodies := (List.range ls.length).flatMap (fun i => body dict (ls.getD i []) (modes.getD i .raw))
  let len := 28 + 8 * dict.length + bodies.length
  let mv := (List.range modes.length).foldl (fun a i => a + (modes.getD i .raw).code * 2 ^ (3 * i)) 0
  ⟨[1, BitVec.ofNat 8 dict.length] ++ bytesOf 2 len ++ bytesOf 24 mv ++ dict.flatMap word8 ++ bodies, modes.map Mode.code⟩

/-- The largest LEN placed in plots (R286). -/
def ceiling : Nat := 3584

/-- Plots of an encoding of a length (R285). -/
def plotsOf (len : Nat) : Nat := (len + 511) / 512

/-! ### Decoding -/

/-- A header as read (R279). -/
structure Header where
  version : Nat
  dictCount : Nat
  len : Nat
  modes : Nat
  deriving DecidableEq, Repr

def nat (b : List Byte) (o n : Nat) : Nat := ofBytes ((List.range n).map (fun i => b.getD (o + i) 0))

def header (b : List Byte) : Header :=
  ⟨nat b 0 1 % 16, nat b 1 1 % 32, nat b 2 2 % 2 ^ 13, nat b 4 24⟩

def Header.mode (h : Header) (i : Nat) : Nat := h.modes / 2 ^ (3 * i) % 8

def popcount8 (v : Nat) : Nat := ((List.range 8).filter (fun k => v / 2 ^ k % 2 == 1)).length

/-- Body bytes of a line at an offset (R281): a DICT line's size comes from its MAP byte. -/
def sizeAt (b : List Byte) (o : Nat) : Nat → Nat
  | 0 => 0
  | 1 => 8
  | 2 => 16
  | 3 => 24
  | 4 => 40
  | 5 => let r := popcount8 (nat b o 1); 1 + (r + 1) / 2 + 8 * (8 - r)
  | 6 => 1
  | _ => 64

/-- The offset of line i's body (R290). -/
def offsetOf (b : List Byte) (h : Header) : Nat → Nat
  | 0 => 28 + 8 * h.dictCount
  | i + 1 => offsetOf b h i + sizeAt b (offsetOf b h i) (h.mode i)

/-- Sign extension of an n-byte delta to 64 bits (R282). -/
def signExt (n d : Nat) : Nat := if d < 2 ^ (8 * n - 1) then d else d + 2 ^ 64 - 2 ^ (8 * n)

/-- The words of a DICT body, none where a check of R287 fails. -/
def dictWords (b : List Byte) (h : Header) (o : Nat) : Option (List Nat) :=
  let map := nat b o 1
  let r := popcount8 map
  let at_ (k : Nat) : Nat × Nat := (popcount8 (map % 2 ^ k), k - popcount8 (map % 2 ^ k))
  let idx (n : Nat) : Nat := nat b (o + 1 + n / 2) 1 / 16 ^ (n % 2) % 16
  if map = 0 then none
  else if (List.range r).any (fun n => decide (h.dictCount ≤ idx n)) then none
  else some ((List.range 8).map (fun k =>
    if map / 2 ^ k % 2 = 1 then nat b (28 + 8 * idx (at_ k).1) 8
    else nat b (o + 1 + (r + 1) / 2 + 8 * (at_ k).2) 8))

/-- The words of a line that is not SAME_AS. -/
def plainWords (b : List Byte) (h : Header) (o : Nat) : Nat → Option (List Nat)
  | 0 => some (List.replicate 8 0)
  | 1 => some (List.replicate 8 (nat b o 8))
  | 2 => some ((List.range 8).map (fun k => (nat b o 8 + signExt 1 (nat b (o + 8 + k) 1)) % 2 ^ 64))
  | 3 => some ((List.range 8).map (fun k => (nat b o 8 + signExt 2 (nat b (o + 8 + 2 * k) 2)) % 2 ^ 64))
  | 4 => some ((List.range 8).map (fun k => (nat b o 8 + signExt 4 (nat b (o + 8 + 4 * k) 4)) % 2 ^ 64))
  | 5 => dictWords b h o
  | _ => some ((List.range 8).map (fun k => nat b (o + 8 * k) 8))

/-- The words of line i, following SAME_AS to earlier lines: `fuel` bounds the chain, which falls at each link. -/
def wordsAt (b : List Byte) (h : Header) : Nat → Nat → Option (List Nat)
  | 0, _ => none
  | fuel + 1, i =>
    let o := offsetOf b h i
    if h.mode i = 6 then
      let j := nat b o 1
      if j < i then wordsAt b h fuel j else none
    else plainWords b h o (h.mode i)

/-- How a decoding ends. -/
inductive Decoded where
  | page (ls : List Line)
  | badVersion
  | badFormat
  deriving DecidableEq, Repr

/-- The checks of R287 after the LEN row, and the page. -/
def decodeBody (b : List Byte) (h : Header) : Decoded :=
  if offsetOf b h 64 ≠ h.len then .badFormat
  else
    let ls := (List.range 64).map (wordsAt b h 65)
    if ls.all Option.isSome then .page (ls.map (fun o => lineOfWords (o.getD []))) else .badFormat

/-- The LEN row of R287 on the tier path. -/
def lenOkTier (h : Header) (plots : Nat) : Bool :=
  decide (28 + 8 * h.dictCount ≤ h.len) && plotsOf h.len == plots && decide (h.len ≤ ceiling)

/-- Decode the plots of a page on the tier path. -/
def decodeTier (b : List Byte) (plots : Nat) : Decoded :=
  let h := header b
  if h.version ≠ 1 then .badVersion
  else if 16 < h.dictCount ∨ !lenOkTier h plots then .badFormat
  else decodeBody b h

/-- The critical line alone, with the checks of R290. -/
def critical (b : List Byte) (plots i : Nat) : Option Line :=
  let h := header b
  if h.version ≠ 1 ∨ 16 < h.dictCount ∨ !lenOkTier h plots then none
  else (wordsAt b h 65 i).map lineOfWords

/-- Decode on the bulk path (R287, R300). Of an input of 0 bytes the absent VERSION reads as 0 (DESIGN CHOICE, log 119). -/
def decodeBulk (b : List Byte) : Decoded :=
  let h := header b
  if h.version ≠ 1 then .badVersion
  else if 16 < h.dictCount ∨ h.len < 28 + 8 * h.dictCount ∨ 4252 < h.len ∨ b.length < h.len then .badFormat
  else decodeBody b h

end Sys2Proof.Frame
end

