-- ==== Sys2Proof/Machine/Store.lean ====
section
/-! DEFINITION. Where a page's contents are kept: the page map entry (R237), the key and data unit of each line and
plot (R310, R337), the frame pools (R236, R239), and the shelves' slots, units and tags (R255, R312–R317, R441). -/
namespace Sys2Proof.Machine

/-! ### The page map entry (R237) -/

def tierBed : Nat := 0
def tierFrame : Nat := 1
def tierShed : Nat := 2
def tierNone : Nat := 3

def stStable : Nat := 0
def stPromoting : Nat := 1
def stDemoting : Nat := 2
def stZero : Nat := 3
def stDormant : Nat := 4
def stPoisoned : Nat := 5
def stRekeying : Nat := 6

def eTier (e : Nat) : Nat := bitsOf e 0 2
def eState (e : Nat) : Nat := bitsOf e 2 3
def eAge (e : Nat) : Nat := bitsOf e 5 3
def eDur (e : Nat) : Bool := bitsOf e 8 1 == 1
def ePin (e : Nat) : Bool := bitsOf e 9 1 == 1
def eSleepok (e : Nat) : Bool := bitsOf e 10 1 == 1
def eTenant (e : Nat) : Nat := bitsOf e 11 11
def ePlots (e : Nat) : Nat := bitsOf e 22 3
def eCmp (e : Nat) : Bool := bitsOf e 25 1 == 1
def eLoc (e : Nat) : Nat := bitsOf e 26 38

def eSetTier (e v : Nat) : Nat := putBits e 0 2 v
def eSetState (e v : Nat) : Nat := putBits e 2 3 v
def eSetAge (e v : Nat) : Nat := putBits e 5 3 v
def eSetPlots (e v : Nat) : Nat := putBits e 22 3 v
def eSetCmp (e : Nat) (v : Bool) : Nat := putBits e 25 1 v.toNat
def eSetLoc (e v : Nat) : Nat := putBits e 26 38 v

/-- The entry of a page moved to a place: TIER, LOC, PLOTS and CMP, STATE Stable. -/
def eMove (e tier loc plots : Nat) (cmp : Bool) : Nat :=
  eSetCmp (eSetPlots (eSetLoc (eSetState (eSetTier e tier) stStable) loc) plots) cmp

/-- Shelf, and slot or plot number, of a Shed LOC (R237). -/
def locShelf (loc : Nat) : Nat := loc / 2 ^ 32
def locPlace (loc : Nat) : Nat := loc % 2 ^ 32

/-- R238: the combinations of TIER and STATE that occur. -/
def entryLegal (e : Nat) : Bool :=
  match eState e with
  | 0 => true
  | 1 => eTier e == tierFrame || eTier e == tierShed
  | 2 => eTier e == tierBed || eTier e == tierFrame
  | 3 => eTier e == tierBed && eLoc e == 0 && ePlots e == 0
  | 4 => eTier e == tierShed
  | 5 => eTier e == tierFrame || eTier e == tierShed
  | 6 => eTier e != tierNone
  | _ => false

/-- The entry written at cold bring-up: TIER Bed, STATE Zero (R240). -/
def entryReset : Nat := 0xC

/-- The quadrant-local page index (R235). -/
def localIndex (page : Nat) : Nat := bitsOf page 14 32

namespace Mach

/-- A quadrant's tier engine at reset. -/
def noQ : TierQ :=
  { seq := 0, sample := 0, cursor := 0, deferred := [], held := [], cmd := none, poisonLater := [], bare := 0, gone := [],
    want := [], failed := [], wmOn := false, shedOn := false, rekeys := [] }

def tq (m : Mach) (q : Nat) : TierQ := m.tierq.getD q noQ
def setTq (m : Mach) (q : Nat) (t : TierQ) : Mach := { m with tierq := m.tierq.ins q t }

/-- The entry of a page nothing has changed since cold bring-up, with the AGE the sweeps have given it (R240, R246). -/
def bareEntry (m : Mach) (q : Nat) : Nat := entryReset + 2 ^ 5 * min 7 (m.tq q).bare

def entry (m : Mach) (page : Nat) : Nat := (m.pmap.getD (page / 4096) (BitVec.ofNat 64 (m.bareEntry (homeOf page)))).toNat

/-- LDA of a page's entry (R235). -/
def entryLda (m : Mach) (page : Nat) : Nat := homeOf page * m.qsize (homeOf page) + localIndex page * 8

/-- A map-cache line is dirty from now on (R241). -/
def dirtyMap (m : Mach) (page : Nat) : Mach :=
  let l := m.entryLda page / 64
  if m.mapDirty.contains l then m else { m with mapDirty := m.mapDirty ++ [l] }

/-- A page's encoding has failed: later reads of it are refused (R289). -/
def markFailed (m : Mach) (page : Nat) : Mach :=
  let t := m.tq (homeOf page)
  if t.failed.contains page then m else m.setTq (homeOf page) { t with failed := t.failed ++ [page] }

def hasFailed (m : Mach) (page : Nat) : Bool := (m.tq (homeOf page)).failed.contains page

/-- A page waits for its promotion (R250). -/
def wantPage (m : Mach) (page : Nat) : Mach :=
  let t := m.tq (homeOf page)
  if t.want.contains page then m else m.setTq (homeOf page) { t with want := t.want ++ [page] }

/-- One atomic change of an entry in the map cache (R241). A page that lies elsewhere now has no failed encoding. -/
def setEntry (m : Mach) (page e : Nat) : Mach :=
  let old := m.entry page
  let q := homeOf page
  let t := m.tq q
  let m := if t.failed.contains page ∧ (eTier e ≠ eTier old ∨ eLoc e ≠ eLoc old) then
    m.setTq q { t with failed := t.failed.filter (· != page) } else m
  ({ m with pmap := m.pmap.put (page / 4096) (BitVec.ofNat 64 e) (BitVec.ofNat 64 (m.bareEntry q)) } : Mach).dirtyMap page

/-- End of the managed space (R234). -/
def managedEnd (m : Mach) : Nat := m.get R.TIER_LAYOUT_MAP_TIB * 2 ^ 40

def managed (m : Mach) (spa : Nat) : Bool := decide (spa < m.managedEnd)

/-- Whether the page's line of the map cannot be read (R275), or its entry holds a combination R238 rules out. -/
def mapUnreadable (m : Mach) (page : Nat) : Bool :=
  m.mapBad.contains page || !entryLegal (m.entry page)

/-- An entry that holds a combination R238 rules out is an uncorrectable map error of that entry (R238, R275). -/
def mapFault (m : Mach) (page : Nat) : Mach :=
  if m.mapBad.contains page || entryLegal (m.entry page) then m
  else ({ m with mapBad := m.mapBad ++ [page] } : Mach).err E.TIER_MAP_UNCORRECTABLE sevContained (homeOf page) 12 (some page) 0

/-- The page at an index of a quadrant (R235). -/
def pageAt (q i : Nat) : Nat := (([0, 1, 2, 3].map (fun j => (i * 4 + j) * 4096)).find? (fun p => homeOf p == q)).getD (i * 4 * 4096)

/-! ### Keys of memory (R308, R310, R333, R334, R337) -/

def slot (m : Mach) (n : Nat) : Slot := m.slots.getD n ⟨0, 0, 0, 0, false, 0, 0, 0, 0, 0, []⟩
def setSlot (m : Mach) (n : Nat) (s : Slot) : Mach :=
  { m with slots := m.slots.put n s ⟨0, 0, 0, 0, false, 0, 0, 0, 0, 0, []⟩ }

/-- Count one use of a slot: saturating at 48 bits; an Active slot that reaches a non-zero LIMIT becomes Exhausted, but
slots 8 to 15 raise LIMIT_OVERRUN instead and Fused slots ignore LIMIT (R333, R334). -/
def useSlot (m : Mach) (n k : Nat) : Mach :=
  let s := m.slot n
  let u := satAdd 48 s.use k
  let hit := s.limit != 0 && decide (s.use < s.limit) && decide (s.limit ≤ u)
  let m := m.setSlot n { s with use := u, state := if hit && s.state == 1 && decide (16 ≤ n) then 3 else s.state }
  if hit && decide (8 ≤ n) && decide (n < 16) then m.err E.SEED_LIMIT_OVERRUN sevCorrected 0 12 none n else m

/-! ### Pipes (R323–R326) -/

def pipe (m : Mach) (q p : Nat) : Pipe := m.pipes.getD (q * 8 + p) ⟨none, []⟩
def setPipe (m : Mach) (q p : Nat) (x : Pipe) : Mach := { m with pipes := m.pipes.put (q * 8 + p) x ⟨none, []⟩ }

def pipesOf (hash : Bool) : List Nat := if hash then [4, 5] else [0, 1, 2, 3]

/-- The block at whose boundary a message may be suspended (R324). -/
def blockOfMode (mode : Nat) : Nat := if mode = 4 ∨ mode = 6 then 64 else if mode = 5 ∨ mode = 7 then 128 else 16

/-- How far a running message has got when it may be suspended: a block boundary from where it was last resumed on. -/
def posNow (m : Mach) (c : CMsg) : Nat :=
  let b := blockOfMode c.mode
  (c.ctx.pos + Config.progress m.free c.queue c.seq % (c.len - c.ctx.pos + 1)) / b * b

/-- A running message can be suspended now (R323, R324, R326): a normal one with at least 32 bytes left, and a free save slot. -/
def canSuspend (m : Mach) (q p : Nat) : Bool :=
  match (m.pipe q p).run with
  | some c => !c.urgent && decide (m.posNow c + 32 ≤ c.len) && decide (c.floor ≤ m.posNow c) && decide ((m.pipe q p).saved.length < 16)
  | none => false

/-- n messages on an urgent privileged channel of a quadrant's CIPH, of so many bytes in all (R305, R345). Each starts and ends within the
command that brings it; where no AES pipe is idle it suspends a normal message, which resumes as it ends (R323, R324, log 118). -/
def privDone (m : Mach) (q n bytes : Nat) : Mach :=
  let m := if m.act R.CIPH_SCHED_SUSPEND_EN q = 1 ∧ (pipesOf false).all (fun p => (m.pipe q p).run.isSome) ∧
      (pipesOf false).any (fun p => m.canSuspend q p) then m.add R.CIPH_SUSPENDS_COUNT n q else m
  (m.add R.CIPH_MESSAGES_COUNT n q).add R.CIPH_BYTES_COUNT bytes q

/-- The IV of R314: the shelf or stream number, FIXED[23:0] and the invocation counter. -/
def gcmIv (first fixed counter : Nat) : List Nat := [first] ++ Crypto.leBytes 3 (fixed % 2 ^ 24) ++ Crypto.beBytes 8 counter

/-- First IVCTR value that refuses IV-building invocations (R315). -/
def ivEnd : Nat := 0xFFFFFFFFFFFFF000

/-- Take n invocation counters of a slot in a CIPH instance: from the block of 4,096 it has drawn, and from a new one where that has
too few left; none where the slot refuses, which one whose IVCTR has come to its end does for a block it has drawn too (R315). -/
def drawIv (m : Mach) (slot q n : Nat) : Option (Mach × Nat) :=
  let k := slot * 4 + q
  let b := m.ivBlocks.getD k (0, 0)
  let s := m.slot slot
  if ivEnd ≤ s.ivctr then none
  else if b.1 + n ≤ b.2 then some ({ m with ivBlocks := m.ivBlocks.ins k (b.1 + n, b.2) }, b.1)
  else some ({ m.setSlot slot { s with ivctr := s.ivctr + 4096 } with ivBlocks := m.ivBlocks.ins k (s.ivctr + n, s.ivctr + 4096) }, s.ivctr)

/-- R337: whether a line or plot (its unit number) of a page is under the new pair of a rotation. -/
def underNew (m : Mach) (page unit : Nat) : Bool :=
  let q := homeOf page
  let p := localIndex page
  m.on R.SEED_MEMROT_ACTIVE &&
  (if m.on (R.SEED_REKEY_PAGE_VALID.at q) && m.get (R.SEED_REKEY_PAGE_PAGE.at q) == p then
     m.get (R.SEED_REKEY_DONE_DONE.at q) / 2 ^ unit % 2 == 1
   else decide (p < m.get (R.SEED_MEMROT_CUR_CURSOR.at q)) && !((m.tq q).deferred.contains page))

/-- The even slot of the memory pair of a unit of a page. -/
def memSlot (m : Mach) (page unit : Nat) : Nat :=
  let cur := m.get R.SEED_MEMROT_CUR
  8 + 2 * (if m.underNew page unit then 1 - cur else cur)

/-- The encryption of a line of a Bed frame (R310). -/
def bedEnc (m : Mach) (spa : Nat) : Seal :=
  let n := m.memSlot (pageOf spa) (spa % 4096 / 64)
  ⟨(m.slot n).key ++ (m.slot (n + 1)).key, spa / 64 * 4⟩

/-- The encryption of a plot of a page (R310). -/
def plotEnc (m : Mach) (page p : Nat) : Seal :=
  let n := m.memSlot page p
  ⟨(m.slot n).key ++ (m.slot (n + 1)).key, 1 + p * 4 + page / 4096 * 64⟩

/-- Write a line of a Bed frame through the channel controller (R221, R227). -/
def writeBed (m : Mach) (spa lda : Nat) (d : Line) (poison : Bool) : Mach :=
  if poison then m.writePoison lda
  else (m.useSlot (m.memSlot (pageOf spa) (spa % 4096 / 64)) 1).writeCoded lda d (some (m.bedEnc spa))

/-- The encryption of a line of a system region (R310); those of the regions beside the map are not formed (log 123). -/
def sysEnc (m : Mach) (lda : Nat) : Seal := ⟨(m.slot 14).key ++ (m.slot 15).key, 2 + lda / 64 * 4⟩

/-- The map cache writes its dirty lines to DDR5 (R241). The entries nothing has changed are not written out (log 99). -/
def flushMap (m : Mach) : Mach :=
  let m := m.mapDirty.foldl (fun m l =>
    let lda := l * 64
    let q := m.ldaQuad lda
    let i := (lda - q * m.qsize q) / 8
    let d := (List.range 8).foldl (fun a j => a + m.entry (pageAt q (i + j)) * 2 ^ (64 * j)) 0
    (m.useSlot 14 1).writeCoded lda (BitVec.ofNat 512 d) (some (m.sysEnc lda))) m
  { m with mapDirty := [] }

/-- The LDA of a line of a page whose Bed frame has a number (R237). -/
def bedLda (frame spa : Nat) : Nat := frame * 4096 + spa % 4096 / 64 * 64

/-- Read a line of a Bed frame with no further error in its cells. -/
def readBed (m : Mach) (spa frame : Nat) : Mach × ReadRes :=
  m.readCoded (bedLda frame spa) [] (some (m.bedEnc spa)) false

/-- Write the plots of an encoding from an LDA up (R285), one data unit a plot. -/
def writePlots (m : Mach) (page lda : Nat) (b : List Byte) (n : Nat) : Mach :=
  forN (8 * n) (fun i m =>
    let m := if i % 8 = 0 then m.useSlot (m.memSlot page (i / 8)) 1 else m
    m.writeCoded (lda + 64 * i) (BitVec.ofNat 512 (ofBytes ((List.range 64).map (fun j => b.getD (64 * i + j) 0))))
      (some (m.plotEnc page (i / 8)))) m

/-- Read the plots of a Frame page: none where the outer code returns a line Uncorrectable or Poisoned (R289). -/
def readPlots (m : Mach) (page lda n : Nat) : Mach × Option (List Byte) :=
  forN (8 * n) (fun i (r : Mach × Option (List Byte)) =>
    let (m, x) := r.1.readCoded (lda + 64 * i) [] (some (r.1.plotEnc page (i / 8))) false
    (m, match r.2, x with
        | some b, .ok d => some (b ++ bytesOf 64 d.toNat)
        | _, _ => none)) (m, some [])

/-! ### Frame pools (R236, R239) -/

/-- Offset of the frame pool in a quarter (R236); SMAP_GIB above 8 acts as 8. -/
def poolOff (m : Mach) (q : Nat) : Nat :=
  m.get R.TIER_LAYOUT_MAP_TIB q * 2 ^ 29 + 2 ^ 23 + min 8 (m.get R.TIER_LAYOUT_SMAP_GIB q) * 2 ^ 30
    + (if m.on R.TIER_LAYOUT_MIRROR q then 2 ^ 28 else 0)

/-- Bytes of a quarter that channels back: half with a two-way interleave left by a failed pair (R229). -/
def backed (m : Mach) (q : Nat) : Nat :=
  let lost := (quadChans q).any (fun c => m.hon R.HDR_STATUS_STRUCK .ddr c)
  if m.get R.DDR_MAP_WAYS (m.mapChan q) = 1 ∧ lost then m.qsize q / 2 else m.qsize q

def poolLo (m : Mach) (q : Nat) : Nat := (q * m.qsize q + m.poolOff q) / 4096
def poolHi (m : Mach) (q : Nat) : Nat := (q * m.qsize q + m.backed q) / 4096

def quadFrames (m : Mach) (q : Nat) : Tbl Nat := m.frames.keep (fun n _ => decide (m.poolLo q ≤ n) && decide (n < m.poolHi q))

/-- FREE of R273. -/
def syncFree (m : Mach) (q : Nat) : Mach :=
  let fs := m.quadFrames q
  if 4 ≤ q then m
  else (m.set R.TIER_FREE_FREE_FRAMES (m.poolHi q - m.poolLo q - fs.length) q).set R.TIER_FREE_PLOT_FRAMES
    (fs.filter (fun e => e.2 != 256)).length q

/-- The first free frame at or after n, wrapping in the pool; `fuel` bounds the frames in use that are passed. -/
def freeFrom (fs : Tbl Nat) (lo hi : Nat) : Nat → Nat → Option Nat
  | 0, _ => none
  | fuel + 1, n => if (fs.find n).isNone then some n else freeFrom fs lo hi fuel (if n + 1 < hi then n + 1 else lo)

/-- Take a free frame of the pool; which one is open (log 8), so the search starts at a free value. -/
def takeFrame (m : Mach) (q use : Nat) : Mach × Option Nat :=
  let lo := m.poolLo q
  let hi := m.poolHi q
  let fs := m.quadFrames q
  if hi - lo ≤ fs.length then (m, none)
  else
    let (m, v) := m.fresh
    match freeFrom fs lo hi (fs.length + 1) (lo + v.toNat % (hi - lo)) with
    | some n => (({ m with frames := m.frames.ins n use }).syncFree q, some n)
    | none => (m, none)

def freeBed (m : Mach) (n : Nat) : Mach := ({ m with frames := m.frames.erase n }).syncFree (m.ldaQuad (n * 4096))

/-- Bits of a run of n plots from plot i. -/
def runBits (i n : Nat) : Nat := (2 ^ n - 1) * 2 ^ i

def runFree (use i n : Nat) : Bool := decide (i + n ≤ 8) && Nat.land use (runBits i n) == 0

/-- Length of the hole that starts at plot i, where plot i − 1 is in use or i is 0. -/
def holeAt (use i : Nat) : Nat := ((List.range 9).filter (fun n => runFree use i n)).foldl max 0

/-- The holes of a slot or plot frame: first plot and length. -/
def holes (use : Nat) : List (Nat × Nat) :=
  ((List.range 8).filter (fun i => (i == 0 || use / 2 ^ (i - 1) % 2 == 1) && holeAt use i != 0)).map (fun i => (i, holeAt use i))

/-- Best fit: the smallest hole that holds n plots, the lowest on a tie (log 8): table key, first plot. -/
def bestFit (fs : Tbl Nat) (n : Nat) : Option (Nat × Nat) :=
  let cand := fs.flatMap (fun e => if e.2 ≥ 255 then [] else ((holes e.2).filter (fun h => decide (n ≤ h.2))).map (fun h => (h.2, e.1, h.1)))
  (cand.foldl (fun (b : Option (Nat × Nat × Nat)) c =>
    match b with
    | none => some c
    | some x => if c.1 < x.1 then some c else some x) none).map (fun x => (x.2.1, x.2.2))

/-- Allocate a run of n plots in a quadrant: first plot number (R239). -/
def takePlots (m : Mach) (q n : Nat) : Mach × Option Nat :=
  match bestFit (m.quadFrames q) n with
  | some (f, i) => (({ m with frames := m.frames.ins f (m.frames.getD f 0 + runBits i n) }).syncFree q, some (f * 8 + i))
  | none =>
    match m.takeFrame q (runBits 0 n) with
    | (m, some f) => (m, some (f * 8))
    | (m, none) => (m, none)

def freePlots (m : Mach) (p n : Nat) : Mach :=
  let f := p / 8
  let u := m.frames.getD f 0
  let u' := u - Nat.land u (runBits (p % 8) n)
  ({ m with frames := if u' = 0 then m.frames.erase f else m.frames.ins f u' }).syncFree (m.ldaQuad (f * 4096))

/-! ### Shelves (R255, R316, R441) -/

/-- Page slots of a shelf of a capacity (R441). -/
def slotsOf (capGib : Nat) : Nat := (capGib * 262144 - 1) * 16 / 17

def noShelf : Shelf := ⟨0, false, 0, false, false, 0, 0⟩
def shelfState (m : Mach) (n : Nat) : Nat := m.get (R.TIER_SHELF_STAT_STATE.at n)
def setShelfState (m : Mach) (n st : Nat) : Mach := m.set (R.TIER_SHELF_STAT_STATE.at n) st
def shelf (m : Mach) (n : Nat) : Shelf := m.shelves.getD n noShelf
def setShelf (m : Mach) (n : Nat) (s : Shelf) : Mach :=
  { m with shelves := m.shelves.put n s noShelf }

/-- Storage address of a byte of a shelf: the HDM address of R439. -/
def hdm (n a : Nat) : Nat := 2 ^ 47 + n * 2 ^ 41 + a

/-- Byte of a shelf where a plot lies (R441). -/
def plotByte (p : Nat) : Nat := (1 + p / 8) * 4096 + p % 8 * 512

/-- Slots of each quadrant's share (R255). -/
def shareSlots (m : Mach) (n : Nat) : Nat := slotsOf (m.get (R.TIER_SHELF_STAT_CAP_GIB.at n)) / 4

def smapKey (n s : Nat) : Nat := n * 2 ^ 32 + s

/-- The space map bytes of a quadrant's share that are not 0. -/
def shareMap (m : Mach) (n q : Nat) : Tbl Nat :=
  m.smap.keep (fun k _ => k / 2 ^ 32 == n && decide (q * m.shareSlots n ≤ k % 2 ^ 32) && decide (k % 2 ^ 32 < (q + 1) * m.shareSlots n))

/-- Free plots of a quadrant's share of a shelf. -/
def shareFree (m : Mach) (n q : Nat) : Nat :=
  8 * m.shareSlots n - (m.shareMap n q).foldl (fun a e => a + ((List.range 8).filter (fun i => e.2 / 2 ^ i % 2 == 1)).length) 0

/-- Whether a share has room for a run of n plots, or for a whole slot where n is 8 (R253). -/
def shelfFits (m : Mach) (n q k : Nat) : Bool :=
  let fs := m.shareMap n q
  decide (fs.length < m.shareSlots n) || (k != 8 && (bestFit fs k).isSome)

/-- Take a whole slot of a share (CMP 0); which is open (log 8). -/
def takeSlot (m : Mach) (n q use : Nat) : Mach × Option Nat :=
  let fs := m.shareMap n q
  let lo := smapKey n (q * m.shareSlots n)
  let hi := lo + m.shareSlots n
  if hi - lo ≤ fs.length then (m, none)
  else
    let (m, v) := m.fresh
    match freeFrom fs lo hi (fs.length + 1) (lo + v.toNat % (hi - lo)) with
    | some k => ({ m with smap := m.smap.ins k use }, some (k % 2 ^ 32))
    | none => (m, none)

/-- Take a run of n plots of a share (CMP 1): first plot number on the shelf. -/
def takeShelfPlots (m : Mach) (n q k : Nat) : Mach × Option Nat :=
  match bestFit (m.shareMap n q) k with
  | some (s, i) => ({ m with smap := m.smap.ins s (m.smap.getD s 0 + runBits i k) }, some (s % 2 ^ 32 * 8 + i))
  | none =>
    match m.takeSlot n q (runBits 0 k) with
    | (m, some s) => (m, some (s * 8))
    | (m, none) => (m, none)

/-- Units of a page on a shelf (R312). -/
def unitsOf (cmp : Bool) (plots : Nat) : Nat := if cmp then plots + 1 else 8

/-- Plot number of a unit of a Shed page: the same number indexes its tag entry (R316, R441). -/
def unitPlot (cmp : Bool) (place u : Nat) : Nat := if cmp then place + u else 8 * place + u

def tagKey (n p : Nat) : Nat := n * 2 ^ 40 + p

/-- SHED_UNITS of a Shed slot, 12 or 13 (R342). -/
def unitsFld (slot : Nat) : Fld := R.SEED_SHED_UNITS_UNITS.at ((slot - 12) % 2)

/-- One unit fewer under the slot a tag entry names, whose storage is freed or rewritten (R342). -/
def dropTag (m : Mach) (n p : Nat) : Mach :=
  match m.tags.find (tagKey n p) with
  | none => m
  | some t =>
    let f := unitsFld t.slot
    ({ m with tags := m.tags.erase (tagKey n p) }).set f (m.get f - 1)

/-- Free the space of a Shed page: its space map bits and its units (R255, R342). -/
def freeShelf (m : Mach) (n place plots : Nat) (cmp : Bool) : Mach :=
  let m := forN (unitsOf cmp plots) (fun u m => m.dropTag n (unitPlot cmp place u)) m
  let k := smapKey n (if cmp then place / 8 else place)
  let u := m.smap.getD k 0
  let bits := if cmp then runBits (place % 8) (plots + 1) else 255
  let u' := u - Nat.land u bits
  { m with smap := if u' = 0 then m.smap.erase k else m.smap.ins k u' }

/-- Free where an entry's contents lie. -/
def freeLoc (m : Mach) (tier loc plots : Nat) (cmp : Bool) : Mach :=
  if tier = tierBed then m.freeBed loc
  else if tier = tierFrame then m.freePlots loc (plots + 1)
  else if tier = tierShed then m.freeShelf (locShelf loc) (locPlace loc) plots cmp
  else m

/-- The current Shed slot (R308). -/
def shedSlot (m : Mach) : Nat := 12 + m.get R.SEED_SHEDROT_CUR

/-- Verify the unit at a plot of a shelf as the SHED channel does (R317): the slot is a Shed slot that is not Empty, holds
the key the unit was sealed under, and the AAD is that of the page (R313). -/
def unitOk (m : Mach) (n : Nat) (page u : Nat) (cmp : Bool) (plots place : Nat) : Bool :=
  match m.tags.find (tagKey n (unitPlot cmp place u)) with
  | none => false
  | some t =>
    (t.slot == 12 || t.slot == 13) && (m.slot t.slot).state != 0 && t.key == (m.slot t.slot).key &&
    t.ident == (m.shelf n).ident && t.spa == page && t.unit == u && t.cmp == cmp && t.plots == (if cmp then plots else 0)

/-- Byte of a shelf a KIND 0 record goes to (R268). -/
def recByte (r : JRec) : Nat := plotByte (if r.cmp then r.place else 8 * r.place) + 64 * r.off

/-- The tag records of a run of n units whose first tag entry is p: for each aligned pair of entries the first entry, the byte mask of
the entries the record writes, and the unit of the first (R316). -/
def tagPairs (p n : Nat) : List (Nat × Nat × Nat) :=
  let inRun (x : Nat) : Bool := decide (p ≤ x) && decide (x < p + n)
  ((List.range (n + 1)).map (fun i => (p / 2 + i) * 2)).filterMap (fun x =>
    if inRun x || inRun (x + 1) then
      some (x, (if inRun x then 2 ^ 32 - 1 else 0) + (if inRun (x + 1) then (2 ^ 32 - 1) * 2 ^ 32 else 0), if inRun x then x - p else x + 1 - p)
    else none)

/-- The tag entries a mask selects: 0 the first of the pair, 1 the second. -/
def maskTags (mask : Nat) : List Nat := [0, 1].filter (fun h => mask / 2 ^ (32 * h) % 2 == 1)

/-- The plaintext of a plot of a shelf, with the move writes of it that the journal still holds. -/
def plotPlain (m : Mach) (shelf p : Nat) : List Byte :=
  (List.range 8).flatMap (fun i =>
    match (m.journal.filter (fun r => r.kind == 0 && r.shelf == shelf && recByte r == plotByte p + 64 * i)).getLast? with
    | some r => bytesOf 64 r.data.toNat
    | none => m.bytes (hdm shelf (plotByte p + 64 * i)) 64)

/-- The AAD of a unit of a page (R313). -/
def unitAad (ident page unit : Nat) (cmp : Bool) (plots : Nat) : List Nat :=
  Crypto.leBytes 8 ident ++ Crypto.leBytes 8 page ++ [unit % 256, cmp.toNat + 2 * (plots % 8)] ++ Crypto.zeros 6

/-- The tag entry of a plot sealed under a slot with an invocation counter (R312–R314, R316): TAG, COUNTER and SLOT. -/
def sealUnit (m : Mach) (r : JRec) (h i slot counter : Nat) : Nat :=
  let s := m.slot slot
  let key := Crypto.ofB s.key
  let iv := gcmIv r.shelf s.fixed counter
  let ct := Crypto.gcmCrypt key iv (Crypto.ofB (m.plotPlain r.shelf (r.place + h)))
  Crypto.leVal (Crypto.gcmTag key iv (unitAad (m.shelf r.shelf).ident (pageOf r.spa) (r.unit + i) r.cmp (if r.cmp then r.plots else 0)) ct) +
    counter * 2 ^ 128 + slot * 2 ^ 192

/-- The units of a tag record are sealed: each takes a fresh invocation counter of the current Shed slot (R268, R315, R316); none where
the slot refuses. -/
def sealTags (m : Mach) (r : JRec) : Option (Mach × Line) :=
  let n := m.shedSlot
  let hs := maskTags r.mask
  (m.drawIv n r.q hs.length).map (fun (m, c) =>
    let d := (List.range hs.length).foldl (fun a i => a + m.sealUnit r (hs.getD i 0) i n (c + i) * 2 ^ (256 * hs.getD i 0)) 0
    ((m.useSlot n hs.length).privDone r.q hs.length (512 * hs.length), BitVec.ofNat 512 d))

/-- A journal record goes to its shelf, the units of a tag record sealed on the way (R268, R315): one whose units cannot be sealed stays. -/
def sendRecord (m : Mach) (r : JRec) : Mach :=
  match (if r.kind = 2 then m.sealTags r else some (m, r.data)) with
  | none => m
  | some (m, d) => { m with journal := m.journal.map (fun x => if x.q = r.q ∧ x.seq = r.seq then { x with sent := true, data := d } else x) }

/-- Units of a page read and verified on the SHED channel of a quadrant: each is a GCM invocation of the slot its tag entry names
(R305, R317, R333). -/
def shedRead (m : Mach) (q n : Nat) (cmp : Bool) (place : Nat) (us : List Nat) : Mach :=
  us.foldl (fun m u =>
    match m.tags.find (tagKey n (unitPlot cmp place u)) with
    | some t => if t.slot = 12 ∨ t.slot = 13 then (m.useSlot t.slot 1).privDone q 1 512 else m
    | none => m) m

/-- The 512 bytes of a unit as the shelf holds them. -/
def unitBytes (m : Mach) (n : Nat) (cmp : Bool) (place u : Nat) : List Byte := m.bytes (hdm n (plotByte (unitPlot cmp place u))) 512

/-- Free what a page's entry names, unless the shelf it lay on has been released since (R262). -/
def freePage (m : Mach) (page : Nat) : Mach :=
  let q := homeOf page
  let t := m.tq q
  let e := m.entry page
  if t.gone.contains page then m.setTq q { t with gone := t.gone.filter (· != page) }
  else if eState e = stZero then m
  else m.freeLoc (eTier e) (eLoc e) (ePlots e) (eCmp e)

/-- A page of the mirror window, whose TIER share is tenant 0's (R402). -/
def inMirrorWindow (m : Mach) (page : Nat) : Bool :=
  let lo := m.get R.PKG_PAIR_MWINDOW_BASE_GIB * 2 ^ 30
  m.get R.PKG_PAIR_STATE_STATE != 0 && decide (lo ≤ page) && decide (page < lo + m.get R.PKG_PAIR_MWINDOW_SIZE_GIB * 2 ^ 30)

/-- The tenant whose shares a page counts against (R256, R402). -/
def acctTenant (m : Mach) (page : Nat) : Nat := if m.inMirrorWindow page then 0 else eTenant (m.entry page)

/-- Tenants' pages in a tier and quadrant (R256): a page in a move counts at its source; Zero and None count nowhere. -/
def tierUse (m : Mach) (t tier q : Nat) : Nat :=
  (m.pmap.filter (fun e =>
    let v := e.2.toNat
    homeOf (e.1 * 4096) == q && eTier v == tier && eState v != stZero && m.acctTenant (e.1 * 4096) == t)).length

def pinnedUse (m : Mach) (t q : Nat) : Nat :=
  (m.pmap.filter (fun e => let v := e.2.toNat; homeOf (e.1 * 4096) == q && eTenant v == t && ePin v)).length

/-- The share of a quota in one quadrant (R256). -/
def share (quota tier : Nat) : Nat := if tier = tierBed then max 16 (quota / 4) else quota / 4

/-! ### Uncore events (R522, R523) -/

/-- Counter n of a PMU page wraps to a remainder (R515, R522). -/
def uWrap (m : Mach) (n rest page die : Nat) : Mach :=
  let m := m.set (R.PMU_UCNT_COUNT.at n) rest page die
  let o := m.get R.PMU_UGLOBAL_OVF page die
  let m := if o / 2 ^ n % 2 = 1 then m else m.set R.PMU_UGLOBAL_OVF (o + 2 ^ n) page die
  if m.on R.PMU_UGLOBAL_FREEZE_ON_OVF page die then m.set R.PMU_UGLOBAL_EN 0 page die else m

/-- An uncore event on a PMU page (R522, R523); `tenant` is none where the event has none. -/
def uEvent (m : Mach) (code inst : Nat) (tenant : Option Nat) (page : Nat) (die : Nat := 12) : Mach :=
  let en := m.get R.PMU_UGLOBAL_EN page die
  if en = 0 then m
  else
    forN 4 (fun n m =>
      let sel := m.reg (pageOff die .pmu page + 0x140 + 16 * n)
      let i := bitsOf sel 8 6
      let tok := bitsOf sel 35 1 = 0 ∨ tenant = some (bitsOf sel 24 11)
      let add := if bitsOf sel 15 1 = 1 then 0 else if 1 < bitsOf sel 16 8 then 0 else 1
      if en / 2 ^ n % 2 = 1 ∧ bitsOf sel 0 8 = code ∧ (i = 0x3F ∨ i = inst) ∧ tok then
        let x := m.get (R.PMU_UCNT_COUNT.at n) page die + add
        if x < 2 ^ 48 then m.set (R.PMU_UCNT_COUNT.at n) x page die else m.uWrap n x page die
      else m) m

/-- An event at a quadrant whose tenant is that of a page. -/
def qEvent (m : Mach) (code line : Nat) : Mach :=
  m.uEvent code 0x3F (some (eTenant (m.entry (pageOf (line * 64))))) (homeOf (line * 64))

/-- A request ordered at a home, with its look-up in the map cache of the quadrant's TIER (R523): whether the entry is there is no part
of the state, and a free value says so where a counter counts it (log 99). -/
def homeOrdered (m : Mach) (line : Nat) : Mach :=
  let m := m.qEvent 1 line
  let q := homeOf (line * 64)
  let en := m.get R.PMU_UGLOBAL_EN q
  let asks (n : Nat) : Bool := en / 2 ^ n % 2 == 1 && [6, 7].contains (m.get (R.PMU_USEL_EVENT.at n) q)
  if (List.range 4).any asks then
    let (m, v) := m.fresh
    m.qEvent (6 + v.toNat % 2) line
  else m

end Mach
end Sys2Proof.Machine
end

