-- ==== Sys2Proof/Machine/Wire.lean ====
section
/-! DEFINITION. Bytes on the links: CRC-32 (R417, R424) and the records of the mirror stream (R397, R398). -/

/-- LEN of a record (R398). -/
def Sys2Proof.Machine.MBody.len : Sys2Proof.Machine.MBody → Nat
  | .line .. => 80
  | .page _ _ _ zero _ _ => if zero then 16 else 4112
  | .map .. => 16
  | .accept .. => 112
  | .complete .. => 48
  | .context .. => 128
  | .queue .. => 64
  | .range .. => 32
  | .key .. => 80
  | .sync => 0

namespace Sys2Proof.Wire
open Sys2Proof.Machine

/-- One bit of the CRC register. -/
def crcBit (c b : Nat) : Nat :=
  let f := Nat.xor (c / 2 ^ 31 % 2) b
  Nat.xor (c * 2 % 2 ^ 32) (f * 0x04C11DB7)

/-- CRC-32 of R417: the most significant bit of each byte first (log 31). -/
def crc32 (b : List Byte) : Nat :=
  Nat.xor 0xFFFFFFFF
    (b.foldl (fun c x => (List.range 8).foldl (fun c i => crcBit c (x.toNat / 2 ^ (7 - i) % 2)) c) 0xFFFFFFFF)

/-- A number of n bytes at an offset. -/
def nat (b : List Byte) (o n : Nat) : Nat := ofBytes ((b.drop o).take n)

def lineAt (b : List Byte) (o : Nat) : Line := BitVec.ofNat 512 (nat b o 64)

/-- A record's payload (R398): none for a kind that is not listed or a payload that is too short. -/
def body (kind flags : Nat) (p : List Byte) : Option MBody :=
  let poison := flags % 2 == 1
  let zero := flags / 4 % 2 == 1
  match kind with
  | 1 => if p.length < 80 then none else some (.line (nat p 0 8) (nat p 8 2) (lineAt p 16) poison)
  | 2 =>
    if p.length < (if zero then 16 else 4112) then none
    else some (.page (nat p 0 8) (nat p 8 2) (nat p 10 1 % 2 == 1) zero poison
      (if zero then [] else (List.range 64).map (fun i => lineAt p (16 + 64 * i))))
  | 3 => if p.length < 16 then none else some (.map (nat p 0 8) (nat p 8 2) (nat p 10 1) (nat p 11 1 % 2 == 1))
  | 4 => if p.length < 112 then none else some (.accept (nat p 0 2) (nat p 2 2) (nat p 4 4) ((p.drop 16).take 96))
  | 5 =>
    if p.length < 48 then none
    else some (.complete (nat p 0 2) (nat p 2 2) (nat p 4 4) (nat p 8 2) (nat p 10 1 % 2 == 1) ((p.drop 16).take 32))
  | 6 =>
    if p.length < 128 then none
    else some (.context (nat p 0 2) (nat p 2 1) (nat p 4 2) (nat p 8 8) ((List.range 8).map (fun n => nat p (16 + 8 * n) 8))
      ((List.range 3).map (fun n => nat p (80 + 8 * n) 8)))
  | 7 => if p.length < 64 then none else some (.queue (nat p 0 2) (nat p 2 1) ((List.range 5).map (fun n => nat p (8 + 8 * n) 8)))
  | 8 => if p.length < 32 then none else some (.range (nat p 0 2) (nat p 2 1) (nat p 8 8) (nat p 16 8) (nat p 24 8))
  | 9 => if p.length < 80 then none else some (.key (nat p 0 2) (nat p 2 2) (nat p 4 1 % 2 == 1) ((p.drop 16).take 56))
  | 10 => some .sync
  | _ => none

/-- KIND, FLAGS without RESEND, and the payload of a record up to its last byte that is not 0 by the layout (R397, R398). -/
def spell : MBody → Nat × Nat × List Byte
  | .line a t d poison => (1, poison.toNat, bytesOf 8 a ++ bytesOf 8 t ++ bytesOf 64 d.toNat)
  | .page a t sleepok zero poison ls =>
    (2, poison.toNat + 4 * zero.toNat, bytesOf 8 a ++ bytesOf 2 t ++ bytesOf 6 sleepok.toNat ++ if zero then [] else ls.flatMap (fun d => bytesOf 64 d.toNat))
  | .map a t op sleepok => (3, 0, bytesOf 8 a ++ bytesOf 2 t ++ bytesOf 1 op ++ bytesOf 1 sleepok.toNat)
  | .accept n gen seq entry => (4, 0, bytesOf 2 n ++ bytesOf 2 gen ++ bytesOf 12 seq ++ entry)
  | .complete n gen seq i phase rec_ => (5, 0, bytesOf 2 n ++ bytesOf 2 gen ++ bytesOf 4 seq ++ bytesOf 2 i ++ bytesOf 6 phase.toNat ++ rec_)
  | .context t op gen cfg keys quotas =>
    (6, 0, bytesOf 2 t ++ bytesOf 2 op ++ bytesOf 4 gen ++ bytesOf 8 cfg ++ ((keys ++ List.replicate 8 0).take 8).flatMap (bytesOf 8) ++ quotas.flatMap (bytesOf 8))
  | .queue n st regs => (7, 0, bytesOf 2 n ++ bytesOf 6 st ++ regs.flatMap (bytesOf 8))
  | .range set n b t s => (8, 0, bytesOf 2 set ++ bytesOf 6 n ++ bytesOf 8 b ++ bytesOf 8 t ++ bytesOf 8 s)
  | .key s gen destroyed w => (9, 0, bytesOf 2 s ++ bytesOf 2 gen ++ bytesOf 12 destroyed.toNat ++ w)
  | .sync => (10, 0, [])

/-- A record as it goes out: its header of 16 bytes and LEN bytes of payload (R397). -/
def encode (r : MRec) : List Byte :=
  let (kind, flags, p) := spell r.body
  let n := r.body.len
  bytesOf 1 kind ++ bytesOf 1 (flags + 2 * r.resend.toNat) ++ bytesOf 2 n ++ bytesOf 4 0 ++ bytesOf 8 r.seq ++ (p ++ List.replicate n 0).take n

/-- The records from the front of a list that fit a number of bytes (R399). -/
def packed : Nat → List MRec → List MRec
  | _, [] => []
  | room, r :: l => if 16 + r.body.len ≤ room then r :: packed (room - 16 - r.body.len) l else []

/-- The records of a batch, in order: what follows a malformed one is not taken. -/
def records : Nat → List Byte → List MRec
  | 0, _ => []
  | fuel + 1, b =>
    if b.length < 16 then []
    else
      let flags := nat b 1 1
      let len := nat b 2 2
      match body (nat b 0 1) flags ((b.drop 16).take len) with
      | none => []
      | some x => ⟨nat b 8 8, flags / 2 % 2 == 1, x, none⟩ :: records fuel (b.drop (16 + len))

end Sys2Proof.Wire
end

