-- ==== Sys2Proof/Machine/Mirror.lean ====
section
/-! DEFINITION. The records of the mirror stream as a package sends them (R397–R403). -/
namespace Sys2Proof.Machine
namespace Mach

/-- MODE whose acceptance rules apply: in DRAIN those of PREV_MODE (R74, R381). -/
def acceptMode (m : Mach) : Nat := if m.mode = 8 then m.get R.PKG_MODE_PREV_MODE else m.mode

def pairState (m : Mach) : Nat := m.get R.PKG_PAIR_STATE_STATE

/-- R400: the mirror is fed in Forming, Resync, Paired and Severed. -/
def mirrorFed (m : Mach) : Bool := [1, 2, 3, 4].contains m.pairState

/-- A function as after a fundamental reset: MSI-X vectors are masked. -/
def ldReset : LdFn where
  mse := false
  bme := false
  bars := []
  d3 := false
  msixOn := false
  msixMask := false
  msix := []
  pba := []
  lastMsg := none
  msgs := 0
  ltrEn := false
  ltrLast := 0
  ltrSent := 0
  ltrAt := none
  hdm := none
  logs := []
  nextHandle := 1
  policy := 0
  stamp := 0
  stampAt := 0
  mail := .none
  resp := none
  dropsN := 0
  dropsM := 0
  draining := false
  released := false
  flr := false
  change := 0
  cat := []

def ldFn (m : Mach) (k : Nat) : LdFn := m.lds.getD k ldReset
def setLd (m : Mach) (k : Nat) (x : LdFn) : Mach := { m with lds := m.lds.put k x ldReset }

/-- Number a write of a foreign host goes by: the logical device and the line of its device address. -/
def hostKey (k dpa : Nat) : Nat := 2 ^ 16 + k + 2 ^ 32 * (dpa / 64)

/-- A foreign host's write has been accepted, and the endpoint returns its completion (R381). -/
def hostDone (m : Mach) (key : Nat) : Mach :=
  let k := (key - 2 ^ 16) % 2 ^ 32
  m.setLd k { m.ldFn k with resp := some ⟨true, (key - 2 ^ 16) / 2 ^ 32 * 64, 0, false⟩ }

/-- A durable write has reached its acceptance point: a DurWb counts for its core, a foreign host's write completes. -/
def accepted (m : Mach) (key : Nat) : Mach :=
  if key < 2 ^ 16 then { m with durAcc := m.durAcc.ins key (m.durAcc.getD key 0 + 1) } else m.hostDone key

/-! ### The outbound streams (R396–R403) -/

def setPair (m : Mach) (x : PairSt) : Mach := { m with pair := x }
def streams : List Nat := [0, 1, 2, 3]

def outRing (m : Mach) (q : Nat) : List MRec := m.pair.out.getD q []

/-- Whether a record of n bytes fits the outbound ring of 128 MiB (R401). -/
def ringRoom (m : Mach) (q n : Nat) : Bool :=
  decide ((m.outRing q).foldl (fun a r => a + 16 + r.body.len) (16 + n) ≤ 2 ^ 27)

/-- The records of a stream that have gone out and are not acknowledged (UNACKED, R391). -/
def unacked (m : Mach) (q : Nat) : Nat := ((m.outRing q).filter (fun r => r.resend || decide (r.seq ≤ m.pair.sent.getD q 0))).length

/-- MIRROR_TX shows a stream's outbound ring (R391). -/
def showTx (m : Mach) (q : Nat) : Mach :=
  (m.set (R.PKG_MIRROR_TX_UNACKED.at q) (m.unacked q)).set (R.PKG_MIRROR_TX_FULL.at q) (!m.ringRoom q 80).toNat

/-- A stream's outbound ring from now on; a batch goes with the last of its records. -/
def setOut (m : Mach) (q : Nat) (l : List MRec) : Mach :=
  let p := m.pair
  (m.setPair { p with
    out := p.out.put q l []
    wire := p.wire.put q ((p.wire.getD q []).filter (fun b => l.head?.elim false (fun r => decide (r.seq ≤ b.1)))) [] }).showTx q

/-- A Guyline port carries frames. -/
def guyUp (m : Mach) (n : Nat) : Bool := m.on R.GUY_STATUS_UP n
def guyAny (m : Mach) : Bool := m.guyUp 0 || m.guyUp 1

/-- The port may be used and takes new work (R48, R549). -/
def guyOn (m : Mach) (n : Nat) : Bool := m.hon R.HDR_CONTROL_ENABLE .guy n && !m.hon R.HDR_CONTROL_QUIESCE .guy n

/-- The port that carries a stream: 0 and 1 on GL0, 2 and 3 on GL1, and on the other one while that is down (R396). -/
def streamPort (m : Mach) (q : Nat) : Nat :=
  let p := q / 2
  if m.guyUp p ∨ !m.guyUp (1 - p) then p else 1 - p

/-- The CIPH instance whose MIRROR channel takes a stream: Q0 for GL0, Q3 for GL1 (R305). -/
def mirrorCiph (m : Mach) (q : Nat) : Nat := if m.streamPort q = 0 then 0 else 3

/-- Guyline carries the mirror stream: not in BRINGUP, FROZEN, WARMRESET or MAINTENANCE (R72, R95). -/
def mirrorMode (m : Mach) : Bool := [3, 4, 5, 6, 7, 8].contains m.mode

/-- The states in which records go out: those of R400, in Severed from the resynchronisation on, before which they stay in the rings (R404,
log 120), and Handback (R412). -/
def mirrorSends (m : Mach) : Bool :=
  let st := m.pairState
  st == 1 || st == 2 || st == 3 || st == 7 || (st == 4 && m.pair.step == 5)

/-- Records of a stream may go out now: its port is up and takes new work. -/
def guySends (m : Mach) (q : Nat) : Bool :=
  m.mirrorMode && m.mirrorSends && m.guyUp (m.streamPort q) && m.guyOn (m.streamPort q)

/-- One batch of a stream (R399): a GCM message on the MIRROR channel under the TX slot, its IV under R314 with the stream in byte 0, its
AAD the stream and the SEQ of its first record, laid out as R425 says. None where the slot takes no message (R315, R334). The batch is
kept until its last record is acknowledged. -/
def sealBatch (m : Mach) (q : Nat) (rs : List MRec) : Option Mach :=
  let tx := m.get R.PKG_PAIR_KEYS_TX
  let ch := m.mirrorCiph q
  match (if (m.slot tx).state = 1 then m.drawIv tx ch 1 else none) with
  | none => none
  | some (m, c) =>
    let s := m.slot tx
    let text := rs.flatMap Wire.encode
    let first := rs.head?.elim 0 (·.seq)
    let last := rs.getLast?.elim 0 (·.seq)
    let key := Crypto.ofB s.key
    let iv := gcmIv q s.fixed c
    let ct := Crypto.gcmCrypt key iv (Crypto.ofB text)
    let tag := Crypto.gcmTag key iv (q :: Crypto.leBytes 8 first) ct
    let b := bytesOf 8 text.length ++ bytesOf 8 first ++ bytesOf 8 c ++ Crypto.toBytes ct ++ Crypto.toBytes tag
    let p := m.pair
    let m := m.setPair { p with sent := p.sent.ins q last, wire := p.wire.put q (p.wire.getD q [] ++ [(last, b)]) [] }
    some (((m.useSlot tx 1).privDone ch 1 text.length).add R.PKG_MIRROR_BYTES_COUNT text.length)

/-- The records of a stream that have not gone out yet. -/
def unsent (m : Mach) (q : Nat) : List MRec := (m.outRing q).filter (fun r => decide (m.pair.sent.getD q 0 < r.seq))

/-- Batches of at most 64 KiB, as long as records are left; each takes one record at least. -/
def sendBatches (m : Mach) (q : Nat) : Nat → Mach
  | 0 => m
  | n + 1 =>
    match Wire.packed 65536 (m.unsent q) with
    | [] => m
    | rs => match m.sealBatch q rs with
      | none => m
      | some m => sendBatches m q n

/-- A stream's records go out where they may (R399, R400). -/
def sendStream (m : Mach) (q : Nat) : Mach :=
  if m.guySends q && !(m.unsent q).isEmpty then (m.sendBatches q (m.unsent q).length).showTx q else m

def sendStreams (m : Mach) : Mach := streams.foldl (fun m q => m.sendStream q) m

/-- Some streams have to send again from their lowest SEQ not acknowledged: what has gone out carries RESEND the next time (R400, log 120). -/
def unsend (m : Mach) (l : List Nat) : Mach :=
  l.foldl (fun m q =>
    let p := m.pair
    m.setPair { p with
      out := p.out.put q ((m.outRing q).map (fun r => { r with resend := r.resend || decide (r.seq ≤ p.sent.getD q 0) })) []
      sent := p.sent.erase q, wire := p.wire.erase q }) m

/-- R400: the records of some streams that are not acknowledged go again. -/
def resend (m : Mach) (l : List Nat) : Mach := (m.unsend l).sendStreams

/-- Send a record on stream q, whatever the state: kept in the outbound ring until it is acknowledged (R400, R403). `forDur` and
an ACCEPT record of a durable queue name what its acknowledgement accepts; where a ring that has overflowed keeps no new record in SEVERED,
that is still owed. -/
def emitRec (m : Mach) (q : Nat) (body : MBody) (forDur : Option Nat) : Mach :=
  if (!m.ringRoom q body.len || m.pair.lost.contains q) && m.acceptMode == 6 && m.pair.step != 5 then
    let owed : List (Nat × Nat) := match forDur with
      | some k => [(0, k)]
      | none => []
    let p := m.pair
    let m := m.setPair { p with owed := p.owed ++ owed, lost := if p.lost.contains q then p.lost else p.lost ++ [q] }
    (m.set R.PKG_PAIR_STATE_RESYNC_NEEDED 1).set (R.PKG_MIRROR_TX_FULL.at q) 1
  else
    let n := m.pair.next.getD q 1
    let m := m.setOut q (m.outRing q ++ [⟨n, false, body, forDur⟩])
    (m.setPair { m.pair with next := m.pair.next.ins q (n + 1) }).sendStream q

/-- Send a record while the mirror is fed (R400). -/
def mirror (m : Mach) (q : Nat) (body : MBody) (forDur : Option Nat := none) : Mach :=
  if m.mirrorFed then m.emitRec q body forDur else m

/-- R403: in PAIRED a full outbound ring holds the durable writes of its quadrant. -/
def durHeld (m : Mach) (q : Nat) : Bool := m.mirrorFed && m.acceptMode == 4 && !m.ringRoom q 80

/-- Whether a page's map change is mirrored (R398). -/
def mirrorMap (m : Mach) (page op : Nat) : Mach :=
  let e := m.entry page
  m.mirror (homeOf page) (.map page (eTenant e) op (eSleepok e))

end Mach
end Sys2Proof.Machine
end

