-- ==== Sys2Proof/Machine/Tier.lean ====
section
/-! DEFINITION. The tier engine: the value of a line at its home, promotions, demotions and their endings, the fills of
Zero and Poisoned pages, and the shed journal (R242–R272, R289, R338–R339, R548). -/
namespace Sys2Proof.Machine
namespace Mach

/-! ### Agents of the domain, as numbers: dies 0 to 11, then the non-caching agents (R178) -/

def agentBulk (q : Nat) : Nat := 16 + q
def agentTier (q : Nat) : Nat := 20 + q
def agentCodec (q : Nat) : Nat := 24 + q
def agentRake (q : Nat) : Nat := 28 + q
def agentPg (n : Nat) : Nat := 32 + n
def agentEp (n : Nat) : Nat := 48 + n
def agentMc : Nat := 64
/-- BULK instances writing queue logs. -/
def agentLog : Nat := 65
def agentHome (q : Nat) : Nat := 72 + q

def isDie (a : Nat) : Bool := decide (a < 12)

def tierReady (m : Mach) (q : Nat) : Bool := m.hon R.HDR_STATUS_READY .tier q

/-- The channels a line needs are READY: that of its LDA. -/
def chanReady (m : Mach) (lda : Nat) : Bool := decide ((m.ldaChan lda).1 < 16) && m.hon R.HDR_STATUS_READY .ddr (m.ldaChan lda).1

/-- The quotas of tenant 0 before a RESIZE gives it some: the spec gives none, so they bound nothing (log 9). -/
def quota0 : Nat := 2 ^ 40 - 1

/-- A page quota of a tenant (R256). -/
def quotaOf (m : Mach) (t tier : Nat) : Nat :=
  match m.tenants.find t with
  | none => if t = 0 then quota0 else 0
  | some x => if tier = tierBed then x.qBed else if tier = tierFrame then x.qFrame else x.qShed

/-- Room for one page more in a tenant's share. -/
def hasRoom (m : Mach) (t tier q : Nat) : Bool := decide (m.tierUse t tier q < share (m.quotaOf t tier) tier)

/-! ### MSC (R165, R175) -/

def mscLine (m : Mach) (line : Nat) : Option MscLine := m.msc.find line

/-- OCC of a part. -/
def syncOcc (m : Mach) (q : Nat) : Mach :=
  let ls := m.msc.filter (fun e => homeOf (e.1 * 64) == q)
  (m.set R.MSC_OCC_CLEAN (ls.filter (fun e => !e.2.dirty)).length q).set R.MSC_OCC_DIRTY (ls.filter (fun e => e.2.dirty)).length q

def putMsc (m : Mach) (line : Nat) (x : MscLine) : Mach := ({ m with msc := m.msc.ins line x }).syncOcc (homeOf (line * 64))
def dropMsc (m : Mach) (line : Nat) : Mach := ({ m with msc := m.msc.erase line }).syncOcc (homeOf (line * 64))

/-- Set of a line in its MSC part (R161). -/
def mscSet (line : Nat) : Nat :=
  let l := qlineOf (line * 64)
  Nat.xor (bitsOf l 0 14) (bitsOf l 14 14)

/-- Active ways: 12 while the boot window holds ways 12–15 of the Q0 part (R176). -/
def mscWays (m : Mach) (q : Nat) : Nat := if q = 0 && m.on R.PKG_BOOT_WINDOW_VALID then 12 else 16

def mscInSet (m : Mach) (line : Nat) : Tbl MscLine :=
  m.msc.keep (fun l _ => homeOf (l * 64) == homeOf (line * 64) && mscSet l == mscSet line)

/-- A line is in the MSC, or its set has a way for it. -/
def mscRoom (m : Mach) (line : Nat) : Bool :=
  let set := m.mscInSet line
  (set.find line).isSome || decide (set.length < m.mscWays (homeOf (line * 64)))

/-! ### The shed journal (R267–R269) -/

def quadJournal (m : Mach) (q : Nat) : List JRec := m.journal.filter (fun r => r.q == q)

/-- JOURNAL of R273. -/
def syncJournal (m : Mach) (q : Nat) : Mach :=
  let js := m.quadJournal q
  let m := m.set R.TIER_JOURNAL_IN_FLIGHT (js.filter (fun r => r.kind != 1 && r.sent)).length q
  let m := m.set R.TIER_JOURNAL_DORMANT (js.filter (fun r => r.kind == 1)).length q
  m.set R.TIER_JOURNAL_PEAK (max js.length (m.get R.TIER_JOURNAL_PEAK q)) q

def addJournal (m : Mach) (r : JRec) : Mach :=
  let t := m.tq r.q
  ({ (m.setTq r.q { t with seq := t.seq + 1 }) with journal := m.journal ++ [{ r with seq := t.seq }] }).syncJournal r.q

def dropJournal (m : Mach) (q : Nat) (p : JRec → Bool) : Mach :=
  ({ m with journal := m.journal.filter (fun r => !(r.q == q && p r)) }).syncJournal q

/-- Records free to a move, and to a dormant write: 8,192 of the 32,768 are kept for moves (R269). -/
def moveRecsFree (m : Mach) (q : Nat) : Nat := 32768 - (m.quadJournal q).length
def dormantRecsFree (m : Mach) (q : Nat) : Nat :=
  let d := ((m.quadJournal q).filter (fun r => r.kind == 1)).length
  let v := ((m.quadJournal q).filter (fun r => r.kind != 1)).length
  24576 - d - (v - 8192)

/-! ### The value of a line -/

/-- Bytes of a line replaced where a mask has a 1. -/
def mergeLine (old new : Line) (mask : Nat) : Line :=
  BitVec.ofNat 512 (ofBytes ((List.range 64).map (fun i =>
    BitVec.ofNat 8 ((if mask / 2 ^ i % 2 = 1 then new.toNat else old.toNat) / 2 ^ (8 * i)))))

def fullMask : Nat := 2 ^ 64 - 1

/-- Line i of the 4,096 bytes of a page or of one of its 512-byte pieces. -/
def lineOfBytes (b : List Byte) (i : Nat) : Line := BitVec.ofNat 512 (ofBytes ((b.drop (64 * i)).take 64))

/-- A write joins those its home holds until the tiers take it (R187, R382). -/
def putHeld (m : Mach) (r : HReq) : Mach :=
  let q := homeOf (r.line * 64)
  m.setTq q { m.tq q with held := (m.tq q).held ++ [r] }

/-- The writes of a line that its home holds, oldest first; an offer that waits for a way of the MSC is none. -/
def heldWrites (m : Mach) (line : Nat) : List HReq :=
  (m.tq (homeOf (line * 64))).held.filter (fun r => r.line == line && r.k != .evict)

/-- A line's value with the writes its home holds over it: every read there finds them (R113). -/
def heldOver (rs : List HReq) (x : ReadRes) : ReadRes :=
  rs.foldl (fun x r =>
    if r.poison then .poison
    else if r.mask = fullMask then .ok r.data
    else match x with
      | .ok d => .ok (mergeLine d r.data r.mask)
      | x => x) x

/-- The writes held hold the whole line. -/
def heldWhole (rs : List HReq) : Bool := rs.any (fun r => r.mask == fullMask)

/-- The plots of a Shed page with CMP 1, none where a unit fails to verify. -/
def shedPlots (m : Mach) (page loc plots : Nat) : Option (List Byte) :=
  let n := locShelf loc
  (List.range (plots + 1)).foldl (fun b u =>
    match b with
    | none => none
    | some b => if m.unitOk n page u true plots (locPlace loc) then some (b ++ m.unitBytes n true (locPlace loc) u) else none) (some [])

/-- How reading a page's source line ends. -/
inductive Src1 where
  | line (d : Line)
  /-- A tag failure, or a plot line Uncorrectable or Poisoned: the page becomes Poisoned (R249, R289). -/
  | lost
  | badVersion
  | badFormat
  deriving DecidableEq, Repr

def criticalOf (b : List Byte) (plots i : Nat) : Src1 :=
  match Frame.critical b plots i with
  | some d => .line d
  | none => if (Frame.header b).version ≠ 1 then .badVersion else .badFormat

/-- The checks of R287 that complete with the rest of a page (R290). -/
def restOf (b : List Byte) (plots : Nat) : Src1 :=
  match Frame.decodeTier b plots with
  | .page _ => .line 0
  | .badVersion => .badVersion
  | .badFormat => .badFormat

/-- FRAME_VERSION or FRAME_FORMAT with the page as address (R289). -/
def codecError (m : Mach) (page : Nat) : Src1 → Mach
  | .badVersion => m.err E.CODEC_FRAME_VERSION sevContained (homeOf page) 12 (some page) 0
  | .badFormat => m.err E.CODEC_FRAME_FORMAT sevContained (homeOf page) 12 (some page) 0
  | _ => m

/-- A page whose encoding fails R287: the error, and the page's later reads refused (R289). -/
def sourceBad (m : Mach) (page : Nat) (r : Src1) : Mach := (m.codecError page r).markFailed page

/-- One line decoded from where a Frame or Shed page lies (R247, R249, R250, R290). In place, the rest of the page is checked after
the line, which stands (R289); a promotion checks it as it goes on. The page is decoded once for a read in place, once for a move
(R301): `count` says whether this line's read counts it. -/
def sourceLine (m : Mach) (spa tier loc plots : Nat) (cmp : Bool) (inPlace : Bool) (count : Bool := inPlace) : Mach × Src1 :=
  let page := pageOf spa
  let i := spa % 4096 / 64
  let decoded (m : Mach) (b : List Byte) : Mach × Src1 :=
    let m := if count then m.add R.CODEC_PAGES_DEC_COUNT 1 (homeOf page) else m
    match criticalOf b (plots + 1) i, restOf b (plots + 1) with
    | .line d, .line _ => (m, .line d)
    | .line d, r => (if inPlace then m.sourceBad page r else m, .line d)
    | r, _ => (if inPlace then m.sourceBad page r else m, r)
  if tier = tierFrame then
    match m.readPlots page (loc * 512) (plots + 1) with
    | (m, none) => (m, .lost)
    | (m, some b) => decoded m b
  else if cmp then
    match m.shedPlots page loc plots with
    | none => (m, .lost)
    | some b => decoded m b
  else if m.unitOk (locShelf loc) page (i / 8) false plots (locPlace loc) then
    (m, .line (lineOfBytes (m.unitBytes (locShelf loc) false (locPlace loc) (i / 8)) (i % 8)))
  else (m, .lost)

/-- The whole page decoded from its source (R247): none with the reason where it cannot be. -/
def sourcePage (m : Mach) (page tier loc plots : Nat) (cmp : Bool) : Mach × (Option (List Line)) × Src1 :=
  let fromBytes (m : Mach) (b : List Byte) : Mach × (Option (List Line)) × Src1 :=
    match Frame.decodeTier b (plots + 1) with
    | .page ls => (m, some ls, .line 0)
    | .badVersion => (m, none, .badVersion)
    | .badFormat => (m, none, .badFormat)
  if tier = tierFrame then
    match m.readPlots page (loc * 512) (plots + 1) with
    | (m, none) => (m, none, .lost)
    | (m, some b) => fromBytes m b
  else if cmp then
    match m.shedPlots page loc plots with
    | none => (m, none, .lost)
    | some b => fromBytes m b
  else if (List.range 8).all (fun u => m.unitOk (locShelf loc) page u false plots (locPlace loc)) then
    (m, some ((List.range 64).map (fun i => lineOfBytes (m.unitBytes (locShelf loc) false (locPlace loc) (i / 8)) (i % 8))), .line 0)
  else (m, none, .lost)

/-- The move of a page, with its table key. -/
def moveOf (m : Mach) (page : Nat) : Option (Nat × Move) := m.moves.find? (fun e => e.2.page == page)

/-- MOVES.ACTIVE of R273. -/
def syncMoves (m : Mach) (q : Nat) : Mach :=
  m.set R.TIER_MOVES_ACTIVE (m.moves.filter (fun e => e.1 / 64 == q)).length q

def setMove (m : Mach) (k : Nat) (v : Move) : Mach := ({ m with moves := m.moves.ins k v }).syncMoves (k / 64)
def endMove (m : Mach) (k : Nat) : Mach :=
  ({ m with moves := m.moves.erase k, shelfReads := m.shelfReads.filter (fun r => !(r.move == some k && r.req.isNone)) }).syncMoves (k / 64)

def freeMoveSlot (m : Mach) (q : Nat) : Option Nat := ((List.range 64).map (64 * q + ·)).find? (fun k => (m.moves.find k).isNone)

/-- End the TIER command of a quadrant (R276). CMD_ENTRY shows the entry of the page it names, also after WRONG_QUADRANT and OUTSIDE
(DESIGN CHOICE, log 113). -/
def endCmd (m : Mach) (q page result : Nat) : Mach :=
  let m := m.setTq q { m.tq q with cmd := none }
  ((m.set R.TIER_CMD_BUSY 0 q).set R.TIER_CMD_RESULT result q).set R.TIER_CMD_ENTRY_ENTRY (m.entry page) q

/-- The move a TIER command waits for has ended. -/
def moveEnded (m : Mach) (page result : Nat) : Mach :=
  match (m.tq (homeOf page)).cmd with
  | some c => if c.page = page ∧ c.stage = 2 then m.endCmd (homeOf page) page result else m
  | none => m

/-! ### Rekeying a page (R338, R339) -/

/-- A rekey has ended: the page is Stable, or Poisoned where a domain-down marked it (R210, R341). -/
def endRekey (m : Mach) (page : Nat) : Mach :=
  let q := homeOf page
  let t := m.tq q
  let m := m.setEntry page (eSetState (m.entry page) (if t.poisonLater.contains page then stPoisoned else stStable))
  if t.poisonLater.contains page then m.setTq q { t with poisonLater := t.poisonLater.filter (· != page) } else m

/-- A plot of a Frame page rewritten under the new memory pair, a line at a time; one that cannot be read stays as it is. -/
def rekeyPlot (m : Mach) (page lda p : Nat) : Mach :=
  let q := homeOf page
  let (m, rs) := forN 8 (fun i (r : Mach × List ReadRes) =>
    let (m, x) := r.1.readCoded (lda + 64 * i) [] (some (r.1.plotEnc page p)) false
    (m, r.2 ++ [x])) (m, [])
  let m := m.set (R.SEED_REKEY_DONE_DONE.at q) (m.get (R.SEED_REKEY_DONE_DONE.at q) + 2 ^ p)
  let m := m.useSlot (m.memSlot page p) 1
  forN 8 (fun i m =>
    match rs.getD i .unreadable with
    | .ok d => m.writeCoded (lda + 64 * i) d (some (m.plotEnc page p))
    | .poison => m.writePoison (lda + 64 * i)
    | .unreadable => m) m

/-- A line of a Bed page rewritten under the new memory pair. -/
def rekeyLine (m : Mach) (page frame i : Nat) : Mach :=
  let q := homeOf page
  let spa := page + 64 * i
  let (m, r) := m.readBed spa frame
  let m := m.set (R.SEED_REKEY_DONE_DONE.at q) (m.get (R.SEED_REKEY_DONE_DONE.at q) + 2 ^ i)
  match r with
  | .ok x => m.writeBed spa (bedLda frame spa) x false
  | .poison => m.writeBed spa (bedLda frame spa) 0 true
  | .unreadable => m

/-- Rekey a page under the new memory pair: the entry is Rekeying while its lines or plots are rewritten, each under the new pair once its
DONE bit is set (R338). After a warm reset the page is finished from its DONE bits (`resume`). -/
def rekeyPage (m : Mach) (page : Nat) (resume : Bool := false) : Mach :=
  let q := homeOf page
  let e := m.entry page
  let m := m.setEntry page (eSetState e stRekeying)
  let m := (m.set (R.SEED_REKEY_PAGE_PAGE.at q) (localIndex page)).set (R.SEED_REKEY_PAGE_VALID.at q) 1
  let m := if resume then m else m.set (R.SEED_REKEY_DONE_DONE.at q) 0
  let todo (m : Mach) (i : Nat) : Bool := m.get (R.SEED_REKEY_DONE_DONE.at q) / 2 ^ i % 2 == 0
  let m :=
    if eTier e = tierBed then forN 64 (fun i m => if todo m i then m.rekeyLine page (eLoc e) i else m) m
    else if eTier e = tierFrame then
      forN (ePlots e + 1) (fun p m => if todo m p then m.rekeyPlot page (eLoc e * 512 + 512 * p) p else m) m
    else m
  (m.endRekey page).set (R.SEED_REKEY_PAGE_VALID.at q) 0

def setDeferred (m : Mach) (q : Nat) (l : List Nat) : Mach :=
  (m.setTq q { m.tq q with deferred := l }).set (R.SEED_MEMROT_CUR_DEFERRED.at q) l.length

/-- R339: a page of the deferred list whose move has ended is rekeyed at once if it is in Bed or Frame. -/
def deferredRekey (m : Mach) (page : Nat) : Mach :=
  let q := homeOf page
  let t := m.tq q
  if t.deferred.contains page then
    let e := m.entry page
    let m := m.setDeferred q (t.deferred.filter (· != page))
    if eState e = stStable ∧ (eTier e = tierBed ∨ eTier e = tierFrame) then m.rekeyPage page else m
  else m

/-! ### Moves that end without their destination -/

/-- End a demotion with the entry at its source, Stable unless it is to be Poisoned: the destination is freed, its journal records
discarded and ABANDONED counted (R203, R252, R254). A page of the deferred list is rekeyed (R339). -/
def abandonDemotion (m : Mach) (k : Nat) (v : Move) (count : Bool) (state : Nat := stStable) : Mach :=
  let q := k / 64
  let m := if v.phase = 1 ∧ v.dstTier < 3 then m.freeLoc v.dstTier v.dstLoc v.dstPlots v.dstCmp else m
  let m := m.dropJournal q (fun r => r.move == some k)
  let m := m.setEntry v.page (eSetState (m.entry v.page) state)
  let m := if count then m.add R.TIER_ABANDONED_COUNT 1 q else m
  ((m.endMove k).deferredRekey v.page).moveEnded v.page 7

/-- A promotion that ends without its destination: the frame is freed and the entry is left as given. -/
def dropPromotion (m : Mach) (k : Nat) (v : Move) (state : Nat) : Mach :=
  let m := m.freeLoc v.dstTier v.dstLoc v.dstPlots v.dstCmp
  let m := m.setEntry v.page (eSetState (m.entry v.page) state)
  (((m.dropJournal (k / 64) (fun r => r.move == some k)).endMove k).deferredRekey v.page).moveEnded v.page 0

/-- A clean line of a full MSC set makes way for a line; which is open, so it is taken at a free value (log 8). -/
def dropClean (m : Mach) (line : Nat) : Mach :=
  let set := (m.mscInSet line).filter (fun e => !e.2.dirty)
  if m.mscRoom line || set.isEmpty then m
  else
    let (m, v) := m.fresh
    match set[v.toNat % set.length]? with
    | some e => m.dropMsc e.1
    | none => m

/-- A line stored into the frame of a promotion that fails goes back to the MSC, dirty; where its set holds only dirty lines the home
holds it. -/
def restoreLine (m : Mach) (line : Nat) (d : Line) (poison : Bool) (tenant : Nat) : Mach :=
  let m := m.dropClean line
  if m.mscRoom line then m.putMsc line ⟨d, true, poison, tenant⟩
  else m.putHeld { k := .wbDirty, src := agentTier (homeOf (line * 64)), line := line, data := d, mask := fullMask, poison := poison }

/-- Lines stored into the frame of a promotion that fails go back to the MSC, which keeps them (R245, R289). One it holds clean has its
only stored copy in that frame, and becomes dirty. -/
def restoreDone (m : Mach) (v : Move) : Mach :=
  if v.dstTier ≠ tierBed then m
  else (List.range 64).foldl (fun m i =>
    let spa := v.page + 64 * i
    if v.done / 2 ^ i % 2 = 0 then m
    else match m.mscLine (spa / 64) with
      | some x => if x.dirty then m else m.putMsc (spa / 64) { x with dirty := true }
      | none =>
        let (m, r) := m.readBed spa v.dstLoc
        let tenant := eTenant (m.entry v.page)
        match r with
        | .ok d => m.restoreLine (spa / 64) d false tenant
        | _ => m.restoreLine (spa / 64) 0 true tenant) m

/-- Units of a Shed page, of those read, that fail to verify. -/
def unitFails (m : Mach) (page e : Nat) (us : List Nat) : Nat :=
  (us.filter (fun u => !m.unitOk (locShelf (eLoc e)) page u (eCmp e) (ePlots e) (locPlace (eLoc e)))).length

/-- An entry set to Poisoned after a tag or plot failure, its move ending at the source with it (R242); SHELF_AUTH for a shelf (R249,
R289). AUTH_FAIL counts the units that failed (R345). -/
def poisonEntry (m : Mach) (page : Nat) (fails : Nat := 1) : Mach :=
  let m := match m.moveOf page with
    | some (k, v) => if v.promote then (m.restoreDone v).dropPromotion k v stPoisoned else m.abandonDemotion k v true stPoisoned
    | none => m
  let e := m.entry page
  let m := m.setEntry page (eSetState e stPoisoned)
  let m := if eDur e then m.mirrorMap page 5 else m
  if eTier e = tierShed then
    (m.err E.TIER_SHELF_AUTH sevDeferred (homeOf page) 12 (some page) 0 (some (eTenant e))).add R.CIPH_AUTH_FAIL_PRIVILEGED (max 1 fails) (homeOf page)
  else m

/-- A promotion whose source fails: to Stable with the codec's error, or Poisoned (R249, R289). -/
def failPromotion (m : Mach) (k : Nat) (v : Move) (r : Src1) : Mach :=
  match r with
  | .lost => m.poisonEntry v.page (m.unitFails v.page (m.entry v.page) (List.range (unitsOf v.srcCmp v.srcPlots)))
  | r => ((m.restoreDone v).dropPromotion k v stStable).sourceBad v.page r

/-- The dormant records of a page, in journal order (R268). -/
def recordsOf (m : Mach) (page : Nat) : List JRec := m.journal.filter (fun r => r.kind == 1 && pageOf r.spa == page)

/-- A line's value from its page's source, with the dormant records that have not been merged yet (R264). -/
def overlay (m : Mach) (spa : Nat) (x : ReadRes) : ReadRes :=
  ((m.recordsOf (pageOf spa)).filter (fun r => r.spa == lineOf spa)).foldl (fun x r =>
    if r.poison then .poison
    else match x with
      | .ok d => .ok (mergeLine d r.data r.mask)
      | .poison => if r.mask = fullMask then .ok r.data else .poison
      | .unreadable => .unreadable) x

/-- The units an engine's read of a line of a Shed page takes from its shelf within the command: its own, or all of an encoding. -/
def shelfUnits (m : Mach) (spa e : Nat) : Mach :=
  if eTier e = tierShed then
    m.shedRead (homeOf spa) (locShelf (eLoc e)) (eCmp e) (locPlace (eLoc e))
      (if eCmp e then List.range (ePlots e + 1) else [spa % 4096 / 512])
  else m

/-- The failing units among those a line's read takes: its own, or all of an encoding. -/
def lineFails (m : Mach) (spa e : Nat) : Nat :=
  m.unitFails (pageOf spa) e (if eCmp e then List.range (ePlots e + 1) else [spa % 4096 / 512])

/-- The home's copy of a line, read within the command: from the MSC, else from where the page's entry says it lies. For
a page whose contents cannot be read the answer is `unreadable`; a Dormant or None page answers so too. -/
def homeValue (m : Mach) (line : Nat) (count : Bool := true) : Mach × ReadRes :=
  let spa := line * 64
  let page := pageOf spa
  let e := m.entry page
  let src (m : Mach) : Mach × ReadRes :=
    if m.hasFailed page then (m, .unreadable)
    else match (m.shelfUnits spa e).sourceLine spa (eTier e) (eLoc e) (ePlots e) (eCmp e) true count with
      | (m, .line d) => (m, m.overlay spa (.ok d))
      | (m, .lost) => (m.poisonEntry page (m.lineFails spa e), .poison)
      | (m, _) => (m, .unreadable)
  if m.mapUnreadable page then (m.mapFault page, .unreadable)
  else match m.mscLine line with
    | some x => (m, if x.poison then .poison else .ok x.data)
    | none =>
      if eState e = stZero then (m, m.overlay spa (.ok 0))
      else if eTier e = tierNone ∨ eState e = stDormant then (m, .unreadable)
      else if eState e = stPoisoned then (m, m.overlay spa .poison)
      else if eTier e = tierBed then m.readBed spa (eLoc e)
      else match m.moveOf page with
        | some (_, v) =>
          if v.promote ∧ v.done / 2 ^ (spa % 4096 / 64) % 2 = 1 ∧ v.dstTier = tierBed then m.readBed spa v.dstLoc else src m
        | none => src m

/-- The home's value of a line, with the writes it holds (R113). -/
def heldValue (m : Mach) (line : Nat) (count : Bool := true) : Mach × ReadRes :=
  let rs := m.heldWrites line
  if heldWhole rs then (m, heldOver rs .poison)
  else match m.homeValue line count with
    | (m, x) => (m, heldOver rs x)

/-- The current value of a line where it is not the home's copy: that of the die that owns it, one whose data has come included; of a
Data message that grants it; of a snoop answer or a transaction of the home that carries it; of an owner's writeback that has
not reached the home; or of a die whose Upgrade the home has granted and whose Grant is on its way (R195, R202). -/
def ownerLine (m : Mach) (line : Nat) : Option (Line × Bool) :=
  let owns (x : DieLine) : Bool :=
    [LSt.m, .o, .e].contains x.st || (x.st == .smd && (x.granted == .o || x.got)) || (x.st == .imd && x.got)
  let msg (p : Msg → Bool) : Option (Line × Bool) := (m.net.find? (fun g => g.line == line && p g)).map (fun g => (g.data, g.poison))
  let die : Option (Line × Bool) := (List.range 12).findSome? (fun d =>
    match m.lines.find (d * 2 ^ 42 + line) with
    | some x => if owns x then some (x.data, x.poison) else none
    | none => none)
  let owner : Option Nat := (m.filter.find line).bind (fun f => if f.st = .x ∨ f.st = .o then some f.owner else none)
  (((die.orElse fun _ => msg (fun g => g.k == .data && (g.st == .m || g.st == .e))).orElse fun _ => msg (fun g => g.k == .snpData)).orElse
    fun _ => (m.htx.find? (fun t => t.req.line == line && t.data.isSome)).bind (·.data)).orElse
    fun _ => (msg (fun g => (g.k == .wbDirty || g.k == .wbKeep) && owner == some g.src)).orElse
    fun _ => owner.bind (fun d => (m.lines.find (d * 2 ^ 42 + line)).bind (fun x =>
      if x.st = .smd ∧ x.granted = .s then some (x.data, x.poison) else none))

/-- The value every observer would read (R113): the owner's, else the home's. -/
def cohValue (m : Mach) (line : Nat) (count : Bool := true) : Mach × ReadRes :=
  match m.ownerLine line with
  | some (d, p) => (m, if p then .poison else .ok d)
  | none => m.heldValue line count

/-! ### Demotion (R251–R254) -/

/-- The shelf R253 takes for a page of some plots (8 an uncompressed one): of those allowed whose share has room for it, the one with
the most free space in the share. -/
def shelfFor (m : Mach) (page plots : Nat) (except : Option Nat) : Option Nat :=
  let q := homeOf page
  let e := m.entry page
  let foreign := (m.tenants.find (eTenant e)).elim false (fun x => x.kind == 1)
  let okS (n : Nat) : Bool :=
    some n != except && m.shelfState n == 2 && m.on (R.TIER_SHELF_CFG_PLACE_EN.at n) &&
    (!(m.shelf n).sleepcap || (eSleepok e && !foreign)) && m.shelfFits n q plots
  if m.act R.TIER_POLICY_SHED_EN q = 1 ∧ m.hasRoom (m.acctTenant page) tierShed q then
    (((List.range 64).filter okS).foldl (fun (b : Option (Nat × Nat)) n =>
      let f := m.shareFree n q
      match b with
      | none => some (n, f)
      | some x => if x.2 < f then some (n, f) else b) none).map (·.1)
  else none

/-- Put a page's plots or lines and their tags into the journal for a shelf (R267, R268, R312, R316): 64-byte data records, then a
tag record for each aligned pair of entries. -/
def journalPage (m : Mach) (page shelf place plots : Nat) (cmp : Bool) (b : List Byte) (move : Option Nat) : Mach :=
  let q := homeOf page
  let n := unitsOf cmp plots
  let m := forN (8 * n) (fun i m =>
    m.addJournal ⟨q, page + 64 * i, 0, false, shelf, if cmp then place + i / 8 else place, if cmp then i % 8 else i, fullMask, 0, move, 0, cmp,
      plots, true, BitVec.ofNat 512 (ofBytes ((List.range 64).map (fun j => b.getD (64 * i + j) 0)))⟩) m
  (tagPairs (unitPlot cmp place 0) n).foldl (fun m x =>
    let m := m.addJournal ⟨q, page + 512 * x.2.2, 2, false, shelf, x.1, 0, x.2.1, 0, move, x.2.2, cmp, plots, false, 0⟩
    m.journal.getLast?.elim m m.sendRecord) m

/-- The most journal records a page of n units takes. -/
def journalNeed (n : Nat) : Nat := 8 * n + n / 2 + 1

/-- The records a page of n units from a tag entry takes. -/
def journalCount (p n : Nat) : Nat := 8 * n + (tagPairs p n).length

def pageBytes (ls : List Line) : List Byte := ls.flatMap (fun d => bytesOf 64 d.toNat)

/-- How a demotion's start ends. -/
inductive DemoteRes where
  | started (slot : Nat)
  | zeroed
  | noSlot
  | refused
  | overCeiling
  | noSpace
  | noFrame
  deriving DecidableEq, Repr

/-- The CODEC page's counts of an encoding (R301). -/
def countCodec (m : Mach) (q : Nat) (en : Frame.Encoded) : Mach :=
  let m := m.add R.CODEC_PAGES_ENC_COUNT 1 q
  let m := en.modes.foldl (fun m c => m.add (R.CODEC_LINE_MODES_COUNT.at c) 1 q) m
  if Frame.ceiling < en.bytes.length then m.add R.CODEC_PAGES_OVER_COUNT 1 q else m

/-- R252 step 4: count the encoding of a demotion. -/
def countEncoding (m : Mach) (q : Nat) (en : Frame.Encoded) (allZero : Bool) : Mach :=
  let tooBig := decide (Frame.ceiling < en.bytes.length)
  (m.countCodec q en).add (R.TIER_RATIO_HIST_COUNT.at (if allZero then 0 else if tooBig then 7 else Frame.plotsOf en.bytes.length - 1)) 1 q

/-- A line's value is read from where its page lies, not from a cache or a write the home holds. -/
def fromSource (m : Mach) (line : Nat) : Bool :=
  (m.ownerLine line).isNone && (m.mscLine line).isNone && !heldWhole (m.heldWrites line)

/-- The 64 lines of a page as every observer would read them: none if one is poisoned or unreadable (R252 step 3). An encoding it is read
from is decoded once (R301). -/
def readPage (m : Mach) (page : Nat) : Mach × Option (List Line) :=
  let e := m.entry page
  let coded := eTier e == tierFrame || (eTier e == tierShed && eCmp e)
  let m := if coded && (List.range 64).any (fun i => m.fromSource (page / 64 + i)) then m.add R.CODEC_PAGES_DEC_COUNT 1 (homeOf page) else m
  forN 64 (fun i (r : Mach × Option (List Line)) =>
    match r.2 with
    | none => r
    | some ls =>
      match r.1.cohValue (page / 64 + i) false with
      | (m, .ok d) => (m, some (ls ++ [d]))
      | (m, _) => (m, none)) (m, some [])

/-- The move record of a demotion (R270). -/
def demotion (page e dstTier dstLoc dstPlots : Nat) (dstCmp : Bool) : Move :=
  ⟨page, false, eTier e, eLoc e, ePlots e, eCmp e, dstTier, dstLoc, dstPlots, dstCmp, 0, 1, 0, 0, false, false⟩

/-- Start the demotion of a Stable Bed or Frame page: R252 steps 1 to 6. `toTier` is 0 for the engine's choice, 1 Frame,
2 Shed (R276). -/
def beginDemotion (m : Mach) (page toTier : Nat) : Mach × DemoteRes :=
  let q := homeOf page
  match m.freeMoveSlot q with
  | none => (m, .noSlot)
  | some k =>
    let e := m.entry page
    let m0 := m
    let m := m.setMove k (demotion page e 3 0 0 false)
    let m := m.setEntry page (eSetState e stDemoting)
    let back (m : Mach) (r : DemoteRes) : Mach × DemoteRes :=
      (if (m.moves.find k).isSome then m.abandonDemotion k (demotion page e 3 0 0 false) true else m, r)
    match m.readPage page with
    | (m, none) => back m .refused
    | (m, some ls) =>
      let en := Frame.encode (m.act R.CODEC_CTL_DICT_MIN q) (m.act R.CODEC_CTL_DICT_MAX q) ls
      let allZero := ls.all (· == 0)
      let m := m.countEncoding q en allZero
      let len := en.bytes.length
      let n := Frame.plotsOf len
      let tooBig := decide (Frame.ceiling < len)
      if allZero then
        let m := (m.freeLoc (eTier e) (eLoc e) (ePlots e) (eCmp e)).endMove k
        let m := m.setEntry page (eSetCmp (eSetPlots (eSetLoc (eSetState (eSetTier e tierBed) stZero) 0) 0) false)
        let m := if eDur e then m.mirrorMap page 3 else m
        (m.add R.TIER_ZERO_EVENTS_COUNT 1 q, .zeroed)
      else if toTier = 1 ∧ tooBig then back m .overCeiling
      else
        let wantFrame := toTier = 1 ∨ (toTier = 0 ∧ eTier e = tierBed ∧ !tooBig ∧ m.act R.TIER_POLICY_FRAME_EN q = 1 ∧
          m.hasRoom (m.acctTenant page) tierFrame q)
        let toShed (m : Mach) : Mach × DemoteRes :=
          let cmp := m.act R.TIER_POLICY_SHED_CMP q == 1 && !tooBig
          let plots := if cmp then n else 8
          match m.shelfFor page plots none with
          | none => back m .noSpace
          | some s =>
            if m0.moveRecsFree q < journalNeed plots then (m0, .noSlot)
            else
              let (m, place) := if cmp then m.takeShelfPlots s q n else m.takeSlot s q 255
              match place with
              | none => back m .noSpace
              | some pl =>
                let v := demotion page e tierShed (s * 2 ^ 32 + pl) (if cmp then n - 1 else 0) cmp
                let m := m.journalPage page s pl (if cmp then n - 1 else 0) cmp (if cmp then en.bytes else pageBytes ls) (some k)
                (m.setMove k { v with writes := journalCount (unitPlot cmp pl 0) plots }, .started k)
        if wantFrame then
          match m.takePlots q n with
          | (m, some p) =>
            let m := m.writePlots page (p * 512) en.bytes n
            (m.setMove k { demotion page e tierFrame p (n - 1) false with done := fullMask }, .started k)
          | (m, none) => if toTier = 1 then back m .noFrame else toShed m
        else toShed m

/-- Entries of a quadrant's map part (R235). -/
def mapEntries (m : Mach) : Nat := m.get R.TIER_LAYOUT_MAP_TIB * 2 ^ 26

/-- The unpinned Stable page of a quadrant that answers a description and has the highest AGE, the first in map order from the cursor
among those of equal AGE (R251). -/
def candidate (m : Mach) (q : Nat) (ok : Nat → Nat → Bool) : Option Nat :=
  let n := m.mapEntries
  let cur := (m.tq q).cursor
  let dist (p : Nat) : Nat := (localIndex p + n - cur) % max n 1
  (m.pmap.foldl (fun (b : Option (Nat × Nat × Nat)) x =>
    let p := x.1 * 4096
    let e := x.2.toNat
    if homeOf p == q && eState e == stStable && !ePin e && ok p e then
      match b with
      | none => some (p, eAge e, dist p)
      | some y => if y.2.1 < eAge e ∨ (y.2.1 = eAge e ∧ dist p < y.2.2) then some (p, eAge e, dist p) else b
    else b) none).map (·.1)

/-- The cursor passes the page that has been taken. -/
def passCursor (m : Mach) (q page : Nat) : Mach := m.setTq q { m.tq q with cursor := (localIndex page + 1) % max m.mapEntries 1 }

/-- A tenant's coldest page of a tier that a quota demotion may take (R250, R251, R257). -/
def coldest (m : Mach) (t tier q : Nat) : Option Nat := m.candidate q (fun p e => eTier e == tier && m.acctTenant p == t)

/-- Whether some Bed page of the quadrant could be demoted to free a frame (R250). -/
def canFree (m : Mach) (q : Nat) : Bool :=
  m.pmap.any (fun x =>
    let e := x.2.toNat
    homeOf (x.1 * 4096) == q && eTier e == tierBed && eState e == stStable && !ePin e)

def poolEmpty (m : Mach) (q : Nat) : Bool := decide (m.poolHi q - m.poolLo q ≤ (m.quadFrames q).length)

/-- STARVED, set once while the condition lasts (R250, R261). -/
def starve (m : Mach) (page : Nat) : Mach :=
  let q := homeOf page
  if m.reg (pageOff 12 .tier q + 0x28) / 2 ^ 17 % 2 = 1 ∨ m.errs.any (fun e => e.blk == .tier && e.inst == q && e.cause == 17) then m
  else m.err E.TIER_STARVED sevContained q 12 (some page) 0 (some (eTenant (m.entry page)))

/-- A demotion under way makes room in a tenant's Bed share. -/
def roomComing (m : Mach) (t q : Nat) : Bool :=
  let leaving := (m.moves.filter (fun x => x.1 / 64 == q && !x.2.promote && x.2.srcTier == tierBed && m.acctTenant x.2.page == t)).length
  decide (m.tierUse t tierBed q - leaving < share (m.quotaOf t tierBed) tierBed)

/-- What a page does that waits for a Bed frame or for room in its tenant's Bed share: a full share first demotes the
tenant's coldest unpinned Bed page; STARVED when no demotion can free a frame (R244, R250). -/
def makeRoom (m : Mach) (page : Nat) : Mach :=
  let q := homeOf page
  let t := m.acctTenant page
  let m := if m.hasRoom t tierBed q || m.roomComing t q then m
    else match m.coldest t tierBed q with
      | some p => ((m.passCursor q p).beginDemotion p 0).1
      | none => m
  if m.poolEmpty q ∧ !m.canFree q then m.starve page else m

/-- Whether a page may take a Bed frame now (R250). -/
def bedNow (m : Mach) (page : Nat) : Bool :=
  m.hasRoom (m.acctTenant page) tierBed (homeOf page) && !m.poolEmpty (homeOf page)

/-! ### Dormant records merged into a page's lines (R264, R268) -/

def applyRec (m : Mach) (frame : Nat) (r : JRec) : Mach :=
  let lda := bedLda frame r.spa
  if r.poison then m.writeBed r.spa lda 0 true
  else if r.mask = fullMask then m.writeBed r.spa lda r.data false
  else match m.readBed r.spa frame with
    | (m, .ok d) => m.writeBed r.spa lda (mergeLine d r.data r.mask) false
    | (m, _) => m

/-- Merge a page's dormant records into its Bed frame in journal order and free them. A line the MSC holds is newer than its
records. -/
def mergeDormant (m : Mach) (page frame : Nat) : Mach :=
  let rs := (m.recordsOf page).filter (fun r => (m.mscLine (r.spa / 64)).isNone)
  let m := rs.foldl (fun m r => m.applyRec frame r) m
  if (m.recordsOf page).isEmpty then m else m.dropJournal (homeOf page) (fun r => r.kind == 1 && pageOf r.spa == page)

/-! ### Fills of Zero and Poisoned pages (R244, R245) -/

/-- A free Bed frame for a page whose tenant has room; none where it has to wait (R244, R250). -/
def frameFor (m : Mach) (page : Nat) : Mach × Option Nat :=
  if m.bedNow page then m.takeFrame (homeOf page) 256 else (m, none)

/-- The first write to a Zero page: a Bed frame of encrypted zeros. False where the write has to wait. -/
def fillZero (m : Mach) (page : Nat) : Mach × Bool :=
  match m.frameFor page with
  | (m, none) => (m, false)
  | (m, some n) =>
    let m := forN 64 (fun i m => m.writeBed (page + 64 * i) (n * 4096 + 64 * i) 0 false) m
    let m := m.setEntry page (eSetLoc (eSetState (m.entry page) stStable) n)
    ((m.mergeDormant page n).add R.TIER_ZERO_EVENTS_COUNT 1 (homeOf page), true)

/-- The MSC's lines of a page are written to its frame when the MSC evicts them (R245, R247). -/
def keepMsc (m : Mach) (page : Nat) : Mach :=
  if m.msc.any (fun x => pageOf (x.1 * 64) == page && !x.2.dirty) then
    ({ m with msc := m.msc.mapV (fun l x => if pageOf (l * 64) = page then { x with dirty := true } else x) } : Mach).syncOcc (homeOf page)
  else m

/-- The first access to a Poisoned page: a Bed frame of poisoned lines, dormant records applied over them (R245, R262). The lines the
MSC holds stay the current values. -/
def fillPoisoned (m : Mach) (page : Nat) : Mach × Bool :=
  match m.frameFor page with
  | (m, none) => (m, false)
  | (m, some n) =>
    let m := forN 64 (fun i m => m.writeBed (page + 64 * i) (n * 4096 + 64 * i) 0 true) m
    let e := m.entry page
    let m := (m.freePage page).setEntry page (eMove e tierBed n 0 false)
    ((m.mergeDormant page n).keepMsc page, true)

/-! ### Promotion (R247–R250) -/

/-- The move record of a promotion to a Bed frame. -/
def promotion (page e frame : Nat) : Move :=
  ⟨page, true, eTier e, eLoc e, ePlots e, eCmp e, tierBed, frame, 0, false, 0, 1, 0, 0, false, false⟩

/-- The engine's reads of a Shed source (R247, R249). -/
def readUnits (m : Mach) (shelf page n k : Nat) : Mach :=
  { m with shelfReads := m.shelfReads ++ (List.range n).map (fun u => ShelfRead.mk shelf page u none (some k)) }

/-- A promotion can begin at once (R250). -/
def canPromote (m : Mach) (page : Nat) : Bool := m.bedNow page && (m.freeMoveSlot (homeOf page)).isSome

/-- Steps 1 and 2 of R247: none where the promotion cannot begin at once (R250). -/
def beginPromotion (m : Mach) (page : Nat) : Mach × Option Nat :=
  let q := homeOf page
  if !m.bedNow page then (m.makeRoom page, none)
  else match m.freeMoveSlot q with
    | none => (m, none)
    | some k =>
      match m.takeFrame q 256 with
      | (m, none) => (m, none)
      | (m, some n) =>
        let e := m.entry page
        let m := (m.setMove k (promotion page e n)).setEntry page (eSetState e stPromoting)
        let m := if eTier e = tierShed then m.readUnits (locShelf (eLoc e)) page (unitsOf (eCmp e) (ePlots e)) k else m
        (m, some k)

/-- A promotion begins, or waits (R250). -/
def promoteOrWait (m : Mach) (page : Nat) : Mach × Option Nat :=
  match m.beginPromotion page with
  | (m, some k) => (m, some k)
  | (m, none) => (m.wantPage page, none)

/-- The TIER_MOVE trace event (R501, R510): it names the page alone, no tenant (log 45). -/
def traceMove (m : Mach) (src dst page : Nat) : Mach :=
  if m.on R.LANT_CTL_TRACE_TIER then m.ev 11 3 .tier (src + 4 * dst) page (homeOf page) else m

/-- Steps 6 and 7 of R247: the entry names the destination frame and the source is freed. -/
def switchPromotion (m : Mach) (k : Nat) (v : Move) : Mach :=
  let e := m.entry v.page
  let m := m.setMove k { (m.moves.find k).getD v with phase := 2 }
  let m := m.setEntry v.page (eSetAge (eMove e tierBed v.dstLoc 0 false) 0)
  let m := (m.freeLoc v.srcTier v.srcLoc v.srcPlots v.srcCmp).endMove k
  let m := (m.mergeDormant v.page v.dstLoc).add R.TIER_PROMOTED_COUNT 1 (k / 64)
  ((m.traceMove v.srcTier tierBed v.page).deferredRekey v.page).moveEnded v.page 0

/-- Step 5 of R247 for one line: the frame takes it, and its DONE bit is set, unless the MSC holds the line or it is there. -/
def promoteLine (m : Mach) (k frame i : Nat) (page : Nat) (d : Line) : Mach :=
  let spa := page + 64 * i
  match m.moves.find k with
  | none => m
  | some v =>
    if (m.mscLine (spa / 64)).isSome || v.done / 2 ^ i % 2 == 1 then m
    else (m.writeBed spa (bedLda frame spa) d false).setMove k { v with done := v.done + 2 ^ i }

/-- Steps 5 to 7 of R247 for a promotion to Bed, its source whole. A line the MSC holds is left to it, and is written to the frame when
the MSC evicts it. -/
def commitPromotion (m : Mach) (k : Nat) (v : Move) : Mach :=
  match m.sourcePage v.page v.srcTier v.srcLoc v.srcPlots v.srcCmp with
  | (m, none, r) => m.failPromotion k v r
  | (m, some ls, _) =>
    let m := if v.srcTier = tierFrame ∨ v.srcCmp then m.add R.CODEC_PAGES_DEC_COUNT 1 (k / 64) else m
    let m := forN 64 (fun i m => m.promoteLine k v.dstLoc i v.page (ls.getD i 0)) m
    (m.keepMsc v.page).switchPromotion k v

/-- Steps 7 and 8 of R252, and the commit of an evacuation: the entry names the destination, the source is freed. -/
def commitDemotion (m : Mach) (k : Nat) (v : Move) : Mach :=
  let q := k / 64
  let e := m.entry v.page
  let m := m.setMove k { v with phase := 2 }
  let m := m.setEntry v.page (eMove e v.dstTier v.dstLoc v.dstPlots v.dstCmp)
  let m := (m.freeLoc v.srcTier v.srcLoc v.srcPlots v.srcCmp).endMove k
  let m := if v.promote then m.add R.TIER_PROMOTED_COUNT 1 q
    else if v.dstTier = tierFrame then m.add R.TIER_DEMOTED_FRAME_COUNT 1 q else m.add R.TIER_DEMOTED_SHED_COUNT 1 q
  ((m.traceMove v.srcTier v.dstTier v.page).deferredRekey v.page).moveEnded v.page 0

/-! ### Ageing (R246) -/

/-- A request that reaches the home touches the page: one in 2^SAMPLE_SHIFT for Bed and Frame, every demand for Shed (R246). -/
def touch (m : Mach) (page : Nat) : Mach :=
  let q := homeOf page
  let e := m.entry page
  let young (m : Mach) : Mach := if eAge e = 0 then m else m.setEntry page (eSetAge e 0)
  if !m.managed page || m.mapUnreadable page || eTier e == tierNone then m
  else if eTier e = tierShed then young m
  else
    let t := m.tq q
    let n := t.sample + 1
    let m := m.setTq q { t with sample := n }
    if n % 2 ^ m.act R.TIER_POLICY_SAMPLE_SHIFT q = 0 then young m else m

end Mach
end Sys2Proof.Machine
end

