-- ==== Sys2Proof/Machine/Home.lean ====
section
/-! DEFINITION. The home agent: how it obtains and writes the home's copy of a line (R203, R243–R250, R384, R548), the
MSC (R161–R166, R175–R177), the mirror stream's records (R397–R403) and whole coherent accesses of engines (R195). -/
namespace Sys2Proof.Machine
namespace Mach

/-! ### MSC -/

def mscQuotaOf (m : Mach) (q t : Nat) : Nat := m.mscQuota.getD (q * 2048 + t) 0x40000

/-- Clean lines of a tenant in a part (QUSE). -/
def mscUse (m : Mach) (q t : Nat) : Nat :=
  (m.msc.filter (fun e => homeOf (e.1 * 64) == q && e.2.tenant == t && !e.2.dirty)).length

/-- R164: whether the MSC declines a clean offer of a tenant. -/
def mscDeclines (m : Mach) (q t : Nat) : Bool :=
  let lim := m.act R.MSC_POLICY_CLEAN_LIMIT q
  (decide (lim < 16) && decide (lim * (m.mscWays q * 16384) ≤ m.get R.MSC_OCC_CLEAN q * 16)) ||
  (m.act R.MSC_POLICY_QUOTA_EN q == 1 && decide (m.mscQuotaOf q t ≤ m.mscUse q t))

/-! ### Where a write of a line goes -/

/-- What a home finds for a write to a page (R243, R244, R245, R384). -/
inductive WPrep where
  /-- The page's Bed frame. -/
  | bed (frame : Nat)
  /-- A promotion with this move slot, its destination a Bed frame. -/
  | dst (slot : Nat)
  /-- The line waits in the MSC for a promotion that has not begun or has no Bed frame as its destination. -/
  | msc
  /-- Into the shed journal, for this shelf. -/
  | journal (shelf : Nat)
  | wait
  /-- Refused with a cause of R197: 2 TIER_NONE, 3 NOT_READY, 4 UNCORRECTABLE. -/
  | refuse (cause : Nat)
  deriving DecidableEq, Repr

def refForeign : Nat := 1
def refNone : Nat := 2
def refNotReady : Nat := 3
def refUncorrectable : Nat := 4
def refDormant : Nat := 5

/-- R264: a Dormant entry met while its shelf is Awake becomes Stable; a pinned page then waits for its promotion (R258). -/
def wakeEntry (m : Mach) (page : Nat) : Mach :=
  let e := m.entry page
  if eState e = stDormant ∧ m.shelfState (locShelf (eLoc e)) = 2 then
    let m := m.setEntry page (eSetState e stStable)
    if ePin e then m.wantPage page else m
  else m

/-- Start the promotion a write needs, or leave it for later (R243, R250). -/
def promoForWrite (m : Mach) (page : Nat) : Mach × WPrep :=
  match m.promoteOrWait page with
  | (m, some k) => (m, .dst k)
  | (m, none) => (m, .msc)

/-- A write to the page goes to the shed journal (R243): it is Dormant with its shelf not Awake, or in Shed with its shelf
neither Awake nor Striking. -/
def asleep (m : Mach) (page : Nat) : Bool :=
  let e := m.entry page
  let sh := m.shelfState (locShelf (eLoc e))
  eTier e == tierShed && ((eState e == stDormant && sh != 2) || (eState e == stStable && sh != 2 && sh != 3))

/-- Where a durable write goes as well (R384): a record for a Shed page on a shelf that strikes. -/
def journals (m : Mach) (page : Nat) : Bool :=
  let e := m.entry page
  m.asleep page || (eDur e && eTier e == tierShed && eState e == stStable && m.shelfState (locShelf (eLoc e)) == 3)

/-- Prepare a page for a write that reaches its home: the entry transitions of R243 to R245, and the abandonment of a
demotion under R203. -/
def prepWrite (m : Mach) (page : Nat) : Mach × WPrep :=
  let q := homeOf page
  if !m.managed page then (m, .refuse refNone)
  else if !m.tierReady q then (m, .refuse refNotReady)
  else if m.mapUnreadable page then (m.mapFault page, .refuse refUncorrectable)
  else
    let m := m.wakeEntry page
    let m := match m.moveOf page with
      | some (k, v) => if eState (m.entry page) = stDemoting then m.abandonDemotion k v true else m
      | none => m
    let e := m.entry page
    match eState e with
    | 3 => match m.fillZero page with
      | (m, true) => (m, .bed (eLoc (m.entry page)))
      | (m, false) => (m.makeRoom page, .wait)
    | 5 => match m.fillPoisoned page with
      | (m, true) => (m, .bed (eLoc (m.entry page)))
      | (m, false) => (m.makeRoom page, .wait)
    | 6 => (m, .wait)
    | 1 => match m.moveOf page with
      | some (k, v) => (m, if v.dstTier = tierBed then .dst k else .msc)
      | none => (m, .wait)
    | 4 => (m, .journal (locShelf (eLoc e)))
    | _ =>
      if eTier e = tierBed then (m, .bed (eLoc e))
      else if eTier e = tierFrame then m.promoForWrite page
      else if eTier e = tierShed then
        if m.journals page then (m, .journal (locShelf (eLoc e))) else m.promoForWrite page
      else (m, .refuse refNone)

/-- A dormant record (R243, R267–R269): false where only reserved records are free, which sets JOURNAL_FULL. -/
def journalLine (m : Mach) (spa shelf : Nat) (d : Line) (mask : Nat) (poison : Bool) : Mach × Bool :=
  let q := homeOf spa
  if m.dormantRecsFree q = 0 then (m.err E.TIER_JOURNAL_FULL sevContained q 12 (some spa) 0, false)
  else
    let e := m.entry (pageOf spa)
    (m.addJournal ⟨q, lineOf spa, 1, poison, shelf, if eTier e = tierShed then locPlace (eLoc e) else 0, spa % 4096 / 64, mask, 0, none, 0,
      false, 0, false, d⟩, true)

/-- The dormant records of a line that a newer value of the whole line replaces. -/
def dropRecords (m : Mach) (spa : Nat) : Mach :=
  let hit (r : JRec) : Bool := r.kind == 1 && r.spa == lineOf spa
  if m.journal.any hit then m.dropJournal (homeOf spa) hit else m

/-- Write a line into the destination frame of a promotion, and set its DONE bit (R247). -/
def writeDst (m : Mach) (k : Nat) (v : Move) (spa : Nat) (d : Line) (poison : Bool) : Mach :=
  let i := spa % 4096 / 64
  ((m.writeBed spa (bedLda v.dstLoc spa) d poison).setMove k
    { v with done := if v.done / 2 ^ i % 2 = 1 then v.done else v.done + 2 ^ i }).dropRecords spa

/-- Where the MSC writes a dirty line back to. Its writeback is no request, so a demotion stays (R203). -/
def prepStore (m : Mach) (page : Nat) : Mach × WPrep :=
  let e := m.entry page
  if m.mapUnreadable page || eState e != stDemoting then m.prepWrite page
  else if eTier e = tierBed then (m, .bed (eLoc e))
  else (m, .wait)

/-- Write a line to where the page lies: no MSC copy is made. False where the write has to wait. -/
def storeLine (m : Mach) (spa : Nat) (d : Line) (poison : Bool) : Mach × Bool :=
  match m.prepStore (pageOf spa) with
  | (m, .bed f) => ((m.writeBed spa (bedLda f spa) d poison).dropRecords spa, true)
  | (m, .dst k) =>
    match m.moves.find k with
    | some v => (m.writeDst k v spa d poison, true)
    | none => (m, false)
  | (m, .journal s) => m.journalLine spa s d fullMask poison
  | (m, _) => (m, false)

/-- Evict a line of the MSC: a dirty one is written to its tier path first (R165), and stays where the page's encoding has failed
(R289). -/
def mscEvict (m : Mach) (line : Nat) : Mach × Bool :=
  match m.mscLine line with
  | none => (m, true)
  | some x =>
    if x.dirty ∧ m.hasFailed (pageOf (line * 64)) then (m, false)
    else if x.dirty then
      match m.storeLine (line * 64) x.data x.poison with
      | (m, true) => (m.dropMsc line, true)
      | (m, false) => (m, false)
    else (m.dropMsc line, true)

/-- Evict lines of a full set. Which goes first is open, so it is taken at a free value (log 8); one that cannot go is passed. -/
def mscMakeWay (m : Mach) (line : Nat) : Mach :=
  let set := m.mscInSet line
  if m.mscRoom line then m
  else
    let (m, v) := m.fresh
    let n := v.toNat % set.length
    (set.drop n ++ set.take n).foldl (fun m e => if m.mscRoom line then m else (m.mscEvict e.1).1) m

/-- Hold a line in the MSC. False where no line of its set can go. -/
def mscHold (m : Mach) (line : Nat) (d : Line) (dirty poison : Bool) : Mach × Bool :=
  let m := m.mscMakeWay line
  if m.mscRoom line then (m.putMsc line ⟨d, dirty, poison, eTenant (m.entry (pageOf (line * 64)))⟩, true) else (m, false)

/-- How a write at the home ends. -/
inductive WRes where
  | done
  | wait
  | refuse (cause : Nat)
  deriving DecidableEq, Repr

/-- The LINE record of a durable write that is committed (R398). The write is accepted at once where acceptance is local,
and otherwise when its record is acknowledged (R381, R387). -/
def mirrorLine (m : Mach) (spa : Nat) (d : Line) (poison : Bool) (forDur : Option Nat) : Mach :=
  let far := m.acceptMode = 4 ∨ m.acceptMode = 6
  let m := match forDur with
    | some k => if far then m else m.accepted k
    | none => m
  if m.quiet then m
  else m.mirror (homeOf spa) (.line (lineOf spa) (eTenant (m.entry (pageOf spa))) d poison) (if far then forDur else none)

/-- A full line written at its home by any agent. `wb` is a writeback, which the MSC keeps dirty (R165); a durable line
is written through to its location at once and the MSC keeps it clean (R384). One that meets its page's evacuation to another shelf waits
for the end of that move, which has no Bed frame as its destination (DESIGN CHOICE, log 114). -/
def homeWrite (m : Mach) (spa : Nat) (d : Line) (poison wb : Bool) (forDur : Option Nat := none) : Mach × WRes :=
  let page := pageOf spa
  let line := spa / 64
  let dur := eDur (m.entry page)
  let held := (m.mscLine line).isSome
  if dur && m.durHeld (homeOf spa) then (m, .wait)
  else match m.prepWrite page with
  | (m, .refuse c) => (m, .refuse c)
  | (m, .wait) => (m, .wait)
  | (m, .journal s) =>
    match m.journalLine spa s d fullMask poison with
    | (m, true) =>
      if dur then ((m.mscHold line d false poison).1.mirrorLine spa d poison forDur, .done)
      else (if held then m.putMsc line ⟨d, false, poison, eTenant (m.entry page)⟩ else m, .done)
    | (m, false) => (m, .wait)
  | (m, p) =>
    if dur then
      match m.storeLine spa d poison with
      | (m, true) =>
        (((m.mscHold line d false poison).1).mirrorLine spa d poison forDur, .done)
      | (m, false) => (m, .wait)
    else match wb || held, p with
      | false, .bed f => (m.writeBed spa (bedLda f spa) d poison, .done)
      | _, _ => match m.mscHold line d true poison with
        | (m, true) => (m, .done)
        | (m, false) => (m, .wait)

/-- Every channel that holds a line of a Frame page's plots is READY (R197). -/
def plotsReady (m : Mach) (loc plots : Nat) : Bool := (List.range (8 * (plots + 1))).all (fun i => m.chanReady (loc * 512 + 64 * i))

/-- A channel that the home's copy of a line needs is not READY (R197). -/
def homeNotReady (m : Mach) (spa : Nat) : Bool :=
  let e := m.entry (pageOf spa)
  (eState e == stStable || eState e == stDemoting) && (m.mscLine (spa / 64)).isNone &&
  ((eTier e == tierBed && !m.chanReady (bedLda (eLoc e) spa)) || (eTier e == tierFrame && !m.plotsReady (eLoc e) (ePlots e)))

/-- The channel of the frame a write would go to is not READY (R197, R371). A line the MSC holds needs none. -/
def writeNotReady (m : Mach) (spa : Nat) : Bool :=
  let e := m.entry (pageOf spa)
  eTier e == tierBed && (eState e == stStable || eState e == stDemoting) && (m.mscLine (spa / 64)).isNone && !m.chanReady (bedLda (eLoc e) spa)

/-- A whole line written at its home, behind the writes of it that the home holds; one that has to wait is held, and the requests for
the line behind it wait too (R187, R382). -/
def linePut (m : Mach) (r : HReq) (wb : Bool) (forDur : Option Nat) : Mach × WRes :=
  let r := { r with mask := fullMask }
  if m.heldWrites r.line ≠ [] then (m.putHeld r, .wait)
  else match m.homeWrite (r.line * 64) r.data r.poison wb forDur with
    | (m, .wait) => (m.putHeld r, .wait)
    | x => x

/-- A durable write that has ended counts for its core also where its page is not durable any more, or it was refused. -/
def durEnded (m : Mach) (line key : Nat) (r : WRes) : Mach :=
  if r = .done ∧ eDur (m.entry (pageOf (line * 64))) then m else m.accepted key

/-! ### How a read of a line is served -/

/-- What a home finds for a demand read (R243). -/
inductive RServe where
  /-- From a Bed frame: the line at this LDA. -/
  | bed (lda : Nat)
  | line (r : ReadRes)
  | wait
  /-- From a shelf unit, which has first to be read. -/
  | shelf (n unit : Nat) (move : Option Nat)
  | refuse (cause : Nat)
  | dormant (shelf : Nat) (wake : Bool)
  deriving DecidableEq, Repr

/-- R265: a refusal as DORMANT, with the wake request it may send. -/
def refuseDormant (m : Mach) (page : Nat) : Mach × RServe :=
  let q := homeOf page
  let n := locShelf (eLoc (m.entry page))
  let m := m.add R.TIER_DORMANT_REFUSED_COUNT 1 q
  if m.on (R.TIER_SHELF_STAT_WAKE_PEND.at n) then (m, .dormant n false)
  else
    let m := m.set (R.TIER_SHELF_STAT_WAKE_PEND.at n) 1
    let m := m.add R.TIER_WAKE_SENT_COUNT 1 q
    let m := m.setShelf n { m.shelf n with wakeBy := m.acctTenant page }
    (m.ev 3 1 .tier n (m.shelf n).ident, .dormant n true)

/-- A read of a Stable Shed page whose shelf serves reads (R249, R250, R261). -/
def serveShed (m : Mach) (spa : Nat) (age : Nat) (promote : Bool) : Mach × RServe :=
  let page := pageOf spa
  let q := homeOf page
  let e := m.entry page
  let n := locShelf (eLoc e)
  let u := if eCmp e then 0 else spa % 4096 / 512
  if promote && eCmp e then
    match m.promoteOrWait page with
    | (m, some k) => (m, .shelf n u (some k))
    | (m, none) => (m.add R.TIER_SERVED_IN_PLACE_COUNT 1 q, .shelf n u none)
  else if promote && decide (age < m.act R.TIER_POLICY_SHED_PROMOTE_AGE q) && m.canPromote page then
    match m.beginPromotion page with
    | (m, k) => (m, .shelf n u k)
  else (m, .shelf n u none)

/-- A line read where its page lies in Frame or Shed, verified and decoded (R248–R250). A failure ends the promotion under way and is
reported as R249 and R289 say. -/
def sourceRead (m : Mach) (spa : Nat) : Mach × RServe :=
  let page := pageOf spa
  let e := m.entry page
  let mv := (m.moveOf page).filter (fun x => x.2.promote)
  if m.hasFailed page then (m, .refuse refUncorrectable)
  else if eTier e = tierFrame && !m.plotsReady (eLoc e) (ePlots e) then (m, .refuse refNotReady)
  else match m.sourceLine spa (eTier e) (eLoc e) (ePlots e) (eCmp e) mv.isNone with
  | (m, .line d) => (m, .line (m.overlay spa (.ok d)))
  | (m, .lost) => (m.poisonEntry page (m.lineFails spa e), .line .poison)
  | (m, r) => (match mv with | some (k, v) => m.failPromotion k v r | none => m, .refuse refUncorrectable)

/-- The home's copy of a line for a demand read (R243, R248–R250), by the page's entry. `age` is its AGE before the read. A SPEC request
(`spec`) of a Shed page starts no promotion before its line has been read (R198). -/
def servePage (m : Mach) (spa age : Nat) (spec : Bool) : Mach × RServe :=
  let page := pageOf spa
  let m := m.wakeEntry page
  let e := m.entry page
  let st := m.shelfState (locShelf (eLoc e))
  let bed (frame : Nat) : Mach × RServe :=
    if m.chanReady (bedLda frame spa) then (m, .bed (bedLda frame spa)) else (m, .refuse refNotReady)
  if eState e = stZero then (m, .line (m.overlay spa (.ok 0)))
  else if eState e = stRekeying then (m, .wait)
  else if eState e = stDormant then
    if st ≠ 3 then m.refuseDormant page
    else if m.hasFailed page then (m, .refuse refUncorrectable)
    else m.serveShed spa age false
  else if eState e = stPromoting then
    match m.moveOf page with
    | none => (m, .wait)
    | some (k, v) =>
      let u := if eCmp e then 0 else spa % 4096 / 512
      let got := if eCmp e then v.units + 1 == 2 ^ unitsOf true (ePlots e) else v.units / 2 ^ u % 2 == 1
      if v.done / 2 ^ (spa % 4096 / 64) % 2 = 1 ∧ v.dstTier = tierBed then bed v.dstLoc
      else if eTier e = tierShed && !got && v.dstTier == tierBed then (m, .shelf (locShelf (eLoc e)) u (some k))
      else m.sourceRead spa
  else if eTier e = tierBed then bed (eLoc e)
  else if m.hasFailed page then (m, .refuse refUncorrectable)
  else if eTier e = tierShed then
    if st = 2 ∨ st = 3 then m.serveShed spa age (!spec) else m.refuseDormant page
  else if eState e = stDemoting then m.sourceRead spa
  else if !m.plotsReady (eLoc e) (ePlots e) then (m, .refuse refNotReady)
  else match m.promoteOrWait page with
    | (m, some _) => m.sourceRead spa
    | (m, none) => (m.add R.TIER_SERVED_IN_PLACE_COUNT 1 (homeOf page)).sourceRead spa

/-- A demand read at its home (R243). The first access to a Poisoned page fills it before anything else (R245); the MSC's copy is the
home's where it holds one. A read that waits reaches the page when it is served (R246). -/
def serveRead (m : Mach) (spa : Nat) (spec : Bool := false) : Mach × RServe :=
  let page := pageOf spa
  if !m.managed spa then (m, .refuse refNone)
  else if !m.tierReady (homeOf page) then (m, .refuse refNotReady)
  else if m.mapUnreadable page then (m.mapFault page, .refuse refUncorrectable)
  else if eTier (m.entry page) = tierNone then (m, .refuse refNone)
  else
    let age := eAge (m.entry page)
    match if eState (m.entry page) = stPoisoned then m.fillPoisoned page else (m, true) with
    | (m, false) => (m.makeRoom page, .wait)
    | (m, true) =>
      match m.mscLine (spa / 64) with
      | some x => (m.touch page, .line (if x.poison then .poison else .ok x.data))
      | none => match m.servePage spa age spec with
        | (m, .wait) => (m, .wait)
        | (m, r) => (m.touch page, r)

/-- A read finished within the command, for an engine: the frame or the shelf is read at once. `wait` becomes the value
before whatever the read waits for; a Poisoned page that waits for a frame is filled when one is free (R245). -/
def readNow (m : Mach) (spa : Nat) : Mach × RServe :=
  match m.serveRead spa with
  | (m, .bed lda) =>
    let (m, r) := m.readCoded lda [] (some (m.bedEnc spa)) false
    (m, .line r)
  | (m, .shelf _ _ _) => m.sourceRead spa
  | (m, .wait) =>
    let (m, r) := m.homeValue (spa / 64)
    (if eState (m.entry (pageOf spa)) = stPoisoned then m.wantPage (pageOf spa) else m, .line r)
  | r => r

/-- A line's value at its home for an engine, with the writes the home holds (R113). -/
def lineNow (m : Mach) (line : Nat) : Mach × RServe :=
  let rs := m.heldWrites line
  if heldWhole rs then (m.touch (pageOf (line * 64)), .line (heldOver rs .poison))
  else match m.readNow (line * 64) with
    | (m, .line x) => (m, .line (heldOver rs x))
    | r => r

/-! ### Whole coherent accesses of the engines (R195), done within one command -/

def lineKey (die line : Nat) : Nat := die * 2 ^ 42 + line

def isStableSt : LSt → Bool
  | .i | .s | .e | .o | .m => true
  | _ => false

/-- Whether some message, home transaction or transient state is open for a line. -/
def lineBusy (m : Mach) (line : Nat) : Bool :=
  m.net.any (fun g => g.line == line) || m.htx.any (fun t => t.req.line == line) || m.hq.any (fun r => r.line == line) ||
  m.lines.any (fun e => e.1 % 2 ^ 42 == line && !isStableSt e.2.st)

/-- Occupied filter entries of a home. -/
def syncFilter (m : Mach) (q : Nat) : Mach :=
  m.set R.HOME_SF_STATUS_OCCUPIED (m.filter.filter (fun e => homeOf (e.1 * 64) == q)).length q

def setFilter (m : Mach) (line : Nat) (f : FEnt) : Mach :=
  (if f.st = FSt.i then { m with filter := m.filter.erase line } else { m with filter := m.filter.ins line f }).syncFilter (homeOf (line * 64))

def noFilter (m : Mach) (line : Nat) : Mach := ({ m with filter := m.filter.erase line }).syncFilter (homeOf (line * 64))

/-- Every die's copy of a line goes, with its filter entry. -/
def dropCopies (m : Mach) (line : Nat) : Mach :=
  ({ m with lines := m.lines.keep (fun k _ => k % 2 ^ 42 != line) }).noFilter line

/-- The DurWb of a writer of a durable line that a write at the home takes from its die: it reaches the home, and its Cmp the die, within
the command (R386). A line that cannot be read is lost to its writer (R123). -/
def durCommit (m : Mach) (line die cid : Nat) (x : DieLine) : Mach :=
  let q := homeOf (line * 64)
  let k := cid * 4 + q
  let m := { m with cores := m.cores.mapV (fun n c =>
    if n ≠ cid then c
    else if x.poison then { c with dwl := c.dwl.filter (· != line), lost := c.lost.orElse (fun _ => some line) }
    else { c with dwl := c.dwl.filter (· != line), dwCount := c.dwCount.put q (c.dwCount.getD q 0 + 1) 0 }) }
  if x.poison then m
  else
    let m := { m with durGot := m.durGot.ins k (m.durGot.getD k 0 + 1) }
    match m.linePut { k := .wrLine, src := die, line := line, data := x.data, cid := k + 1 } false (some k) with
    | (m, .wait) => m
    | (m, r) => m.durEnded line k r

/-- Every durable write of a line still in a die is committed before another agent's write takes the line (R386). A copy whose stores
are lost goes. -/
def durNow (m : Mach) (line : Nat) : Mach :=
  if m.lineBusy line then m
  else (List.range 12).foldl (fun m d =>
    match m.lines.find (lineKey d line) with
    | none => m
    | some x =>
      let m := (x.writers.filter (fun w => !((m.cores.find w).elim false (fun c => c.dwPend.contains line)))).foldl
        (fun m w => m.durCommit line d w x) m
      if x.writers = [] then m
      else if x.poison then m.dropCopies line
      else { m with lines := m.lines.mapV (fun k y => if k = lineKey d line then { y with writers := [] } else y) }) m

/-- Give every copy of a line that an open transaction carries a new value, as if the write had been ordered before it; its L1I copies
go (R163). -/
def patchCopies (m : Mach) (line : Nat) (d : Line) (mask : Nat) (poison : Bool) : Mach :=
  let f (x : Line) : Line := mergeLine x d mask
  let p (x : Bool) : Bool := if mask = fullMask then poison else x || poison
  { m with
    lines := m.lines.mapV (fun k x => if k % 2 ^ 42 == line then
      { x with data := f x.data, poison := p x.poison, l1 := x.l1.filter (fun e => !e.2.1) } else x)
    net := m.net.map (fun g => if g.line == line then { g with data := f g.data, poison := p g.poison } else g)
    htx := m.htx.map (fun t => if t.req.line == line then
      { t with data := t.data.map (fun x => (f x.1, p x.2)) } else t) }

/-- A non-caching agent's read of a line. -/
def cohRead (m : Mach) (line : Nat) : Mach × RServe :=
  match m.ownerLine line with
  | some (d, p) => (m.touch (pageOf (line * 64)), .line (if p then .poison else .ok d))
  | none => m.lineNow line

/-- The LINE record of a partial write that goes into the shed journal carries the whole line, whose other bytes lie on a shelf that
cannot be read: they are free (log 115). -/
def recordLine (m : Mach) (d : Line) (mask : Nat) : Mach × Line :=
  let (m, x) := forN 8 (fun i (r : Mach × Nat) => let (m, v) := r.1.fresh; (m, r.2 + v.toNat * 2 ^ (64 * i))) (m, 0)
  (m, mergeLine (BitVec.ofNat 512 x) d mask)

/-- A write of part of a line whose home's copy cannot be read: into the shed journal, for a durable page with a LINE record (R243,
R381, R384, R398). -/
def partJournal (m : Mach) (r : HReq) (forDur : Option Nat) : Mach × WRes :=
  let spa := r.line * 64
  let page := pageOf spa
  let dur := eDur (m.entry page)
  let m := m.touch page
  if m.heldWrites r.line ≠ [] ∨ (dur ∧ m.durHeld (homeOf spa)) then (m.putHeld r, .wait)
  else match m.journalLine spa (locShelf (eLoc (m.entry page))) r.data r.mask r.poison with
    | (m, false) => (m.putHeld r, .wait)
    | (m, true) =>
      let m := m.dropCopies r.line
      if dur then
        let (m, d) := m.recordLine r.data r.mask
        (m.mirrorLine spa d r.poison forDur, .done)
      else (m, .done)

/-- A non-caching agent's write of the bytes a mask names: of the whole line, or a WrPart (`part`), which needs the home's copy whatever
its mask (R195). The durable writes of the line still in a die are committed first (R386). A write that has to wait is kept by the home
and performed when it can be (R382); `reply` asks for its Cmp then. -/
def cohWrite (m : Mach) (line : Nat) (d : Line) (mask : Nat) (poison : Bool := false) (src : Nat := agentMc)
    (forDur : Option Nat := none) (part : Bool := mask != fullMask) (reply : Bool := false) : Mach × WRes :=
  let spa := line * 64
  let page := pageOf spa
  let r : HReq := ⟨if part then .wrPart else .wrLine, src, line, d, mask, poison, reply, false, forDur.elim 0 (· + 1), false⟩
  if !m.managed spa then (m, .refuse refNone)
  else if m.mapUnreadable page then (m.mapFault page, .refuse refUncorrectable)
  else if eTier (m.entry page) = tierNone then (m, .refuse refNone)
  else if m.writeNotReady spa then (m, .refuse refNotReady)
  else
    let m := (m.wakeEntry page).durNow line
    let owner := m.ownerLine line
    if part ∧ owner = none ∧ m.mscLine line = none ∧ heldWhole (m.heldWrites line) = false ∧ m.journals page then m.partJournal r forDur
    else
      let base : Mach × ReadRes :=
        if !part then (m.touch page, .ok 0) else match owner with
        | some (x, p) => (m.touch page, if p then .poison else .ok x)
        | none => match m.lineNow line with
          | (m, .line r) => (m, r)
          | (m, _) => (m, .unreadable)
      match base with
      | (m, .unreadable) => (m, .refuse refUncorrectable)
      | (m, x) =>
        let (x, p) := match x with | .ok x => (x, false) | _ => ((0 : Line), mask != fullMask)
        match (if m.lineBusy line then m.patchCopies line d mask poison else m.dropCopies line).linePut
            { r with data := mergeLine x d mask, poison := p || poison } false forDur with
        | (_, .refuse c) => (m, .refuse c)
        | r => r

/-- Bytes of memory as a non-caching agent reads them, n from a system-physical address up: none with the reason where
a line is refused; poisoned lines are reported in the second part. -/
def cohBytes (m : Mach) (a n : Nat) : Mach × Except RServe (List Byte × Bool) :=
  forN (linesIn a n) (fun i (r : Mach × Except RServe (List Byte × Bool)) =>
    match r.2 with
    | .error e => (r.1, .error e)
    | .ok (bs, pz) =>
      let line := a / 64 + i
      match (r.1.homeOrdered line).cohRead line with
      | (m, .line (.ok d)) =>
        let lo := if line * 64 < a then a - line * 64 else 0
        let hi := min 64 (a + n - line * 64)
        (m, .ok (bs ++ ((bytesOf 64 d.toNat).drop lo).take (hi - lo), pz))
      | (m, .line .poison) =>
        let lo := if line * 64 < a then a - line * 64 else 0
        let hi := min 64 (a + n - line * 64)
        (m, .ok (bs ++ List.replicate (hi - lo) 0, true))
      | (m, .line .unreadable) => (m, .error (.refuse refUncorrectable))
      | (m, e) => (m, .error e)) (m, .ok ([], false))

/-- Bytes written by a non-caching agent from a system-physical address up. -/
def cohPut (m : Mach) (a : Nat) (b : List Byte) (poison : Bool := false) (src : Nat := agentMc) : Mach × WRes :=
  let n := b.length
  forN (linesIn a n) (fun i (r : Mach × WRes) =>
    match r.2 with
    | .refuse c => (r.1, .refuse c)
    | w =>
      let line := a / 64 + i
      let lo := if line * 64 < a then a - line * 64 else 0
      let hi := min 64 (a + n - line * 64)
      let from_ := line * 64 + lo - a
      let d := ofBytes ((b.drop from_).take (hi - lo)) * 2 ^ (8 * lo)
      match (r.1.homeOrdered line).cohWrite line (BitVec.ofNat 512 d) ((2 ^ (hi - lo) - 1) * 2 ^ lo) poison src with
      | (m, .done) => (m, w)
      | (m, x) => (m, x)) (m, .done)

end Mach
end Sys2Proof.Machine
end

