-- ==== Sys2Proof/Machine/SeedOps.lean ====
section
/-! DEFINITION. The seed store's own work: slots filled and emptied, the rotations of the memory and Shed keys, shelf
labels and the rekeying of Shed pages (R308, R309, R327–R342, R441–R443). -/
namespace Sys2Proof.Machine
namespace Mach

/-! ### Slots -/

/-- USAGE bits as they stand in SLOT_ATTR[15:6] (R327). -/
def useEnc : Nat := 0
def useDec : Nat := 1
def useMac : Nat := 2
def useWrap : Nat := 3
def useUnwrap : Nat := 4
def useMemory : Nat := 5
def useShed : Nat := 6
def useFw : Nat := 7
def useMirror : Nat := 8
def useExport : Nat := 9

def has (usage bit : Nat) : Bool := usage / 2 ^ bit % 2 == 1

/-- n bytes from the DRBG: free values. -/
def drbg (m : Mach) : Nat → Mach × List Byte
  | 0 => (m, [])
  | n + 1 =>
    let (m, v) := m.fresh
    let (m, r) := drbg m n
    (m, bytesOf 8 v.toNat ++ r)

/-- The DRBG is reseeded (R330). -/
def reseed (m : Mach) : Mach := m.add R.SEED_DRBG_RESEEDS 1

/-- A key of 256 bits. -/
def newKey (m : Mach) : Mach × List Byte := m.drbg 4

/-- The blocks of counters drawn under a slot go with its key. -/
def dropIvs (m : Mach) (n : Nat) : Mach := { m with ivBlocks := m.ivBlocks.keep (fun k _ => k / 4 != n) }

/-- Fill a slot, which leaves Empty: GEN rises (R328), the counts start at 0. LIMIT stays as software wrote it. -/
def fillSlot (m : Mach) (n alg usage owner : Nat) (pkg : Bool) (fixed : Nat) (key : List Byte) : Mach :=
  let s := m.slot n
  (m.dropIvs n).setSlot n { state := 1, alg := alg, usage := usage, owner := owner, pkgOwned := pkg, gen := (s.gen + 1) % 2 ^ 16,
                            use := 0, limit := s.limit, ivctr := 0, fixed := fixed, key := key }

/-- Empty a slot: overwritten with zeros, GEN rises (R328). Fused slots stay. -/
def emptySlot (m : Mach) (n : Nat) : Mach :=
  let s := m.slot n
  if s.state = 0 ∨ s.state = 4 then m
  else (m.dropIvs n).setSlot n { state := 0, alg := 0, usage := 0, owner := 0, pkgOwned := false, gen := (s.gen + 1) % 2 ^ 16,
                                 use := 0, limit := 0, ivctr := 0, fixed := 0, key := [] }

/-- Fill a slot the package owns from the DRBG, FIXED included (R309). -/
def genKey (m : Mach) (n alg usage : Nat) : Mach :=
  let (m, k) := m.newKey
  let (m, f) := m.fresh
  m.fillSlot n alg usage 0 true (f.toNat % 2 ^ 32) k

/-- Generate a slot of the package, after a reseed (R309, R330, R341). -/
def genSlot (m : Mach) (n alg usage : Nat) : Mach := m.reseed.genKey n alg usage

/-- Generate an XTS pair of the memory role, after a reseed (R309, R330, R335). -/
def genPair (m : Mach) (n : Nat) : Mach := (m.reseed.genKey n 2 (2 ^ useMemory)).genKey (n + 1) 3 (2 ^ useMemory)

/-- What the fuses hold: FWKEY and DEVKEK, reloaded at a cold reset (R83, R308). -/
def loadFused (m : Mach) : Mach :=
  let f (n usage : Nat) (m : Mach) : Mach :=
    m.setSlot n ⟨4, 1, usage, 0, true, 0, 0, 0, 0, 0, Config.fuseKey n⟩
  f 1 (2 ^ useWrap + 2 ^ useUnwrap) (f 0 (2 ^ useFw) m)

/-- R309: after power-on or a cold reset the seed store generates M0, S0 and SYS and selects them. -/
def seedInit (m : Mach) : Mach :=
  let m := ((m.genPair 8).genSlot 12 1 (2 ^ useShed)).genPair 14
  (m.set R.SEED_MEMROT_CUR 0).set R.SEED_SHEDROT_CUR 0

def tiersReady (m : Mach) : Bool := [0, 1, 2, 3].all (fun q => m.tierReady q)

/-- The wrapped key of a slot under a KEK (R332). -/
def wrapSlot (m : Mach) (n kek : Nat) : List Byte :=
  let s := m.slot n
  let key := Crypto.ofB s.key
  let plain := key ++ Crypto.zeros (32 - key.length) ++ [1, 0, s.alg, 0] ++ Crypto.leBytes 2 s.usage ++ [0, 0] ++
    Crypto.leBytes 4 s.fixed ++ [0, 0, 0, 0]
  Crypto.toBytes (Crypto.kwWrap (Crypto.ofB (m.slot kek).key) plain)

/-- A KEY record (R398): sent for a slot of a durable tenant and for each Shed rotation. A KEK that is not Active wraps nothing (R334). -/
def mirrorKey (m : Mach) (n : Nat) (destroyed : Bool) : Mach :=
  let kek := m.get R.PKG_PAIR_KEYS_KEK
  if m.mirrorFed && (m.slot kek).state == 1 then (m.useSlot kek 1).mirror 0 (.key n (m.slot n).gen destroyed (m.wrapSlot n kek)) else m

def durableTenant (m : Mach) (t : Nat) : Bool := (m.tenants.find t).elim false (fun x => x.state != 0 && x.durable)

/-- Mirror a change to a slot if its owner is durable. -/
def mirrorSlot (m : Mach) (n owner : Nat) (destroyed : Bool) : Mach :=
  if m.durableTenant owner then m.mirrorKey n destroyed else m

/-! ### Memory rotation (R335–R340) -/

def memrotStart (m : Mach) (byGo : Bool) : Mach :=
  let new := 10 - 2 * m.get R.SEED_MEMROT_CUR
  if m.on R.SEED_MEMROT_ACTIVE || !m.tiersReady || (m.slot new).state != 0 || (m.slot (new + 1)).state != 0 || !m.on R.SEED_DRBG_HEALTHY then
    (if byGo then m.set R.SEED_MEMROT_REFUSED 1 else m)
  else
    let m := (m.genPair new).set R.SEED_MEMROT_ACTIVE 1
    [0, 1, 2, 3].foldl (fun m q => m.set (R.SEED_MEMROT_CUR_CURSOR.at q) 0) m

/-- The end of a rotation (R340). -/
def memrotEnd (m : Mach) : Mach :=
  let fin (q : Nat) : Bool := decide (m.mapEntries ≤ m.get (R.SEED_MEMROT_CUR_CURSOR.at q)) && (m.tq q).deferred.isEmpty
  if m.on R.SEED_MEMROT_ACTIVE && [0, 1, 2, 3].all fin then
    let cur := m.get R.SEED_MEMROT_CUR
    let m := (m.emptySlot (8 + 2 * cur)).emptySlot (9 + 2 * cur)
    let m := ((m.set R.SEED_MEMROT_CUR (1 - cur)).set R.SEED_MEMROT_ACTIVE 0).add R.SEED_MEMROT_COUNT 1
    m.ev 7 2 .seed (m.get R.SEED_MEMROT_COUNT * 2 ^ 16)
  else m

/-- One entry of a quadrant's walk (R336). -/
def memrotStep (m : Mach) (q : Nat) : Mach :=
  let i := m.get (R.SEED_MEMROT_CUR_CURSOR.at q)
  if !m.on R.SEED_MEMROT_ACTIVE || !m.tierReady q || decide (m.mapEntries ≤ i) then m.memrotEnd
  else
    let page := pageAt q i
    let e := m.entry page
    let next (m : Mach) : Mach := m.set (R.SEED_MEMROT_CUR_CURSOR.at q) (i + 1)
    let m :=
      if m.mapUnreadable page then next m
      else if eState e = stStable ∧ (eTier e = tierBed ∨ eTier e = tierFrame) then next (m.rekeyPage page)
      else if eState e = stPromoting ∨ eState e = stDemoting then next (m.setDeferred q ((m.tq q).deferred ++ [page]))
      else next m
    m.memrotEnd

/-! ### Labels (R441–R443) -/

/-- Bytes 0 to 47 of a label (R442). -/
def labelHead (flags shelf ident owner cap counter : Nat) : List Byte :=
  bytesOf 4 0x5EEDF07E ++ bytesOf 1 1 ++ bytesOf 1 0 ++ bytesOf 1 flags ++ bytesOf 1 shelf ++ bytesOf 8 ident ++ bytesOf 8 owner ++
  bytesOf 4 (1 + slotsOf cap) ++ bytesOf 4 (slotsOf cap) ++ bytesOf 8 counter ++ bytesOf 8 0

/-- TAG of a label under a Shed slot. -/
def labelTag (m : Mach) (slot shelf counter : Nat) (head : List Byte) : List Byte :=
  let s := m.slot slot
  Crypto.toBytes (Crypto.gcmTag (Crypto.ofB s.key) (gcmIv shelf s.fixed counter) (Crypto.ofB head) [])

def labelAt (m : Mach) (shelf : Nat) : List Byte := m.bytes (hdm shelf 0) 64
def labelSlot (m : Mach) (shelf : Nat) : Nat := 12 + ((m.labelAt shelf).getD 6 0).toNat % 2

/-- Add to SHED_UNITS of a Shed slot. -/
def addUnits (m : Mach) (slot n : Nat) : Mach := m.add (unitsFld slot) n
def subUnits (m : Mach) (slot n : Nat) : Mach :=
  let f := unitsFld slot
  m.set f (m.get f - n)

/-- Write a label under the current Shed slot: it counts as one unit of the slot (R442). A slot that refuses writes none (R315). -/
def writeLabel (m : Mach) (shelf ident cap : Nat) : Mach :=
  let n := m.shedSlot
  match m.drawIv n 0 1 with
  | none => m
  | some (m, c) =>
    let m := (m.useSlot n 1).privDone 0 1 0
    let head := labelHead (n - 12) shelf ident m.fuses.serial cap c
    (m.setBytes (hdm shelf 0) (head ++ m.labelTag n shelf c head)).addUnits n 1

/-! ### Shed rotation (R341) -/

def shedrotStart (m : Mach) (byGo : Bool) : Mach :=
  let cur := m.get R.SEED_SHEDROT_CUR
  let new := 13 - cur
  if m.on R.SEED_SHEDROT_ACTIVE || (m.slot new).state != 0 || !m.on R.SEED_DRBG_HEALTHY then
    (if byGo then m.set R.SEED_SHEDROT_REFUSED 1 else m)
  else
    let m := ((m.genSlot new 1 (2 ^ useShed)).set R.SEED_SHEDROT_CUR (1 - cur)).set R.SEED_SHEDROT_ACTIVE 1
    m.mirrorKey new false

/-- The old slot of a Shed rotation. -/
def oldShed (m : Mach) : Nat := 13 - m.get R.SEED_SHEDROT_CUR

/-- Whether a page has a unit under a slot. -/
def unitUnder (m : Mach) (page slot : Nat) : Bool :=
  let e := m.entry page
  let n := locShelf (eLoc e)
  (List.range (unitsOf (eCmp e) (ePlots e))).any (fun u =>
    match m.tags.find (tagKey n (unitPlot (eCmp e) (locPlace (eLoc e)) u)) with
    | some t => t.slot == slot
    | none => false)

/-- Rekey one Shed page: read, verified, and put into the journal again (R341). -/
def rekeyShed (m : Mach) (page : Nat) : Mach :=
  let q := homeOf page
  let e := m.entry page
  let n := locShelf (eLoc e)
  let k := unitsOf (eCmp e) (ePlots e)
  let us := List.range k
  let m := m.shedRead q n (eCmp e) (locPlace (eLoc e)) us
  if us.all (fun u => m.unitOk n page u (eCmp e) (ePlots e) (locPlace (eLoc e))) then
    let b := us.flatMap (fun u => m.unitBytes n (eCmp e) (locPlace (eLoc e)) u)
    let m := m.setEntry page (eSetState e stRekeying)
    let m := m.setTq q { m.tq q with rekeys := (m.tq q).rekeys ++ [page] }
    m.journalPage page n (locPlace (eLoc e)) (ePlots e) (eCmp e) b none
  else m.poisonEntry page

/-- Go on with a Shed rotation: the pages of Awake shelves that have a unit under the old slot, while the journal has room;
then the labels of the shelves that have none left; and the end once the old slot's SHED_UNITS is 0. -/
def shedrotStep (m : Mach) : Mach :=
  if !m.on R.SEED_SHEDROT_ACTIVE then m
  else
    let old := m.oldShed
    let m := m.pmap.foldl (fun m x =>
      let page := x.1 * 4096
      let e := m.entry page
      if eState e = stStable ∧ eTier e = tierShed ∧ m.mapUnreadable page = false ∧ m.tierReady (homeOf page) = true ∧ m.shelfState (locShelf (eLoc e)) = 2 ∧
          m.unitUnder page old = true ∧ journalNeed (unitsOf (eCmp e) (ePlots e)) ≤ m.moveRecsFree (homeOf page) then m.rekeyShed page
      else m) m
    let m := (List.range 64).foldl (fun m n =>
      if m.shelfState n = 2 ∧ m.labelSlot n = old ∧ m.tags.all (fun t => t.1 / 2 ^ 40 != n || t.2.slot != old) then
        (m.writeLabel n (m.shelf n).ident (m.get (R.TIER_SHELF_STAT_CAP_GIB.at n))).subUnits old 1
      else m) m
    if m.get (R.SEED_SHED_UNITS_UNITS.at (old - 12)) = 0 then
      let m := ((m.emptySlot old).set R.SEED_SHEDROT_ACTIVE 0).add R.SEED_SHEDROT_COUNT 1
      m.ev 7 2 .seed (1 + m.get R.SEED_SHEDROT_COUNT * 2 ^ 16)
    else m

end Mach
end Sys2Proof.Machine
end

