-- ==== Sys2Proof/Machine/Range.lean ====
section
/-! DEFINITION. Range sets: the lookup of tenant-visible addresses and the record of range faults (R151–R157). -/
namespace Sys2Proof.Machine
namespace Mach

def rblock (m : Mach) (set n : Nat) : RBlock := m.rblocks.getD (set * 8 + n) ⟨false, false, false, 0, 0, 0⟩

/-- A block as a range cache uses it: until the set has been invalidated, each access uses the old or the new contents
(R157), so a changed block is chosen by a free value. -/
def usedBlock (m : Mach) (set n : Nat) : Mach × RBlock :=
  match m.rstale.find (set * 8 + n) with
  | none => (m, m.rblock set n)
  | some o =>
    let (m, v) := m.fresh
    (m, if v.toNat % 2 = 0 then o else m.rblock set n)

/-- Write a range block: the master copy changes at once (R153). -/
def putBlock (m : Mach) (set n : Nat) (b : RBlock) : Mach :=
  let k := set * 8 + n
  let m := if (m.rstale.find k).isNone ∧ m.rblock set n ≠ b then { m with rstale := m.rstale.ins k (m.rblock set n) } else m
  { m with rblocks := m.rblocks.put k b ⟨false, false, false, 0, 0, 0⟩ }

/-- Causes of a range fault (R156). -/
def rfNoBlock : Nat := 1
def rfRead : Nat := 2
def rfWrite : Nat := 3
def rfControl : Nat := 4
def rfOutside : Nat := 5
def rfWidth : Nat := 6

def inControl (a : Nat) : Bool := decide (0xFF0000000000 ≤ a) && decide (a < 0xFF0010000000)

/-- The lookup of R154 with no record made: the address, or the cause of the fault. -/
def lookup (m : Mach) (set a : Nat) (write : Bool) : Mach × Except Nat Nat :=
  if 2 ^ 48 ≤ a then (m, .error rfWidth)
  else
    (List.range 8).foldl (fun (r : Mach × Except Nat Nat) n =>
      match r.2 with
      | .error 1 =>
        let (m, b) := r.1.usedBlock set n
        if b.v && decide (b.base ≤ a) && decide (a < b.base + (b.unitsM1 + 1) * 2 ^ 21) then
          let spa := b.target + (a - b.base)
          (m, if !write && !b.r then .error rfRead
            else if write && !b.w then .error rfWrite
            else if inControl spa then .error rfControl
            else if !m.managed spa then .error rfOutside
            else .ok spa)
        else (m, .error rfNoBlock)
      | _ => r) (m, .error rfNoBlock)

/-- Record a range fault and raise its event for the owning tenant (R155, R156). -/
def rangeFault (m : Mach) (set a cause source : Nat) (tenant : Option Nat) : Mach :=
  let f := m.rfaults.getD set ⟨a, cause, source, 0⟩
  let m := { m with rfaults := m.rfaults.ins set { f with count := satAdd 16 f.count 1 } }
  m.ev 8 2 .ten ((cause + source * 8) * 2) a 0 12 tenant

/-- Look an address up for a source (0 device DMA, 1 foreign host, 2 bulk descriptor) and record a fault. -/
def translate (m : Mach) (set a : Nat) (write : Bool) (source : Nat) (tenant : Option Nat) : Mach × Option Nat :=
  match m.lookup set a write with
  | (m, .ok spa) => (m, some spa)
  | (m, .error c) => (m.rangeFault set a c source tenant, none)

/-- A context that has not been created, at a generation. -/
def freeTenant (gen : Nat) : Tenant := ⟨0, false, false, gen, 0, false, 0, 0, 0, 0, 0, 0, List.replicate 8 none, List.replicate 8 0, 0, 0, 0, 0, 0, 0, 0⟩

def tenant (m : Mach) (t : Nat) : Tenant := m.tenants.getD t (freeTenant m.tenGen)
def setTenant (m : Mach) (t : Nat) (x : Tenant) : Mach := { m with tenants := m.tenants.ins t x }

end Mach
end Sys2Proof.Machine
end

