-- ==== Sys2Proof/Machine/EpOps.lean ====
section
/-! DEFINITION. Logical devices: their state, notifications, event logs and the catalogue (R450–R461). -/
namespace Sys2Proof.Machine
namespace Mach

/-- Key of logical device n of group g. -/
def ldKey (g n : Nat) : Nat := g * 64 + n

/-- The logical device TCFG.LD names: port in bits [5:0], LD in [9:6]. -/
def ldOfCfg (ld : Nat) : Nat := ldKey (ld % 64 / 4) (16 * (ld % 64 % 4) + ld / 64)

/-- The Running tenant of KIND 1 whose TCFG.LD names a logical device (R453). -/
def boundTo (m : Mach) (k : Nat) : Option Nat :=
  (m.tenants.find? (fun x => x.2.state == 1 && x.2.kind == 1 && ldOfCfg x.2.ld == k)).map (·.1)

def ldField (m : Mach) (f : Fld) (k : Nat) : Nat := m.get (f.at (k % 64)) (k / 64)
def portOf (k : Nat) : Nat := 4 * (k / 64) + k % 64 / 16

/-- The port's link is up. -/
def ldLink (m : Mach) (k : Nat) : Bool := m.on (R.PG_PORT_STATUS_UP.at (k % 64 / 16)) (k / 64)

/-- The group faces a host (R450). -/
def isUpstream (m : Mach) (g : Nat) : Bool := m.get R.PG_CFG_ROLE g == 1

/-- R451: the first row that matches. -/
def ldState (m : Mach) (k : Nat) : Nat :=
  let standby := m.ldField R.EP_LD_STANDBY k == 1
  let b := m.boundTo k
  if m.ldField R.EP_LD_V k = 0 ∨ m.ldField R.EP_LD_MGR k = 1 ∨ (b = none ∧ !standby) then 0
  else if (m.ldFn k).draining then 3
  else
    match b with
    | some t =>
      let x := m.tenant t
      if x.attached then
        (if m.mode < 3 ∨ 8 < m.mode ∨ (m.get R.PKG_PAIR_STATE_STATE = 6 ∧ x.durable) then 4 else 2)
      else if standby ∧ (m.tenant (m.ldField R.EP_LD_PEER_TENANT k)).state ≠ 1 then 1 else 0
    | none => if (m.tenant (m.ldField R.EP_LD_PEER_TENANT k)).state ≠ 1 then 1 else 0

/-- Send a vector of a function, or set its PBA bit where it is masked (R457). -/
def sendVector (m : Mach) (k v : Nat) : Mach :=
  let x := m.ldFn k
  let (a, d, masked) := x.msix.getD v (0, 0, true)
  if x.msixMask || masked then m.setLd k { x with pba := if x.pba.contains v then x.pba else x.pba ++ [v] }
  else m.setLd k { x with lastMsg := some (a, d), msgs := x.msgs + 1 }

/-- NOTIFY 2 of a completion (R457). -/
def notifyVector (m : Mach) (t v : Nat) : Mach :=
  let k := ldOfCfg (m.tenant t).ld
  let x := m.ldFn k
  if m.boundTo k = some t ∧ x.msixOn ∧ v < 2048 ∧ m.ldLink k ∧ m.ldState k = 2 then m.sendVector k v
  else (m.setLd k { x with dropsN := (x.dropsN + 1) % 2 ^ 32 }).add R.EP_DROPS_NOTIFY_DROPPED 1 (k / 64)

/-- Add a record to an event log of a function, and signal it as the host's policy asks: each log's policy byte has its
interrupt mode in [1:0], 1 for MSI-X, and the vector in [7:4] (the layout of CXL, PRESUMED, log 28). -/
def hostEvent (m : Mach) (k : Nat) (e : HostEv) : Mach :=
  let x := m.ldFn k
  let e := { e with handle := x.nextHandle }
  let m := m.setLd k { x with logs := x.logs ++ [e], nextHandle := (x.nextHandle + 1) % 2 ^ 16 }
  let p := x.policy / 256 ^ e.log % 256
  if p % 4 = 1 ∧ x.msixOn ∧ m.ldLink k then m.sendVector k (p / 16) else m

/-- Capacity of a logical device (R452). -/
def ldCapacity (m : Mach) (t : Nat) : Nat :=
  let set := (m.tenant t).rset
  let top := (List.range 8).foldl (fun a n =>
    let b := m.rblock set n
    if b.v then max a (b.base + (b.unitsM1 + 1) * 2 ^ 21) else a) 0
  (top + 2 ^ 28 - 1) / 2 ^ 28 * 2 ^ 28

/-! ### The catalogue (R459) -/

def pathDesc (m : Mach) (self k : Nat) : List Byte :=
  bytesOf 2 3 ++ bytesOf 2 16 ++ bytesOf 1 (portOf k) ++ bytesOf 1 (k % 16) ++ bytesOf 1 (if k = self then 0 else 1) ++ bytesOf 1 0 ++
    bytesOf 8 m.fuses.serial

def packageDesc (m : Mach) : List Byte :=
  bytesOf 2 1 ++ bytesOf 2 48 ++ bytesOf 1 m.fuses.code ++ bytesOf 1 m.fuses.iodRev ++ bytesOf 1 (m.get R.PKG_COMPAT_COH_VER) ++
    bytesOf 1 1 ++ bytesOf 1 (m.get R.PKG_PAIR_STATE_MIRROR_MAJOR) ++ bytesOf 1 1 ++ bytesOf 6 0 ++ (Config.refusalUuid ++ List.replicate 16 0).take 16 ++
    bytesOf 16 0

/-- The tenant a function shows: the bound one, or PEER_TENANT while Standby. -/
def shownTenant (m : Mach) (k : Nat) : Option Nat :=
  match m.boundTo k with
  | some t => some t
  | none => if m.ldState k = 1 then some (m.ldField R.EP_LD_PEER_TENANT k) else none

/-- Capacity a function shows: 0 while it shows no tenant. -/
def shownCapacity (m : Mach) (k : Nat) : Nat := (m.shownTenant k).elim 0 m.ldCapacity

/-- An LD descriptor; of a function that shows no tenant, the tenant's fields are 0. -/
def ldDesc (m : Mach) (k : Nat) : List Byte :=
  let shown := m.shownTenant k
  let t := shown.getD 0
  let x := shown.elim (freeTenant 0) m.tenant
  let mine := shown.any m.taken.contains
  bytesOf 2 2 ++ bytesOf 2 48 ++ bytesOf 1 (k % 16) ++ bytesOf 1 (portOf k) ++ bytesOf 1 (m.ldState k) ++
    bytesOf 1 (m.ldField R.EP_LD_MGR k + 2 * x.durable.toNat + 4 * mine.toNat) ++ bytesOf 2 t ++ bytesOf 2 x.gen ++ bytesOf 2 x.queues ++ bytesOf 2 2048 ++
    bytesOf 8 (m.shownCapacity k) ++ bytesOf 8 (if mine then m.get R.PKG_PAIR_PEER_SERIAL else m.fuses.serial) ++ bytesOf 16 0

/-- The logical devices presented. -/
def presented (m : Mach) : List Nat :=
  ((List.range 16).filter m.isUpstream).flatMap (fun g =>
    ((List.range 64).map (64 * g + ·)).filter (fun k => m.ldField R.EP_LD_V k == 1))

/-- The catalogue of a function, with CHANGE as given. -/
def catalogue (m : Mach) (k change : Nat) : List Byte :=
  let mgr := m.ldField R.EP_LD_MGR k == 1
  let paths : List (List Byte) := match m.shownTenant k with
    | some t => (m.presented.filter (fun j => m.boundTo j == some t || m.ldField R.EP_LD_PEER_TENANT j == t)).map (fun j => m.pathDesc k j)
    | none => []
  let ds := m.packageDesc :: (if mgr then m.presented.map (fun j => m.ldDesc j) else m.ldDesc k :: paths)
  let has := (!mgr && !paths.isEmpty).toNat
  let len := ds.foldl (fun a d => a + d.length) 64
  let st := m.get R.PKG_PAIR_STATE_STATE
  bytesOf 4 0xCA7AF07E ++ bytesOf 1 1 ++ bytesOf 1 0 ++ bytesOf 2 64 ++ bytesOf 4 len ++ bytesOf 4 change ++ bytesOf 8 m.fuses.serial ++
    bytesOf 1 m.mode ++ bytesOf 1 ((st == 3).toNat + 2 * (st == 5).toNat + 4 * (st == 6).toNat) ++ bytesOf 2 ds.length ++ bytesOf 4 0 ++
    bytesOf 8 (2 + has) ++ bytesOf 8 (m.get R.PKG_PAIR_PEER_SERIAL) ++ bytesOf 16 0 ++ ds.flatten

/-- The package rewrites a catalogue copy whose fields have changed; CHANGE goes odd and back to even (R459). Until TEN is READY
there is no copy, and a read of it gives all ones (R95). -/
def catSync (m : Mach) : Mach :=
  if !m.hon R.HDR_STATUS_READY .ten then m
  else m.presented.foldl (fun m k =>
    let c := m.catalogue k 0
    let x := m.ldFn k
    if x.cat = c then m else m.setLd k { x with cat := c, change := (x.change + 2) % 2 ^ 32 }) m

end Mach
end Sys2Proof.Machine
end

