-- ==== Sys2Proof/Machine/Domain.lean ====
section
/-! DEFINITION. Changing the operating mode (R69, R72, R501) and taking the coherent domain down (R77, R207–R210, R272,
R495). -/
namespace Sys2Proof.Machine
namespace Mach

/-- Enter a mode: PREV_MODE, TRANSITIONS and the MODE event (R69, R501). FATAL_N stays asserted only in FROZEN (R77),
or for a failed firmware image (R92). -/
def enterMode (m : Mach) (new : Nat) : Mach :=
  let old := m.mode
  let m := m.set R.PKG_MODE_PREV_MODE old
  let m := m.set R.PKG_MODE_MODE new
  let m := m.add R.PKG_MODE_TRANSITIONS 1
  let m := m.set R.PKG_MODE_DRAINED 0
  let fatal := new == 9 || m.on R.PKG_BOOT_FW_FAIL || m.on R.PKG_BOOT_BOOT_FAIL
  let m := { m with pins := { m.pins with fatalN := !fatal } }
  let m := m.set R.LANT_ALARM_FATAL (if fatal then 1 else 0)
  m.ev 2 1 .pkg (new + 16 * old)

/-- A core stopped, its store buffer and all its waiting work discarded (R77). -/
def haltCore (c : CoreSt) : CoreSt :=
  { c with run := if c.run = .parked then .parked else .stopped, sb := [], trk := [], dwl := [], dwPend := [], sync := none, maint := [], flight := [] }

/-- DOMAIN.PAGES, saturating (R205). -/
def countPage (m : Mach) (q : Nat) : Mach := m.addSat R.HOME_DOMAIN_PAGES 1 q

/-- Set a page to Poisoned, counting it once (R210). -/
def poisonPage (m : Mach) (page : Nat) : Mach :=
  let e := m.entry page
  if eState e = stPoisoned then m else (m.setEntry page (eSetState e stPoisoned)).countPage (homeOf page)

/-- Mark a page to be set to Poisoned after the next BRINGUP's roll-back or rekey (R210). -/
def poisonAfterPage (m : Mach) (page : Nat) : Mach :=
  let q := homeOf page
  let t := m.tq q
  if t.poisonLater.contains page then m else (m.setTq q { t with poisonLater := t.poisonLater ++ [page] }).countPage q

/-- A page whose lines cannot be told apart is Poisoned, at once or once its move or rekey has ended (R210). -/
def poisonWhole (m : Mach) (page : Nat) : Mach :=
  match eState (m.entry page), m.moveOf page with
  | 1, some _ => m.poisonAfterPage page
  | 2, some (k, v) =>
    if v.poisonAfter then m else (m.setMove k { v with rollBack := true, poisonAfter := true }).countPage (homeOf page)
  | 6, _ => m.poisonAfterPage page
  | _, _ => m.poisonPage page

/-- A demotion is rolled back at the following BRINGUP (R272). -/
def markRollBack (m : Mach) (page : Nat) : Mach :=
  match m.moveOf page with
  | some (k, v) => if v.promote then m else m.setMove k { v with rollBack := true }
  | none => m

/-- R210 for one non-durable line that the filter showed in X or O. Where a Zero page has no frame to take, the line goes to the shed
journal (DESIGN CHOICE, log 98). -/
def poisonLine (m : Mach) (line : Nat) : Mach :=
  let spa := line * 64
  let page := pageOf spa
  let e := m.entry page
  let m := if (m.mscLine line).isSome then m.dropMsc line else m
  let count (m : Mach) : Mach := m.add R.HOME_DOMAIN_POISONED 1 (homeOf page)
  if m.mapUnreadable page || eTier e == tierNone then m
  else if eState e = stZero then
    match m.fillZero page with
    | (m, true) => count (m.writeBed spa (bedLda (eLoc (m.entry page)) spa) 0 true)
    | (m, false) => count (m.journalLine spa 0 0 fullMask true).1
  else if eTier e = tierBed then count ((m.markRollBack page).writeBed spa (bedLda (eLoc e) spa) 0 true)
  else match m.moveOf page with
    | some (k, v) => if v.promote ∧ v.dstTier = tierBed then count (m.writeDst k v spa 0 true) else m.poisonWhole page
    | none => m.poisonWhole page

/-- R209 and R210 for one line the filter shows in X or O. -/
def settleLine (m : Mach) (line : Nat) : Mach :=
  let page := pageOf (line * 64)
  if eDur (m.entry page) then m.add R.HOME_DOMAIN_DISCARDED 1 (homeOf page) else m.poisonLine line

/-- Step 3 of R208 for one dirty MSC line, with R272 for a page in a move. A line whose page has no frame to take it goes to the shed
journal, whatever the page's tier, and a page whose line has no record left is poisoned (DESIGN CHOICE, log 98). -/
def settleMsc (m : Mach) (line : Nat) (x : MscLine) : Mach :=
  let spa := line * 64
  let page := pageOf spa
  let e := m.entry page
  let clean (m : Mach) : Mach := m.putMsc line { x with dirty := false }
  let toFrame (m : Mach) : Mach := clean ((m.writeBed spa (bedLda (eLoc e) spa) x.data x.poison).dropRecords spa)
  let toJournal (m : Mach) : Mach :=
    match m.journalLine spa (if eTier e = tierShed then locShelf (eLoc e) else 0) x.data fullMask x.poison with
    | (m, true) => clean m
    | (m, false) => if eTier e = tierBed then m else m.poisonWhole page
  let toStore (m : Mach) : Mach :=
    match m.storeLine spa x.data x.poison with
    | (m, true) => clean m
    | (m, false) => toJournal m
  if m.mapUnreadable page || eTier e == tierNone then m
  else if eState e = stPromoting then
    match m.moveOf page with
    | some (k, v) => if v.dstTier = tierBed then clean (m.writeDst k v spa x.data x.poison) else toJournal m
    | none => toJournal m
  else if eState e = stZero then (if x.data = 0 ∧ x.poison = false then clean m else toStore m)
  else if eState e = stPoisoned then toStore m
  else
    let m := if eState e = stDemoting then m.markRollBack page else m
    if eTier e = tierBed then toFrame m
    else if eTier e = tierShed ∨ eState e ≠ stStable ∨ m.hasFailed page = true then toJournal m
    else toStore m

/-- The quadrants a second Fatal error touches (R495): that of a home, an MSC part or a DDR channel; all four where the
page map cache is touched. -/
def touched (e : ErrRec) : List Nat :=
  match e.blk with
  | .home | .msc => [e.inst]
  | .ddr => [e.inst / 4]
  | .tier => [0, 1, 2, 3]
  | _ => []

/-- Writebacks that a home has taken and still holds are lines of its MSC; nothing else it holds is completed (R208). -/
def keepHeld (m : Mach) : Mach :=
  let m := m.tierq.foldl (fun m t => t.2.held.foldl (fun m r =>
    if r.k = .wbDirty then m.putMsc r.line ⟨r.data, true, r.poison, eTenant (m.entry (pageOf (r.line * 64)))⟩ else m) m) m
  { m with tierq := m.tierq.mapV (fun _ (t : TierQ) => { t with held := [] }) }

/-- Domain-down, R208: step 1 stops everything, steps 2 and 3 run in each quadrant that a second Fatal error has not
touched, and in the others PARTIAL is set; then the filters, the dies' caches and self-refresh. -/
def domainDown (m : Mach) : Mach :=
  let bad := match m.second with | some e => touched e | none => []
  let m := { m with
    cores := m.cores.mapV (fun _ c => haltCore c)
    net := [], htx := [], hq := [], memResp := [], durWaits := [], durGot := [], durAcc := [] }
  let m := m.keepHeld
  let m := [0, 1, 2, 3].foldl (fun m q =>
    ((m.set R.HOME_DOMAIN_POISONED 0 q).set R.HOME_DOMAIN_DISCARDED 0 q).set R.HOME_DOMAIN_PAGES 0 q) m
  let m := m.filter.foldl (fun m e =>
    if bad.contains (homeOf (e.1 * 64)) || (e.2.st != FSt.x && e.2.st != FSt.o) then m else m.settleLine e.1) m
  let m := m.msc.foldl (fun m e =>
    if bad.contains (homeOf (e.1 * 64)) || !e.2.dirty then m else
      match m.mscLine e.1 with
      | some x => m.settleMsc e.1 x
      | none => m) m
  let m := bad.foldl (fun m q =>
    let p := m.get R.LANT_STORE_STAT_PARTIAL
    if p / 2 ^ q % 2 = 1 then m else m.set R.LANT_STORE_STAT_PARTIAL (p + 2 ^ q)) m
  let m := { m with filter := [], lines := [] }
  let m := ([0, 1, 2, 3].foldl (fun m q => m.set R.HOME_SF_STATUS_OCCUPIED 0 q) m).flushMap
  (List.range 16).foldl (fun m c => if m.on R.DDR_TRAIN_TRAINED c then m.set R.DDR_TRAIN_SELF_REFRESH 1 c else m) m

/-- R508 on entry to FROZEN or WARMRESET: pending coalescing counts are lost and counted. -/
def loseCoalesced (m : Mach) : Mach :=
  let n := m.lant.coal.foldl (fun a c => a + c.count) 0
  ({ m with lant := { m.lant with coal := [] } }).add R.LANT_DROP_NOTICE_COUNT n

/-- Enter FROZEN from a mode that R73 allows it from: 1 Fatal error, 2 fence lost, 3 REFCLK loss. -/
def enterFrozen (m : Mach) (cause : Nat) : Mach :=
  if [2, 3, 4, 5, 6, 7, 8, 10, 11].contains m.mode then
    let m := { (m.enterMode 9) with frozenCause := cause }
    (m.domainDown).loseCoalesced
  else m

end Mach
end Sys2Proof.Machine
end

