-- ==== Sys2Proof/Machine/Lantern.lean ====
section
/-! DEFINITION. Error records and the Lantern event paths (R488–R510): what recording an error does, when it is escalated,
and where an event record goes. -/
namespace Sys2Proof.Machine

/-- The 32 bytes of an event record (R500). -/
def EventRec.bytes (r : EventRec) : List Byte :=
  bytesOf 2 r.typ ++
  bytesOf 1 (r.cls + r.sev * 4 + r.phase.toNat * 16 + r.coalesced.toNat * 32 + r.replayed.toNat * 64 + r.injected.toNat * 128) ++
  bytesOf 1 r.cause ++ bytesOf 4 r.seq ++ bytesOf 6 r.time ++ bytesOf 2 r.source ++
  bytesOf 2 (r.tenant.elim 0 (fun t => t + 0x8000)) ++ bytesOf 2 r.count ++ bytesOf 4 r.detail ++ bytesOf 8 r.addr

/-- Bits [15:0] of the ID register of a page (R44). -/
def sourceOf (die : Nat) (b : Block) (inst : Nat) : Nat := blockCode b + inst * 64 + die * 4096

/-- The class a severity gives (R488). -/
def classOf (sev : Nat) : Nat := if sev = 3 then 0 else if sev = 0 then 2 else 1

namespace Mach

/-- The next value of SEQ (R500). -/
def takeSeq (m : Mach) : Mach × Nat :=
  let n := m.get R.LANT_SEQ_NEXT
  (m.set R.LANT_SEQ_NEXT (n + 1), n)

/-! ### The incident store (R507) -/

/-- First slot of a Fatal bank. -/
def bankBase (b : Nat) : Nat := 32 + 704 * b

def emptyBank (m : Mach) (b : Nat) : Mach :=
  let m := { m with lant := { m.lant with store := m.lant.store.keep (fun k _ => k < bankBase b || bankBase b + 704 ≤ k) } }
  if b = 0 then m.set R.LANT_STORE_STAT_COUNT0 0 else m.set R.LANT_STORE_STAT_COUNT1 0

def bankCount (m : Mach) (b : Nat) : Nat := if b = 0 then m.get R.LANT_STORE_STAT_COUNT0 else m.get R.LANT_STORE_STAT_COUNT1

/-- The first escalated Fatal error since BRINGUP last ended starts an incident. -/
def startIncident (m : Mach) : Mach :=
  if m.lant.incident then m
  else
    let cur := m.get R.LANT_STORE_STAT_CUR
    let m := if m.bankCount cur = 0 then m
      else (m.set R.LANT_STORE_STAT_CUR (1 - cur)).emptyBank (1 - cur)
    let m := (m.add R.LANT_STORE_STAT_INCIDENTS 1).set R.LANT_STORE_STAT_UNREPLAYED 1
    { m with lant := { m.lant with incident := true, replayed := 0, replaying := false } }

def storeFatal (m : Mach) (r : EventRec) : Mach :=
  let cur := m.get R.LANT_STORE_STAT_CUR
  let n := m.bankCount cur
  if n < 704 then
    let m := { m with lant := { m.lant with store := m.lant.store.ins (bankBase cur + n) r } }
    if cur = 0 then m.set R.LANT_STORE_STAT_COUNT0 (n + 1) else m.set R.LANT_STORE_STAT_COUNT1 (n + 1)
  else m

def storeGeneral (m : Mach) (r : EventRec) : Mach :=
  let w := m.get R.LANT_STORE_STAT_GEN_WPTR
  let m := { m with lant := { m.lant with store := m.lant.store.ins (1440 + w) r } }
  if w = 607 then (m.set R.LANT_STORE_STAT_GEN_WPTR 0).set R.LANT_STORE_STAT_GEN_WRAPPED 1
  else m.set R.LANT_STORE_STAT_GEN_WPTR (w + 1)

/-! ### The package ring (R502) -/

def ringOn (m : Mach) : Bool := m.hon R.HDR_CONTROL_ENABLE .lant

def ringSize (m : Mach) : Nat := 2 ^ m.get R.LANT_RING_SIZE_LOG2

def ringFree (m : Mach) : Nat :=
  let n := m.ringSize
  n - 1 - (m.get R.LANT_RING_TAIL_TAIL + n - m.get R.LANT_RING_HEAD_HEAD % n) % n

/-- Whether a record of a class is written now. -/
def ringTakes (m : Mach) (cls : Nat) : Bool :=
  let f := m.ringFree
  let fs := m.act R.LANT_RESERVE_FATAL_SLOTS
  let as_ := m.act R.LANT_RESERVE_ALERT_SLOTS
  match cls with
  | 0 => decide (1 ≤ f)
  | 1 => decide (fs < f)
  | 2 => decide (fs + as_ < f)
  | _ => decide (m.ringSize / 2 < f)

/-- Write a record at TAIL; a line that cannot be written is RING_FAULT and stops the ring (R510). Answers whether the record stands. -/
def ringWrite (m : Mach) (r : EventRec) : Mach × Bool :=
  let t := m.get R.LANT_RING_TAIL_TAIL
  let ph := m.get R.LANT_RING_TAIL_PHASE
  let r := { r with phase := ph == 1 }
  match m.cohPut (m.get R.LANT_RING_BASE * 4096 + 32 * t) r.bytes with
  | (m, .refuse _) =>
    (({ m with lant := { m.lant with ringStopped := true } }).err ⟨.lant, 16⟩ sevContained, false)
  | (m, _) =>
    (if t + 1 = m.ringSize then (m.set R.LANT_RING_TAIL_TAIL 0).set R.LANT_RING_TAIL_PHASE (1 - ph)
     else m.set R.LANT_RING_TAIL_TAIL (t + 1), true)

/-- Remember that a record of a class was dropped in this window (R506). -/
def noteDrop (m : Mach) (cls : Nat) (sideband : Bool) : Mach :=
  if m.lant.dropped.contains (cls, sideband) then m
  else { m with lant := { m.lant with dropped := m.lant.dropped ++ [(cls, sideband)] } }

def ringDrop (m : Mach) (cls : Nat) : Mach :=
  (match cls with
   | 0 => m.add R.LANT_MISSED_FATAL_COUNT 1
   | 1 => m.add R.LANT_DROP_ALERT_COUNT 1
   | 2 => m.add R.LANT_DROP_NOTICE_COUNT 1
   | _ => m.add R.LANT_DROP_TRACE_COUNT 1).noteDrop cls false

/-- Once the ring has been enabled, it takes bank CUR while UNREPLAYED is 1 and there is room (R508). -/
def replayStep (m : Mach) : Nat → Mach
  | 0 => m
  | fuel + 1 =>
    if m.ringOn && m.lant.replaying && !m.lant.ringStopped then
      let cur := m.get R.LANT_STORE_STAT_CUR
      let i := m.lant.replayed
      if m.bankCount cur ≤ i then ({ m with lant := { m.lant with replaying := false } } : Mach).set R.LANT_STORE_STAT_UNREPLAYED 0
      else if m.ringTakes 0 then
        match m.lant.store.find (bankBase cur + i) with
        | some r =>
          match m.ringWrite { r with replayed := true } with
          | (m, true) => replayStep { m with lant := { m.lant with replayed := i + 1 } } fuel
          | (m, false) => m
        | none => replayStep { m with lant := { m.lant with replayed := i + 1 } } fuel
      else m
    else m

def replay (m : Mach) : Mach := if m.lant.replaying then m.replayStep 706 else m

/-- Offer a record to the package ring (R502). -/
def toRing (m : Mach) (r : EventRec) : Mach :=
  let kept (m : Mach) : Mach := if r.cls = 1 then m.storeGeneral r else m
  if !m.ringOn then kept m
  else if m.ringTakes r.cls && !m.lant.ringStopped then
    match m.ringWrite r with
    | (m, true) => m
    | (m, false) => (kept m).ringDrop r.cls
  else (kept m).ringDrop r.cls

/-! ### A tenant's ring (R503) -/

def toTenant (m : Mach) (r : EventRec) : Mach :=
  match r.tenant with
  | none => m
  | some t =>
    match m.lant.trings.find t with
    | none => m
    | some g =>
      let x := m.tenant t
      let n := x.lant * 256
      if !g.en || n = 0 then m
      else
        let put (m : Mach) (g : TenantRing) : Mach := { m with lant := { m.lant with trings := m.lant.trings.ins t g } }
        let r := { r with phase := g.phase }
        match m.lookup x.rset (g.base + 32 * g.index) true with
        | (m, .ok spa) =>
          match m.cohPut spa r.bytes with
          | (m, .refuse _) => put m { g with drops := (g.drops + 1) % 2 ^ 32 }
          | (m, _) => put m (if n ≤ g.index + 1 then { g with index := 0, phase := !g.phase } else { g with index := g.index + 1 })
        | (m, .error _) => put m { g with drops := (g.drops + 1) % 2 ^ 32 }

/-! ### The sideband (R504) -/

def toSideband (m : Mach) (r : EventRec) : Mach :=
  if 1 < r.cls ∨ m.mode = 0 then m
  else
    let n := m.lant.sbq.length
    if n < (if r.cls = 0 then 256 else 224) then { m with lant := { m.lant with sbq := m.lant.sbq ++ [r] } }
    else (if r.cls = 0 then m.add R.LANT_SB_DROPS_FATAL 1 else m.add R.LANT_SB_DROPS_ALERT 1).noteDrop r.cls true

/-- ALERT_PEND and the ALERT_N pin (R505): an escalated, unmasked error sets them, an event that is no error does not (log 44). -/
def raiseAlert (m : Mach) : Mach :=
  ({ m with pins := { m.pins with alertN := false } }).set R.LANT_ALARM_ALERT_PEND 1

/-- Send one event record on every path that takes it. -/
def deliver (m : Mach) (r : EventRec) : Mach :=
  let m := if r.cls = 0 then m.storeFatal r else m
  let m := if r.typ = 1 ∧ r.cls = 1 then m.raiseAlert else m
  ((m.replay.toRing r).toTenant r).toSideband r

/-! ### Coalescing (R506) -/

/-- Pass an occurrence through a coalescing entry: delivered as itself where it is the first escalated one of its key in
the window, counted otherwise. -/
def coalesce (m : Mach) (r : EventRec) (escalated : Bool) : Mach :=
  let hit (c : CoalEntry) : Bool := c.source == r.source && c.typ == r.typ && c.cause == r.cause
  let setC (m : Mach) (l : List CoalEntry) : Mach := { m with lant := { m.lant with coal := l } }
  match m.lant.coal.find? hit with
  | some c =>
    if escalated && !c.sent then
      (setC m (m.lant.coal.map (fun x => if hit x then { x with sent := true } else x))).deliver r
    else
      setC m (m.lant.coal.map (fun x => if hit x then
        { x with count := satAdd 16 x.count 1, addr := r.addr, detail := r.detail, tenant := r.tenant, sev := r.sev } else x))
  | none =>
    if m.lant.coal.length < 64 then
      let c : CoalEntry := ⟨r.source, r.typ, r.cause, if escalated then 0 else 1, r.addr, r.detail, r.tenant, r.sev, escalated⟩
      let m := setC m (m.lant.coal ++ [c])
      if escalated then m.deliver r else m
    else
      let m := m.add R.LANT_DROP_NOTICE_COUNT 1
      if m.ringOn then m.noteDrop 2 false else m

/-! ### Recording an error (R489–R494) -/

/-- The status word of an error record (R491). -/
def statusWord (e : ErrRec) (seq : Nat) : Nat :=
  1 + e.sev * 2 + e.cause * 2 ^ 3 + (if e.addr.isSome then 2 ^ 11 else 0) + (if e.injected then 2 ^ 12 else 0)
    + (e.tenant.getD 0) * 2 ^ 13 + (if e.tenant.isSome then 2 ^ 24 else 0) + seq * 2 ^ 32

/-- Write one record (FIRST at `k`, LATEST at `k` + 0x20). -/
def putRecord (m : Mach) (k : Nat) (e : ErrRec) (seq : Nat) : Mach :=
  let m := m.setReg k (statusWord e seq)
  let m := m.setReg (k + 8) (e.addr.getD 0)
  let m := m.setReg (k + 0x10) e.info
  m.setReg (k + 0x18) m.time

/-- Record an error: ERR_STATUS, SEQ, FIRST, LATEST and OVERFLOW (R491, R492). Answers the SEQ and whether the error is
escalated (R494). -/
def recordErr (m : Mach) (e : ErrRec) : Mach × Nat × Bool :=
  let (m, seq) := m.takeSeq
  let page := pageOff e.die e.blk e.inst
  let k := page + recBase e.blk
  let first := m.reg k % 2 = 1
  let lsev := bitsOf (m.reg (k + 0x20)) 1 2
  let m := if e.cause < 64 then m.setReg (page + 0x28) (putBits (m.reg (page + 0x28)) e.cause 1 1)
    else if m.err64.contains page then m else { m with err64 := page :: m.err64 }
  let m := if first then
      let m := m.setReg (k + 0x40) (satAdd 32 (m.reg (k + 0x40)) 1)
      if lsev ≤ e.sev then m.putRecord (k + 0x20) e seq else m
    else (m.putRecord k e seq).putRecord (k + 0x20) e seq
  (m, seq, !first || decide (lsev < e.sev))

/-- Whether a page's ERR_MASK covers an error (R52, R489). -/
def maskedErr (m : Mach) (e : ErrRec) : Bool :=
  decide (e.cause < 64) && m.reg (pageOff e.die e.blk e.inst + 0x30) / 2 ^ e.cause % 2 == 1

/-- The event record of an error (R500, R501). -/
def errEvent (m : Mach) (e : ErrRec) (seq : Nat) : EventRec :=
  ⟨1, classOf e.sev, e.sev, false, false, false, e.injected, e.cause, seq, m.time, sourceOf e.die e.blk e.inst,
    e.tenant, 1, e.info % 2 ^ 32, e.addr.getD 0⟩

/-- One error's whole reaction (R488, R489, R494). Answers whether an escalated Fatal error asks for domain-down; while
Fatal handling runs the record goes to the store alone (R495). -/
def raiseErr (m : Mach) (e : ErrRec) (handling : Bool) : Mach × Bool :=
  let (m, seq, esc) := m.recordErr e
  let masked := m.maskedErr e
  let r := m.errEvent e seq
  let fatal := esc && e.sev == 3 && !([0, 1, 9].contains m.mode)
  let m := if esc && e.sev == 3 && m.mode != 9 then m.startIncident else m
  let m :=
    if masked || (e.sev == 3 && m.mode == 9) then m
    else if esc && e.sev != 0 then (if handling then m.storeFatal r else m.deliver r)
    else m.coalesce r esc
  (m, fatal)

/-- The order of errors found in one cycle: higher severity first, then lower cause, then lower page (R492). -/
def errBefore (a b : ErrRec) : Bool :=
  decide (b.sev < a.sev) || (a.sev == b.sev && (decide (a.cause < b.cause) ||
    (a.cause == b.cause && decide (pageOff a.die a.blk a.inst ≤ pageOff b.die b.blk b.inst))))

def insErr (e : ErrRec) : List ErrRec → List ErrRec
  | [] => [e]
  | x :: r => if errBefore e x then e :: x :: r else x :: insErr e r

def sortErrs (l : List ErrRec) : List ErrRec := l.foldl (fun a e => insErr e a) []

/-- Send one event that is no error: RANGE_FAULT passes through coalescing (R506). -/
def raiseEv (m : Mach) (v : EvRec) : Mach :=
  let (m, seq) := m.takeSeq
  let r : EventRec := ⟨v.typ, v.cls, 0, false, false, false, false, 0, seq, m.time, sourceOf v.die v.blk v.inst,
    v.tenant, 1, v.detail % 2 ^ 32, v.addr⟩
  if v.typ = 8 then m.coalesce r true else m.deliver r

/-- Take the errors and events raised so far through the Lantern paths; what a delivery raises is taken in the next round. -/
def flush (m : Mach) : Nat → Mach
  | 0 => m
  | fuel + 1 =>
    match m.errs, m.evs with
    | [], [] => m
    | es, vs =>
      let m := { m with errs := [], evs := [] }
      let (m, fatal) := (sortErrs es.reverse).foldl (fun (r : Mach × Bool) e =>
        let (m, f) := r.1.raiseErr e r.1.second.isSome
        (m, r.2 || f)) (m, false)
      let m := vs.reverse.foldl (fun m v => m.raiseEv v) m
      let m := if fatal then
          let m := match m.second with
            | some e => (m.raiseErr e true).1
            | none => m
          { m.enterFrozen m.fcause with second := none, fcause := 1 }
        else m
      flush m fuel

end Mach
end Sys2Proof.Machine
end

