-- ==== Sys2Proof/Machine/Run.lean ====
section
/-! DEFINITION. How a command's effect becomes the next state: the working machine is taken from the state, the effect is
applied, and what it raised goes through the Lantern paths. The queue and the fused values pass through unchanged, and
storage changes only by the bytes written. -/
namespace Sys2Proof.Machine

/-- The working machine of a state. -/
def State.mach (s : State) : Mach :=
  { s.dev with fuses := s.fuses, base := s.mem, wr := [], errs := [], evs := [], second := none, fcause := 1, quiet := false, refused := none }

/-- The state a working machine leaves. -/
def State.close (s : State) (m : Mach) : State := { s with dev := m.toDev, mem := s.mem.commit m.wr }

/-- What follows a command's own effect: the errors and events it raised go their ways (R488–R508), and the catalogue copies take what
they show anew (R459). -/
def Mach.leave (m : Mach) : Mach := (m.flush 4096).catSync

/-- A command: its effect, and what follows it. -/
def State.cmd (s : State) (f : Mach → Mach) : Out := .next (s.close (f s.mach).leave)

/-- Package time moves on by one FCLK cycle, modulo 2^48 (R486). The partner view's AGE stays saturated (R68). -/
def State.tick (s : State) : State :=
  let t := (s.dev.time + 1) % 2 ^ 48
  let at_ := match s.dev.statusAt with | some a => if statusAge t a = 0xFFFF then none else some a | none => none
  { s with dev := { s.dev with time := t, statusAt := at_ } }

end Sys2Proof.Machine
end

