-- ==== Sys2Proof/Machine/CoreOps.lean ====
section
/-! DEFINITION. A core's registers (R96–R102, R125, R511–R520), its performance counters, and the lines and durable writes of its
die (R178–R182, R385–R386). -/
namespace Sys2Proof.Machine

/-- A core as its die's start leaves it: parked, with the values of R98. -/
def coreReset : CoreSt :=
  { run := .parked, pl := 2, ie := false, pc := 0, g := [], sr := [], sb := [], trk := [], dfail := none, dwl := [],
    dwPend := [], dwCount := [], sync := none, lost := none, maint := [], tlb := [], segc := [], walkc := [], flight := [],
    tag := ⟨none, false, 0, 2 ^ 16⟩ }

/-- Reset value of a stored system register (R98, R511, R520). -/
def sregReset (n : Nat) : Nat :=
  if n = 0x030 then 0x3800
  else if n = 0x101 then 0xF000
  else if n = 0x140 then 16 * 2 + 1 * 2 ^ 6 + 7 * 2 ^ 7
  else if n = 0x141 then 6
  else if n = 0x143 then 2 ^ 16
  else 0

/-- A line that no cache of its die holds any more, in the state its eviction leaves. -/
def DieLine.gone (x : DieLine) (st : LSt) : DieLine := { x with st := st, l1 := [], l2 := [], l3 := none }

namespace Mach

/-- CID = 32 × die + core (R12). -/
def cidOf (c : Cid) : Nat := 32 * c.die.val + c.core.val
def dieOf (cid : Nat) : Nat := cid / 32

def core (m : Mach) (cid : Nat) : CoreSt := m.cores.getD cid coreReset
def setCore (m : Mach) (cid : Nat) (c : CoreSt) : Mach := { m with cores := m.cores.ins cid c }
def modCore (m : Mach) (cid : Nat) (f : CoreSt → CoreSt) : Mach := m.setCore cid (f (m.core cid))

/-- A general register (g0–g31 hold any value). -/
def gpr (m : Mach) (cid r : Nat) : Nat := ((m.core cid).g.getD r 0).toNat
def setGpr (m : Mach) (cid r v : Nat) : Mach := m.modCore cid (fun c => { c with g := c.g.ins r (BitVec.ofNat 64 v) })

def sreg (m : Mach) (cid n : Nat) : Nat := match (m.core cid).sr.find n with | some v => v.toNat | none => sregReset n
def setSreg (m : Mach) (cid n v : Nat) : Mach := m.modCore cid (fun c => { c with sr := c.sr.ins n (BitVec.ofNat 64 v) })
def setPc (m : Mach) (cid v : Nat) : Mach := m.modCore cid (fun c => { c with pc := BitVec.ofNat 64 v })
def pcOf (m : Mach) (cid : Nat) : Nat := (m.core cid).pc.toNat
def advance (m : Mach) (cid n : Nat) : Mach := m.setPc cid (m.pcOf cid + n)

/-- A die that answers: READY, and neither struck nor parked (R61, R80, R81, R89). -/
def dieUp (m : Mach) (die : Nat) : Bool :=
  bitsOf (m.get R.PKG_READY_CD) die 1 == 1 && bitsOf (m.get R.PKG_STRUCK_MASK_DIES) die 1 == 0 &&
    bitsOf (m.get R.PKG_DIE_STATE_PARKED) die 1 == 0

/-- A core that issues instructions: a strike or park of its die stops issue first (R80, R81). -/
def issuing (m : Mach) (cid : Nat) : Bool :=
  m.dieUp (dieOf cid) && (m.core cid).run == .running && !([1, 2].contains (m.dieOp.getD (dieOf cid) 0))

/-- CIDs of the cores a die of this ordering code has (R11). -/
def dieCores (m : Mach) (die : Nat) : List Nat := (List.range (min 20 m.fuses.coresPerDie)).map (fun n => 32 * die + n)

/-- The field of core n in PSTATE_REQ, PSTATE_CAP or PSTATE_ACT (R26). -/
def pstate (f : Fld) (n : Nat) : Fld := { f with lo := 2 * n, w := 2 }

/-- PSTATE_ACT of a core becomes the larger of REQ and CAP (R28). -/
def takePstate (m : Mach) (cid : Nat) : Mach :=
  let n := cid % 32
  let d := dieOf cid
  m.set (pstate R.CLK_PSTATE_ACT n) (max (m.get (pstate R.CLK_PSTATE_REQ n) 0 d) (m.get (pstate R.CLK_PSTATE_CAP n) 0 d)) 0 d

/-! ### Core counters (R513–R516) -/

/-- A bit set in IPEND (R102): a core in WAIT goes on if an interrupt could be taken, and at any doorbell write. -/
def setIpend (m : Mach) (cid bits : Nat) (doorbell : Bool) : Mach :=
  let ip := Nat.lor (m.sreg cid 0x032) bits
  let m := m.setSreg cid 0x032 (ip % 2 ^ 64)
  let c := m.core cid
  let could := c.ie && Nat.land (ip % 2 ^ 64) (m.sreg cid 0x031) != 0
  if c.run = .waiting ∧ (doorbell ∨ could) then m.setCore cid { c with run := .running } else m

/-- Counter n of a core wraps to a remainder: OVF, and as PM_IRQ and FREEZE_ON_OVF ask (R515). -/
def pmWrap (m : Mach) (cid n rest : Nat) : Mach :=
  let m := m.setSreg cid (0x120 + n) (rest % 2 ^ 48)
  let ovf := m.sreg cid 0x102
  let m := if ovf / 2 ^ n % 2 = 1 then m else m.setSreg cid 0x102 (ovf + 2 ^ n)
  let irq := m.sreg cid 0x103
  let m := if irq / 64 % 2 = 1 then m.setIpend cid (2 ^ (irq % 64)) true else m
  let g := m.sreg cid 0x101
  if g / 2 ^ 10 % 2 = 1 then m.setSreg cid 0x101 (g / 2 ^ 10 * 2 ^ 10) else m

/-- A counter takes v (R514, R515). -/
def pmAdd (m : Mach) (cid n v : Nat) : Mach :=
  let x := m.sreg cid (0x120 + n) + v
  if x < 2 ^ 48 then m.setSreg cid (0x120 + n) x else m.pmWrap cid n x

/-- What a counter adds for an event that contributes v in one cycle, the condition having been false in the cycle
before (R514). Cycles in which nothing happens are not counted here (log 20). -/
def pmValue (sel v : Nat) : Nat :=
  let th := bitsOf sel 16 8
  let edge := bitsOf sel 12 1
  if bitsOf sel 13 1 = 1 then 0
  else if th = 0 ∧ edge = 0 then v
  else if max th 1 ≤ v then 1 else 0

/-- An event of a core (R514, R516). -/
def pmEvent (m : Mach) (cid code v : Nat) : Mach :=
  let en := bitsOf (m.sreg cid 0x101) 0 8
  if en = 0 then m
  else
    let pl := (m.core cid).pl
    forN 8 (fun n m =>
      let sel := m.sreg cid (0x110 + n)
      if en / 2 ^ n % 2 = 1 ∧ bitsOf sel 0 12 = code ∧ bitsOf sel (24 + pl) 1 = 1 ∧
          (bitsOf sel 43 1 = 0 ∨ bitsOf sel 32 11 = m.sreg cid 0x104) then m.pmAdd cid n (pmValue sel v)
      else m) m

/-- Retire an instruction of a length: the pc moves on (R516). -/
def retire (m : Mach) (cid ilen : Nat) : Mach := (m.advance cid ilen).pmEvent cid 0x002 1

/-! ### Lines in a die -/

def noLine : DieLine :=
  { st := .i, data := 0, poison := false, dur := false, got := false, granted := .i, need := 0, acks := 0, snq := [],
    wait := [], l2 := [], l3 := none, writers := [], merged := 0, l1 := [], pf := [], pf3 := false }

def dl (m : Mach) (die line : Nat) : DieLine := m.lines.getD (lineKey die line) noLine
def setDl (m : Mach) (die line : Nat) (x : DieLine) : Mach :=
  { m with lines := if x.st = .i ∧ x.wait = [] ∧ x.snq = [] then m.lines.erase (lineKey die line) else m.lines.ins (lineKey die line) x }

def send (m : Mach) (g : Msg) : Mach := { m with net := m.net ++ [g] }

/-- Take the first message in flight that answers a description. -/
def takeMsg (m : Mach) (p : Msg → Bool) : Mach × Option Msg :=
  match m.net.find? p with
  | none => (m, none)
  | some g => ({ m with net := m.net.erase g }, some g)

/-- H2 is the coherence version in use (R31, R32). -/
def isH2 (m : Mach) : Bool := m.get R.PKG_COMPAT_COH_VER == 2

/-- A Flush of the die for the line, or a WbDirty with KEEP, is outstanding (R178, R186, R196). -/
def flushing (m : Mach) (die line : Nat) : Bool :=
  m.cores.any (fun e => e.1 / 32 == die && e.2.maint.contains line) ||
  m.net.any (fun g => g.line == line && ((g.k == .wbKeep && g.src == die) || (g.k == .wbAck && g.dst == die && g.aux == 1)))

/-- A die's durable line cannot be read when its DurWb would be sent: the stores of its writers are discarded, and a stable copy
is given up, so that the line holds its last accepted value (R123, R386); while a Flush of the die for the line is outstanding the
Evict may not be sent (R178), and the line stays until its DurWb would be sent again. -/
def loseDur (m : Mach) (die line : Nat) : Mach :=
  let x := m.dl die line
  if m.flushing die line then m
  else
    let m := x.writers.foldl (fun m w => m.modCore w (fun c =>
      { c with lost := c.lost.orElse (fun _ => some line), dwl := c.dwl.filter (· != line) })) m
    if isStableSt x.st && x.st != .i then
      (m.setDl die line { x.gone (if x.st = .m ∨ x.st = .e then .eia else .sia) with writers := [] }).send
        { k := .evict, src := die, dst := agentHome (homeOf (line * 64)), line := line }
    else m.setDl die line { x with writers := [] }

/-- Send a DurWb for a line of a core's durable write list (R386). -/
def sendDurWb (m : Mach) (cid line : Nat) : Mach :=
  let c := m.core cid
  let x := m.dl (dieOf cid) line
  if c.dwPend.contains line then m
  else if x.poison && x.writers.contains cid then m.loseDur (dieOf cid) line
  else
    let q := homeOf (line * 64)
    let m := m.setCore cid { c with dwPend := c.dwPend ++ [line], dwCount := c.dwCount.put q (c.dwCount.getD q 0 + 1) 0 }
    let m := m.pmEvent cid 0x033 1
    m.send { k := .durWb, src := dieOf cid, dst := agentHome q, line := line, data := x.data, poison := x.poison, aux := cid }

/-- The DurWbs of the other cores' durable writes of a line, before it is transferred to another L2 of the die or leaves it (R386). -/
def sendDurWbs (m : Mach) (die line : Nat) : Mach := (m.dl die line).writers.foldl (fun m w => m.sendDurWb w line) m

/-- Cmp for a DurWb: the core clears DW and the DWL entry (R386). -/
def durWbDone (m : Mach) (cid line : Nat) : Mach :=
  let m := m.modCore cid (fun c => { c with dwl := c.dwl.filter (· != line), dwPend := c.dwPend.filter (· != line) })
  let x := m.dl (dieOf cid) line
  m.setDl (dieOf cid) line { x with writers := x.writers.filter (· != cid) }

/-- Another core of the die has a durable write of the line whose DurWb has not completed: the line goes to a core's L2 only after
it (R386). -/
def dwElsewhere (x : DieLine) (cid : Nat) : Bool := x.writers.any (· != cid)

/-- Send a die's request for a line, which waits for the answer; it is sent once no request of the die for the line is outstanding
(R178, R182). A line that another L2 of the die holds durably written waits for its DurWb instead (R386). -/
def dieReq (m : Mach) (die line : Nat) (k : MsgK) (spec prefetch : Bool) (w : Option (Nat × Access)) : Mach :=
  let x := m.dl die line
  let wait := match w with | some a => if x.wait.contains a then x.wait else x.wait ++ [a] | none => x.wait
  if (x.st = .m ∨ x.st = .e) ∧ x.writers ≠ [] then (m.setDl die line { x with wait := wait }).sendDurWbs die line
  else if isStableSt x.st && !m.flushing die line then
    let st : LSt := if k = .rdShared then .isd else if k = .upgrade then .smd else .imd
    let old : LSt := if k = .upgrade then x.st else .i
    let m := m.setDl die line { x with st := st, wait := wait, got := false, granted := old, need := 0, acks := 0 }
    m.send { k := k, src := die, dst := agentHome (homeOf (line * 64)), line := line, flag := spec, aux := prefetch.toNat }
  else m.setDl die line { x with wait := wait }

/-- A core's durable write list takes the line: it holds it, or has one of its 256 entries free (R385). -/
def dwlTakes (m : Mach) (cid line : Nat) : Bool := (m.core cid).dwl.contains line || decide ((m.core cid).dwl.length < 256)

/-- The oldest entry of a full durable write list is sent (R386); the new one enters once its Cmp has arrived. -/
def dwlMakeRoom (m : Mach) (cid : Nat) : Mach :=
  let c := m.core cid
  if 256 ≤ c.dwl.length ∧ c.dwPend = [] then (match c.dwl.head? with | some l => m.sendDurWb cid l | none => m) else m

/-- A core stores to a line with DUR 1: its DW bit and its DWL entry (R385). -/
def durWrite (m : Mach) (cid line : Nat) : Mach :=
  let x := m.dl (dieOf cid) line
  let m := if x.writers.contains cid then m else m.setDl (dieOf cid) line { x with writers := x.writers ++ [cid] }
  m.modCore cid (fun c => if c.dwl.contains line then c else { c with dwl := c.dwl ++ [line] })

end Mach
end Sys2Proof.Machine
end

