-- ==== Sys2Proof/Machine/Caches.lean ====
section
/-! DEFINITION. The caches inside a compute die (R158–R164, R167, R179): which L1, L2 and L3 hold a line, the L2 directory,
eviction offers, and the next-line prefetchers. -/
namespace Sys2Proof.Machine
namespace Mach

/-- Set and slice of a line in its die's L3 (R160). -/
def l3Set (line : Nat) : Nat := line % 49152
def l3Slice (line : Nat) : Nat := l3Set line % 20

/-- Set of a line in an L2 (R158). -/
def l2Set (line : Nat) : Nat := line % 1024

/-- Way group g, 1 to 3, is open: neither requested powered down, being cleaned, nor powered down (R172). -/
def wayOpen (m : Mach) (die slice way : Nat) : Bool :=
  let g := way / 4
  g == 0 || m.pruning.find (die * 64 + slice) != some (g, true) && ((m.get R.L3_PRUNE_REQ_GROUPS slice die) / 2 ^ (g - 1) % 2 == 0 && (m.get R.L3_PRUNE_STATUS_PRUNED slice die) / 2 ^ (g - 1) % 2 == 0)

/-- The lines of a die of which something holds. -/
def dieLines (m : Mach) (die : Nat) (p : Nat → DieLine → Bool) : List Nat :=
  (m.lines.filter (fun e => e.1 / 2 ^ 42 == die && p (e.1 % 2 ^ 42) e.2)).map (fun e => e.1 % 2 ^ 42)

/-- One of the things of a non-empty list, at a free value. -/
def pick (m : Mach) (l : List Nat) : Mach × Nat :=
  let (m, v) := m.fresh
  (m, l.getD (v.toNat % l.length) 0)

/-- The die holds the line with data that a load may use. -/
def readable (st : LSt) : Bool := [LSt.s, .e, .o, .m, .smd].contains st

/-- The die's copy may be read: not in SM_D once a SnpInv has taken it (R190). -/
def readableLine (x : DieLine) : Bool := readable x.st && !(x.st == .smd && x.granted == .i)

/-- The die owns the line: M or E. -/
def owned (st : LSt) : Bool := st == .m || st == .e

/-! ### A line leaves -/

/-- The die gives a line up toward its home: a writeback where it is dirty, an Evict where it is clean, with the line as an
offer to the MSC where `offer` says so (R164, R181). A durable line waits for its DurWb (R386), and every line for a Flush of the
die that is outstanding for it (R178). -/
def leaveDie (m : Mach) (die line : Nat) (offer : Bool) : Mach :=
  let x := m.dl die line
  if m.flushing die line then m
  else if x.writers ≠ [] then m.sendDurWbs die line
  else
    let home := agentHome (homeOf (line * 64))
    let g : Msg := { k := .wbDirty, src := die, dst := home, line := line, data := x.data, poison := x.poison, flag := false }
    let go (st : LSt) (g : Msg) : Mach := (m.setDl die line (x.gone st)).send g
    match x.st with
    | .m => go .mia g
    | .o => go .oia g
    | .e => go .eia { g with k := .evict, flag := offer }
    | .s => go .sia { g with k := .evict, flag := offer }
    | _ => m

/-- The state in which an L2 of the die holds a line, as the L2 directory records it (R179): the line's own state where it is the only
copy of the die or the line is clean and shared, else S beside the copy that answers for it. -/
def l2State (x : DieLine) (core : Nat) : LSt :=
  if !x.l2.contains core then .i
  else if x.l2 = [core] ∧ x.l3 = none then x.st
  else if x.l2.head? = some core ∧ x.l3 = none then (match x.st with | .m => .o | .e => .s | st => st)
  else .s

/-- The one L2 that may be written, if any: it holds the line in M or E (R179, R181). -/
def l2Owner (x : DieLine) : Option Nat := x.l2.find? (fun n => owned (l2State x n))

/-- A line leaves the L3 of its die: offered to the MSC where no L2 of the die holds it. -/
def offerMsc (m : Mach) (die line : Nat) : Mach :=
  let x := m.dl die line
  if x.l3 = none ∨ !isStableSt x.st then m
  else if x.l2 ≠ [] then m.setDl die line { x with l3 := none }
  else m.leaveDie die line true

/-- The line that a way of a line's L3 set holds. -/
def l3Holds (m : Mach) (die line way : Nat) : Option Nat :=
  (m.dieLines die (fun l x => l != line && l3Set l == l3Set line && x.l3 == some way)).head?

/-- Place a line in a way of its L3 set; the line that is there leaves first. False where that one has to wait. -/
def placeL3 (m : Mach) (die line way : Nat) : Mach × Bool :=
  let put (m : Mach) : Mach × Bool := (m.setDl die line { m.dl die line with l3 := some way }, true)
  match m.l3Holds die line way with
  | none => put m
  | some v =>
    let m := m.offerMsc die v
    if (m.dl die v).l3 = none then put m else (m, false)

/-- A core's L1 and L2 hold the line no longer (R159). -/
def dropL2 (m : Mach) (die line core : Nat) : Mach :=
  let x := m.dl die line
  m.setDl die line { x with l2 := x.l2.filter (· != core), l1 := x.l1.filter (fun k => k.1 != core) }

/-- A line leaves an L2: offered to the die's L3, which may decline a clean one (R164). `reuse` is the reuse bit of the line that
would be evicted. -/
def offerL3 (m : Mach) (die line core way : Nat) (dead reuse : Bool) : Mach :=
  let x := m.dl die line
  let slice := l3Slice line
  let way := if m.wayOpen die slice way then way else way % 4
  if !(isStableSt x.st) || x.st == .i || !x.l2.contains core then m
  else if x.writers.contains (32 * die + core) then m.sendDurWb (32 * die + core) line
  else
    let evicts := x.l3.isNone && (m.l3Holds die line way).isSome
    let dirty := x.st == .m || x.st == .o
    let pruned := m.get R.L3_PRUNE_STATUS_PRUNED slice die != 0
    let declines := !dirty && ((m.act R.L3_POLICY_DEAD_EN slice die == 1 && dead) ||
      (m.act R.L3_POLICY_PRUNED_DECLINE slice die == 1 && pruned && evicts && reuse))
    let offered (m : Mach) : Mach := (m.add R.L3_OFFERS_OFFERED 1 slice die).uEvent 4 slice (some x.tenant) 0 die
    if declines then
      let m := ((offered m).add R.L3_OFFERS_DECLINED 1 slice die).uEvent 5 slice (some x.tenant) 0 die
      let m := m.dropL2 die line core
      let x := m.dl die line
      if x.l2 = [] ∧ x.l3 = none then m.leaveDie die line false else m
    else if x.l3.isSome then (offered m).dropL2 die line core
    else match m.placeL3 die line way with
      | (m, true) => (offered m).dropL2 die line core
      | (m, false) => m

/-- An offer to the L3 at free values: of the way, of the predictor's mark and of the victim's reuse bit. -/
def offerL3Free (m : Mach) (die line core : Nat) : Mach :=
  let (m, v) := m.fresh
  m.offerL3 die line core (bitsOf v.toNat 0 4) (bitsOf v.toNat 4 1 == 1) (bitsOf v.toNat 5 1 == 1)

/-- An entry of the L2 directory is evicted (R179): the L2 copies of its line are invalidated, and a dirty copy is offered to the
L3. -/
def dirEvict (m : Mach) (die line : Nat) : Mach :=
  let x := m.dl die line
  let gone (m : Mach) : Mach := x.l2.foldl (fun m _ => m.uEvent 6 (l3Slice line) (some x.tenant) 0 die) m
  if !isStableSt x.st then m
  else if x.writers ≠ [] then m.sendDurWbs die line
  else if x.st = .m ∨ x.st = .o then
    ((gone m).setDl die line { x with l2 := x.l2.take 1, l1 := [] }).offerL3Free die line (x.l2.headD 0)
  else
    let m := gone m
    if x.l3.isSome then m.setDl die line { x with l2 := [], l1 := [] }
    else m.leaveDie die line false

/-! ### A line comes -/

/-- The other lines of a line's set of the L2 directory: 2,048 sets a slice, of which R179 does not say which a line is in. -/
def dirHeld (m : Mach) (die line : Nat) : List Nat :=
  (m.dieLines die (fun l x => l != line && l3Slice l == l3Slice line && x.l2 != [])).filter
    (fun l => Config.dirSet l % 2048 == Config.dirSet line % 2048)

/-- The other lines of a line's set of a core's L2. -/
def l2Held (m : Mach) (die line core : Nat) : List Nat :=
  m.dieLines die (fun l x => l != line && l2Set l == l2Set line && x.l2.contains core)

/-- The directory has an entry for the line, or a way of its 12 (R179). -/
def dirRoom (m : Mach) (die line : Nat) : Bool := (m.dl die line).l2 != [] || decide ((m.dirHeld die line).length < 12)

/-- A core's L2 has a way of the line's 16 (R158). -/
def l2Room (m : Mach) (die line core : Nat) : Bool := decide ((m.l2Held die line core).length < 16)

/-- The things of a list from a free place on, around. -/
def rotate (m : Mach) (l : List Nat) : Mach × List Nat :=
  let (m, v) := m.fresh
  let n := v.toNat % l.length
  (m, l.drop n ++ l.take n)

/-- Room in the directory for a line. Which entry goes is open; one that cannot go is passed. -/
def dirMakeWay (m : Mach) (die line : Nat) : Mach :=
  if m.dirRoom die line then m
  else
    let (m, set) := m.rotate (m.dirHeld die line)
    set.foldl (fun m v => if m.dirRoom die line then m else m.dirEvict die v) m

/-- Room in a core's L2 for a line. Which line goes is open; one that cannot go is passed. -/
def l2MakeWay (m : Mach) (die line core : Nat) : Mach :=
  if m.l2Room die line core then m
  else
    let (m, set) := m.rotate (m.l2Held die line core)
    set.foldl (fun m v => if m.l2Room die line core then m else m.offerL3Free die v core) m

/-- A core's L2 takes a copy of a line the die holds (R159). Where no line of a full set can leave, the copy stays outside the L2, with
the request that brought it (R158, R179). -/
def fillL2 (m : Mach) (die line core : Nat) : Mach :=
  if (m.dl die line).l2.contains core then m
  else
    let m := (m.dirMakeWay die line).l2MakeWay die line core
    let x := m.dl die line
    if m.dirRoom die line && m.l2Room die line core then m.setDl die line { x with l2 := x.l2 ++ [core] } else m

/-- The L3 takes a copy that one of its prefetches brings (R159, R167); the way is open. -/
def fillL3 (m : Mach) (die line : Nat) : Mach :=
  if (m.dl die line).l3.isSome then m
  else
    let (m, v) := m.fresh
    let way := v.toNat % 16
    (m.placeL3 die line (if m.wayOpen die (l3Slice line) way then way else way % 4)).1

/-- A core's L1I or L1D takes a copy of a line its L2 holds, in the set that virtual bit 12 and the line select: 8 ways (R158). A
line the L1D has in the other set is moved (R162). -/
def touchL1 (m : Mach) (cid line va : Nat) (fetch : Bool) : Mach :=
  let die := dieOf cid
  let n := cid % 32
  let b := va / 4096 % 2
  let x := m.dl die line
  if x.l1.contains (n, fetch, b) then m
  else
    let m := m.pmEvent cid (if fetch then 0x010 else 0x011) 1
    if !x.l2.contains n then m
    else
      let set := m.dieLines die (fun l y => l != line && l % 64 == line % 64 && y.l1.contains (n, fetch, b))
      let m := if set.length < 8 then m
        else
          let (m, v) := m.pick set
          let y := m.dl die v
          m.setDl die v { y with l1 := y.l1.filter (· != (n, fetch, b)) }
      let kept := if fetch then x.l1 else x.l1.filter (· != (n, false, 1 - b))
      m.setDl die line { x with l1 := kept ++ [(n, fetch, b)] }

/-! ### Prefetch (R167) -/

/-- The line after one, in the same page. -/
def nextLine (line : Nat) : Option Nat := if line % 64 = 63 then none else some (line + 1)

/-- The die has a request for the line out, so that its L3 slice has requested it. -/
def requested (x : DieLine) : Bool := [LSt.isd, .imd, .smd].contains x.st

/-- The L2 of a core prefetches the line after a demand miss: one it neither holds nor has requested, by a prefetch or for an access
that waits. -/
def prefetchL2 (m : Mach) (cid line : Nat) : Mach :=
  let die := dieOf cid
  let n := cid % 32
  match nextLine line with
  | none => m
  | some l =>
    let x := m.dl die l
    if x.l2.contains n || x.pf.contains n || x.wait.any (fun w => w.1 == cid) || dwElsewhere x cid then m
    else
      let m := m.pmEvent cid 0x017 1
      if readableLine x then m.fillL2 die l n
      else
        let m := m.dieReq die l .rdShared true true none
        let x := m.dl die l
        if isStableSt x.st then m else m.setDl die l { x with pf := x.pf ++ [n] }

/-- The slice of a line that a demand access misses in the L3 prefetches the line after it. -/
def prefetchL3 (m : Mach) (die line : Nat) : Mach :=
  match nextLine line with
  | none => m
  | some l =>
    let x := m.dl die l
    if m.act R.L3_POLICY_PF_EN (l3Slice line) die = 0 || x.l3.isSome || x.pf3 || requested x then m
    else if readableLine x then m.fillL3 die l
    else
      let m := (m.uEvent 8 (l3Slice l) none 0 die).dieReq die l .rdShared true true none
      let x := m.dl die l
      if isStableSt x.st then m else m.setDl die l { x with pf3 := true }

/-- A demand access of a core leaves its L2 for a line (R516): counted, and the prefetchers of the levels it misses in run. -/
def missL2 (m : Mach) (cid line : Nat) : Mach :=
  let die := dieOf cid
  let x := m.dl die line
  let m := (m.pmEvent cid 0x012 1).uEvent 1 (l3Slice line) none 0 die
  if x.l3.isSome then ((m.pmEvent cid 0x013 1).uEvent 2 (l3Slice line) (some x.tenant) 0 die).prefetchL2 cid line
  else ((m.uEvent 3 (l3Slice line) none 0 die).prefetchL2 cid line).prefetchL3 die line

/-- A core reads a line the die holds: its L2 takes a copy (R159). -/
def touchL2 (m : Mach) (cid line : Nat) : Mach :=
  if (m.dl (dieOf cid) line).l2.contains (cid % 32) then m
  else (m.missL2 cid line).fillL2 (dieOf cid) line (cid % 32)

/-- A core takes the line for itself within its die: the other L2 copies and the L3's are invalidated (R159, R179). -/
def ownL2 (m : Mach) (cid line : Nat) : Mach :=
  let die := dieOf cid
  let n := cid % 32
  let m := m.touchL2 cid line
  let x := m.dl die line
  if x.l2 = [n] ∧ x.l3 = none then m
  else m.setDl die line { x with l2 := x.l2.filter (· == n), l3 := none, l1 := x.l1.filter (fun k => k.1 == n && !k.2.1) }

/-- Ask for a line the die lacks, or wait for the request already out. An Upgrade of a line the L2 holds is no miss (R167). -/
def missLine (m : Mach) (cid line : Nat) (k : MsgK) (spec : Bool) (a : Access) : Mach :=
  let die := dieOf cid
  let x := m.dl die line
  let known := x.wait.contains (cid, a) || (k == .upgrade && x.l2.contains (cid % 32))
  let m := m.dieReq die line k spec false (some (cid, a))
  if known then m else m.missL2 cid line

/-- A line arrives at a die: the L2 of each core that waits for it or prefetched it takes a copy, and the L3 where its slice did. -/
def fillWaiting (m : Mach) (die line : Nat) : Mach :=
  let x := m.dl die line
  let cores := ((x.wait.map (fun (w : Nat × Access) => w.1 % 32)) ++ x.pf).eraseDups
  let m := m.setDl die line { x with pf := [], pf3 := false }
  let m := cores.foldl (fun m n => m.fillL2 die line n) m
  if x.pf3 then m.fillL3 die line else m

end Mach
end Sys2Proof.Machine
end

