-- ==== Sys2Proof/Machine/Buffer.lean ====
section
/-! DEFINITION. A core's store buffer and how an exception is taken (R118, R119, R127–R129). -/
namespace Sys2Proof.Machine
namespace Mach

/-! ### The store buffer (R118, R119) -/

/-- Mask and data of a store within its line. -/
def sbMask (e : SbEntry) : Nat := (2 ^ e.n - 1) * 2 ^ (e.spa % 64)
def sbData (e : SbEntry) : Line := BitVec.ofNat 512 (e.data.toNat * 2 ^ (8 * (e.spa % 64)))

/-- POISON_MERGE: a store finds its line poisoned as it drains (R119, R493). -/
def poisonMerge (m : Mach) (cid line : Nat) : Mach := m.errCause .core 67 sevDeferred (cid % 32) (dieOf cid) (some (line * 64)) 0

/-- A store reaches a line the die holds in M or E, which its core's L2 takes again where it has lost it (R159). A poisoned line is
merged into and stays poisoned, reported as POISON_MERGE, until all 64 bytes have been written (R119, R493). -/
def storeIntoLine (m : Mach) (cid : Nat) (e : SbEntry) : Mach :=
  let die := dieOf cid
  let line := e.spa / 64
  let m := m.fillL2 die line (cid % 32)
  let x := m.dl die line
  let m := if x.poison then m.poisonMerge cid line else m
  let st : LSt := if x.st = .e then .m else x.st
  let merged := if x.poison then Nat.lor x.merged (sbMask e) else 0
  let m := m.setDl die line { x with
    st := st, data := mergeLine x.data (sbData e) (sbMask e), l2 := x.l2.filter (· == cid % 32), l3 := none
    l1 := x.l1.filter (fun k => k.1 == cid % 32 && !k.2.1)
    poison := x.poison && merged != fullMask, merged := merged }
  if x.dur then m.durWrite cid line else m

/-- Whether the die may write the line now: it owns it, no other core's durable write of it waits to be sent, and a durable line has
room in the core's list and no DurWb of it under way, whose Cmp would clear the new write's DW (R385, R386). -/
def canStore (m : Mach) (cid line : Nat) : Bool :=
  let x := m.dl (dieOf cid) line
  owned x.st && !dwElsewhere x cid && (!x.dur || (m.dwlTakes cid line && !(m.core cid).dwPend.contains line))

/-- A store made visible within the command: into the die's line, or through the home where the die has lost the line since the store
retired or may not write it yet (a page gone Dormant takes it into the shed journal, R119). A write that the home holds is visible: every
read of the line there finds it (R113, `heldValue`). -/
def drainEntry (m : Mach) (cid : Nat) (e : SbEntry) : Mach :=
  if e.mtype = 0 ∧ m.canStore cid (e.spa / 64) then m.storeIntoLine cid e
  else
    let m := if e.mtype = 0 ∧ (m.cohValue (e.spa / 64)).2 = .poison then m.poisonMerge cid (e.spa / 64) else m
    if eDur (m.entry (pageOf e.spa)) then
      let q := homeOf e.spa
      let k := cid * 4 + q
      let m := m.modCore cid (fun c => { c with dwCount := c.dwCount.put q (c.dwCount.getD q 0 + 1) 0 })
      let m := { m with durGot := m.durGot.ins k (m.durGot.getD k 0 + 1) }
      match (m.homeOrdered (e.spa / 64)).cohWrite (e.spa / 64) (sbData e) (sbMask e) false (dieOf cid) (some k) with
      | (m, .refuse c) => m.durEnded (e.spa / 64) k (.refuse c)
      | (m, _) => m
    else ((m.homeOrdered (e.spa / 64)).cohWrite (e.spa / 64) (sbData e) (sbMask e) false (dieOf cid)).1

/-- Drain the store buffer fully, oldest first. -/
def drainAll (m : Mach) (cid : Nat) : Mach :=
  ((m.core cid).sb.foldl (fun m e => m.drainEntry cid e) m).modCore cid (fun c => { c with sb := [] })

/-! ### Exceptions (R127–R129) -/

/-- The access an exception names: address, whether that is physical, log2 of its size, store, fetch. -/
structure Acc where
  addr : Nat
  phys : Bool
  size : Nat
  write : Bool
  fetch : Bool
  deriving DecidableEq, Repr

/-- The syndrome of R127. -/
def syndrome (f : Flt) (precise : Bool) (a : Option Acc) (pl : Nat) : Nat :=
  f.cls + precise.toNat * 2 ^ 6 + a.isSome.toNat * 2 ^ 7 + f.sub * 2 ^ 8 + (a.elim 0 (·.size)) * 2 ^ 12 +
  (a.elim 0 (·.write.toNat)) * 2 ^ 14 + (a.elim 0 (·.fetch.toNat)) * 2 ^ 15 + pl * 2 ^ 16 +
  (a.elim 0 (·.phys.toNat)) * 2 ^ 19 + f.info * 2 ^ 20

/-- What a core has issued and not retired is given up: nothing after an exception's boundary takes effect (R127). A DURSYNC it waits
at goes on without it (R123), and so do a TLBI and the Flush of cache maintenance, which are executed again (DESIGN CHOICE, log 110). -/
def cancelWaits (m : Mach) (cid : Nat) : Mach :=
  let m := m.modCore cid (fun c => { c with flight := [], sync := c.sync.map (fun y => { y with here := false }) })
  { m with
    lines := m.lines.mapV (fun _ x => { x with wait := x.wait.filter (fun w => w.1 != cid || w.2 == .drain) })
    tlbis := m.tlbis.map (fun (t : Tlbi) => if t.cid = cid then { t with here := false } else t) }

/-- Take an exception to level L (R129): drain, ESAVE, EPC, ESYND, EADDR, PL and IE, and the vector. Where no address is
valid the content of EADDR is open. The entry is a safe point of the CORE page (R58). -/
def takeExc (m : Mach) (cid lvl : Nat) (f : Flt) (precise : Bool) (a : Option Acc) (accPl epc : Nat) : Mach :=
  let m := (m.drainAll cid).cancelWaits cid
  let c := m.core cid
  let b := 0x10 * lvl
  let m := m.pmEvent cid (if f.cls = 3 then 0x007 else 0x006) 1
  let m := if f.cls = 0x0B then m.pmEvent cid 0x041 1 else m
  let m := m.setSreg cid (b + 4) (c.pl + c.ie.toNat * 4)
  let m := m.setSreg cid (b + 1) epc
  let m := m.setSreg cid (b + 2) (syndrome f precise a accPl)
  let m := match a with
    | some x => m.setSreg cid (b + 3) x.addr
    | none =>
      let (m, v) := m.fresh
      m.setSreg cid (b + 3) v.toNat
  let m := m.modCore cid (fun c => { c with pl := lvl, ie := false, run := .running })
  (m.setPc cid (m.sreg cid b + f.cls * 2 ^ 7)).safePoint (dieOf cid) .core (cid % 32)

/-- The level an exception goes to (R129). -/
def excLevel (m : Mach) (cid cls : Nat) : Nat :=
  if (m.core cid).pl = 2 ∨ m.sreg cid 0x030 / 2 ^ cls % 2 = 1 then 2 else 1

/-- A precise fault of the instruction at the pc. While translation is disabled every address is system-physical (R97), which
PHYS says (R127); in a WALK syndrome PHYS is 0 (R140). ESYND.PL is the core's level also where the exception has no access
(DESIGN CHOICE, log 107). -/
def fault (m : Mach) (cid : Nat) (f : Flt) (a : Option Acc) : Mach :=
  let a := a.map (fun x => { x with phys := x.phys || (f.cls != 8 && m.sreg cid 0x041 % 2 == 0) })
  m.takeExc cid (m.excLevel cid f.cls) f true a (m.core cid).pl (m.pcOf cid)

end Mach
end Sys2Proof.Machine
end

