-- ==== Sys2Proof/Machine/Translate.lean ====
section
/-! DEFINITION. Translation of a core's accesses (R97, R130–R147): segment descriptor, walk, permissions, memory type. -/
namespace Sys2Proof.Machine
namespace Mach

/-- What an access asks for: a load, a store, a fetch, INV.L, or the read and write of an atomic instruction. -/
inductive AKind where
  | load | store | fetch | inv | atomic
  deriving DecidableEq, Repr

def inWindow (a : Nat) : Bool := decide (0xFF0010000000 ≤ a) && decide (a < 0xFF0010400000)
def inDoorbells (a : Nat) : Bool := decide (0xFF0020000000 ≤ a) && decide (a < 0xFF0020800000)

/-- The tenant of a line as its home sees it: of its filter entry, else of the page map (R200). -/
def lineTenant (m : Mach) (line : Nat) : Nat :=
  match m.filter.find line with | some f => f.tenant | none => eTenant (m.entry (pageOf (line * 64)))

/-- The tenant of a page is a foreign tenant that is attached (R200). -/
def isForeign (m : Mach) (line : Nat) : Bool := m.attached.contains (m.lineTenant line)

def fWalk (sub info : Nat) : Flt := ⟨0x08, sub, info⟩
def fPerm (sub : Nat) : Flt := ⟨0x09, sub, 0⟩

/-- INFO of DORMANT (R127): INFO[25:20] is the shelf and INFO[26] the wake request, both counted from syndrome bit 0. -/
def fDormant (shelf : Nat) (wake : Bool) : Flt := ⟨0x0B, 0, shelf + wake.toNat * 2 ^ 6⟩

/-- Why a translation does not go on: a fault, with the address being translated, or a table line the die has to fetch. -/
inductive Stop where
  | flt (f : Flt) (va : Nat)
  | miss (line : Nat)
  deriving DecidableEq, Repr

/-- Read one 8-byte word for a walk, as a Normal-WB access of the core (R138, R139, R141): from the die's caches, or from the home
once the line has been fetched. `lvl` is the stage, `held` that of the entry that held the address (R140). A read refused for TIER
None has no fault of its own in R141 and takes WALK_MEMERR as a foreign tenant's does (DESIGN CHOICE, log 90). -/
def walkRead (m : Mach) (cid spa held lvl va : Nat) : Mach × Except Stop Nat :=
  let line := spa / 64
  let x := m.dl (dieOf cid) line
  let refused : Option Flt := m.refused.bind (fun r => if r.1 = line then some r.2 else none)
  if !m.managed spa then (m, .error (.flt (fWalk 4 held) va))
  else match refused with
    | some f => (m, .error (.flt (if f.cls = 0x0B then f else fWalk 5 lvl) va))
    | none =>
      if !readableLine x || dwElsewhere x cid then (m, .error (.miss line))
      else if x.poison then (m.touchL2 cid line, .error (.flt (fWalk 5 lvl) va))
      else (m.touchL2 cid line, .ok (bitsOf x.data.toNat (8 * (spa % 64)) 64))

/-- What a word of a table is now, for every agent; none where it cannot be read. -/
def peek (m : Mach) (spa : Nat) : Option Nat :=
  if !m.managed spa then none
  else match (m.cohRead (spa / 64)).2 with
    | .line (.ok d) => some (bitsOf d.toNat (8 * (spa % 64)) 64)
    | _ => none

/-- Cached values that memory no longer holds, and the one it holds, may each be used for each access (R147), which is left to a free
value (log 52). -/
def oldOrNew {α : Type} (m : Mach) (olds : List α) (same : α → Bool) (new : Mach → Mach × Except Stop α) : Mach × Except Stop α :=
  match olds with
  | [] => new m
  | o :: _ =>
    if olds.all same then (m, .ok o)
    else
      let (m, v) := m.fresh
      match olds[v.toNat % (olds.length + 1)]? with
      | some x => (m, .ok x)
      | none => new m

/-- The segment descriptor of an address (R134): words 0 and 1. -/
def descriptor (m : Mach) (cid va : Nat) : Mach × Except Stop (Nat × Nat) :=
  let seg := bitsOf va 48 8
  let a := bitsOf (m.sreg cid 0x040) 12 36 * 4096 + 16 * seg
  let read (m : Mach) : Mach × Except Stop (Nat × Nat) :=
    match m.walkRead cid a 0xF 0xF va with
    | (m, .error f) => (m, .error f)
    | (m, .ok w0) =>
      match m.walkRead cid (a + 8) 0xF 0xF va with
      | (m, .error f) => (m, .error f)
      | (m, .ok w1) => (m, if w0 % 2 = 1 then .ok (w0, w1) else .error (.flt (fWalk 2 0xF) va))
  m.oldOrNew (((m.core cid).segc.filter (fun e => e.1 % 256 == seg)).map (·.2)) (fun d => m.peek a == some d.1 && m.peek (a + 8) == some d.2) read

/-- The levels of a walk: level, lowest bit of its index, index width, whether a leaf is allowed (R135). -/
def levels (gran : Nat) : List (Nat × Nat × Nat × Bool) :=
  if gran = 0 then [(0, 39, 9, false), (1, 30, 9, false), (2, 21, 9, true), (3, 12, 9, true)]
  else [(1, 42, 6, false), (2, 29, 13, true), (3, 16, 13, true)]

/-- The leaf entry of a walk (R136). -/
def leafEntry (tag off e lo : Nat) : TlbEntry :=
  let span := 2 ^ lo
  ⟨tag, off / span * span, span, bitsOf e 12 36 * 4096 / span * span, bitsOf e 2 4, bitsOf e 6 2⟩

/-- The table a non-leaf entry points to; ADDR bits below the table's alignment are ignored (R136). -/
def nextTable (gran lvl e : Nat) : Nat :=
  let align := if gran = 1 ∧ (lvl = 1 ∨ lvl = 2) then 2 ^ 16 else 4096
  bitsOf e 12 36 * 4096 / align * align

/-- What a walk of the tables as they are now would find; none where it would fault. -/
def peekWalk (m : Mach) (tag gran off table : Nat) : List (Nat × Nat × Nat × Bool) → Option TlbEntry
  | [] => none
  | (lvl, lo, w, leafOk) :: r =>
    match m.peek (table + 8 * bitsOf off lo w) with
    | none => none
    | some e =>
      let leaf := lvl = 3 ∨ bitsOf e 1 1 = 1
      if e % 2 = 0 ∨ (leaf ∧ !leafOk) then none
      else if leaf then some (leafEntry tag off e lo)
      else peekWalk m tag gran off (nextTable gran lvl e) r

/-- Walk the tables below ROOT for an offset (R135, R136), through the walk cache (R147): the leaf, and the table entries used on the
way. -/
def walkTables (m : Mach) (cid tag gran off va table held : Nat) (used : List WalkEnt) :
    List (Nat × Nat × Nat × Bool) → Mach × Except Stop (TlbEntry × List WalkEnt)
  | [] => (m, .error (.flt (fWalk 1 3) va))
  | (lvl, lo, w, leafOk) :: r =>
    let a := table + 8 * bitsOf off lo w
    let hits := (m.core cid).walkc.filter (fun c => c.tag == tag && c.gran == gran && c.lvl == lvl && decide (c.vbase ≤ off) && decide (off < c.vbase + c.span))
    match m.oldOrNew (hits.map (·.word)) (fun w => m.peek a == some w) (fun m => m.walkRead cid a held lvl va) with
    | (m, .error f) => (m, .error f)
    | (m, .ok e) =>
      let leaf := lvl = 3 ∨ bitsOf e 1 1 = 1
      if e % 2 = 0 ∨ (leaf ∧ !leafOk) then (m, .error (.flt (fWalk 1 lvl) va))
      else if leaf then (m, .ok (leafEntry tag off e lo, used))
      else walkTables m cid tag gran off va (nextTable gran lvl e) lvl (⟨tag, gran, lvl, off / 2 ^ lo * 2 ^ lo, 2 ^ lo, e⟩ :: used) r

/-- A segment's descriptor joins those cached for it. -/
def keepSeg (t : Tbl (Nat × Nat)) (seg : Nat) (d : Nat × Nat) : Tbl (Nat × Nat) :=
  let mine := t.filter (fun e => e.1 % 256 == seg)
  if mine.any (fun e => e.2 == d) then t else t.ins (mine.foldl (fun a e => max a (e.1 + 256)) seg) d

/-- A completed translation enters the core's translation caches (R146): the descriptor, the leaf, and the table entries. What they hold
of former values stays until an invalidation covers it (R147). -/
def keepTranslation (m : Mach) (cid seg : Nat) (d : Nat × Nat) (t : TlbEntry) (used : List WalkEnt) : Mach :=
  m.modCore cid (fun c => { c with
    segc := keepSeg c.segc seg d
    tlb := if c.tlb.contains t then c.tlb else t :: c.tlb
    walkc := used.filter (fun u => !c.walkc.contains u) ++ c.walkc })

/-- A core's translation caches as they were in another state of it: a speculative access leaves no entry (R145). -/
def untranslated (m old : Mach) (cid : Nat) : Mach :=
  let o := old.core cid
  m.modCore cid (fun c => { c with tlb := o.tlb, segc := o.segc, walkc := o.walkc })

/-- The misses a walk stands for (R516): of the L2 TLB, and for a data access of the L1 DTLB; the model's entries are those of both. -/
def walked (m : Mach) (cid : Nat) (fetch : Bool) : Mach := (if fetch then m else m.pmEvent cid 0x020 1).pmEvent cid 0x021 1

/-- The leaf translation of an offset under a descriptor: a cached one that a walk no longer finds may or may not be used
(R146, R147). -/
def leafOf (m : Mach) (cid va : Nat) (d : Nat × Nat) (fetch : Bool) : Mach × Except Stop TlbEntry :=
  let off := va % 2 ^ 48
  let tag := bitsOf d.1 48 16
  let gran := bitsOf d.1 1 1
  let root := bitsOf d.1 12 36 * 4096
  let walk (m : Mach) : Mach × Except Stop TlbEntry :=
    match m.walkTables cid tag gran off va root 0xF [] (levels gran) with
    | (m, .error (.miss l)) => (m, .error (.miss l))
    | (m, .error f) => (m.walked cid fetch, .error f)
    | (m, .ok (t, used)) => ((m.walked cid fetch).keepTranslation cid (bitsOf va 48 8) d t used, .ok t)
  m.oldOrNew ((m.core cid).tlb.filter (fun t => t.tag == tag && decide (t.vbase ≤ off) && decide (off < t.vbase + t.span)))
    (fun t => m.peekWalk tag gran off root (levels gran) == some t) walk

/-- Permission checks of R142 against the effective R, W, X, U bits. An atomic access that lacks both R and W reports READ (DESIGN CHOICE,
log 108). -/
def permFault (k : AKind) (perm mtype pl : Nat) : Option Flt :=
  let r := perm % 2 = 1
  let w := perm / 2 % 2 = 1
  let x := perm / 4 % 2 = 1
  let u := perm / 8 % 2 = 1
  let own : Option Flt := match k with
    | .load => if r then none else some (fPerm 1)
    | .store => if w then none else some (fPerm 2)
    | .inv => if !w then some (fPerm 2) else if r then none else some (fPerm 1)
    | .atomic => if !r then some (fPerm 1) else if w then none else some (fPerm 2)
    | .fetch => if x then none else some (fPerm 3)
  match own with
  | some f => some f
  | none => if pl = 0 ∧ !u then some (fPerm 4) else if k = .fetch ∧ 2 ≤ mtype then some (fPerm 5) else none

/-- R143, R37 and R38: the memory type against the address and the access. -/
def mtypeFault (m : Mach) (k : AKind) (spa mtype : Nat) : Option Flt :=
  if mtype < 2 ∧ !m.managed spa ∧ !(inWindow spa ∧ mtype = 1) then some (fPerm 5)
  else if k = .atomic ∧ inControl spa then some (fPerm 6)
  else none

/-- Translate one address: the system-physical address and the memory type, or the first fault of R144. With translation disabled
the bits above 47 are ignored (R97; DEDUCED, log 81). -/
def translateVa (m : Mach) (cid va : Nat) (k : AKind) : Mach × Except Stop (Nat × Nat) :=
  let pl := (m.core cid).pl
  let checked (m : Mach) (spa mt : Nat) : Mach × Except Stop (Nat × Nat) :=
    match m.mtypeFault k spa mt with
    | some f => (m, .error (.flt f va))
    | none => (m, .ok (spa, mt))
  if m.sreg cid 0x041 % 2 = 0 then
    let spa := va % 2 ^ 48
    let mt := if inControl spa || inDoorbells spa then 3 else if inWindow spa then 1 else 0
    if k = .fetch ∧ mt = 3 then (m, .error (.flt (fPerm 5) va)) else checked m spa mt
  else if 2 ^ 56 ≤ va then (m, .error (.flt (fWalk 2 0xF) va))
  else
    let off := va % 2 ^ 48
    match m.descriptor cid va with
    | (m, .error f) => (m, .error f)
    | (m, .ok d) =>
      if min (bitsOf d.2 0 28) 0x8000000 * 2 ^ 21 ≤ off then (m, .error (.flt (fWalk 3 0xF) va))
      else match m.leafOf cid va d (k == .fetch) with
        | (m, .error f) => (m, .error f)
        | (m, .ok t) =>
          match permFault k (Nat.land t.perm (bitsOf d.1 2 4)) t.mtype pl with
          | some f => (m, .error (.flt f va))
          | none => checked m (t.sbase + (off - t.vbase)) t.mtype

/-- Translate the n bytes of an access: the address of each byte. An access across a page is translated in both pages. -/
def translateBytes (m : Mach) (cid va n : Nat) (k : AKind) : Mach × Except Stop (List Nat × Nat) :=
  match m.translateVa cid va k with
  | (m, .error f) => (m, .error f)
  | (m, .ok (spa, mt)) =>
    if va % 4096 + n ≤ 4096 then (m, .ok ((List.range n).map (spa + ·), mt))
    else
      let first := 4096 - va % 4096
      match m.translateVa cid ((va + first) % 2 ^ 64) k with
      | (m, .error f) => (m, .error f)
      | (m, .ok (spa2, mt2)) =>
        (m, .ok ((List.range first).map (spa + ·) ++ (List.range (n - first)).map (spa2 + ·), max mt mt2))

/-- Alignment checks of R37, R111 and R117 (ALIGN DEVICE, ACQ_REL, CTRL_SIZE): a device access has at most 8 bytes. A misaligned LD.ACQ or
ST.REL takes ACQ_REL whatever its page (DESIGN CHOICE, log 109). -/
def alignFault (spa va lg mt : Nat) (acqRel : Bool) : Option Flt :=
  let n := 2 ^ lg
  if acqRel ∧ va % n ≠ 0 then some ⟨0x0A, 2, 0⟩
  else if 2 ≤ mt ∧ inControl spa then (if (lg = 2 ∨ lg = 3) ∧ spa % n = 0 then none else some ⟨0x0A, 3, 0⟩)
  else if 2 ≤ mt ∧ (spa % n ≠ 0 ∨ 3 < lg) then some ⟨0x0A, 1, 0⟩
  else none

end Mach
end Sys2Proof.Machine
end

