-- ==== Sys2Proof/Machine/Access.lean ====
section
/-! DEFINITION. Loads, stores and cache maintenance of a core: hits in its die, requests to homes, forwarding from the store
buffer, device accesses, and the order in which what has been issued retires (R104–R120, R124, R138, R145, R159, R181–R182). -/
namespace Sys2Proof.Machine
namespace Mach

/-- A byte of the boot window (R93): of the image where it is valid, ones otherwise. The image lies in storage of its own. -/
def windowByte (m : Mach) (a : Nat) : Byte :=
  if m.on R.PKG_BOOT_WINDOW_VALID then m.byte (2 ^ 48 + (a - 0xFF0010000000)) else 0xFF

/-- The newest byte of a core's own store buffer at an address (R112). -/
def sbByte (m : Mach) (cid a : Nat) : Option Byte :=
  ((m.core cid).sb.reverse.find? (fun e => decide (e.spa ≤ a) && decide (a < e.spa + e.n))).map
    (fun e => BitVec.ofNat 8 (e.data.toNat / 2 ^ (8 * (a - e.spa))))

/-- Whether an instruction's access is speculative. -/
def isSpec (k : LoadKind) : Bool := k == .speculative

/-! ### What is in flight -/

def setFlight (m : Mach) (cid : Nat) (l : List Flight) : Mach := m.modCore cid (fun c => { c with flight := l })

/-- Where an access in flight has got to. -/
def flightSet (m : Mach) (cid : Nat) (a : Access) (st : FlightSt) : Mach :=
  m.modCore cid (fun c => { c with flight := c.flight.map (fun f => if f.acc = a then { f with st := st } else f) })

/-- An older load, still waiting or held, of a line among these or not yet translated: accesses of one core to one address take effect in
program order (R112). -/
def olderWaits (m : Mach) (cid : Nat) (a : Access) (ls : List Nat) : Bool :=
  ((m.core cid).flight.takeWhile (fun f => f.acc != a)).any (fun f => match f.st with
    | .waiting l => l.isEmpty || l.any (fun x => ls.contains x)
    | .dropped => true
    | _ => false)

/-- A load is performed with a value. Where its translation has changed while it waited, younger loads already performed are made
again (R112). -/
def performed (m : Mach) (cid : Nat) (a : Access) (ls : List Nat) (v : Nat) : Mach :=
  let fl := (m.core cid).flight
  let moved := fl.any (fun f => f.acc == a && (match f.st with | .waiting l => !l.isEmpty && l != ls | _ => false))
  let older := fl.takeWhile (fun f => f.acc != a)
  let younger := (fl.drop older.length).drop 1
  let again (f : Flight) : Flight := match f.st with | .done _ => { f with st := .dropped } | _ => f
  m.setFlight cid (older ++ [⟨a, .done v⟩] ++ (if moved then younger.map again else younger))

/-- A precise fault of an access at an address. ESYND.SIZE has two bits: of an access wider than 8 bytes it is open (log 91). -/
def accessFault (m : Mach) (cid : Nat) (f : Flt) (va lg : Nat) (write fetch : Bool) : Mach :=
  if lg < 4 then m.fault cid f (some ⟨va, false, lg, write, fetch⟩)
  else
    let (m, v) := m.fresh
    m.fault cid f (some ⟨va, false, v.toNat % 4, write, fetch⟩)

/-- A load retires: its destination and the pc. An access wider than 8 bytes has a destination outside g0–g31, which the spec does
not describe (log 91). -/
def endLoad (m : Mach) (cid rd lg v ilen : Nat) : Mach := (if lg < 4 then m.setGpr cid rd v else m).retire cid ilen

/-- A refusal at the home as the core reports it (R197). -/
def refusalFault (line : Nat) : RServe → Flt
  | .dormant n w => fDormant n w
  | .refuse c =>
    let q := homeOf (line * 64)
    if c = refForeign then fPerm 7
    else if c = refNone then ⟨0x0C, 4, q⟩
    else if c = refNotReady then ⟨0x0C, 2, q⟩
    else ⟨0x0C, 3, q⟩
  | .line .poison => ⟨0x0C, 1, homeOf (line * 64)⟩
  | _ => ⟨0x0C, 3, homeOf (line * 64)⟩

/-- What a line whose request has just been refused gives an access to it. -/
def refusedOf (m : Mach) (line : Nat) : Option Flt := m.refused.bind (fun r => if r.1 = line then some r.2 else none)

/-! ### Loads -/

/-- What an attempt at a load comes to. -/
inductive LoadRes where
  | val (v : Nat)
  | flt (f : Flt) (va : Nat)
  | miss (line : Nat) (k : MsgK)
  | dev (spa : Nat)
  deriving DecidableEq, Repr

/-- The bytes of a Normal-NC load: the core's own stores first, then the boot window or the home (R93, R112). -/
def loadNc (m : Mach) (cid va : Nat) (bs : List Nat) : Mach × LoadRes :=
  let r := bs.foldl (fun (r : Mach × Except Flt Nat × Nat) a =>
    match r.2.1 with
    | .error _ => r
    | .ok v =>
      let put (m : Mach) (b : Byte) : Mach × Except Flt Nat × Nat := (m, .ok (v + b.toNat * 2 ^ (8 * r.2.2)), r.2.2 + 1)
      match r.1.sbByte cid a with
      | some b => put r.1 b
      | none =>
        if inWindow a then put r.1 (r.1.windowByte a)
        else if r.1.isForeign (a / 64) then (r.1, .error (fPerm 7), 0)
        else match (r.1.homeOrdered (a / 64)).cohRead (a / 64) with
          | (m, .line (.ok d)) => put m (BitVec.ofNat 8 (bitsOf d.toNat (8 * (a % 64)) 8))
          | (m, x) => (m, .error (refusalFault (a / 64) x), 0)) (m, Except.ok 0, 0)
  match r.2.1 with
  | .ok v => (r.1, .val v)
  | .error f => (r.1, .flt f va)

/-- An attempt at a load, an instruction fetch, or the load of LD.ACQ (R112, R117): translated, checked in fault order, and read
where every line is at hand. With it come the lines its bytes lie in, once translated. -/
def tryLoad (m : Mach) (cid lg va : Nat) (kind : LoadKind) (acq : Bool) : Mach × List Nat × LoadRes :=
  let ak : AKind := match kind with | .fetch => .fetch | .atomic => .atomic | _ => .load
  match m.translateBytes cid va (2 ^ lg) ak with
  | (m, .error (.miss l)) => (m, [], .miss l .rdShared)
  | (m, .error (.flt f a)) => (m, [], .flt f a)
  | (m, .ok (bs, mt)) =>
    let spa := bs.headD 0
    let die := dieOf cid
    let ls := (bs.map (· / 64)).eraseDups
    match alignFault spa va lg mt acq with
    | some f => (m, ls, .flt f va)
    | none =>
      if 2 ≤ mt then (m, ls, .dev spa)
      else if mt = 1 then
        let (m, r) := m.loadNc cid va bs
        (m, ls, r)
      else
        let okL (x : DieLine) : Bool := (if kind = .atomic then owned x.st else readableLine x) && !dwElsewhere x cid
        match ls.find? (fun l => !okL (m.dl die l)) with
        | some l =>
          match m.refusedOf l with
          | some f => (m, ls, .flt f va)
          | none => (m, ls, .miss l (if kind = .atomic then (if readable (m.dl die l).st then .upgrade else .rdOwn) else .rdShared))
        | none =>
          let m := ls.foldl (fun m l =>
            (if kind = .atomic then m.ownL2 cid l else m.touchL2 cid l).touchL1 cid l (va + bs.findIdx (fun a => a / 64 == l)) (kind == .fetch)) m
          let poisoned := bs.any (fun a => (m.dl die (a / 64)).poison && (m.sbByte cid a).isNone)
          if poisoned then (m, ls, .flt ⟨0x0C, 1, homeOf spa⟩ va)
          else
            let v := ofBytes (bs.map (fun a => match m.sbByte cid a with
              | some b => b
              | none => BitVec.ofNat 8 (bitsOf (m.dl die (a / 64)).data.toNat (8 * (a % 64)) 8)))
            (m, ls, .val v)

/-- An instruction fetch. Its fault is precise at an instruction that older loads in flight come before. -/
def doFetch (m : Mach) (cid rd lg va ilen : Nat) (acq : Bool) : Mach :=
  match m.tryLoad cid lg va .fetch acq with
  | (m', _, .flt f a) => if (m.core cid).flight = [] then m'.accessFault cid f a lg false true else { m with free := m'.free }
  | (m, _, .miss l k) => m.missLine cid l k false (.load rd lg va .fetch ilen acq)
  | (m, _, _) => m

/-- Run a load in flight. A speculative one that would fault is dropped without a trace (R145); a device load, and a load that must
not pass an older one to its line, are held until they are the oldest (R111, R112). -/
def runLoad (m : Mach) (cid rd lg va : Nat) (kind : LoadKind) (ilen : Nat) (acq : Bool) : Mach :=
  let a : Access := .load rd lg va kind ilen acq
  let held (m' : Mach) : Mach := { m with free := m'.free }.flightSet cid a .dropped
  match m.tryLoad cid lg va kind acq with
  | (m', ls, .val v) => if m.olderWaits cid a ls then held m' else m'.performed cid a ls v
  | (m', _, .flt f ad) => if isSpec kind then (held m').pmEvent cid 0x042 1 else m'.flightSet cid a (.faulted f ad)
  | (m', ls, .miss l k) => ((if isSpec kind then m'.untranslated m cid else m').flightSet cid a (.waiting ls)).missLine cid l k (isSpec kind) a
  | (m', _, .dev spa) =>
    if isSpec kind then (held m').pmEvent cid 0x042 1
    else if (m.core cid).flight.head?.map (·.acc) ≠ some a then held m'
    else
      let m := (m'.setFlight cid []).drainAll cid
      { m with devq := m.devq ++ [⟨0, cid, spa, lg, 0, some rd, ilen, true, 0, (m.core cid).pl, none⟩] }

/-- Retire the loads in flight in program order as far as they have been performed; a fault is taken once its load is the oldest. -/
def retireLoads (m : Mach) (cid : Nat) : Nat → Mach
  | 0 => m
  | n + 1 =>
    match (m.core cid).flight with
    | ⟨.load rd lg va kind ilen acq, st⟩ :: rest =>
      match st with
      | .done v => retireLoads ((m.setFlight cid rest).endLoad cid rd lg v ilen) cid n
      | .faulted f ad => m.accessFault cid f ad lg false false
      | .dropped => if isSpec kind then m else retireLoads (m.runLoad cid rd lg va kind ilen acq) cid n
      | .waiting _ => m
    | _ => m

/-- Run a load and retire what can be retired. -/
def loadNow (m : Mach) (cid rd lg va : Nat) (kind : LoadKind) (ilen : Nat) (acq : Bool) : Mach :=
  let m := m.runLoad cid rd lg va kind ilen acq
  m.retireLoads cid (2 * (m.core cid).flight.length + 1)

/-- A load as it is issued, or run again when the line it waits for arrives. -/
def doLoad (m : Mach) (cid rd lg va : Nat) (kind : LoadKind) (ilen : Nat) (acq : Bool) : Mach :=
  let a : Access := .load rd lg va kind ilen acq
  if kind = .fetch then m.doFetch cid rd lg va ilen acq
  else match (m.core cid).flight.find? (fun f => f.acc == a) with
    | none => (m.setFlight cid ((m.core cid).flight ++ [⟨a, .waiting []⟩])).loadNow cid rd lg va kind ilen acq
    | some f => match f.st with
      | .waiting _ => m.loadNow cid rd lg va kind ilen acq
      | _ => m

/-! ### Stores -/

/-- Cut a list of indices into pieces of at most 8. -/
def pieces : Nat → List Nat → List (List Nat)
  | 0, _ => []
  | n + 1, l => if l = [] then [] else l.take 8 :: pieces n (l.drop 8)

/-- Split a store's bytes into store-buffer entries of at most 8 bytes within one line (R118). -/
def sbEntries (bs : List Nat) (v mt pl : Nat) : List SbEntry :=
  let ls := (bs.map (· / 64)).eraseDups
  (ls.map (fun l =>
    let mine := (List.range bs.length).filter (fun i => bs.getD i 0 / 64 == l)
    (pieces mine.length mine).map (fun p =>
      let i0 := p.headD 0
      (⟨bs.getD i0 0, p.length, BitVec.ofNat 64 (v / 2 ^ (8 * i0) % 2 ^ (8 * p.length)), mt, pl⟩ : SbEntry)))).flatten

/-- A store retires into the store buffer; a full buffer lets its oldest entries go first (R118). -/
def pushSb (m : Mach) (cid : Nat) (es : List SbEntry) : Mach :=
  let excess := (m.core cid).sb.length + es.length - 64
  let m := ((m.core cid).sb.take excess).foldl (fun m e => m.drainEntry cid e) m
  m.modCore cid (fun c => { c with sb := c.sb.drop excess ++ es })

/-- The data of a store: of a register, or of one outside g0–g31 where it is wider than 8 bytes (log 91). -/
def storeData (m : Mach) (cid rs lg : Nat) : Mach × Nat :=
  if lg < 4 then (m, m.gpr cid rs % 2 ^ (8 * 2 ^ lg))
  else forN (2 ^ lg / 8) (fun i (r : Mach × Nat) => let (m, v) := r.1.fresh; (m, r.2 + v.toNat * 2 ^ (64 * i))) (m, 0)

/-- A store or ST.REL (R117–R120): ownership first, then into the store buffer; a device store issues at once, unless the tracker
is full. -/
def doStore (m : Mach) (cid rs lg va ilen : Nat) (rel : Bool) : Mach :=
  let self : Access := .store rs lg va ilen rel
  let m := m.setFlight cid []
  let wait (m : Mach) (l : Nat) (k : MsgK) : Mach := (m.setFlight cid [⟨self, .waiting []⟩]).missLine cid l k false self
  match m.translateBytes cid va (2 ^ lg) .store with
  | (m, .error (.miss l)) => wait m l .rdShared
  | (m, .error (.flt f a)) => m.accessFault cid f a lg true false
  | (m, .ok (bs, mt)) =>
    let spa := bs.headD 0
    match alignFault spa va lg mt rel with
    | some f => m.accessFault cid f va lg true false
    | none =>
      let pl := (m.core cid).pl
      let retired (m : Mach) (v : Nat) : Mach :=
        let m := if rel then m.drainAll cid else m
        let m := (m.pushSb cid (sbEntries bs v mt pl)).retire cid ilen
        if rel then m.drainAll cid else m
      if 2 ≤ mt then
        if 16 ≤ (m.core cid).trk.length then m
        else
          let m := m.drainAll cid
          let ne := mt == 3
          let m := { m with devq := m.devq ++ [DevMsg.mk 1 cid spa lg (m.gpr cid rs % 2 ^ (8 * 2 ^ lg)) none ilen ne 0 pl none] }
          let m := if ne then m.modCore cid (fun c => { c with trk := c.trk ++ [DevTrk.mk spa lg pl] }) else m
          m.retire cid ilen
      else if mt = 1 then
        if inWindow spa then (if rel then m.drainAll cid else m).retire cid ilen
        else match (bs.map (· / 64)).eraseDups.find? (fun l => m.isForeign l) with
          | some _ => m.accessFault cid (fPerm 7) va lg true false
          | none =>
            let (m, v) := m.storeData cid rs lg
            retired m v
      else
        let die := dieOf cid
        let ls := (bs.map (· / 64)).eraseDups
        match ls.find? (fun l => !owned (m.dl die l).st || dwElsewhere (m.dl die l) cid) with
        | some l =>
          let st := (m.dl die l).st
          match m.refusedOf l with
          | some f => m.accessFault cid f va lg true false
          | none => wait m l (if st = .s ∨ st = .o then .upgrade else .rdOwn)
        | none =>
          let m := ls.foldl (fun m l => (m.ownL2 cid l).touchL1 cid l (va + bs.findIdx (fun a => a / 64 == l)) false) m
          let (m, v) := m.storeData cid rs lg
          retired m v

/-! ### Cache maintenance and TLBI (R124, R148) -/

/-- The stores to a line leave the buffer. -/
def drainLine (m : Mach) (cid line : Nat) : Mach :=
  let mine := (m.core cid).sb.filter (fun e => e.spa / 64 == line)
  if mine = [] then m
  else (mine.foldl (fun m e => m.drainEntry cid e) m).modCore cid (fun c => { c with sb := c.sb.filter (fun e => e.spa / 64 != line) })

/-- The Flush of a cache maintenance instruction: 0 CLN.L, 1 INV.L, 2 CLNINV.L. -/
def cmoFlush (op : Nat) : MsgK := if op = 0 then .flushCln else if op = 1 then .flushInv else .flushClnInv

/-- Whether cache maintenance has something to do in the die's own caches before its Flush is sent (R124, R196). -/
def cmoLocalDue (st : LSt) (op : Nat) : Bool := if op = 0 then st == .m || st == .o else st != .i

/-- What a die does to its own caches before it sends a Flush (R124, R196). INV.L gives the line up as an eviction of clean data
does, and answers snoops as its former state until the home has acknowledged (R190). -/
def cmoLocal (m : Mach) (die line op : Nat) : Mach :=
  let x := m.dl die line
  let home := agentHome (homeOf (line * 64))
  let wb (keep : Bool) : Msg := { k := if keep then .wbKeep else .wbDirty, src := die, dst := home, line := line, data := x.data, poison := x.poison }
  let evict : Msg := { k := .evict, src := die, dst := home, line := line }
  let leave : LSt := match x.st with | .m => .mia | .o => .oia | .e => .eia | _ => .sia
  match op, x.st with
  | _, .i => m
  | 0, .m => (m.setDl die line { x with st := .e }).send (wb true)
  | 0, .o => m.send { wb true with st := .o }
  | 0, _ => m
  | 1, _ =>
    let m := x.writers.foldl (fun m w => m.modCore w (fun c => { c with dwl := c.dwl.filter (· != line) })) m
    (m.setDl die line { x.gone leave with writers := [] }).send evict
  | _, .m | _, .o => (m.setDl die line (x.gone leave)).send (wb false)
  | _, _ => (m.setDl die line (x.gone leave)).send evict

/-- A cache maintenance instruction (R124): translated like a load, after the core's own older stores to the line. Its effect on the
die's own caches comes first, a request of its own; once that is acknowledged and the instruction is given again, the Flush goes to the
home, and the core waits for its answer, since a refusal is precise (R144, R178, R196). It waits too while the die has another request
outstanding for the line, and CLN.L and CLNINV.L for the line's DurWbs (R386). ESYND.SIZE and WRITE of a fault are 0 (DESIGN CHOICE,
log 107). -/
def maintain (m : Mach) (cid op a : Nat) : Mach :=
  let va := m.gpr cid a
  let self : Access := .cmo op a
  let m := m.setFlight cid []
  match m.translateVa cid va (if op = 1 then .inv else .load) with
  | (m, .error (.miss l)) => (m.setFlight cid [⟨self, .waiting []⟩]).missLine cid l .rdShared false self
  | (m, .error (.flt f ad)) => m.fault cid f (some ⟨ad, false, 0, false, false⟩)
  | (m, .ok (spa, mt)) =>
    let die := dieOf cid
    let line := spa / 64
    if mt ≠ 0 then m.retire cid 4
    else if !isStableSt (m.dl die line).st || m.flushing die line then m
    else
      let m := m.drainLine cid line
      let x := m.dl die line
      if !isStableSt x.st then m
      else if op ≠ 1 ∧ x.writers ≠ [] then m.sendDurWbs die line
      else if cmoLocalDue x.st op then m.cmoLocal die line op
      else
        (m.send { k := cmoFlush op, src := die, dst := agentHome (homeOf spa), line := line, aux := cid }).modCore cid (fun c =>
          { c with maint := c.maint ++ [line], flight := [⟨self, .waiting [line]⟩] })

/-- The cache maintenance instruction a core waits at for the answer to its Flush of a line: the register of its address. -/
def cmoAt (m : Mach) (cid line : Nat) : Option Nat :=
  match (m.core cid).flight with
  | ⟨.cmo _ a, .waiting (l :: _)⟩ :: _ => if l = line then some a else none
  | _ => none

/-- Cmp for a Flush: the core that still waits at the instruction goes on (R196). -/
def flushDone (m : Mach) (cid line : Nat) : Mach :=
  let at_ := m.cmoAt cid line
  let m := m.modCore cid (fun c => { c with maint := c.maint.erase line })
  if at_.isSome then (m.setFlight cid []).retire cid 4 else m

/-- Broadcast a TLBI to every die that is neither struck nor parked (R149, R150). -/
def broadcast (m : Mach) (cid op tag off : Nat) : Mach :=
  let m := m.drainAll cid
  let dies := (List.range 12).filter (fun d => m.dieUp d)
  let id := (m.tlbis.map (·.id)).foldl max 0 + 1
  let m := { m with tlbis := m.tlbis ++ [Tlbi.mk id cid op tag off dies dies true] }
  dies.foldl (fun m d => m.send { k := .tlbiReq, src := dieOf cid, dst := d, line := 2 ^ 42, aux := id }) m

/-- TLBI.VA on the address in a register at PL1: the tag is that of the segment's descriptor, read as a walk reads it (R122, R148).
The descriptor's V is not looked at, and a read that fails takes what a walk takes (DESIGN CHOICE, log 92). -/
def tlbiVa (m : Mach) (cid a : Nat) : Mach :=
  let va := m.gpr cid a
  let self : Access := .tlbiVa a
  let m := m.setFlight cid []
  match m.walkRead cid (bitsOf (m.sreg cid 0x040) 12 36 * 4096 + 16 * bitsOf va 48 8) 0xF 0xF va with
  | (m, .ok w0) => m.broadcast cid 0 (bitsOf w0 48 16) (va % 2 ^ 48)
  | (m, .error (.miss l)) => (m.setFlight cid [⟨self, .waiting []⟩]).missLine cid l .rdShared false self
  | (m, .error (.flt f ad)) => m.fault cid f (some ⟨ad, false, 0, false, false⟩)

/-- Run a waiting access again. -/
def runAccess (m : Mach) (cid : Nat) : Access → Mach
  | .load rd lg va kind ilen acq => m.doLoad cid rd lg va kind ilen acq
  | .store rs lg va ilen rel => m.doStore cid rs lg va ilen rel
  | .cmo op a => m.maintain cid op a
  | .tlbiVa a => m.tlbiVa cid a
  | .drain => m

/-- Complete a DURSYNC whose homes have all answered, at the core that waits at it (R123). -/
def endSync (m : Mach) (cid : Nat) : Mach :=
  let c := m.core cid
  match c.sync with
  | none => m
  | some y =>
    if y.homes ≠ [] ∨ y.here = false then m
    else
      let m := m.setCore cid { c with sync := none, lost := none }
      let m := match c.lost with
        | some l => m.setSreg cid 0x050 (l * 64)
        | none => m
      (m.setGpr cid y.rd (if c.lost.isSome then 1 else 0)).retire cid 4

end Mach
end Sys2Proof.Machine
end

