-- ==== Sys2Proof/Machine/Cores.lean ====
section
/-! DEFINITION. The cores' commands: loads and stores, the system instructions of R122, interrupts and release. An
instruction given to a core that does not issue has no effect; one that has to wait leaves the pc and is given again
(log 21). -/
namespace Sys2Proof.Machine
namespace Mach

/-- A device load of the core is on its way: nothing after it in program order is issued (R111). -/
def devLoading (m : Mach) (cid : Nat) : Bool := m.devq.any (fun d => d.cid == cid && d.rd.isSome)

/-- The core waits at a DURSYNC or a TLBI (R123, R149). -/
def waitsAt (m : Mach) (cid : Nat) : Bool :=
  (match (m.core cid).sync with | some y => y.here | none => false) || m.tlbis.any (fun t => t.cid == cid && t.here)

/-- The core issues, and waits at no instruction. -/
def ready (m : Mach) (c : Cid) : Bool :=
  m.issuing (cidOf c) && !m.devLoading (cidOf c) && !m.waitsAt (cidOf c) && decide (c.core.val < m.fuses.coresPerDie)

/-- Run an instruction's effect if the core issues: once every older one has retired (R114, R117). -/
def issue (m : Mach) (c : Cid) (f : Nat → Mach → Mach) : Mach :=
  if m.ready c && (m.core (cidOf c)).flight.isEmpty then f (cidOf c) m else m

/-- A load that younger loads may pass: not LD.ACQ, and not the read of an atomic instruction (R114, R117). -/
def passable (f : Flight) : Bool :=
  match f.acc with
  | .load _ _ _ k _ acq => !acq && k != .atomic
  | _ => false

/-- Run a load or fetch if the core issues: past older plain loads that have not retired (R114). -/
def issueLoad (m : Mach) (c : Cid) (a : Access) (f : Nat → Mach → Mach) : Mach :=
  let fl := (m.core (cidOf c)).flight
  let alone : Bool := match a with | .load _ _ _ k _ _ => k == .atomic | _ => false
  if m.ready c && fl.all (fun x => passable x && x.acc != a) && (!alone || fl.isEmpty) then f (cidOf c) m else m

/-- A load in flight writes a general register when it retires. -/
def loading (m : Mach) (cid r : Nat) : Bool :=
  (m.core cid).flight.any (fun f => match f.acc with | .load rd lg _ _ _ _ => rd == r && decide (lg < 4) | _ => false)

/-- Run a system instruction with a minimum level, PERM PRIVILEGE below it (R122). -/
def system (m : Mach) (c : Cid) (minPl : Nat) (f : Nat → Mach → Mach) : Mach :=
  m.issue c (fun cid m => if (m.core cid).pl < minPl then m.fault cid (fPerm 4) none else f cid m)

/-- Accesses of a core that have not been performed. -/
def outstanding (m : Mach) (cid : Nat) : Bool :=
  !(m.core cid).flight.isEmpty || m.lines.any (fun e => e.2.wait.any (fun w => w.1 == cid && w.2 != .drain)) || m.devq.any (fun d => d.cid == cid && d.k != 1)
    || m.devq.any (fun d => d.cid == cid && d.k == 2 && d.rd.isSome)

/-- FENCE.ALL's conditions after the drain: earlier accesses and cache maintenance are complete. -/
def fenceDone (m : Mach) (cid : Nat) : Bool := (m.core cid).maint.isEmpty && !m.outstanding cid

/-- System registers of R125 and R511. -/
def sregKnown (n : Nat) : Bool :=
  [0x000, 0x010, 0x011, 0x012, 0x013, 0x014, 0x020, 0x021, 0x022, 0x023, 0x024, 0x030, 0x031, 0x032, 0x033, 0x040, 0x041,
   0x050].contains n || (decide (0x100 ≤ n) && decide (n ≤ 0x104)) || (decide (0x110 ≤ n) && decide (n ≤ 0x117)) ||
  (decide (0x120 ≤ n) && decide (n ≤ 0x127)) || (decide (0x130 ≤ n) && decide (n ≤ 0x134)) || (decide (0x140 ≤ n) && decide (n ≤ 0x144))

/-- Lowest level that may read a system register (R125, R512). -/
def readLevel (m : Mach) (cid n : Nat) : Nat :=
  if n = 0x000 ∨ n = 0x033 ∨ n = 0x050 then 0
  else if n < 0x020 ∨ (0x031 ≤ n ∧ n < 0x050) then 1
  else if n < 0x100 then 2
  else if n = 0x104 ∨ 0x140 ≤ n then 2
  else bitsOf (m.sreg cid 0x101) 11 2

/-- Lowest level that may write it (R125, R512); CID and DSYNC_ADDR are ignored at every level (R126). -/
def writeLevel (n : Nat) : Nat :=
  if n = 0x000 ∨ n = 0x050 then 0
  else if n < 0x020 ∨ (0x031 ≤ n ∧ n < 0x100) then 1
  else 2

/-- What SRR returns. -/
def readSreg (m : Mach) (cid n : Nat) : Nat :=
  let c := m.core cid
  if n = 0x000 then cid
  else if n = 0x033 then c.ie.toNat + c.pl * 2
  else m.sreg cid n

/-- A field of PM_SEL, PM_CTL, TAG_CTL or TAG_RING whose written encoding is reserved keeps its value (R7, R513, R516, R520). -/
def keepRes (old new lo w : Nat) (ok : Nat → Bool) : Nat := if ok (bitsOf new lo w) then new else putBits new lo w (bitsOf old lo w)

/-- The events a core counts; the other codes are reserved (R516). -/
def coreEvent (e : Nat) : Bool :=
  e == 0 ||
  (decide (0x001 ≤ e) && decide (e ≤ 0x007)) || (decide (0x010 ≤ e) && decide (e ≤ 0x018)) || (decide (0x020 ≤ e) && decide (e ≤ 0x023)) ||
  (decide (0x030 ≤ e) && decide (e ≤ 0x034)) || (decide (0x040 ≤ e) && decide (e ≤ 0x042))

/-- What SRW does (R125, R126, R132, R511, R513, R520). -/
def writeSreg (m : Mach) (cid n v : Nat) : Mach :=
  let old := m.sreg cid n
  let w1c (mask : Nat) : Nat := old - Nat.land old (Nat.land v mask)
  if n = 0x000 ∨ n = 0x050 ∨ n = 0x143 ∨ n = 0x144 then m
  else if n = 0x010 ∨ n = 0x020 then m.setSreg cid n (v / 4096 * 4096)
  else if n = 0x014 ∨ n = 0x024 then m.setSreg cid n (v % 8)
  else if n = 0x032 then m.setSreg cid n (w1c (2 ^ 64 - 1))
  else if n = 0x033 then m.modCore cid (fun c => { c with ie := v % 2 == 1 })
  else if n = 0x040 then (m.setSreg cid n (bitsOf v 12 36 * 4096)).modCore cid (fun c => { c with segc := [] })
  else if n = 0x041 then m.setSreg cid n (v % 2)
  else if n = 0x101 then m.setSreg cid n (keepRes old (v % 2 ^ 16) 11 2 (· != 3))
  else if n = 0x102 then m.setSreg cid n (w1c 0xFF)
  else if n = 0x103 then m.setSreg cid n (v % 2 ^ 7)
  else if n = 0x104 then m.setSreg cid n (v % 2 ^ 11)
  else if 0x110 ≤ n ∧ n ≤ 0x117 then
    m.setSreg cid n (keepRes old (v % 2 ^ 14 + bitsOf v 16 11 * 2 ^ 16 + bitsOf v 32 12 * 2 ^ 32) 0 12 coreEvent)
  else if 0x120 ≤ n ∧ n ≤ 0x127 then m.setSreg cid n (v % 2 ^ 48)
  else if n = 0x140 then
    let new := keepRes old (v % 2 ^ 10) 1 5 (fun x => decide (10 ≤ x) && decide (x ≤ 24))
    m.setSreg cid n (new + (if bitsOf old 10 1 = 1 ∧ bitsOf v 10 1 = 0 then 2 ^ 10 else 0))
  else if n = 0x141 then
    if m.sreg cid 0x140 % 2 = 1 then m
    else m.setSreg cid n (keepRes old (v % 32 + bitsOf v 12 36 * 4096) 0 5 (fun x => decide (6 ≤ x) && decide (x ≤ 16)))
  else if n = 0x142 then m.setSreg cid n (v % 2 ^ 16)
  else if n = 0x012 ∨ n = 0x022 then m.setSreg cid n (v % 2 ^ 18 + bitsOf v 19 29 * 2 ^ 19)
  else m.setSreg cid n v

/-- Whether the offsets from vbase up, under a tag, fall under a TLBI (R148). -/
def tlbiHits (t : Tlbi) (tag vbase span : Nat) : Bool :=
  match t.op with
  | 0 => tag == t.tag && decide (vbase ≤ t.off) && decide (t.off < vbase + span)
  | 1 => tag == t.tag
  | _ => true

/-- A core removes what a TLBI names from its translation caches: leaves, the walk cache, and for TAG and ALL descriptors. -/
def tlbiCore (t : Tlbi) (c : CoreSt) : CoreSt :=
  { c with
    tlb := c.tlb.filter (fun e => !tlbiHits t e.tag e.vbase e.span)
    walkc := c.walkc.filter (fun e => !tlbiHits t e.tag e.vbase e.span)
    segc := if t.op = 0 then c.segc else c.segc.keep (fun _ d => !tlbiHits t (bitsOf d.1 48 16) 0 0) }

/-- A word of MAJOR 0x3D that names no instruction of R122, with its unused fields 0. -/
def undefWord (c : Cid) (w : BitVec 32) : Bool := bitsOf w.toNat 26 6 == 0x3D && (decodeSystem c w).isNone

/-- DURSYNC (R123, R387): drain, send the durable writes, and a DurSync to each home. -/
def startSync (m : Mach) (cid rd : Nat) : Mach :=
  let m := m.drainAll cid
  let m := (m.core cid).dwl.foldl (fun m l => m.sendDurWb cid l) m
  let c := m.core cid
  let first := c.sync.isNone
  let qs := [0, 1, 2, 3].filter (fun q => first || c.dwCount.getD q 0 != 0)
  let old := match c.sync with | some y => y.homes | none => []
  let m := m.setCore cid { c with sync := some ⟨old ++ qs, rd, true⟩, dwCount := [] }
  qs.foldl (fun m q => m.send { k := .durSync, src := dieOf cid, dst := agentHome q, line := 2 ^ 42, n := c.dwCount.getD q 0, aux := cid }) m

/-- The homes count no DurWb of a core's former run, whose own counts start at 0 again (R387, log 101). -/
def forgetDurs (m : Mach) (cid : Nat) : Mach :=
  let mine (k : Nat) : Bool := k / 4 == cid
  let p := m.pair
  { m with
    durGot := m.durGot.keep (fun k _ => !mine k)
    durAcc := m.durAcc.keep (fun k _ => !mine k)
    durWaits := m.durWaits.filter (fun w => w.1 != cid)
    pair := { p with
      out := p.out.mapV (fun _ l => l.map (fun r => { r with forDur := r.forDur.filter (fun k => !mine k) }))
      owed := p.owed.filter (fun o => !(o.1 == 0 && mine o.2)) } }

/-- Release a parked core at ENTRY (R97–R99): every system register at its value of R98, IPEND kept; PSTATE_ACT takes its new
value (R29). In FROZEN cores stay halted (R77). -/
def releaseCore (m : Mach) (cid pc : Nat) : Mach :=
  let c := m.core cid
  if c.run = .parked ∧ m.mode ≠ 9 then
    let sr : Tbl Word := match c.sr.find 0x032 with | some v => [(0x032, v)] | none => []
    ((m.forgetDurs cid).setCore cid { coreReset with run := .running, g := c.g, sr := sr, pc := BitVec.ofNat 64 pc }).takePstate cid
  else m

/-- The management controller. -/
def isMc : Src → Bool
  | .mc => true
  | _ => false

/-- A source at the highest privilege level, or one that counts as such (R40, R42). -/
def isHigh : Src → Bool
  | .core pl => pl.val == 2
  | _ => true

/-- Whether a page of a compute die or the I/O die takes a block-specific register write from a source: populated, its die
up, the block not struck (R36, R61, R62); an access its class forbids sets ACCESS (R40, R41). Without power there is none, and
in AUX only the management controller runs (R72, R22). `none` where it is discarded. -/
def writable (m : Mach) (src : Src) (p : PageId) (header : Bool) : Mach × Bool :=
  let die := p.die.val
  let inst := p.inst.val
  let byMc := isMc src
  if m.mode = 0 ∨ (m.mode = 1 ∧ !byMc) then (m, false)
  else if !populated m.fuses die p.blk inst then (m, false)
  else if die < 12 ∧ !m.dieUp die then (m, false)
  else
    let hi := isHigh src
    let mcOnly := p.blk == .mgmt || p.blk == .tap
    if die = 13 then (m, false)
    else if (mcOnly && !byMc) || !hi then (m.err ⟨p.blk, 1⟩ sevCorrected inst die, false)
    else if !header && m.hon R.HDR_STATUS_STRUCK p.blk inst die then (m, false)
    else (m, true)

/-- A write to a block-specific register with an effect of its own. -/
def guarded (m : Mach) (src : Src) (die : Nat) (b : Block) (inst : Nat) (f : Mach → Mach) : Mach :=
  match m.writable src ⟨Fin.ofNat 16 die, b, Fin.ofNat 64 inst⟩ false with
  | (m, true) => f m
  | (m, false) => m

end Mach

open Mach

/-- R112, R142–R145: a load or fetch of a core. The address has 64 bits, so that the check of R133 on [63:56] can fail (log 81). -/
def execLoad (c : Cid) (rd : Fin 32) (va : Word) (lg : Fin 7) (kind : LoadKind) (ilen : Fin 17) (s : State) : Out :=
  s.cmd (fun m => m.issueLoad c (.load rd.val lg.val va.toNat kind ilen.val false) (fun cid m => m.doLoad cid rd.val lg.val va.toNat kind ilen.val false))

/-- R118: a store of a core. -/
def execStore (c : Cid) (rs : Fin 32) (va : Word) (lg : Fin 7) (ilen : Fin 17) (s : State) : Out :=
  s.cmd (fun m => m.issue c (fun cid m => m.doStore cid rs.val lg.val va.toNat ilen.val false))

/-- R119: the store at an index leaves the buffer if it is the oldest for its line; a line no longer owned is asked for
again, and one whose page has gone Dormant goes to the shed journal. A durable write waits for the DurWb of another core's, for one of its
own line under way, and for room in the durable write list (R385, R386). -/
def execStoreDrain (c : Cid) (index : Fin 64) (s : State) : Out :=
  s.cmd (fun m =>
    let cid := cidOf c
    let sb := (m.core cid).sb
    match sb[index.val]? with
    | none => m
    | some e =>
      let line := e.spa / 64
      if !m.dieUp (dieOf cid) ∨ (sb.take index.val).any (fun x => x.spa / 64 == line) then m
      else
        let out (m : Mach) : Mach := m.modCore cid (fun c => { c with sb := c.sb.eraseIdx index.val })
        let asleep := m.asleep (pageOf e.spa)
        let x := m.dl (dieOf cid) line
        if e.mtype = 1 ∨ m.canStore cid line ∨ (asleep ∧ isStableSt x.st) then out (m.drainEntry cid e)
        else if owned x.st then (if dwElsewhere x cid then m.sendDurWbs (dieOf cid) line else m.dwlMakeRoom cid)
        else m.dieReq (dieOf cid) line (if x.st = .s ∨ x.st = .o then .upgrade else .rdOwn) false false (some (cid, .drain)))

/-- R117: FENCE.ALL. -/
def execFenceAll (c : Cid) (s : State) : Out :=
  s.cmd (fun m => m.issue c (fun cid m =>
    let m := m.drainAll cid
    if m.fenceDone cid then m.retire cid 4 else m))

/-- R117: FENCE.LD. -/
def execFenceLd (c : Cid) (s : State) : Out := s.cmd (fun m => m.issue c (fun cid m => m.retire cid 4))

/-- R117: FENCE.ST. -/
def execFenceSt (c : Cid) (s : State) : Out := s.cmd (fun m => m.issue c (fun cid m => (m.drainAll cid).retire cid 4))

/-- R117, R128: FENCE.IO, and the DEVWRITE exception it raises. -/
def execFenceIo (c : Cid) (s : State) : Out :=
  s.cmd (fun m => m.issue c (fun cid m =>
    let m := m.drainAll cid
    if m.fenceDone cid && (m.core cid).trk.isEmpty && !(m.devq.any (fun d => d.cid == cid && d.k == 1 && d.port.isNone)) then
      let m := m.retire cid 4
      match (m.core cid).dfail with
      | none => m
      | some f =>
        let m := m.modCore cid (fun c => { c with dfail := none })
        m.takeExc cid (m.excLevel cid 0x0D) ⟨0x0D, f.sub, f.more⟩ false (some ⟨f.spa, true, f.lg, true, false⟩) f.pl (m.pcOf cid)
    else m))

/-- R123: DURSYNC. One issued in DRAIN stays held in its core (R74). -/
def execDursync (c : Cid) (d : Fin 32) (s : State) : Out :=
  s.cmd (fun m => m.issue c (fun cid m => if m.mode = 8 ∧ (m.core cid).sync = none then m else m.startSync cid d.val))

/-- R123: the DURSYNC completes once all four homes have answered. -/
def execDursyncComplete (c : Cid) (s : State) : Out := s.cmd (fun m => m.endSync (cidOf c))

/-- R124: CLN.L. -/
def execClnL (c : Cid) (a : Fin 32) (s : State) : Out :=
  s.cmd (fun m => m.system c 0 (fun cid m => m.maintain cid 0 a.val))

/-- R124: INV.L, at PL2. -/
def execInvL (c : Cid) (a : Fin 32) (s : State) : Out :=
  s.cmd (fun m => m.system c 2 (fun cid m => m.maintain cid 1 a.val))

/-- R124: CLNINV.L. -/
def execClninvL (c : Cid) (a : Fin 32) (s : State) : Out :=
  s.cmd (fun m => m.system c 0 (fun cid m => m.maintain cid 2 a.val))

/-- R148: TLBI.VA; at PL1 the tag is that of the address's segment (R122). -/
def execTlbiVa (c : Cid) (a b : Fin 32) (s : State) : Out :=
  s.cmd (fun m => m.system c 1 (fun cid m =>
    let va := m.gpr cid a.val
    if (m.core cid).pl = 2 then m.broadcast cid 0 (m.gpr cid b.val % 2 ^ 16) (va % 2 ^ 48)
    else m.tlbiVa cid a.val))

/-- R148: TLBI.TAG. -/
def execTlbiTag (c : Cid) (a : Fin 32) (s : State) : Out :=
  s.cmd (fun m => m.system c 2 (fun cid m => m.broadcast cid 1 (m.gpr cid a.val % 2 ^ 16) 0))

/-- R148: TLBI.ALL. -/
def execTlbiAll (c : Cid) (s : State) : Out := s.cmd (fun m => m.system c 2 (fun cid m => m.broadcast cid 2 0 0))

/-- R114, R117: LD.ACQ, once no older load that writes its address register is in flight. -/
def execLdAcq (c : Cid) (a d : Fin 32) (x : Fin 4) (s : State) : Out :=
  s.cmd (fun m =>
    if m.loading (cidOf c) a.val then m
    else m.issueLoad c (.load d.val x.val (m.gpr (cidOf c) a.val) .data 4 true) (fun cid m =>
      m.doLoad cid d.val x.val (m.gpr cid a.val) .data 4 true))

/-- R117: ST.REL. -/
def execStRel (c : Cid) (a b : Fin 32) (x : Fin 4) (s : State) : Out :=
  s.cmd (fun m => m.issue c (fun cid m => m.doStore cid b.val x.val (m.gpr cid a.val) 4 true))

/-- R126: SRR. -/
def execSrr (c : Cid) (sreg : BitVec 10) (d : Fin 32) (s : State) : Out :=
  s.cmd (fun m => m.issue c (fun cid m =>
    let n := sreg.toNat
    if !sregKnown n then m.fault cid ⟨0x01, 0, 0⟩ none
    else if (m.core cid).pl < m.readLevel cid n then m.fault cid (fPerm 4) none
    else (m.setGpr cid d.val (m.readSreg cid n)).retire cid 4))

/-- R126: SRW. -/
def execSrw (c : Cid) (sreg : BitVec 10) (d : Fin 32) (s : State) : Out :=
  s.cmd (fun m => m.issue c (fun cid m =>
    let n := sreg.toNat
    if !sregKnown n then m.fault cid ⟨0x01, 0, 0⟩ none
    else if (m.core cid).pl < writeLevel n then m.fault cid (fPerm 4) none
    else (m.writeSreg cid n (m.gpr cid d.val)).retire cid 4))

/-- R129: ERET, a safe point of the CORE page (R58). A previous level of 3 does not exist and acts as PL2 (log 22). -/
def execEret (c : Cid) (s : State) : Out :=
  s.cmd (fun m => m.system c 1 (fun cid m =>
    let b := 0x10 * (m.core cid).pl
    let e := m.sreg cid (b + 4)
    let m := m.pmEvent cid 0x002 1
    let m := m.modCore cid (fun c => { c with pl := min 2 (e % 4), ie := bitsOf e 2 1 == 1 })
    (m.setPc cid (m.sreg cid (b + 1))).safePoint (dieOf cid) .core (cid % 32)))

/-- R122, R127: CALL; a level that does not exist or is not above the current one takes UNDEF. -/
def execCallInsn (c : Cid) (x : Fin 32) (s : State) : Out :=
  s.cmd (fun m => m.issue c (fun cid m =>
    let pl := (m.core cid).pl
    if (x.val = 1 ∨ x.val = 2) ∧ pl < x.val then
      let lvl := if x.val = 2 then 2 else m.excLevel cid 0x02
      m.takeExc cid lvl ⟨0x02, x.val, 0⟩ true none pl (m.pcOf cid + 4)
    else m.fault cid ⟨0x01, 0, 0⟩ none))

/-- R122: WAIT stops issue unless an interrupt could be taken now. -/
def execWaitInsn (c : Cid) (s : State) : Out :=
  s.cmd (fun m => m.system c 1 (fun cid m =>
    let m := m.retire cid 4
    let c := m.core cid
    if c.ie && Nat.land (m.sreg cid 0x032) (m.sreg cid 0x031) != 0 then m else m.setCore cid { c with run := .waiting }))

/-- R122: UNDEF of an instruction word that names no system instruction. -/
def execUndefInsn (c : Cid) (word : BitVec 32) (s : State) : Out :=
  s.cmd (fun m => m.issue c (fun cid m => if undefWord c word then m.fault cid ⟨0x01, 0, 0⟩ none else m))

/-- R103: an INTERRUPT exception at an instruction boundary, which an issued device load has not reached. -/
def execInterrupt (c : Cid) (s : State) : Out :=
  s.cmd (fun m =>
    let cid := cidOf c
    let x := m.core cid
    if m.dieUp (dieOf cid) ∧ (x.run = .running ∨ x.run = .waiting) ∧ x.ie = true ∧ m.devLoading cid = false ∧ Nat.land (m.sreg cid 0x032) (m.sreg cid 0x031) ≠ 0 then
      m.takeExc cid (m.excLevel cid 3) ⟨0x03, 0, 0⟩ false none x.pl (m.pcOf cid)
    else m)

/-- R99: RUN_CTL.RELEASE. -/
def execCoreRelease (src : Src) (c : Cid) (s : State) : Out :=
  s.cmd (fun m => m.guarded src c.die.val .core c.core.val (fun m =>
    m.releaseCore (cidOf c) (m.get R.CORE_ENTRY_ADDR c.core.val c.die.val * 4)))

/-- R102: CORE.DOORBELL. -/
def execCoreDoorbell (src : Src) (c : Cid) (bits : Word) (s : State) : Out :=
  s.cmd (fun m => m.guarded src c.die.val .core c.core.val (fun m => m.setIpend (cidOf c) bits.toNat true))

/-- R198: the oldest unretired access, dropped while speculative, is made again without SPEC. -/
def execNonspecResend (c : Cid) (s : State) : Out :=
  s.cmd (fun m =>
    let cid := cidOf c
    if !m.ready c then m
    else match (m.core cid).flight with
      | ⟨.load rd lg va _ ilen acq, .dropped⟩ :: rest =>
        (m.setFlight cid (⟨.load rd lg va .data ilen acq, .waiting []⟩ :: rest)).loadNow cid rd lg va .data ilen acq
      | _ => m)

/-- R149, R150: a TLBI broadcast reaches a die: every core removes the matching entries and drains. The die acknowledges once the
device loads and cache maintenance of its cores have been performed; a load that waits for a line is translated again. -/
def execTlbiReq (die : Fin 12) (s : State) : Out :=
  s.cmd (fun m =>
    match m.net.find? (fun g => g.k == .tlbiReq && g.dst == die.val) with
    | none => m
    | some g =>
      match m.tlbis.find? (fun (t : Tlbi) => t.id == g.aux) with
      | none => { m with net := m.net.erase g }
      | some t =>
        let cids := ((List.range 20).map (fun i => 32 * die.val + i)).filter (fun cid => (m.cores.find cid).isSome)
        let m := cids.foldl (fun m cid => (m.modCore cid (tlbiCore t)).drainAll cid) m
        if cids.any (fun cid => m.devLoading cid || !(m.core cid).maint.isEmpty) then m
        else
          let m := cids.foldl (fun m cid => m.pmEvent cid 0x023 1) { m with net := m.net.erase g }
          let m := { m with tlbis := m.tlbis.map (fun (x : Tlbi) => if x.id = t.id then { x with asked := x.asked.filter (· != die.val) } else x) }
          m.send { k := .tlbiAck, src := die.val, dst := 12, line := 2 ^ 42, aux := t.id })

/-- R149: a die's acknowledgement; with the last one the TLBI completes, at the core that still waits at it. -/
def execTlbiAck (die : Fin 12) (s : State) : Out :=
  s.cmd (fun m =>
    match m.takeMsg (fun g => g.k == .tlbiAck && g.src == die.val) with
    | (m, none) => m
    | (m, some g) =>
      match m.tlbis.find? (fun (t : Tlbi) => t.id == g.aux) with
      | none => m
      | some t =>
        let acks := t.acks.filter (· != die.val)
        if acks = [] then
          let m := { m with tlbis := m.tlbis.filter (fun (x : Tlbi) => x.id != t.id) }
          if t.here then m.retire t.cid 4 else m
        else { m with tlbis := m.tlbis.map (fun (x : Tlbi) => if x.id = t.id then { x with acks := acks } else x) })

end Sys2Proof.Machine
end

