-- ==== Sys2Proof/Machine/Hub.lean ====
section
/-! DEFINITION. The commands of the Lantern hub and of Rake (R497–R508). -/
namespace Sys2Proof.Machine
namespace Mach

/-- The end of a coalescing window (R506): a COALESCED record for each counted entry, a DROPPED record for each path and class
that dropped something. -/
def windowEnd (m : Mach) : Mach :=
  let es := m.lant.coal
  let ds := m.lant.dropped
  let m : Mach := { m with lant := { m.lant with coal := [], dropped := [] } }
  let m := es.foldl (fun (m : Mach) c =>
    if c.count = 0 then m
    else
      let (m, seq) := m.takeSeq
      m.deliver ⟨c.typ, 2, c.sev, false, true, false, false, c.cause, seq, m.time, c.source, c.tenant, c.count, c.detail, c.addr⟩) m
  ds.foldl (fun m d => m.ev 10 1 .lant (d.1 + 4 * d.2.toNat)) m

def answer_ (m : Mach) (a : SbAnswer) : Mach := if m.mode = 0 then m else { m with lant := { m.lant with answer := a } }

/-- Free the queued records up to a SEQ, oldest first. -/
def ackEvents (m : Mach) (seq : Nat) : Mach :=
  if m.mode = 0 then m
  else { m with lant := { m.lant with sbq := m.lant.sbq.dropWhile (fun r => (seq + 2 ^ 32 - r.seq) % 2 ^ 32 < 2 ^ 31) } }

/-- DEGRADED (R69): STRUCK_MASK is not zero and MODE is 3 to 7. -/
def degraded (m : Mach) : Bool := m.get R.PKG_STRUCK_MASK_DIES != 0 && decide (3 ≤ m.mode) && decide (m.mode ≤ 7)

def pkgReg (m : Mach) (off : Nat) : Nat := m.reg (pageOff 12 .pkg 0 + off)

/-- What GET_STATUS returns. -/
def sbStatus (m : Mach) : List Nat :=
  [putBits (m.pkgReg 0x100) 10 1 m.degraded.toNat, m.pkgReg 0x110, m.pkgReg 0x308, m.pkgReg 0x130, m.reg (pageOff 12 .lant 0 + 0x1B0)]

/-- Slots of the incident store from one up, 32 of them. -/
def sbSlots (m : Mach) (k : Nat) : List (List Byte) :=
  (List.range 32).map (fun i => match m.lant.store.find ((k + i) % 2048) with
    | some r => r.bytes
    | none => List.replicate 32 0)

/-- ALERT_PEND clears and ALERT_N is released (R505). -/
def alertClear (m : Mach) : Mach := ({ m with pins := { m.pins with alertN := true } } : Mach).set R.LANT_ALARM_ALERT_PEND 0

def clearGeneral (m : Mach) : Mach :=
  let m : Mach := { m with lant := { m.lant with store := m.lant.store.keep (fun k _ => k < 1440) } }
  (m.set R.LANT_STORE_STAT_GEN_WPTR 0).set R.LANT_STORE_STAT_GEN_WRAPPED 0

/-! ### Rake (R497–R499) -/

/-- Lines of the backed part of a quarter. -/
def rakeLines (m : Mach) (q : Nat) : Nat := m.backed q / 64

/-- The end of a pass: the ECS counts, the figures of the pass, and the next pass. -/
def rakePass (m : Mach) (q : Nat) (ecs : List EcsCount) (late : Bool) : Mach :=
  let m := ecs.foldl (fun m e =>
    if m.act R.RAKE_CTL_ECS_THRESH q < e.count.toNat then
      m.err E.RAKE_ECS_HIGH sevCorrected q 12 none (ddrInfo (some e.device.val) e.sub.val e.rank.val false 0)
    else m) m
  let m := if late then m.err E.RAKE_PASS_LATE sevCorrected q else m
  let m := (m.set R.RAKE_LAST_PASS_CORRECTED (m.get R.RAKE_FOUND_CORRECTED q) q).set R.RAKE_LAST_PASS_UNCORRECTABLE (m.get R.RAKE_FOUND_UNCORRECTABLE q) q
  let m := (m.set R.RAKE_FOUND_CORRECTED 0 q).set R.RAKE_FOUND_UNCORRECTABLE 0 q
  (m.set R.RAKE_STATUS_CURSOR 0 q).add R.RAKE_STATUS_PASSES 1 q

/-- Rake reads the next line of its quarter, whose cells have taken the errors given. -/
def rakeRead (m : Mach) (q : Nat) (errs : List (Nat × Nat)) (ecs : List EcsCount) (late : Bool) : Mach :=
  if m.mode == 9 || !m.hon R.HDR_STATUS_ENABLED .rake q || m.hon R.HDR_CONTROL_QUIESCE .rake q || m.rakeLines q == 0 then m
  else
    let i := m.get R.RAKE_STATUS_CURSOR q
    let lda := q * m.qsize q + 64 * i
    let c := (m.ldaChan lda).1
    let m :=
      if !m.hon R.HDR_STATUS_READY .ddr c || m.hon R.HDR_STATUS_STRUCK .ddr c then m
      else
        let ce := m.get R.DDR_CE_COUNT_CORRECTED c
        let ue := m.get R.DDR_UE_COUNT_UNCORRECTABLE c
        let (m, _) := m.readCoded lda errs (m.metaOf lda).enc true
        let m :=
          if m.get R.DDR_CE_COUNT_CORRECTED c ≠ ce then
            let m := m.add R.RAKE_FOUND_CORRECTED 1 q
            if m.get R.RAKE_FOUND_CORRECTED q = m.act R.RAKE_CTL_CE_ALERT q + 1 then m.err E.RAKE_CE_RATE sevCorrected q else m
          else m
        if m.get R.DDR_UE_COUNT_UNCORRECTABLE c ≠ ue then m.add R.RAKE_FOUND_UNCORRECTABLE 1 q else m
    if m.rakeLines q ≤ i + 1 then m.rakePass q ecs late else m.set R.RAKE_STATUS_CURSOR (i + 1) q

end Mach

open Mach

/-- R506: a coalescing window ends. -/
def execCoalesceWindowEnd (s : State) : Out := s.cmd (fun m => m.windowEnd)

/-- R504: GET_EVENTS. -/
def execGetEvents (s : State) : Out := s.cmd (fun m => m.answer_ (.events (m.lant.sbq.take 8)))

/-- R504: ACK_EVENTS. -/
def execAckEvents (seq : BitVec 32) (s : State) : Out := s.cmd (fun m => m.ackEvents seq.toNat)

/-- R504: GET_STATUS. -/
def execGetStatus (s : State) : Out := s.cmd (fun m => m.answer_ (.status m.sbStatus))

/-- R504: GET_STORE. -/
def execGetStore (slot : BitVec 11) (s : State) : Out := s.cmd (fun m => m.answer_ (.slots (m.sbSlots slot.toNat)))

/-- R505: ACK_ALARM. -/
def execAckAlarm (s : State) : Out := s.cmd (fun m => if m.mode = 0 then m else m.alertClear)

/-- R505, R510: ALARM.ALERT_PEND written with 1. -/
def execAlertPendClear (src : Src) (s : State) : Out := s.cmd (fun m => m.guarded src 12 .lant 0 (fun m => m.alertClear))

/-- R507, R510: STORE_CTL.CLEAR_BANK0. -/
def execClearBank0 (src : Src) (s : State) : Out := s.cmd (fun m => m.guarded src 12 .lant 0 (fun m => m.emptyBank 0))

/-- R507, R510: STORE_CTL.CLEAR_BANK1. -/
def execClearBank1 (src : Src) (s : State) : Out := s.cmd (fun m => m.guarded src 12 .lant 0 (fun m => m.emptyBank 1))

/-- R507, R510: STORE_CTL.CLEAR_GENERAL. -/
def execClearGeneral (src : Src) (s : State) : Out := s.cmd (fun m => m.guarded src 12 .lant 0 (fun m => m.clearGeneral))

/-- R502: RING_HEAD. A record that waits for room is written once the new HEAD admits it. -/
def execRingHeadWrite (src : Src) (head : BitVec 20) (s : State) : Out :=
  s.cmd (fun m => m.guarded src 12 .lant 0 (fun m => (m.set R.LANT_RING_HEAD_HEAD head.toNat).replay))

/-- R497: Rake reads the next line of its quarter. -/
def execRakeRead (q : Fin 4) (errs : List (Fin 80 × Byte)) (ecs : List EcsCount) (late : Bool) (s : State) : Out :=
  s.cmd (fun m => m.rakeRead q.val (errs.map (fun e => (e.1.val, e.2.toNat))) ecs late)

end Sys2Proof.Machine
end

