-- ==== Sys2Proof/Machine/Inflate.lean ====
section
/-! DEFINITION. Decompression of Deflate, zlib and gzip as R294 asks, with the formats themselves from RFC 1950 to 1952
(PRESUMED, log 26): bytes are natural numbers below 256. -/
namespace Sys2Proof.Machine.Stream

/-- How a decompression ended: the bytes decoded, the REASON of R303 (0 none) and the input offset of the error. -/
structure Res where
  out : Array Nat
  reason : Nat
  off : Nat

/-! ### Checks -/

def crcByte (c b : Nat) : Nat :=
  (List.range 8).foldl (fun c _ => if c % 2 = 1 then Nat.xor (c / 2) 0xEDB88320 else c / 2) (Nat.xor c b)

def crc32 (b : List Nat) : Nat := Nat.xor (b.foldl (fun c x => Nat.xor (c / 256) (crcByte (c % 256) x)) 0xFFFFFFFF) 0xFFFFFFFF

def adler32 (b : List Nat) : Nat :=
  let r := b.foldl (fun (s : Nat × Nat) x => let a := (s.1 + x) % 65521; (a, (s.2 + a) % 65521)) (1, 0)
  r.2 * 65536 + r.1

/-! ### Bits, least significant first -/

def bitAt (a : Array Nat) (p : Nat) : Nat := a.getD (p / 8) 0 / 2 ^ (p % 8) % 2

/-- n bits from position p up, none where the input ends. -/
def bitsAt (a : Array Nat) (p n : Nat) : Option Nat :=
  if 8 * a.size < p + n then none
  else some ((List.range n).foldl (fun v i => v + bitAt a (p + i) * 2 ^ i) 0)

/-! ### Huffman codes -/

/-- A canonical code: how many codes of each length, and the symbols in code order. -/
structure Code where
  count : List Nat
  syms : Array Nat

def codeOf (lens : List Nat) : Code :=
  let at_ (n : Nat) : List Nat := (List.range lens.length).filter (fun s => lens.getD s 0 == n)
  ⟨(List.range 16).map (fun n => if n = 0 then 0 else (at_ n).length), ((List.range 16).flatMap (fun n => if n = 0 then [] else at_ n)).toArray⟩

/-- Code space left over: none where the code is oversubscribed. -/
def Code.left (c : Code) : Option Nat :=
  (List.range 15).foldl (fun r i =>
    match r with
    | none => none
    | some l => if 2 * l < c.count.getD (i + 1) 0 then none else some (2 * l - c.count.getD (i + 1) 0)) (some 1)

inductive Sym where
  | ok (s p : Nat)
  | ended
  | bad

/-- One symbol: code length by code length. -/
def Code.next (c : Code) (a : Array Nat) (p : Nat) : Sym :=
  let step (r : Except (Nat × Nat × Nat) Sym) (i : Nat) : Except (Nat × Nat × Nat) Sym :=
    match r with
    | .ok s => .ok s
    | .error (code, first, index) =>
      match bitsAt a (p + i) 1 with
      | none => .ok .ended
      | some b =>
        let code := code + b
        let n := c.count.getD (i + 1) 0
        if code < first + n then .ok (.ok (c.syms.getD (index + code - first) 0) (p + i + 1))
        else .error (2 * code, 2 * (first + n), index + n)
  match (List.range 15).foldl step (.error (0, 0, 0)) with
  | .ok s => s
  | .error _ => .bad

def fixedLit : Code := codeOf (List.replicate 144 8 ++ List.replicate 112 9 ++ List.replicate 24 7 ++ List.replicate 8 8)
def fixedDist : Code := codeOf (List.replicate 30 5)

def lenBase : List Nat := [3, 4, 5, 6, 7, 8, 9, 10, 11, 13, 15, 17, 19, 23, 27, 31, 35, 43, 51, 59, 67, 83, 99, 115, 131, 163, 195, 227, 258]
def lenBits : List Nat := [0, 0, 0, 0, 0, 0, 0, 0, 1, 1, 1, 1, 2, 2, 2, 2, 3, 3, 3, 3, 4, 4, 4, 4, 5, 5, 5, 5, 0]
def distBase : List Nat :=
  [1, 2, 3, 4, 5, 7, 9, 13, 17, 25, 33, 49, 65, 97, 129, 193, 257, 385, 513, 769, 1025, 1537, 2049, 3073, 4097, 6145, 8193, 12289,
   16385, 24577]
def distBits : List Nat := [0, 0, 0, 0, 1, 1, 2, 2, 3, 3, 4, 4, 5, 5, 6, 6, 7, 7, 8, 8, 9, 9, 10, 10, 11, 11, 12, 12, 13, 13]

/-- Append n bytes from a distance back. -/
def copyBack (o : Array Nat) (d n : Nat) : Array Nat :=
  (List.range n).foldl (fun o _ => o.push (o.getD (o.size - d) 0)) o

/-- Where a block or a stream has got to: output, bit position, REASON (0 none). -/
structure Pos where
  out : Array Nat
  p : Nat
  reason : Nat

def fail (o : Array Nat) (p reason : Nat) : Pos := ⟨o, p, reason⟩

/-- The symbols of a block up to the end-of-block code. -/
def symbols (lit dist : Code) (a : Array Nat) : Nat → Array Nat → Nat → Pos
  | 0, o, p => fail o p 6
  | fuel + 1, o, p =>
    match lit.next a p with
    | .ended => fail o (8 * a.size) 6
    | .bad => fail o p 4
    | .ok s p1 =>
      if s < 256 then symbols lit dist a fuel (o.push s) p1
      else if s = 256 then ⟨o, p1, 0⟩
      else if 285 < s then fail o p 4
      else
        match bitsAt a p1 (lenBits.getD (s - 257) 0) with
        | none => fail o (8 * a.size) 6
        | some x =>
          let n := lenBase.getD (s - 257) 0 + x
          let p2 := p1 + lenBits.getD (s - 257) 0
          match dist.next a p2 with
          | .ended => fail o (8 * a.size) 6
          | .bad => fail o p2 4
          | .ok t p3 =>
            if 29 < t then fail o p2 4
            else
              match bitsAt a p3 (distBits.getD t 0) with
              | none => fail o (8 * a.size) 6
              | some y =>
                let d := distBase.getD t 0 + y
                if o.size < d then fail o p2 5 else symbols lit dist a fuel (copyBack o d n) (p3 + distBits.getD t 0)

def clOrder : List Nat := [16, 17, 18, 0, 8, 7, 9, 6, 10, 5, 11, 4, 12, 3, 13, 2, 14, 1, 15]

/-- Code lengths of a dynamic block, n of them: none with the REASON and place of an error. -/
def lengths (c : Code) (a : Array Nat) (n : Nat) : Nat → List Nat → Nat → Except (Nat × Nat) (List Nat × Nat)
  | 0, _, p => .error (6, p)
  | fuel + 1, ls, p =>
    if n ≤ ls.length then (if ls.length = n then .ok (ls, p) else .error (3, p))
    else match c.next a p with
      | .ended => .error (6, 8 * a.size)
      | .bad => .error (3, p)
      | .ok s p1 =>
        let rep (v bits base : Nat) : Except (Nat × Nat) (List Nat × Nat) :=
          match bitsAt a p1 bits with
          | none => .error (6, 8 * a.size)
          | some x => lengths c a n fuel (ls ++ List.replicate (base + x) v) (p1 + bits)
        if s < 16 then lengths c a n fuel (ls ++ [s]) p1
        else if s = 16 then (match ls.getLast? with | none => .error (3, p) | some v => rep v 2 3)
        else if s = 17 then rep 0 3 3
        else rep 0 7 11

/-- Whether a set of code lengths is accepted (R294): complete, or for distances one code of length 1, or none at all. -/
def codeOk (lens : List Nat) (dist : Bool) : Bool :=
  let c := codeOf lens
  match c.left with
  | none => false
  | some 0 => true
  | some _ => dist && (c.syms.size == 0 || (c.syms.size == 1 && c.count.getD 1 0 == 1))

/-- One block after its type bits. -/
def block (a : Array Nat) (typ : Nat) (o : Array Nat) (p : Nat) : Pos :=
  let fuel := 8 * a.size + 2
  match typ with
  | 0 =>
    let q := (p + 7) / 8
    if a.size < q + 4 then fail o (8 * a.size) 6
    else
      let len := a.getD q 0 + 256 * a.getD (q + 1) 0
      let nlen := a.getD (q + 2) 0 + 256 * a.getD (q + 3) 0
      if len + nlen ≠ 65535 then fail o (8 * q) 2
      else
        let n := min len (a.size - (q + 4))
        let o := (List.range n).foldl (fun o i => o.push (a.getD (q + 4 + i) 0)) o
        if n < len then fail o (8 * a.size) 6 else ⟨o, 8 * (q + 4 + len), 0⟩
  | 1 => symbols fixedLit fixedDist a fuel o p
  | 2 =>
    match bitsAt a p 5, bitsAt a (p + 5) 5, bitsAt a (p + 10) 4 with
    | some hl, some hd, some hc =>
      if 29 < hl ∨ 29 < hd then fail o p 3
      else
        let cls := (List.range (hc + 4)).map (fun i => bitsAt a (p + 14 + 3 * i) 3)
        if cls.any Option.isNone then fail o (8 * a.size) 6
        else
          let cl := (List.range 19).map (fun s => (cls.getD (clOrder.idxOf s) none).getD 0)
          if !codeOk cl false then fail o p 3
          else match lengths (codeOf cl) a (hl + 257 + hd + 1) fuel [] (p + 14 + 3 * (hc + 4)) with
            | .error (r, e) => fail o e r
            | .ok (ls, p1) =>
              let lit := ls.take (hl + 257)
              let dst := ls.drop (hl + 257)
              if codeOk lit false && codeOk dst true then symbols (codeOf lit) (codeOf dst) a fuel o p1 else fail o p 3
    | _, _, _ => fail o (8 * a.size) 6
  | _ => fail o p 2

/-- The blocks of a Deflate stream from a bit position; the output of the stream alone starts empty. -/
def blocks (a : Array Nat) : Nat → Array Nat → Nat → Pos
  | 0, o, p => fail o p 6
  | fuel + 1, o, p =>
    match bitsAt a p 1, bitsAt a (p + 1) 2 with
    | some last, some typ =>
      let r := block a typ o (p + 3)
      if r.reason ≠ 0 then r else if last = 1 then r else blocks a fuel r.out r.p
    | _, _ => fail o (8 * a.size) 6

def inflateAt (a : Array Nat) (start : Nat) : Pos := blocks a (8 * a.size + 1) #[] (8 * start)

/-- Raw Deflate: nothing may follow the stream. -/
def deflate (a : Array Nat) : Res :=
  let r := inflateAt a 0
  let e := (r.p + 7) / 8
  if r.reason ≠ 0 then ⟨r.out, r.reason, r.p / 8⟩ else if e < a.size then ⟨r.out, 7, e⟩ else ⟨r.out, 0, e⟩

/-- zlib (R294). -/
def zlib (a : Array Nat) : Res :=
  if a.size < 2 then ⟨#[], 6, a.size⟩
  else
    let cmf := a.getD 0 0
    let flg := a.getD 1 0
    if cmf % 16 ≠ 8 ∨ 7 < cmf / 16 ∨ (cmf * 256 + flg) % 31 ≠ 0 then ⟨#[], 1, 0⟩
    else if flg / 32 % 2 = 1 then ⟨#[], 12, 1⟩
    else
      let r := inflateAt a 2
      let e := (r.p + 7) / 8
      if r.reason ≠ 0 then ⟨r.out, r.reason, r.p / 8⟩
      else if a.size < e + 4 then ⟨r.out, 6, a.size⟩
      else
        let v := (List.range 4).foldl (fun v i => 256 * v + a.getD (e + i) 0) 0
        if v ≠ adler32 r.out.toList then ⟨r.out, 14, e⟩
        else if e + 4 < a.size then ⟨r.out, 7, e + 4⟩ else ⟨r.out, 0, e + 4⟩

def le (a : Array Nat) (p n : Nat) : Nat := (List.range n).foldl (fun v i => v + a.getD (p + i) 0 * 256 ^ i) 0

/-- The end of a text that a zero byte ends. -/
def zeroEnd (a : Array Nat) (p : Nat) : Option Nat := ((List.range (a.size - p)).find? (fun i => a.getD (p + i) 0 == 0)).map (fun i => p + i + 1)

/-- The bytes there are at an offset begin as a gzip member does. -/
def gzipBegins (a : Array Nat) (s : Nat) : Bool :=
  (List.range 3).all (fun i => decide (a.size ≤ s + i) || a.getD (s + i) 0 == [0x1F, 0x8B, 8].getD i 0)

/-- A gzip member's header: where it ends, with the place of its CRC where that does not match; or REASON and place. -/
def gzipHeader (a : Array Nat) (s : Nat) : Except (Nat × Nat) (Nat × Option Nat) :=
  if a.size < s + 10 then (if gzipBegins a s then .error (6, a.size) else .error (1, s))
  else if le a s 2 ≠ 0x8B1F ∨ a.getD (s + 2) 0 ≠ 8 then .error (1, s)
  else
    let f := a.getD (s + 3) 0
    if 32 ≤ f then .error (8, s + 3)
    else
      let p := s + 10
      let step (on : Bool) (g : Nat → Option Nat) (r : Option Nat) : Option Nat := if on then r.bind g else r
      let r := step (f / 4 % 2 == 1) (fun p => if a.size < p + 2 + le a p 2 ∨ a.size < p + 2 then none else some (p + 2 + le a p 2)) (some p)
      let r := step (f / 8 % 2 == 1) (zeroEnd a) r
      let r := step (f / 16 % 2 == 1) (zeroEnd a) r
      match r with
      | none => if 65536 < a.size - s then .error (13, s) else .error (6, a.size)
      | some p =>
        if f / 2 % 2 = 1 then
          if 65536 < p + 2 - s then .error (13, s)
          else if a.size < p + 2 then .error (6, a.size)
          else .ok (p + 2, if le a p 2 ≠ crc32 (a.extract s p).toList % 65536 then some p else none)
        else if 65536 < p - s then .error (13, s) else .ok (p, none)

/-- gzip members from an offset on (R294); `multi` lets more than one follow. A member whose header CRC does not match is decoded to its
end, as its output is complete (R297, log 26). -/
def gzipFrom (a : Array Nat) (multi : Bool) : Nat → Nat → Array Nat → Res
  | 0, s, o => ⟨o, 6, s⟩
  | fuel + 1, s, o =>
    match gzipHeader a s with
    | .error (r, e) => ⟨o, if s ≠ 0 ∧ r = 1 then 7 else r, e⟩
    | .ok (p, bad) =>
      let r := inflateAt a p
      let e := (r.p + 7) / 8
      let out := o ++ r.out
      if r.reason ≠ 0 then ⟨out, r.reason, r.p / 8⟩
      else if a.size < e + 8 then ⟨out, 6, a.size⟩
      else if let some x := bad then ⟨out, 14, x⟩
      else if le a e 4 ≠ crc32 r.out.toList then ⟨out, 14, e⟩
      else if le a (e + 4) 4 ≠ r.out.size % 2 ^ 32 then ⟨out, 9, e + 4⟩
      else if e + 8 = a.size then ⟨out, 0, e + 8⟩
      else if multi then gzipFrom a multi fuel (e + 8) out
      else ⟨out, 7, e + 8⟩

def gzip (a : Array Nat) (multi : Bool) : Res := gzipFrom a multi (a.size + 1) 0 #[]

end Sys2Proof.Machine.Stream
end

