-- ==== Sys2Proof/Machine/Zstd.lean ====
section
/-! DEFINITION. Decompression of Zstandard frames as R295 asks, with the format itself from RFC 8878 (PRESUMED, log 26). -/
namespace Sys2Proof.Machine.Stream

/-! ### XXH64, whose low half is the content checksum -/

def m64 (x : Nat) : Nat := x % 2 ^ 64
def rotl64 (x n : Nat) : Nat := m64 (x * 2 ^ n) + x / 2 ^ (64 - n)
def xp1 : Nat := 0x9E3779B185EBCA87
def xp2 : Nat := 0xC2B2AE3D27D4EB4F
def xp3 : Nat := 0x165667B19E3779F9
def xp4 : Nat := 0x85EBCA77C2B2AE63
def xp5 : Nat := 0x27D4EB2F165667C5

def xround (acc lane : Nat) : Nat := m64 (rotl64 (m64 (acc + lane * xp2)) 31 * xp1)
def xmerge (acc v : Nat) : Nat := m64 (Nat.xor acc (xround 0 v) * xp1 + xp4)

/-- XXH64 with seed 0. -/
def xxh64 (a : Array Nat) : Nat :=
  let n := a.size
  let stripes := n / 32
  let h :=
    if stripes = 0 then xp5
    else
      let (v1, v2, v3, v4) := (List.range stripes).foldl (fun (v : Nat × Nat × Nat × Nat) s =>
        let lane (j : Nat) : Nat := le a (32 * s + 8 * j) 8
        (xround v.1 (lane 0), xround v.2.1 (lane 1), xround v.2.2.1 (lane 2), xround v.2.2.2 (lane 3)))
        (m64 (xp1 + xp2), xp2, 0, 2 ^ 64 - xp1)
      [v1, v2, v3, v4].foldl xmerge (m64 (rotl64 v1 1 + rotl64 v2 7 + rotl64 v3 12 + rotl64 v4 18))
  let h := m64 (h + n)
  let p := 32 * stripes
  let k8 := (n - p) / 8
  let h := (List.range k8).foldl (fun h i => m64 (rotl64 (Nat.xor h (xround 0 (le a (p + 8 * i) 8))) 27 * xp1 + xp4)) h
  let p := p + 8 * k8
  let k4 := (n - p) / 4
  let h := (List.range k4).foldl (fun h i => m64 (rotl64 (Nat.xor h (m64 (le a (p + 4 * i) 4 * xp1))) 23 * xp2 + xp3)) h
  let p := p + 4 * k4
  let h := (List.range (n - p)).foldl (fun h i => m64 (rotl64 (Nat.xor h (m64 (a.getD (p + i) 0 * xp5))) 11 * xp1)) h
  let h := m64 (Nat.xor h (h / 2 ^ 33) * xp2)
  let h := m64 (Nat.xor h (h / 2 ^ 29) * xp3)
  Nat.xor h (h / 2 ^ 32)

/-! ### FSE tables -/

/-- A decoding table: accuracy log and, by state, the symbol, how many bits to read and what to add to them. -/
structure Fse where
  log : Nat
  tab : Array (Nat × Nat × Nat)

/-- A table from probabilities (−1 is `none`). -/
def fseBuild (log : Nat) (probs : List (Option Nat)) : Fse :=
  let size := 2 ^ log
  let idx := (List.range probs.length)
  let low := idx.filter (fun s => probs.getD s (some 0) == none)
  let high := size - low.length
  let t0 : Array Nat := (low.foldl (fun (r : Array Nat × Nat) s => (r.1.setIfInBounds (r.2 - 1) s, r.2 - 1)) (Array.replicate size 0, size)).1
  let step := size / 2 + size / 8 + 3
  let advance (p : Nat) : Nat :=
    (List.range (size + 1)).foldl (fun (r : Nat × Bool) _ => if r.2 then r else let q := (r.1 + step) % size; (q, decide (q < high))) (p, false) |>.1
  let (t, _) := idx.foldl (fun (r : Array Nat × Nat) s =>
    match probs.getD s (some 0) with
    | none => r
    | some n => (List.range n).foldl (fun (r : Array Nat × Nat) _ => (r.1.setIfInBounds r.2 s, advance r.2)) r) (t0, 0)
  let start : Array Nat := (idx.map (fun s => (probs.getD s (some 0)).getD 1)).toArray
  let (tab, _) := (List.range size).foldl (fun (r : Array (Nat × Nat × Nat) × Array Nat) i =>
    let s := t.getD i 0
    let x := r.2.getD s 1
    let nb := log - Nat.log2 x
    (r.1.push (s, nb, x * 2 ^ nb - size), r.2.setIfInBounds s (x + 1))) (#[], start)
  ⟨log, tab⟩

def fseRle (s : Nat) : Fse := ⟨0, #[(s, 0, 0)]⟩

/-- Probabilities of a table description from a bit position: what is left of the probability mass plus one, symbols read. -/
def fseProbs (a : Array Nat) (maxSym : Nat) : Nat → Nat → List (Option Nat) → Nat → Option (List (Option Nat) × Nat)
  | 0, _, _, _ => none
  | fuel + 1, remaining, ps, p =>
    if remaining = 0 then (if ps.length ≤ maxSym + 1 then some (ps, p) else none)
    else if maxSym < ps.length then none
    else
      let bits := Nat.log2 (remaining + 1) + 1
      match bitsAt a p bits with
      | none => none
      | some v0 =>
        let half := 2 ^ (bits - 1)
        let thr := 2 ^ bits - 1 - (remaining + 1)
        let short := decide (v0 % half < thr)
        let v := if short then v0 % half else if half ≤ v0 then v0 - thr else v0
        let p := p + (if short then bits - 1 else bits)
        if v = 0 then fseProbs a maxSym fuel (remaining - 1) (ps ++ [none]) p
        else if remaining < v - 1 then none
        else if v = 1 then
          let (zs, p) := (List.range (maxSym + 2)).foldl (fun (r : Option Nat × Nat × Bool) _ =>
            if r.2.2 then r
            else match bitsAt a r.2.1 2 with
              | none => (none, r.2.1, true)
              | some x => (r.1.map (· + x), r.2.1 + 2, x != 3)) (some 0, p, false) |> fun r => (r.1, r.2.1)
          match zs with
          | none => none
          | some z => fseProbs a maxSym fuel remaining (ps ++ [some 0] ++ List.replicate z (some 0)) p
        else fseProbs a maxSym fuel (remaining - (v - 1)) (ps ++ [some (v - 1)]) p

/-- A table description at a byte offset: the table and where it ends. -/
def fseRead (a : Array Nat) (start maxLog maxSym : Nat) : Option (Fse × Nat) :=
  match bitsAt a (8 * start) 4 with
  | none => none
  | some l =>
    let log := l + 5
    if maxLog < log then none
    else match fseProbs a maxSym 600 (2 ^ log) [] (8 * start + 4) with
      | none => none
      | some (ps, p) => some (fseBuild log ps, (p + 7) / 8)

/-! ### Bit streams read backwards: a position counts the bits below the one to be read next -/

/-- Start of a backward stream of bytes [lo, hi): none where its last byte is 0. -/
def backStart (a : Array Nat) (lo hi : Nat) : Option Nat :=
  let b := a.getD (hi - 1) 0
  if hi ≤ lo ∨ b = 0 then none else some (8 * (hi - 1) + Nat.log2 b)

/-- n bits below position p of a stream whose bytes begin at lo; bits before the start read as 0. -/
def backBits (a : Array Nat) (lo p n : Nat) : Nat :=
  (List.range n).foldl (fun v i => 2 * v + (if 8 * lo + i + 1 ≤ p then bitAt a (p - 1 - i) else 0)) 0

/-! ### Huffman tables -/

/-- Symbol and length by the next `bits` bits. -/
structure Huf where
  bits : Nat
  tab : Array (Nat × Nat)

/-- A table from the weights of all symbols but the last (R295 names the formats, RFC 8878 the tables). -/
def hufBuild (ws : List Nat) : Option Huf :=
  let total := ws.foldl (fun s w => s + (if w = 0 then 0 else 2 ^ (w - 1))) 0
  if total = 0 ∨ 255 < ws.length then none
  else
    let bits := Nat.log2 total + 1
    let left := 2 ^ bits - total
    if 11 < bits ∨ 2 ^ Nat.log2 left ≠ left then none
    else
      let ws := ws ++ [Nat.log2 left + 1]
      let entry (w : Nat) : List (Nat × Nat) :=
        ((List.range ws.length).filter (fun s => ws.getD s 0 == w)).flatMap (fun s => List.replicate (2 ^ (w - 1)) (s, bits + 1 - w))
      some ⟨bits, ((List.range bits).flatMap (fun i => entry (i + 1))).toArray⟩

/-- Weights packed by FSE: two states over one backward stream. -/
def hufWeights (f : Fse) (a : Array Nat) (lo : Nat) : Nat → List Nat → Nat → Nat → Nat → Bool → Option (List Nat)
  | 0, _, _, _, _, _ => none
  | fuel + 1, ws, s1, s2, p, _ =>
    let (x, nb, base) := f.tab.getD s1 (0, 0, 0)
    let ws := ws ++ [x]
    if p < 8 * lo + nb then
      some (ws ++ [(f.tab.getD s2 (0, 0, 0)).1])
    else hufWeights f a lo fuel ws s2 (base + backBits a lo p nb) (p - nb) true

/-- A Huffman tree description at an offset: the table and where it ends. -/
def hufRead (a : Array Nat) (start hi : Nat) : Option (Huf × Nat) :=
  let h := a.getD start 0
  if hi ≤ start then none
  else if 128 ≤ h then
    let n := h - 127
    let e := start + 1 + (n + 1) / 2
    if hi < e then none
    else
      let ws := (List.range n).map (fun i =>
        let b := a.getD (start + 1 + i / 2) 0
        if i % 2 = 0 then b / 16 else b % 16)
      (hufBuild ws).map (fun t => (t, e))
  else
    let e := start + 1 + h
    if hi < e ∨ h = 0 then none
    else match fseRead (a.extract 0 e) (start + 1) 6 255 with
      | none => none
      | some (f, q) =>
        match backStart a q e with
        | none => none
        | some p =>
          if p < 8 * q + 2 * f.log then none
          else
            let s1 := backBits a q p f.log
            let s2 := backBits a q (p - f.log) f.log
            match hufWeights f a q 256 [] s1 s2 (p - 2 * f.log) true with
            | none => none
            | some ws => (hufBuild ws).map (fun t => (t, e))

/-- One Huffman stream in bytes [lo, hi) of n literals. -/
def hufStream (t : Huf) (a : Array Nat) (lo hi n : Nat) : Option (List Nat) :=
  match backStart a lo hi with
  | none => none
  | some p =>
    let (out, p, ok) := (List.range n).foldl (fun (r : List Nat × Nat × Bool) _ =>
      if !r.2.2 then r
      else
        let (s, l) := t.tab.getD (backBits a lo r.2.1 t.bits) (0, 0)
        if r.2.1 < 8 * lo + l then (r.1, r.2.1, false) else (s :: r.1, r.2.1 - l, true)) ([], p, true)
    if ok ∧ p = 8 * lo then some out.reverse else none

/-! ### Blocks -/

/-- What one block leaves to the next: tables, repeat offsets. -/
structure ZCtx where
  huf : Option Huf
  ll : Option Fse
  offs : Option Fse
  ml : Option Fse
  r1 : Nat
  r2 : Nat
  r3 : Nat

def ofProbs (ps : List Nat) (lows : Nat) : List (Option Nat) := ps.map some ++ List.replicate lows none
def llDefault : Fse := fseBuild 6 (ofProbs ([4, 3] ++ List.replicate 11 2 ++ [1, 1, 1] ++ List.replicate 9 2 ++ [3, 2, 1, 1, 1, 1, 1]) 4)
def ofDefault : Fse := fseBuild 5 (ofProbs (List.replicate 6 1 ++ [2, 2, 2] ++ List.replicate 15 1) 5)
def mlDefault : Fse := fseBuild 6 (ofProbs ([1, 4, 3] ++ List.replicate 6 2 ++ List.replicate 37 1) 7)

def llBase : List Nat :=
  [0, 1, 2, 3, 4, 5, 6, 7, 8, 9, 10, 11, 12, 13, 14, 15, 16, 18, 20, 22, 24, 28, 32, 40, 48, 64, 128, 256, 512, 1024, 2048, 4096, 8192,
   16384, 32768, 65536]
def llBits : List Nat := List.replicate 16 0 ++ [1, 1, 1, 1, 2, 2, 3, 3, 4, 6, 7, 8, 9, 10, 11, 12, 13, 14, 15, 16]
def mlBase : List Nat :=
  (List.range 32).map (· + 3) ++ [35, 37, 39, 41, 43, 47, 51, 59, 67, 83, 99, 131, 259, 515, 1027, 2051, 4099, 8195, 16387, 32771, 65539]
def mlBits : List Nat := List.replicate 32 0 ++ [1, 1, 1, 1, 2, 2, 3, 3, 4, 4, 5, 7, 8, 9, 10, 11, 12, 13, 14, 15, 16]

/-- The literals of a compressed block in [s, hi): the bytes, the table kept and where the sequences begin; or a REASON. -/
def literals (a : Array Nat) (s hi maxOut : Nat) (h0 : Option Huf) : Except Nat (Array Nat × Option Huf × Nat) :=
  if hi ≤ s then .error 6
  else
    let b := a.getD s 0
    let typ := b % 4
    let sf := b / 4 % 4
    if typ < 2 then
      let hl := if sf % 2 = 0 then 1 else if sf = 1 then 2 else 3
      let n := if hl = 1 then b / 8 else le a s hl / 16
      let body := if typ = 0 then n else 1
      if hi < s + hl + body ∨ maxOut < n then .error 2
      else
        let l := if typ = 0 then a.extract (s + hl) (s + hl + n) else Array.replicate n (a.getD (s + hl) 0)
        .ok (l, h0, s + hl + body)
    else
      let hl := if sf < 2 then 3 else if sf = 2 then 4 else 5
      let w := if sf < 2 then 10 else if sf = 2 then 14 else 18
      let v := le a s hl / 16
      let n := v % 2 ^ w
      let c := v / 2 ^ w
      let p := s + hl
      let e := p + c
      if hi < e ∨ maxOut < n then .error 2
      else
        let t := if typ = 2 then hufRead a p e else h0.map (fun h => (h, p))
        match t with
        | none => .error 3
        | some (h, p) =>
          let r : Option (List Nat) :=
            if sf = 0 then hufStream h a p e n
            else
              let z1 := le a p 2
              let z2 := le a (p + 2) 2
              let z3 := le a (p + 4) 2
              let q := p + 6
              let k := (n + 3) / 4
              if e < q + z1 + z2 + z3 ∨ n < 3 * k then none
              else
                match hufStream h a q (q + z1) k, hufStream h a (q + z1) (q + z1 + z2) k, hufStream h a (q + z1 + z2) (q + z1 + z2 + z3) k,
                    hufStream h a (q + z1 + z2 + z3) e (n - 3 * k) with
                | some w, some x, some y, some z => some (w ++ x ++ y ++ z)
                | _, _, _, _ => none
          match r with
          | none => .error 4
          | some l => .ok (l.toArray, some h, e)

/-- One sequence table by its mode: 0 predefined, 1 RLE, 2 FSE, 3 repeat. -/
def seqTable (a : Array Nat) (mode p hi maxLog maxSym : Nat) (dflt : Fse) (prev : Option Fse) : Option (Fse × Nat) :=
  match mode with
  | 0 => some (dflt, p)
  | 1 => if hi ≤ p ∨ maxSym < a.getD p 0 then none else some (fseRle (a.getD p 0), p + 1)
  | 2 => fseRead (a.extract 0 hi) p maxLog maxSym
  | _ => prev.map (fun f => (f, p))

/-- State while the sequences of a block run. -/
structure SeqSt where
  out : Array Nat
  lit : Nat
  ll : Nat
  offs : Nat
  ml : Nat
  p : Nat
  r1 : Nat
  r2 : Nat
  r3 : Nat

/-- The sequences of a block over the backward stream at lo; `base` is where the block's own output begins. -/
def sequences (a : Array Nat) (lo maxOut base : Nat) (lits : Array Nat) (fl fo fm : Fse) : Nat → SeqSt → Except (Nat × SeqSt) SeqSt
  | 0, s => .ok s
  | n + 1, s =>
    let (lc, lnb, lb) := fl.tab.getD s.ll (0, 0, 0)
    let (oc, onb, ob) := fo.tab.getD s.offs (0, 0, 0)
    let (mc, mnb, mb) := fm.tab.getD s.ml (0, 0, 0)
    let lx := llBits.getD lc 0
    let mx := mlBits.getD mc 0
    if s.p < 8 * lo + oc + mx + lx ∨ 31 < oc then .error (2, s)
    else
      let ov := 2 ^ oc + backBits a lo s.p oc
      let p := s.p - oc
      let mlen := mlBase.getD mc 0 + backBits a lo p mx
      let p := p - mx
      let llen := llBase.getD lc 0 + backBits a lo p lx
      let p := p - lx
      let idx := if llen = 0 then ov else ov - 1
      let (d, r1, r2, r3) :=
        if 3 < ov then (ov - 3, ov - 3, s.r1, s.r2)
        else match idx with
          | 0 => (s.r1, s.r1, s.r2, s.r3)
          | 1 => (s.r2, s.r2, s.r1, s.r3)
          | 2 => (s.r3, s.r3, s.r1, s.r2)
          | _ => (s.r1 - 1, s.r1 - 1, s.r1, s.r2)
      if lits.size < s.lit + llen ∨ base + maxOut < s.out.size + llen + mlen then .error (2, s)
      else
        let o := s.out ++ lits.extract s.lit (s.lit + llen)
        if d = 0 ∨ o.size < d then .error (5, { s with out := o })
        else
          let s := { s with out := copyBack o d mlen, lit := s.lit + llen, p := p, r1 := r1, r2 := r2, r3 := r3 }
          if n = 0 then .ok s
          else if p < 8 * lo + lnb + mnb + onb then .error (2, s)
          else
            let s := { s with
              ll := lb + backBits a lo p lnb
              ml := mb + backBits a lo (p - lnb) mnb
              offs := ob + backBits a lo (p - lnb - mnb) onb
              p := p - lnb - mnb - onb }
            sequences a lo maxOut base lits fl fo fm n s

/-- A compressed block in [s, hi), decoded after the output so far. -/
def zblock (a : Array Nat) (s hi maxOut : Nat) (o : Array Nat) (c : ZCtx) : Array Nat × Except Nat ZCtx :=
  match literals a s hi maxOut c.huf with
  | .error r => (o, .error r)
  | .ok (lits, huf, p) =>
    if hi ≤ p then (o, .error 6)
    else
      let b0 := a.getD p 0
      let hn := if b0 = 0 then 1 else if b0 < 128 then 1 else if b0 < 255 then 2 else 3
      let n := if b0 < 128 then b0 else if b0 < 255 then (b0 - 128) * 256 + a.getD (p + 1) 0 else le a (p + 1) 2 + 0x7F00
      let p := p + hn
      let c := { c with huf := huf }
      if n = 0 then (if p = hi then (o ++ lits, .ok c) else (o, .error 2))
      else if hi ≤ p then (o, .error 6)
      else
        let md := a.getD p 0
        if md % 4 ≠ 0 then (o, .error 8)
        else
          let r : Option (Fse × Fse × Fse × Nat) := do
            let (fl, p) ← seqTable a (md / 64) (p + 1) hi 9 35 llDefault c.ll
            let (fo, p) ← seqTable a (md / 16 % 4) p hi 8 31 ofDefault c.offs
            let (fm, p) ← seqTable a (md / 4 % 4) p hi 9 52 mlDefault c.ml
            pure (fl, fo, fm, p)
          match r with
          | none => (o, .error 3)
          | some (fl, fo, fm, lo) =>
            match backStart a lo hi with
            | none => (o, .error 2)
            | some q =>
              if q < 8 * lo + fl.log + fo.log + fm.log then (o, .error 2)
              else
                let st : SeqSt :=
                  { out := o, lit := 0, ll := backBits a lo q fl.log, offs := backBits a lo (q - fl.log) fo.log,
                    ml := backBits a lo (q - fl.log - fo.log) fm.log, p := q - fl.log - fo.log - fm.log, r1 := c.r1, r2 := c.r2, r3 := c.r3 }
                match sequences a lo maxOut o.size lits fl fo fm n st with
                | .error (r, s) => (s.out, .error r)
                | .ok s =>
                  if s.p ≠ 8 * lo ∨ o.size + maxOut < s.out.size + (lits.size - s.lit) then (s.out, .error 2)
                  else (s.out ++ lits.extract s.lit lits.size, .ok ⟨huf, some fl, some fo, some fm, s.r1, s.r2, s.r3⟩)

/-! ### Frames -/

/-- The blocks of a frame from a byte offset. `base` holds the output of earlier frames. -/
def zblocks (a : Array Nat) (maxOut : Nat) : Nat → Nat → Array Nat → ZCtx → Pos
  | 0, p, o, _ => ⟨o, p, 6⟩
  | fuel + 1, p, o, c =>
    if a.size < p + 3 then ⟨o, a.size, 6⟩
    else
      let h := le a p 3
      let size := h / 8
      let typ := h / 2 % 4
      let body := if typ = 1 then 1 else size
      if typ = 3 ∨ maxOut < size then ⟨o, p, 2⟩
      else
        let part := typ == 0 && decide (a.size < p + 3 + body)
        if !part && decide (a.size < p + 3 + body) then ⟨o, a.size, 6⟩
        else
          let (o, r) : Array Nat × Except Nat ZCtx :=
            if typ = 0 then (o ++ a.extract (p + 3) (p + 3 + size), if part then .error 6 else .ok c)
            else if typ = 1 then (o ++ Array.replicate size (a.getD (p + 3) 0), .ok c)
            else zblock a (p + 3) (p + 3 + size) maxOut o c
          match r with
          | .error e => ⟨o, if e = 6 then a.size else p, e⟩
          | .ok c => if h % 2 = 1 then ⟨o, p + 3 + body, 0⟩ else zblocks a maxOut fuel (p + 3 + body) o c

/-- One frame after its magic number: its own output and where it ends, or a REASON and place. -/
def zframe (a : Array Nat) (s : Nat) : Pos :=
  if a.size ≤ s + 4 then ⟨#[], a.size, 6⟩
  else
    let d := a.getD (s + 4) 0
    let fcsFlag := d / 64
    let single := d / 32 % 2 = 1
    let didLen := [0, 1, 2, 4].getD (d % 4) 0
    let fcsLen := if fcsFlag = 0 then (if single then 1 else 0) else 2 ^ fcsFlag
    let pw := s + 5
    let pd := if single then pw else pw + 1
    let pf := pd + didLen
    let pb := pf + fcsLen
    if d / 8 % 2 = 1 then ⟨#[], s + 4, 8⟩
    else if a.size < pb then ⟨#[], a.size, 6⟩
    else
      let fcs : Option Nat := if fcsLen = 0 then none else some (le a pf fcsLen + (if fcsLen = 2 then 256 else 0))
      let w := a.getD pw 0
      let window := if single then fcs.getD 0 else 2 ^ (10 + w / 8) + 2 ^ (10 + w / 8) / 8 * (w % 8)
      if 2 ^ 23 < window then ⟨#[], if single then pf else pw, 11⟩
      else if le a pd didLen ≠ 0 then ⟨#[], pd, 12⟩
      else
        let r := zblocks a (min window 131072) (a.size + 1) pb #[] ⟨none, none, none, none, 1, 4, 8⟩
        if r.reason ≠ 0 then r
        else if fcs.getD r.out.size ≠ r.out.size then ⟨r.out, pf, 9⟩
        else if d / 4 % 2 = 1 then
          if a.size < r.p + 4 then ⟨r.out, a.size, 6⟩
          else if le a r.p 4 ≠ xxh64 r.out % 2 ^ 32 then ⟨r.out, r.p, 14⟩
          else ⟨r.out, r.p + 4, 0⟩
        else r

/-- Frames from an offset on; without `multi` exactly one, a skippable frame counting as one (R293). -/
def zstdFrom (a : Array Nat) (multi : Bool) : Nat → Nat → Array Nat → Res
  | 0, s, o => ⟨o, 6, s⟩
  | fuel + 1, s, o =>
    let go (e : Nat) (o : Array Nat) : Res :=
      if e = a.size then ⟨o, 0, e⟩ else if multi then zstdFrom a multi fuel e o else ⟨o, 7, e⟩
    if a.size < s + 4 then ⟨o, if s = 0 then 6 else 7, if s = 0 then a.size else s⟩
    else
      let mg := le a s 4
      if mg / 16 = 0x184D2A5 then
        if a.size < s + 8 ∨ a.size < s + 8 + le a (s + 4) 4 then ⟨o, 6, a.size⟩ else go (s + 8 + le a (s + 4) 4) o
      else if mg ≠ 0xFD2FB528 then ⟨o, if s = 0 then 1 else 7, s⟩
      else
        let r := zframe a s
        if r.reason ≠ 0 then ⟨o ++ r.out, r.reason, r.p⟩ else go r.p (o ++ r.out)

def zstd (a : Array Nat) (multi : Bool) : Res := zstdFrom a multi (a.size + 1) 0 #[]

end Sys2Proof.Machine.Stream
end

