-- ==== Sys2Proof/Machine/Stream.lean ====
section
/-! DEFINITION. The stream units (R293–R299): what COMPRESS and DECOMPRESS make of their input. The compressed bytes the
spec leaves open are free (log 27): any that decode to the input within the bound of R296, and stored blocks, fixed blocks of
literals or Raw blocks where the free value is none of these. -/
namespace Sys2Proof.Machine.Stream

/-- n bytes of a little-endian value. -/
def leOut (n v : Nat) : List Nat := (List.range n).map (fun i => v / 256 ^ i % 256)
def beOut (n v : Nat) : List Nat := (List.range n).map (fun i => v / 256 ^ (n - 1 - i) % 256)

/-- Split into pieces of at most n. -/
def pieces (n : Nat) (b : List Nat) : List (List Nat) := (List.range ((b.length + n - 1) / n)).map (fun i => (b.drop (n * i)).take n)

/-- Split into pieces of the lengths given, where they are from 1 to a most and add up to the input; else of the most each. -/
def cut (cuts : List Nat) (most : Nat) (b : List Nat) : List (List Nat) :=
  if cuts.all (fun n => decide (1 ≤ n) && decide (n ≤ most)) && cuts.foldl (· + ·) 0 == b.length then
    (cuts.foldl (fun (r : List (List Nat) × List Nat) n => (r.1 ++ [r.2.take n], r.2.drop n)) ([], b)).1
  else pieces most b

/-- Bytes that decode to the input, no longer than a bound. -/
def holds (c : List Nat) (r : Res) (input : List Nat) (bound : Nat) : Bool :=
  c.all (fun x => decide (x < 256)) && decide (c.length ≤ bound) && r.reason == 0 && r.out.toList == input

/-- The n low bits of a value, least significant first. -/
def bitList (n v : Nat) : List Bool := (List.range n).map (fun i => v / 2 ^ i % 2 == 1)

/-- Bits packed into bytes, least significant first, the last filled with zeros. -/
def packBits (b : List Bool) : List Nat :=
  (List.range ((b.length + 7) / 8)).map (fun i => ((List.range 8).map (fun j => if b.getD (8 * i + j) false then 2 ^ j else 0)).foldl (· + ·) 0)

/-- A stored block that begins at a bit position: its header bits, the padding to a byte, LEN, NLEN and the bytes. -/
def storedBits (at_ : Nat) (last : Bool) (p : List Nat) : List Bool :=
  [last, false, false] ++ List.replicate ((8 - (at_ + 3) % 8) % 8) false ++
    (leOut 2 p.length ++ leOut 2 (65535 - p.length) ++ p).flatMap (bitList 8)

/-- A literal byte in the fixed Huffman code, or 256, the end of the block: its code's bits, most significant first (RFC 1951). -/
def fixedCode (s : Nat) : List Bool :=
  if s < 144 then (bitList 8 (0x30 + s)).reverse
  else if s < 256 then (bitList 9 (0x190 + (s - 144))).reverse
  else List.replicate 7 false

/-- The input as a fixed Huffman block of literals alone: every block has this form, whatever matches the stream unit finds. -/
def literalBits (last : Bool) (p : List Nat) : List Bool := last :: (bitList 2 1 ++ (p ++ [256]).flatMap fixedCode)

def shortest (s : List Bool) (cs : List (List Bool)) : List Bool := cs.foldl (fun s c => if c.length < s.length then c else s) s

/-- A block as the smallest of stored, fixed Huffman and dynamic Huffman (R294). -/
def smallest (level at_ : Nat) (last : Bool) (before p : List Nat) : List Bool :=
  let huff (ty : Nat) : Option (List Bool) :=
    let c := Config.huffBits level before p ty
    if c.take 2 = bitList 2 ty then some (last :: c) else none
  shortest (storedBits at_ last p) (literalBits last p :: [huff 1, huff 2].filterMap id)

/-- The blocks of a Deflate stream, one for each piece of the input. -/
def deflateBlocks (blk : Nat → Bool → List Nat → List Nat → List Bool) (ps : List (List Nat)) : List Nat :=
  packBits ((List.range ps.length).foldl (fun (r : List Bool × List Nat) i =>
    let p := ps.getD i []
    (r.1 ++ blk r.1.length (i + 1 == ps.length) r.2 p, r.2 ++ p)) ([], [])).1

/-- A raw Deflate stream (R294, R296): stored blocks and fixed blocks of literals where the free values are no blocks of the input. -/
def deflateOut (level : Nat) (b : List Nat) : List Nat :=
  if b = [] then [3, 0]
  else
    let c := deflateBlocks (smallest level) (cut (Config.blockCuts 0 level b) 32768 b)
    if holds c (deflate c.toArray) b (b.length + 5 * max 1 ((b.length + 32767) / 32768)) then c
    else deflateBlocks (fun at_ last _ p => shortest (storedBits at_ last p) [literalBits last p]) (pieces 32768 b)

/-- The header of a Zstandard frame (R295). -/
def zstdHead (level n : Nat) : List Nat :=
  let window := if level ≤ 3 then 2 ^ 20 else if level ≤ 8 then 2 ^ 22 else 2 ^ 23
  let single := decide (n ≤ window)
  let flag := if single && decide (n < 256) then 0 else if n < 65792 then 1 else if n < 2 ^ 32 then 2 else 3
  let fcs := match flag with | 0 => leOut 1 n | 1 => leOut 2 (n - 256) | 2 => leOut 4 n | _ => leOut 8 n
  leOut 4 0xFD2FB528 ++ [flag * 64 + (if single then 32 else 0) + 4] ++ (if single then [] else [8 * (Nat.log2 window - 10)]) ++ fcs

/-- A block of a Zstandard frame (R295): RLE for a single repeated byte, Compressed where that shrinks the input, else Raw. -/
def zstdBlock (content : List Nat) (last : Bool) (p : List Nat) : List Nat :=
  let head (ty n : Nat) : List Nat := leOut 3 (last.toNat + 2 * ty + 8 * n)
  if p ≠ [] ∧ p.all (· == p.getD 0 0) = true then head 1 p.length ++ p.take 1
  else if content ≠ [] ∧ content.length < p.length then head 2 content.length ++ content
  else head 0 p.length ++ p

/-- The blocks of a frame, of at most 128 KiB. -/
def zstdBlocks (content : List Nat → List Nat → List Nat) (ps : List (List Nat)) : List Nat :=
  let ps := if ps = [] then [[]] else ps
  ((List.range ps.length).foldl (fun (r : List Nat × List Nat) i =>
    let p := ps.getD i []
    (r.1 ++ zstdBlock (content r.2 p) (i + 1 == ps.length) p, r.2 ++ p)) ([], [])).1

/-- A Zstandard frame (R295, R296): no Compressed block where the free values are no blocks of the input. -/
def zstdOut (level : Nat) (b : List Nat) : List Nat :=
  let frame (blocks : List Nat) : List Nat := zstdHead level b.length ++ blocks ++ leOut 4 (xxh64 b.toArray % 2 ^ 32)
  let c := frame (zstdBlocks (Config.zstdContent level) (cut (Config.blockCuts 3 level b) 131072 b))
  if holds c (zstd c.toArray false) b (b.length + 3 * max 1 ((b.length + 131071) / 131072) + 18) then c
  else frame (zstdBlocks (fun _ _ => []) (pieces 131072 b))

/-- LEVEL allowed for a format on compression (R293, R294, R295). -/
def levelOk (fmt level : Nat) : Bool :=
  if fmt < 3 then decide (1 ≤ level) && decide (level ≤ 9) else if fmt = 3 then decide (1 ≤ level) && decide (level ≤ 12) else true

/-- The compressed output of formats 0 to 3 (R294, R295). -/
def compress (fmt level : Nat) (b : List Nat) : List Nat :=
  match fmt with
  | 0 => deflateOut level b
  | 1 => [0x78, if level = 1 then 0x01 else if level ≤ 5 then 0x5E else if level = 6 then 0x9C else 0xDA] ++ deflateOut level b ++
      beOut 4 (adler32 b)
  | 2 => [0x1F, 0x8B, 8, 0, 0, 0, 0, 0, if level = 1 then 4 else if level = 9 then 2 else 0, 255] ++ deflateOut level b ++
      leOut 4 (crc32 b) ++ leOut 4 (b.length % 2 ^ 32)
  | _ => zstdOut level b

/-- The decompressed output of formats 0 to 3. -/
def decompress (fmt : Nat) (multi : Bool) (b : List Nat) : Res :=
  match fmt with
  | 0 => deflate b.toArray
  | 1 => zlib b.toArray
  | 2 => gzip b.toArray multi
  | _ => zstd b.toArray multi

/-- The status of a REASON (R303): 7 MALFORMED, 8 UNSUPPORTED, 9 CHECK_FAIL.. -/
def statusOf (fmt reason : Nat) : Nat :=
  if reason = 11 ∨ reason = 12 ∨ reason = 13 then 8
  else if reason = 14 ∨ (reason = 9 ∧ fmt = 2) then 9
  else 7

end Sys2Proof.Machine.Stream
end

