-- ==== Sys2Proof/Machine/Coh.lean ====
section
/-! DEFINITION. The coherence protocols: what a home does with a request, what a die does with a snoop and with the answers
to its own requests, under both versions (R178–R203, R385–R387). -/
namespace Sys2Proof.Machine
namespace Mach

/-! ### Messages -/

def grantOf (n : Nat) : LSt := if n = 0 then .s else if n = 1 then .e else if n = 2 then .m else .o

def pktMsg (k : MsgK) (p : Packet) : Msg :=
  { k := k, src := p.src.val, dst := p.dst.val, line := p.line.toNat, ackTo := p.ackTo.val, data := p.data, poison := p.poison,
    st := grantOf p.grant.val, n := p.count.toNat, flag := p.flag, aux := p.aux.toNat }

/-- The message that arrives: the one in flight from and to the same agents for the line where there is one. -/
def arrive (m : Mach) (k : MsgK) (p : Packet) : Mach × Msg :=
  match m.takeMsg (fun g => g.k == k && g.src == p.src.val && g.dst == p.dst.val && g.line == p.line.toNat) with
  | (m, some g) => (m, g)
  | (m, none) => (m, pktMsg k p)

/-- A protocol error (R204): Fatal, at the home of the line. -/
def protocol (m : Mach) (line : Nat) : Mach := m.err E.HOME_PROTOCOL sevFatal (homeOf (line * 64)) 12 (some (line * 64))

/-- Homes take requests: the domain is up (R208). -/
def homeUp (m : Mach) : Bool := !([0, 1, 9, 10].contains m.mode)

/-! ### The snoop filter (R183, R184) -/

def sfSet (line : Nat) : Nat := qlineOf (line * 64) % 2 ^ 18

def sfInSet (m : Mach) (line : Nat) : Tbl FEnt :=
  m.filter.keep (fun l _ => homeOf (l * 64) == homeOf (line * 64) && sfSet l == sfSet line)

def fent (m : Mach) (line : Nat) : FEnt := (m.filter.find line).getD ⟨.i, 0, [], eTenant (m.entry (pageOf (line * 64))), 0⟩

/-- Record an entry as the one of its set used last. -/
def useFilter (m : Mach) (line : Nat) (st : FSt) (owner : Nat) (pres : List Nat) : Mach :=
  let old := m.fent line
  let last := (m.sfInSet line).foldl (fun a e => max a e.2.used) 0
  if pres = [] then m.noFilter line else m.setFilter line ⟨st, owner, pres, old.tenant, last + 1⟩

/-- A die holds the line no longer, as far as the filter shows. -/
def dropHolder (m : Mach) (line die : Nat) : Mach :=
  let e := m.fent line
  let pres := e.pres.filter (· != die)
  if e.st = .i then m
  else if pres = [] then m.noFilter line
  else m.setFilter line { e with pres := pres, st := if e.owner = die then .s else e.st }

/-- Open a back-invalidation of a line's entry (R184). -/
def startBackInv (m : Mach) (line : Nat) : Mach :=
  let q := homeOf (line * 64)
  let e := m.fent line
  let own := e.st == .x || e.st == .o
  let sharers := if own then e.pres.filter (· != e.owner) else e.pres
  let snp (m : Mach) (k : MsgK) (d : Nat) : Mach := m.send { k := k, src := agentHome q, dst := d, line := line, ackTo := agentHome q }
  let m := m.add R.HOME_SF_COUNTS_BACKINV 1 q
  let m := if own then snp m .snpInvData e.owner else m
  let m := sharers.foldl (fun m d => snp m .snpInv d) m
  { m with htx := m.htx ++ [⟨{ k := .snpInvData, src := agentHome q, line := line }, sharers, if own then some e.owner else none, none,
      false, 0, .i, 0, false⟩] }

/-- The victim of a full set: an S entry before O and X entries, the least recently used of those; one whose line has a
transaction open is passed over. -/
def victimOf (m : Mach) (line : Nat) : Option Nat :=
  let free := (m.sfInSet line).filter (fun e => !(m.htx.any (fun t => t.req.line == e.1)))
  let ss := free.filter (fun e => e.2.st == FSt.s)
  ((if ss.isEmpty then free else ss).foldl (fun (b : Option (Nat × Nat)) e =>
    match b with
    | none => some (e.1, e.2.used)
    | some x => if e.2.used < x.2 then some (e.1, e.2.used) else b) none).map (·.1)

def setFull (m : Mach) (line : Nat) : Bool := (m.filter.find line).isNone && decide (16 ≤ (m.sfInSet line).length)

/-! ### The home -/

/-- What AUX of Refuse and, for DORMANT, the shelf in ACKTO are (R475). -/
def refuseCode : RServe → Nat × Nat
  | .refuse c => (c, 0)
  | .dormant n w => (if w then 6 else 5, n)
  | _ => (refUncorrectable, 0)

/-- Send Refuse (R197, R205). `cid1` is 1 + CID for a Flush. -/
def sendRefuse (m : Mach) (line dst : Nat) (r : RServe) (spec : Bool) (cid1 : Nat := 0) : Mach :=
  let q := homeOf (line * 64)
  let c := refuseCode r
  let m := (m.add R.HOME_FWD_COUNTS_REFUSALS 1 q).qEvent 3 line
  m.send { k := .refuse, src := agentHome q, dst := dst, line := line, ackTo := c.2, n := c.1, flag := spec, aux := cid1 }

/-- Send Cmp: 0 a write, 1 a Flush, 2 a DurWb, 3 a DurSync. -/
def sendCmp (m : Mach) (line dst n cid : Nat) (q : Nat) : Mach :=
  m.send { k := .cmp, src := agentHome q, dst := dst, line := line, n := n, aux := cid }

/-- Send Data (R385 for DUR): from a home with the TENANT of the page map, from a die with the one kept with the line (R473). -/
def sendData (m : Mach) (src dst line : Nat) (st : LSt) (n : Nat) (d : Line) (poison dur : Bool) : Mach :=
  let t := if isDie src then (m.dl src line).tenant else eTenant (m.entry (pageOf (line * 64)))
  m.send { k := .data, src := src, dst := dst, line := line, st := st, n := n, data := d, poison := poison, aux := dur.toNat + 2 * t }

/-- A request that has to wait for the line: behind an earlier one that waits (R187), and under H1 behind any open transaction of the
line; under H2 behind one in which the home itself collects the line's copies, one whose sharers it has yet to invalidate, or a
write that the home still holds. -/
def blocked (m : Mach) (line : Nat) : Bool :=
  m.hq.any (fun r => r.line == line) ||
  m.htx.any (fun t => t.req.line == line && (!m.isH2 || t.defer || [MsgK.snpInvData, .wrLine, .wrPart, .flushCln, .flushInv, .flushClnInv].contains t.req.k)) ||
  m.heldWrites line != []

/-- A RdOwn, Upgrade or Flush that writes meets a demotion: abandoned (R203). Every read of the engine precedes it, since
the engine reads the whole page in one step. -/
def noteWrite (m : Mach) (page : Nat) : Mach :=
  match m.moveOf page with
  | some (k, v) => if eState (m.entry page) = stDemoting then m.abandonDemotion k v true else m
  | none => m

/-- R168: a page the home serves a prefetch of. -/
def prefetchOk (m : Mach) (page : Nat) : Bool :=
  let e := m.entry page
  m.managed page && m.tierReady (homeOf page) && !m.mapUnreadable page &&
  (eState e == stZero || (eState e == stStable && eTier e == tierBed))

/-- Take the transaction at its first entry out of the list of open ones. -/
def dropTx (m : Mach) (t : HTx) : Mach := { m with htx := m.htx.erase t }
def swapTx (m : Mach) (t t' : HTx) : Mach := { m with htx := m.htx.map (fun x => if x = t then t' else x) }

/-- A look-up of a line in the MSC (R523). -/
def mscLookup (m : Mach) (line : Nat) : Mach :=
  let m := m.qEvent 4 line
  if (m.mscLine line).isSome then m.qEvent 5 line else m

/-- The home's write of a line at the end of a transaction. -/
def homePut (m : Mach) (r : HReq) (d : Line) (poison wb : Bool) (forDur : Option Nat) : Mach × WRes :=
  (m.mscLookup r.line).linePut { r with data := d, poison := poison } wb forDur

/-- A dirty line of the MSC goes to the tier path and stays in the MSC clean (R165). False where it has to wait. -/
def mscClean (m : Mach) (line : Nat) : Mach × Bool :=
  match m.mscLine line with
  | none => (m, true)
  | some x =>
    if x.dirty ∧ m.hasFailed (pageOf (line * 64)) then (m, false)
    else if x.dirty then
      match m.storeLine (line * 64) x.data x.poison with
      | (m, true) => (m.putMsc line { x with dirty := false }, true)
      | (m, false) => (m, false)
    else (m, true)

/-- End a transaction whose copies and home copy are all in. -/
def finishTx (m : Mach) (t : HTx) : Mach :=
  let r := t.req
  let line := r.line
  let q := homeOf (line * 64)
  let dur := eDur (m.entry (pageOf (line * 64)))
  let endCaching (m : Mach) : Mach := if m.isH2 then m.dropTx t else m.swapTx t { t with cmpAck := true }
  match r.k with
  | .rdShared | .rdOwn | .upgrade =>
    if t.fill = 4 then ((m.dropHolder line r.src).sendRefuse line r.src (.refuse refUncorrectable) r.spec).dropTx t
    else match t.data with
      | some (d, p) =>
        if p ∧ r.prefetch then ((m.dropHolder line r.src).sendRefuse line r.src (.refuse refUncorrectable) true).dropTx t
        else endCaching (m.sendData (agentHome q) r.src line t.grant t.inv d p dur)
      | none => endCaching (m.send { k := .grant, src := agentHome q, dst := r.src, line := line, n := t.inv, aux := dur.toNat + 2 * eTenant (m.entry (pageOf (line * 64))) })
  | .rdCur =>
    match t.data with
    | some (d, p) => (m.send { k := .dataCur, src := agentHome q, dst := r.src, line := line, data := d, poison := p }).dropTx t
    | none => (m.sendRefuse line r.src (.refuse refUncorrectable) false).dropTx t
  | .wrLine | .wrPart =>
    let m := (m.dropTx t).noFilter line
    let r := { r with spec := true }
    let res : Mach × WRes :=
      if r.k = .wrLine then m.homePut r r.data r.poison false none
      else match t.data with
        | some (d, p) => m.homePut r (mergeLine d r.data r.mask) (r.poison || (p && r.mask != fullMask)) false none
        | none => m.cohWrite line r.data r.mask r.poison r.src none true true
    match res with
    | (m, .done) => m.sendCmp line r.src 0 0 q
    | (m, .wait) => m
    | (m, .refuse c) => m.sendRefuse line r.src (.refuse c) false
  | .flushCln =>
    match if m.heldWrites line = [] then m.mscClean line else (m, false) with
    | (m, true) => (m.dropTx t).sendCmp line r.src 1 r.cid q
    | (m, false) => m.swapTx t { t with fill := 5 }
  | .flushInv =>
    let m := ((m.dropTx t).noFilter line).dropMsc line
    m.sendCmp line r.src 1 r.cid q
  | .flushClnInv =>
    let m := m.noFilter line
    let (m, put) : Mach × WRes := match t.data with
      | some (d, p) => m.homePut { r with k := .wbDirty } d p true none
      | none => (m, if m.heldWrites line = [] then .done else .wait)
    match put, m.mscClean line with
    | .wait, _ => m.swapTx t { t with data := none, fill := 5 }
    | _, (m, true) => ((m.dropMsc line).dropTx t).sendCmp line r.src 1 r.cid q
    | _, (m, false) => m.swapTx t { t with data := none, fill := 5 }
  | _ =>
    let m := (m.dropTx t).noFilter line
    match t.data with
    | some (d, p) => (m.homePut { r with k := .wbDirty } d p true none).1
    | none => m

/-- Whether a transaction has everything it waits for. -/
def txReady (t : HTx) : Bool := !t.cmpAck && t.acks.isEmpty && !(t.want.isSome && t.data.isNone) && (t.fill == 0 || t.fill == 4)

/-- The home's copy for a RdOwn in S is in (R188): the sharers are invalidated and the requester becomes the owner. -/
def invalidateSharers (m : Mach) (t : HTx) : Mach :=
  let r := t.req
  let q := homeOf (r.line * 64)
  let h2 := m.isH2
  if m.setFull r.line then { m.dropTx t with hq := r :: m.hq }
  else
    let others := (m.fent r.line).pres.filter (· != r.src)
    let m := others.foldl (fun m d =>
      m.send { k := .snpInv, src := agentHome q, dst := d, line := r.line, ackTo := if h2 then r.src else agentHome q }) m
    let t' := { t with defer := false, acks := if h2 then [] else others, inv := if h2 then others.length else 0 }
    let m := (m.useFilter r.line .x r.src [r.src]).swapTx t t'
    if txReady t' then m.finishTx t' else m

/-- End a transaction that waits for nothing more. -/
def endTx (m : Mach) (t : HTx) : Mach := if t.defer ∧ t.fill = 0 then m.invalidateSharers t else m.finishTx t

/-- Replace a transaction by its next form and end it if nothing is awaited. -/
def stepTx (m : Mach) (t t' : HTx) : Mach := let m := m.swapTx t t'; if txReady t' then m.endTx t' else m

/-- Open a transaction, or end it at once. -/
def openTx (m : Mach) (t : HTx) : Mach := let m := { m with htx := m.htx ++ [t] }; if txReady t then m.endTx t else m

/-- How a transaction that needs the home's copy goes on from what the tiers say. None where it is refused. -/
def fillOf (m : Mach) (t : HTx) : RServe → Mach × Option HTx
  | .line (.ok d) => (m, some { t with fill := 0, data := some (d, false) })
  | .line .poison => (m, some { t with fill := 0, data := some (0, true) })
  | .line .unreadable => (m, some { t with fill := 4 })
  | .bed _ => (m, some { t with fill := 1 })
  | .wait => (m, some { t with fill := 2 })
  | .shelf n u mv =>
    ({ m with shelfReads := m.shelfReads ++ [ShelfRead.mk n (pageOf (t.req.line * 64)) u (some t.req) mv] }, some { t with fill := 3 })
  | _ => (m, none)

/-- What serves a request is a refusal (R197). -/
def isRefusal : RServe → Bool
  | .refuse _ => true
  | .dormant _ _ => true
  | .line .unreadable => true
  | _ => false

/-- What serves a request has first to be read from a frame or a shelf. -/
def isPending : RServe → Bool
  | .bed _ => true
  | .shelf _ _ _ => true
  | _ => false

/-- The home's copy for a request (R243): an Upgrade that finds its die holding nothing counts as a write too, and a RdOwn or Upgrade
abandons the demotion it meets (R203). A SPEC request that would be refused has no other effect (R198): one whose line has yet to be read
takes its effects when that read succeeds (`sourceFor`, `memData`). A prefetch leaves the page's age (R246). -/
def serveFor (m : Mach) (r : HReq) : Mach × RServe :=
  let spa := r.line * 64
  let page := pageOf spa
  let late := r.spec && !r.prefetch
  let res : Mach × RServe :=
    let m := if r.k = .rdShared then m else m.noteWrite page
    if r.k = .upgrade then
      match m.prepWrite page with
      | (m, .wait) => (m, .wait)
      | (m, .refuse c) => (m, .refuse c)
      | (m, _) => m.serveRead spa
    else m.serveRead spa late
  if r.spec && isRefusal res.2 || late && isPending res.2 && eState (m.entry page) != stPoisoned then ({ m with free := res.1.free }, res.2)
  else if r.prefetch then ({ res.1 with pmap := m.pmap, tierq := m.tierq }, res.2)
  else res

/-- A line read where its page lies, for a request; a SPEC one that has its line now has its effects (R198, R246). -/
def sourceFor (m : Mach) (r : HReq) : Mach × RServe :=
  match m.sourceRead (r.line * 64) with
  | (m, s) => (if r.spec && !r.prefetch && !isRefusal s then (m.serveRead (r.line * 64)).1 else m, s)

/-- A caching agent's request that the home's copy answers (R188). `grant` is what Data will carry, `pres` the holders afterwards;
with `defer` the others are invalidated once the copy is in. A request that needs a new entry in a full set waits for one
back-invalidation, one for each line without an entry (R184). -/
def fromMemory (m : Mach) (r : HReq) (grant : LSt) (st : FSt) (pres : List Nat) (defer : Bool) : Mach :=
  let line := r.line
  let here (l : Nat) : Bool := homeOf (l * 64) == homeOf (line * 64) && sfSet l == sfSet line
  let (m1, s) := m.serveFor r
  match m1.fillOf ⟨r, [], none, none, false, 0, grant, 0, defer⟩ s with
  | (m1, none) => m1.sendRefuse line r.src s r.spec
  | (m1, some t) =>
    if m.setFull line then
      let going := (m.htx.filter (fun t => t.req.k == .snpInvData && here t.req.line)).length
      let waiting := ((m.hq.filter (fun x => here x.line && x.line != line && [MsgK.rdShared, .rdOwn, .upgrade].contains x.k &&
        (m.filter.find x.line).isNone)).map (·.line)).eraseDups.length
      let m := if going ≤ waiting then (match m.victimOf line with | some v => m.startBackInv v | none => m) else m
      { m with hq := m.hq ++ [r] }
    else if defer then (m1.mscLookup line).openTx t
    else ((m1.mscLookup line).useFilter line st r.src pres).openTx t

/-- A caching agent's request that the owner's copy answers: forwarded under H2, fetched under H1. -/
def fromOwner (m : Mach) (r : HReq) (owner : Nat) (shared : Bool) (inval : List Nat) : Mach :=
  let line := r.line
  let q := homeOf (line * 64)
  let h2 := m.isH2
  let to_ := if h2 then r.src else agentHome q
  let m := (m.add R.HOME_FWD_COUNTS_FORWARDS 1 q).qEvent 2 line
  let m := if r.prefetch then m else m.touch (pageOf (line * 64))
  let m := if r.k = .rdShared then m else m.noteWrite (pageOf (line * 64))
  let k : MsgK := if h2 then (if shared then .snpFwdShared else .snpFwdOwn) else if shared then .snpShared else .snpOwn
  let m := m.send { k := k, src := agentHome q, dst := owner, line := line, ackTo := to_, n := if h2 then inval.length else 0 }
  let m := inval.foldl (fun m d => m.send { k := .snpInv, src := agentHome q, dst := d, line := line, ackTo := to_ }) m
  if h2 then m else m.openTx ⟨r, inval, some owner, none, false, 0, if shared then .s else .m, 0, false⟩

/-- R188: a caching agent's request against the filter. -/
def caching (m : Mach) (r : HReq) : Mach :=
  let line := r.line
  let d := r.src
  let q := homeOf (line * 64)
  let m := m.homeOrdered line
  if m.isForeign line && !r.pre then m.sendRefuse line d (.refuse refForeign) r.spec
  else if r.prefetch && !m.prefetchOk (pageOf (line * 64)) then m.sendRefuse line d (.refuse refNotReady) true
  else
    let e := m.fent line
    let others := e.pres.filter (· != d)
    if r.k = .upgrade ∧ e.pres.contains d ∧ e.st ≠ .x then
      let h2 := m.isH2
      let to_ := if h2 then d else agentHome q
      let m := (m.touch (pageOf (line * 64))).noteWrite (pageOf (line * 64))
      let m := if e.st = .o ∧ e.owner ≠ d then (m.add R.HOME_FWD_COUNTS_FORWARDS 1 q).qEvent 2 line else m
      let m := others.foldl (fun m h => m.send { k := .snpInv, src := agentHome q, dst := h, line := line, ackTo := to_ }) m
      (m.useFilter line .x d [d]).openTx ⟨r, if h2 then [] else others, none, none, false, 0, .m, if h2 then others.length else 0, false⟩
    else match e.st, r.k with
      | .i, .rdShared => m.fromMemory r .e .x [d] false
      | .i, _ => m.fromMemory r .m .x [d] false
      | .s, .rdShared => m.fromMemory r .s .s (others ++ [d]) false
      | .s, _ => m.fromMemory r .m .x [d] true
      | _, .rdShared =>
        if e.owner = d then m.protocol line
        else (m.fromOwner r e.owner true []).useFilter line .o e.owner (others ++ [d])
      | _, _ =>
        if e.owner = d then m.protocol line
        else (m.fromOwner r e.owner false (others.filter (· != e.owner))).useFilter line .x d [d]

/-- R195: a non-caching read. -/
def reqCur (m : Mach) (r : HReq) : Mach :=
  let line := r.line
  let q := homeOf (line * 64)
  let m := m.homeOrdered line
  let e := m.fent line
  if e.st = .x ∨ e.st = .o then
    let h2 := m.isH2
    let m := m.send { k := .snpCur, src := agentHome q, dst := e.owner, line := line, ackTo := if h2 then r.src else agentHome q }
    let m := m.touch (pageOf (line * 64))
    if h2 then m else m.openTx ⟨r, [], some e.owner, none, false, 0, .i, 0, false⟩
  else
    let (m, s) := (m.mscLookup line).serveRead (line * 64)
    match m.fillOf ⟨r, [], none, none, false, 0, .i, 0, false⟩ s with
    | (m, none) => m.sendRefuse line r.src s false
    | (m, some t) => m.openTx t

/-- R195: a non-caching write. -/
def reqWrite (m : Mach) (r : HReq) : Mach :=
  let line := r.line
  let q := homeOf (line * 64)
  let m := m.homeOrdered line
  let page := pageOf (line * 64)
  if !m.managed page then m.sendRefuse line r.src (.refuse refNone) false
  else if m.mapUnreadable page then (m.mapFault page).sendRefuse line r.src (.refuse refUncorrectable) false
  else if eTier (m.entry page) = tierNone then m.sendRefuse line r.src (.refuse refNone) false
  else if m.writeNotReady (line * 64) then m.sendRefuse line r.src (.refuse refNotReady) false
  else
    let m := (m.touch page).noteWrite page
    let e := m.fent line
    let own := r.k == .wrPart && (e.st == .x || e.st == .o)
    let inval := if own then e.pres.filter (· != e.owner) else e.pres
    let m := if own then m.send { k := .snpInvData, src := agentHome q, dst := e.owner, line := line, ackTo := agentHome q } else m
    let m := inval.foldl (fun m d => m.send { k := .snpInv, src := agentHome q, dst := d, line := line, ackTo := agentHome q }) m
    m.openTx ⟨r, inval, if own then some e.owner else none, none, false, 0, .i, 0, false⟩

/-- Why a home refuses a Flush, which needs no copy of the line (R197). -/
def flushRefusal (m : Mach) (r : HReq) : Option (Mach × RServe) :=
  let spa := r.line * 64
  let page := pageOf spa
  let e := m.entry page
  if m.isForeign r.line && !r.pre then some (m, .refuse refForeign)
  else if !m.managed spa then some (m, .refuse refNone)
  else if !m.tierReady (homeOf spa) || m.homeNotReady spa then some (m, .refuse refNotReady)
  else if m.mapUnreadable page then some (m.mapFault page, .refuse refUncorrectable)
  else if eTier e = tierNone then some (m, .refuse refNone)
  else if m.asleep page && !(eState e == stDormant && m.shelfState (locShelf (eLoc e)) == 3) then some (m.refuseDormant page)
  else none

/-- R196: a Flush. -/
def reqFlush (m : Mach) (r : HReq) : Mach :=
  let line := r.line
  let q := homeOf (line * 64)
  let m := m.homeOrdered line
  let e := m.fent line
  let snp (m : Mach) (k : MsgK) (d inv : Nat) : Mach :=
    m.send { k := k, src := agentHome q, dst := d, line := line, ackTo := agentHome q, aux := inv }
  let own := e.st == .x || e.st == .o
  match m.flushRefusal r with
  | some (m, s) => m.sendRefuse line r.src s false (r.cid + 1)
  | none =>
    let m := m.touch (pageOf (line * 64))
    let asks := own && !(r.k == .flushCln && e.owner == r.src)
    let m := if asks then (m.add R.HOME_FWD_COUNTS_FORWARDS 1 q).qEvent 2 line else m
    match r.k with
    | .flushCln =>
      (if asks then snp m .snpClean e.owner 0 else m).openTx ⟨r, [], if asks then some e.owner else none, none, false, 0, .i, 0, false⟩
    | .flushInv => (e.pres.foldl (fun m d => snp m .snpInv d 1) m).openTx ⟨r, e.pres, none, none, false, 0, .i, 0, false⟩
    | _ =>
      let sharers := if own then e.pres.filter (· != e.owner) else e.pres
      let m := if own then snp m .snpInvData e.owner 0 else m
      (sharers.foldl (fun m d => snp m .snpInv d 0) m).openTx ⟨r, sharers, if own then some e.owner else none, none, false, 0, .i, 0, false⟩

/-- A request at its home: in arrival order (R187), waiting where the line is busy (R193). -/
def homeRequest (m : Mach) (r : HReq) : Mach :=
  if m.blocked r.line then { m with hq := m.hq ++ [r] }
  else match r.k with
    | .rdShared | .rdOwn | .upgrade => m.caching r
    | .rdCur => m.reqCur r
    | .wrLine | .wrPart => m.reqWrite r
    | .flushCln | .flushInv | .flushClnInv => m.reqFlush r
    | _ => m

/-- Take the waiting requests up again, in order, until none of them moves on. -/
def pumpN (m : Mach) : Nat → Mach
  | 0 => m
  | fuel + 1 =>
    let rs := m.hq
    if rs = [] then m
    else
      let m := rs.foldl (fun m r => m.homeRequest r) { m with hq := [] }
      if m.hq.length = rs.length then m else pumpN m fuel

def pump (m : Mach) : Mach := m.pumpN (m.hq.length + 1)

/-! ### Evictions at the home (R192, R194) -/

def isSnoop (k : MsgK) : Bool :=
  [MsgK.snpFwdShared, .snpFwdOwn, .snpShared, .snpOwn, .snpInv, .snpInvData, .snpCur, .snpClean].contains k

/-- Under H1, a snoop to the die for the line that the home has not had the answer of (R194). -/
def snoopOut (m : Mach) (die line : Nat) : Bool :=
  m.net.any (fun g => g.line == line && ((isSnoop g.k && g.dst == die) || ([MsgK.snpData, .invAck, .dataCur, .wbKeep].contains g.k && g.src == die))) ||
  (m.dl die line).snq != []

/-- The same for a WbDirty with KEEP, which is itself the answer to a SnpClean: another snoop to its sender is out. -/
def snoopElse (m : Mach) (die line : Nat) : Bool :=
  m.net.any (fun g => g.line == line &&
    ((isSnoop g.k && g.k != .snpClean && g.dst == die) || ([MsgK.snpData, .invAck, .dataCur].contains g.k && g.src == die))) ||
  (m.dl die line).snq.any (fun g => g.k != .snpClean)

def sendWbAck (m : Mach) (g : Msg) (stale : Bool) : Mach :=
  let q := homeOf (g.line * 64)
  let m := if stale then m.add R.HOME_SF_COUNTS_STALE 1 q else m
  m.send { k := .wbAck, src := agentHome q, dst := g.src, line := g.line, st := g.st, flag := stale, aux := (g.k == .wbKeep).toNat }

/-- A Flush CLN that waits for the line's data has it (R196). -/
def cleanDone (m : Mach) (line : Nat) : Mach :=
  match m.htx.find? (fun t => t.req.line == line && t.req.k == .flushCln && t.want.isSome) with
  | some t => m.stepTx t { t with want := none }
  | none => m

/-- A WbDirty, with KEEP or without. -/
def homeWb (m : Mach) (g : Msg) : Mach :=
  let line := g.line
  let q := homeOf (line * 64)
  let m := (if g.k = .wbKeep then m else m.add R.MSC_OFFERS_OFFERED 1 q).touch (pageOf (line * 64))
  let e := m.fent line
  if !m.isH2 && (if g.k = .wbKeep then m.snoopElse g.src line else m.snoopOut g.src line) then m.sendWbAck g true
  else if (e.st = .x ∨ e.st = .o) ∧ e.owner = g.src then
    let others := e.pres.filter (· != g.src)
    let m := (m.homePut { k := .wbDirty, src := g.src, line := line } g.data g.poison true none).1
    let m :=
      if g.k = .wbKeep then (if e.st = .x then m else m.useFilter line .s 0 e.pres)
      else m.useFilter line .s 0 others
    (m.sendWbAck g false).cleanDone line
  else
    let m := if e.pres.contains g.src ∧ g.k = .wbDirty then m.dropHolder line g.src else m
    m.sendWbAck g true

/-- An Evict; with OFFER it carries the clean line, which the MSC may decline (R164). Where no line of a full set can go yet the offer
waits. -/
def homeEvict (m : Mach) (g : Msg) : Mach :=
  let line := g.line
  let q := homeOf (line * 64)
  let m := m.touch (pageOf (line * 64))
  let e := m.fent line
  if !m.isH2 && m.snoopOut g.src line then m.sendWbAck g true
  else if e.pres.contains g.src then
    let m := m.dropHolder line g.src
    let t := eTenant (m.entry (pageOf (line * 64)))
    let m :=
      if g.flag then
        let m := (m.add R.MSC_OFFERS_OFFERED 1 q).mscLookup line
        if (m.mscLine line).isSome then m
        else if m.mscDeclines q t then m.add R.MSC_OFFERS_DECLINED 1 q
        else match m.mscHold line g.data false g.poison with
          | (m, true) => m
          | (m, false) => m.putHeld { k := .evict, src := g.src, line := line, data := g.data, mask := fullMask, poison := g.poison }
      else m
    m.sendWbAck g false
  else m.sendWbAck g true

/-! ### Durable writes (R386, R387) -/

/-- Whether the mode accepts durable work (R381). -/
def accepts (m : Mach) : Bool := [3, 4, 5, 7].contains m.acceptMode && !([2, 9, 10, 11].contains m.mode)

/-- Answer the DurSyncs whose DurWbs have all been received and accepted. -/
def durCheck (m : Mach) : Mach :=
  m.durWaits.foldl (fun m w =>
    let k := w.1 * 4 + w.2.1
    if m.durGot.getD k 0 = w.2.2 ∧ m.durAcc.getD k 0 = w.2.2 then
      ({ m with durWaits := m.durWaits.erase w, durGot := m.durGot.erase k, durAcc := m.durAcc.erase k }).sendCmp (2 ^ 42) (dieOf w.1) 3 w.1 w.2.1
    else m) m

/-- The home's copy an open transaction has already read takes the value of a DurWb ordered before it. -/
def patchHome (m : Mach) (line : Nat) (d : Line) (poison : Bool) : Mach :=
  { m with htx := m.htx.map (fun t => if t.req.line = line ∧ t.want = none ∧ t.data.isSome then { t with data := some (d, poison) } else t) }

/-- A DurWb at its home: committed whatever the line's transactions, the filter unchanged. -/
def homeDurWb (m : Mach) (line die cid : Nat) (d : Line) (poison : Bool) : Mach :=
  let q := homeOf (line * 64)
  let k := cid * 4 + q
  let m := (m.qEvent 0x0B line).touch (pageOf (line * 64))
  let m := if m.lineBusy line then m.patchHome line d poison else m
  match m.homePut { k := .durWb, src := die, line := line, cid := cid } d poison false (some k) with
  | (m, .wait) => m
  | (m, r) => ((m.durEnded line k r).sendCmp line die 2 cid q).durCheck

/-! ### Requests the tiers hold (R243, R244, R250, R269) -/

/-- An offer that waited for a way of the MSC: dropped where the line has a newer value or the MSC has it by now (R164). -/
def retryOffer (m : Mach) (r : HReq) : Mach :=
  if (m.mscLine r.line).isSome || (m.cohValue r.line).2 != (if r.poison then .poison else .ok r.data) then m
  else match m.mscHold r.line r.data false r.poison with
    | (m, true) => m
    | (m, false) => m.putHeld r

/-- A non-caching agent's write that the home holds, tried again: of a whole line, or of part of one whose home's copy could not be read.
`key` is what its acceptance counts for. -/
def retryAgent (m : Mach) (r : HReq) (key : Option Nat) : Mach × WRes :=
  if r.mask = fullMask then m.homePut r r.data r.poison false key
  else m.cohWrite r.line r.data r.mask r.poison r.src key true r.spec

/-- One write the home holds, tried again. -/
def retryWrite (m : Mach) (r : HReq) : Mach :=
  let q := homeOf (r.line * 64)
  match r.k with
  | .evict => m.retryOffer r
  | .durWb =>
    let k := r.cid * 4 + q
    match m.homePut r r.data r.poison false (some k) with
    | (m, .wait) => m
    | (m, w) => ((m.durEnded r.line k w).sendCmp r.line r.src 2 r.cid q).durCheck
  | .wbDirty => (m.homePut r r.data r.poison true none).1
  | _ =>
    let quiet := m.quiet
    let key := if r.cid = 0 then none else some (r.cid - 1)
    let (m, w) := { m with quiet := r.src == agentLog }.retryAgent r key
    let m := { m with quiet := quiet }
    let m := if w = .wait then m else match key with
      | some k => m.durEnded r.line k w
      | none => m
    let m := match r.spec, w with
      | true, .done => m.sendCmp r.line r.src 0 0 q
      | true, .refuse c => m.sendRefuse r.line r.src (.refuse c) false
      | _, _ => m
    m.durCheck

/-- A transaction that waits for the home's copy goes on from what serves it now. -/
def servedTx (m : Mach) (t : HTx) (s : RServe) : Mach :=
  let r := t.req
  match m.fillOf t s with
  | (m, none) => (((if r.k = .rdCur then m else m.dropHolder r.line r.src).sendRefuse r.line r.src s r.spec).dropTx t)
  | (m, some t') => m.stepTx t t'

/-- A transaction that waits for the home's copy asks the tiers for it again. -/
def askTiers (m : Mach) (t : HTx) : Mach :=
  let (m, s) := m.serveFor t.req
  m.servedTx t s

/-- Try again what waits for the tier engine of a quadrant: held writes, fills, and the requests behind them. -/
def retryHeld (m : Mach) (q : Nat) : Mach :=
  let held := (m.tq q).held
  let m := if held = [] then m else m.setTq q { m.tq q with held := [] }
  let m := held.foldl (fun m r => m.retryWrite r) m
  let m := (m.htx.filter (fun t => t.fill == 2 && homeOf (t.req.line * 64) == q)).foldl (fun m t =>
    m.askTiers t) m
  let m := (m.htx.filter (fun t => t.fill == 5 && homeOf (t.req.line * 64) == q)).foldl (fun m t =>
    m.stepTx t { t with fill := 0 }) m
  m.pump

/-! ### The die's side -/

/-- The stable state a die answers for (R190); in SM_D that of the copy it still has. -/
def effState (x : DieLine) : LSt :=
  match x.st with
  | .mia => .m
  | .oia => .o
  | .eia => .e
  | .sia => .s
  | .smd => x.granted
  | st => st

/-- Set the state after an answer; a die with an eviction out stays in its transient, and one in SM_D keeps its request and has
the state for the copy it still has. -/
def afterSnoop (m : Mach) (die line : Nat) (x : DieLine) (st : LSt) : Mach :=
  if isStableSt x.st then
    if st = .i then m.setDl die line { x.gone .i with writers := [] } else m.setDl die line { x with st := st }
  else if x.st = .smd then
    if st = .i then m.setDl die line { x.gone .smd with granted := .i } else m.setDl die line { x with granted := st }
  else m

/-- R189: a die's answer to a snoop from the data it holds. -/
def answer (m : Mach) (die : Nat) (g : Msg) : Mach :=
  let line := g.line
  let x := m.dl die line
  let home := agentHome (homeOf (line * 64))
  let st := effState x
  let own := st == .m || st == .o || st == .e
  let back (m : Mach) (k : MsgK) : Mach := m.send { k := k, src := die, dst := home, line := line, data := x.data, poison := x.poison }
  let keepShared : LSt := .o
  match g.k with
  | .snpFwdShared =>
    if own && m.isH2 then (m.sendData die g.ackTo line .s g.n x.data x.poison x.dur).afterSnoop die line x keepShared else m.protocol line
  | .snpFwdOwn =>
    if own && m.isH2 then (m.sendData die g.ackTo line .m g.n x.data x.poison x.dur).afterSnoop die line x .i else m.protocol line
  | .snpShared => if own && !m.isH2 then (back m .snpData).afterSnoop die line x keepShared else m.protocol line
  | .snpOwn => if own && !m.isH2 then (back m .snpData).afterSnoop die line x .i else m.protocol line
  | .snpInv =>
    if own || st == .s || x.st == .smd then
      let m := m.send { k := .invAck, src := die, dst := g.ackTo, line := line }
      if x.st = .smd then m.afterSnoop die line x .i
      else
        let m := if g.aux = 1 then x.writers.foldl (fun m w => m.modCore w (fun c => { c with dwl := c.dwl.filter (· != line) })) m else m
        m.afterSnoop die line x .i
    else m.protocol line
  | .snpInvData => if own then (back m .snpData).afterSnoop die line x .i else m.protocol line
  | .snpCur =>
    if own then m.send { k := .dataCur, src := die, dst := if m.isH2 then g.ackTo else home, line := line, data := x.data, poison := x.poison }
    else m.protocol line
  | .snpClean =>
    if st = .m then (back m .wbKeep).afterSnoop die line x .e
    else if st = .o then (back m .wbKeep).afterSnoop die line x .s
    else if st = .e then m.cleanDone line
    else m.protocol line
  | _ => m.protocol line

/-- A snoop that takes or forwards a line waits for the line's DurWbs (R386). -/
def takesLine (g : Msg) : Bool := g.k != .snpCur && g.k != .snpClean && !(g.k == .snpInv && g.aux == 1)

/-- The die's Upgrade of a line has not been taken up by the home. -/
def upgradeOut (m : Mach) (die line : Nat) : Bool :=
  m.net.any (fun g => g.k == .upgrade && g.src == die && g.line == line) || m.hq.any (fun r => r.k == .upgrade && r.src == die && r.line == line)

/-- A die queues a snoop in IS_D, IM_D and SM_D (R190). In SM_D the rule names forwards and SnpInv; another snoop is answered from the
die's own data while its Upgrade waits, as the line's transaction would otherwise never end, and queued after (DESIGN CHOICE,
log 94). -/
def queuesSnoop (m : Mach) (die : Nat) (g : Msg) : Bool :=
  let x := m.dl die g.line
  x.st == .isd || x.st == .imd ||
    (x.st == .smd && g.k != .snpInv && (g.k == .snpFwdShared || g.k == .snpFwdOwn || !m.upgradeOut die g.line))

/-- A snoop at a die (R189, R190, R386). Where the line's durable writes are lost it is answered at once. -/
def snoop (m : Mach) (die : Nat) (g : Msg) : Mach :=
  let line := g.line
  let x := m.dl die line
  if m.queuesSnoop die g then m.setDl die line { x with snq := x.snq ++ [g] }
  else if x.writers ≠ [] ∧ takesLine g then
    let m := m.sendDurWbs die line
    let x := m.dl die line
    if x.writers = [] then m.answer die g else m.setDl die line { x with snq := x.snq ++ [g] }
  else m.answer die g

/-- WbAck of a WbDirty with KEEP: a line that was written back from O is shared now; one whose data the home discarded (STALE) is dirty
as before (DEDUCED, log 116). -/
def keepAcked (m : Mach) (die : Nat) (g : Msg) : Mach :=
  let x := m.dl die g.line
  if g.flag then (if x.st = .e then m.setDl die g.line { x with st := .m } else m)
  else if g.st = .o ∧ x.st = .o then m.setDl die g.line { x with st := .s } else m

/-- Serve the snoops a die has queued for a line, in arrival order. -/
def serveQueue (m : Mach) (die line : Nat) : Mach :=
  let x := m.dl die line
  if x.snq = [] then m
  else x.snq.foldl (fun m g => m.snoop die g) (m.setDl die line { x with snq := [] })

/-- Run the first access that waits for a line; a store a request was made for is performed before anything else is (R190). -/
def runFirst (m : Mach) (die line : Nat) : Mach :=
  let x := m.dl die line
  match x.wait with
  | [] => m
  | (cid, a) :: rest =>
    let m := m.setDl die line { x with wait := rest }
    let m := m.runAccess cid a
    if owned (m.dl die line).st then m.drainLine cid line else m

/-- Run the accesses that still wait; each may ask for the line again. -/
def runRest (m : Mach) (die line : Nat) : Nat → Mach
  | 0 => m
  | n + 1 => if (m.dl die line).wait = [] then m else runRest (m.runFirst die line) die line n

/-- A request is complete (R191): the line takes its granted state, the one access is performed, the queued snoops are
served, and the other accesses run. -/
def complete (m : Mach) (die line : Nat) : Mach :=
  let x := m.dl die line
  if x.got ∧ x.need ≤ x.acks ∧ !isStableSt x.st then
    let m := m.setDl die line { x with st := x.granted, got := false, granted := .i, need := 0, acks := 0, merged := 0 }
    let m := (m.fillWaiting die line).runFirst die line
    let m := if m.isH2 then m else m.send { k := .cmpAck, src := die, dst := agentHome (homeOf (line * 64)), line := line }
    let n := (m.dl die line).wait.length
    (m.serveQueue die line).runRest die line n
  else m

/-- Data reaches its requester (R191). -/
def takeData (m : Mach) (die : Nat) (g : Msg) : Mach :=
  let line := g.line
  let x := m.dl die line
  if [LSt.isd, .imd, .smd].contains x.st && !x.got then
    let m := match x.wait.head? with
      | some (cid, _) =>
        let m := m.pmEvent cid (if isDie g.src then 0x015 else 0x014) 1
        if homeOf (line * 64) = die / 3 then m else m.pmEvent cid 0x016 1
      | none => m
    (m.setDl die line { x with got := true, granted := g.st, need := g.n, data := g.data, poison := g.poison, dur := g.aux % 2 == 1, tenant := g.aux / 2 % 2 ^ 11, writers := [] }).complete die line
  else m.protocol line

/-- A Grant reaches its requester, whose own data is current (R191). -/
def takeGrant (m : Mach) (die : Nat) (g : Msg) : Mach :=
  let line := g.line
  let x := m.dl die line
  if x.st = .smd ∧ x.got = false ∧ x.granted ≠ .i then
    (m.setDl die line { x with got := true, granted := .m, need := g.n, dur := g.aux % 2 == 1, tenant := g.aux / 2 % 2 ^ 11 }).complete die line
  else m.protocol line

/-- An InvAck reaches the requester or the home that counts it. -/
def takeInvAck (m : Mach) (g : Msg) : Mach :=
  let line := g.line
  if isDie g.dst then
    let x := m.dl g.dst line
    if x.st = .imd ∨ x.st = .smd then (m.setDl g.dst line { x with acks := x.acks + 1 }).complete g.dst line
    else m.protocol line
  else match m.htx.find? (fun t => t.req.line == line && t.acks.contains g.src) with
    | some t => (m.stepTx t { t with acks := t.acks.erase g.src }).pump
    | none => m.protocol line

/-- A copy of a line, or the lack of one, reaches the home that asked its sender for it. -/
def homeData (m : Mach) (g : Msg) (d : Option (Line × Bool)) : Mach :=
  match m.htx.find? (fun t => t.req.line == g.line && t.want == some g.src && t.data.isNone) with
  | none => m.protocol g.line
  | some t =>
    match d with
    | some x => (m.stepTx t { t with data := some x }).pump
    | none => (m.stepTx t { t with want := none }).pump

/-- The access of a Refuse's cause as the core reports it (R197). -/
def refuseServe (g : Msg) : RServe := if g.n = 5 then .dormant g.ackTo false else if g.n = 6 then .dormant g.ackTo true else .refuse g.n

/-- An access that its home refused (R197, R198): run with the refusal in place of the line, so that a speculative one is dropped and
another takes the exception of the access or of its walk. One that had joined a SPEC request asks again. -/
def refuseAccess (m : Mach) (cid line : Nat) (g : Msg) (a : Access) : Mach :=
  let spec : Bool := match a with | .load _ _ _ kind _ _ => isSpec kind | _ => false
  if a = .drain then m.drainLine cid line
  else if g.flag && !spec then m.runAccess cid a
  else
    let m := if g.flag then m else m.pmEvent cid 0x040 1
    { { m with refused := some (line, refusalFault line (refuseServe g)) }.runAccess cid a with refused := none }

/-- A snoop queued behind a request that is refused: the requests chained behind it are refused with its cause, and the home
goes on without the line. -/
def refuseQueued (m : Mach) (die : Nat) (cause : RServe) (g : Msg) : Mach :=
  let home := agentHome (homeOf (g.line * 64))
  match g.k with
  | .snpFwdShared | .snpFwdOwn => (m.dropHolder g.line g.ackTo).sendRefuse g.line g.ackTo cause false
  | .snpInv => m.send { k := .invAck, src := die, dst := g.ackTo, line := g.line }
  | .snpCur => if m.isH2 then m.sendRefuse g.line g.ackTo cause false else m.send { k := .snpNone, src := die, dst := home, line := g.line }
  | .snpClean => m.cleanDone g.line
  | _ => m.send { k := .snpNone, src := die, dst := home, line := g.line }

/-- Run the accesses of a refused request, each as the refusal says. -/
def refuseAll (m : Mach) (die line : Nat) (g : Msg) : Nat → Mach
  | 0 => m
  | n + 1 =>
    let x := m.dl die line
    match x.wait with
    | [] => m
    | (cid, a) :: rest => refuseAll ((m.setDl die line { x with wait := rest }).refuseAccess cid line g a) die line g n

/-- A Refuse reaches a die (R197, R198). That of a Flush is a precise exception of the maintenance instruction its core waits at (R127,
R144); a core that has left it for an interrupt executes it again. -/
def takeRefuse (m : Mach) (die : Nat) (g : Msg) : Mach :=
  let line := g.line
  if g.aux ≠ 0 then
    let cid := g.aux - 1
    let c := m.core cid
    if !c.maint.contains line then m.protocol line
    else
      let m := m.setCore cid { c with maint := c.maint.erase line }
      let m := match m.cmoAt cid line with
        | some a => (m.setFlight cid []).fault cid (refusalFault line (refuseServe g)) (some ⟨m.gpr cid a, false, 0, false, false⟩)
        | none => m
      (m.serveQueue die line).runRest die line (m.dl die line).wait.length
  else
    let x := m.dl die line
    if [LSt.isd, .imd, .smd].contains x.st then
      let st : LSt := if x.st = .smd then x.granted else .i
      let m := m.setDl die line { x with st := st, got := false, granted := .i, need := 0, acks := 0, snq := [], pf := [], pf3 := false }
      let m := x.snq.foldl (fun m s => if st = .i then m.refuseQueued die (refuseServe g) s else m.snoop die s) m
      m.refuseAll die line g x.wait.length
    else m.protocol line

end Mach
end Sys2Proof.Machine
end

