-- ==== Sys2Proof/Machine/TierCmd.lean ====
section
/-! DEFINITION. What the tier engines have under way and goes on whenever something they wait for has happened: the command
of each quadrant (R276), promotions nothing else starts (R258, R264), strikes (R261), the Shed rotation (R341) and the
requests the homes hold. -/
namespace Sys2Proof.Machine
namespace Mach

/-! ### Pieces of the commands -/

/-- Lines of a page, as line numbers. -/
def pageLines (page : Nat) : List Nat := (List.range 64).map (page / 64 + ·)

/-- Whether the filter or an open transaction still names a line of the page. -/
def pageHeld (m : Mach) (page : Nat) : Bool :=
  m.filter.any (fun e => pageOf (e.1 * 64) == page) || m.htx.any (fun t => pageOf (t.req.line * 64) == page)

/-- Remove the page's filter entries as a victim's are removed (R184, R185): one back-invalidation for each entry whose line
has no transaction open. -/
def removeEntries (m : Mach) (page : Nat) : Mach :=
  (pageLines page).foldl (fun m l =>
    if (m.filter.find l).isSome && !(m.htx.any (fun t => t.req.line == l)) then m.startBackInv l else m) m

/-- Free a page's storage, its dormant records and, for FREE and ZERO, its MSC lines without a writeback. -/
def freeAll (m : Mach) (page : Nat) (withMsc : Bool) : Mach :=
  let m := if withMsc then (pageLines page).foldl (fun m l => if (m.mscLine l).isSome then m.dropMsc l else m) m else m
  (m.freePage page).dropJournal (homeOf page) (fun r => r.kind == 1 && pageOf r.spa == page)

/-- An entry of the attributes of a command (R237). -/
def attrs (e tenant : Nat) (dur pin sleepok : Bool) : Nat :=
  putBits (putBits (putBits (putBits e 11 11 tenant) 8 1 dur.toNat) 9 1 pin.toNat) 10 1 sleepok.toNat

/-- Whether a page lies inside the durable region (R388). -/
def inDregion (m : Mach) (page : Nat) : Bool :=
  let lo := m.get R.PKG_PAIR_DREGION_BASE_GIB * 2 ^ 30
  decide (lo ≤ page) && decide (page < lo + m.get R.PKG_PAIR_DREGION_SIZE_GIB * 2 ^ 30)

def foreignTenant (m : Mach) (t : Nat) : Bool := (m.tenants.find t).elim false (fun x => x.kind == 1)
def consents (m : Mach) (t : Nat) : Bool := (m.tenants.find t).elim false (fun x => x.consent)

/-- R258, R388: whether a SET_ATTR is refused. -/
def refusedAttr (m : Mach) (page : Nat) (c : TierCmd) : Bool :=
  let e := m.entry page
  let q := homeOf page
  let others := (m.pmap.filter (fun x =>
    x.1 * 4096 != page && homeOf (x.1 * 4096) == q && ePin x.2.toNat && m.acctTenant (x.1 * 4096) == c.tenant)).length
  (c.pin && decide (share (m.quotaOf c.tenant tierBed) tierBed ≤ others + 1)) ||
  (c.sleepok && m.foreignTenant c.tenant) ||
  (eDur e && !c.dur && !m.consents (eTenant e)) ||
  (c.dur && !m.inDregion page)

/-- The PAGE record of a page of some lines, none where it is poisoned, at an address. A page of zeros carries no data where the pair
has agreed on ZERO_PAGE, and 4,096 zero bytes otherwise (R30, R414). -/
def pageBody (m : Mach) (a e : Nat) (ls : Option (List Line)) : MBody :=
  let ok := m.get R.PKG_PAIR_STATE_FEATURES % 2 == 1
  match ls with
  | some ls =>
    let z := ok && ls.all (· == 0)
    .page a (eTenant e) (eSleepok e) z false (if z then [] else ls)
  | none => .page a (eTenant e) (eSleepok e) ok true (if ok then [] else List.replicate 64 0)

/-- The PAGE record of a page (R388, R394, R398). -/
def mirrorPage (m : Mach) (page : Nat) : Mach :=
  if !m.mirrorFed then m
  else
    let e := m.entry page
    let (m, ls) := m.readPage page
    m.mirror (homeOf page) (m.pageBody page e ls)

/-- The MSC's dirty lines of a page go to the page's location: it holds no durable line dirty (R384). -/
def cleanPage (m : Mach) (page : Nat) : Mach :=
  (pageLines page).foldl (fun m l => if (m.mscLine l).isSome then (m.mscClean l).1 else m) m

/-- Set a page's attributes (R258): the MSC's lines follow the tenant, a pin starts a promotion of a Stable Frame or Shed page. -/
def setAttr (m : Mach) (page : Nat) (c : TierCmd) : Mach :=
  let m := if c.dur && !eDur (m.entry page) then m.cleanPage page else m
  let e := m.entry page
  let m := m.setEntry page (attrs e c.tenant c.dur c.pin c.sleepok)
  let m := { m with msc := m.msc.mapV (fun l x => if pageOf (l * 64) = page then { x with tenant := c.tenant } else x) }
  let m :=
    if c.dur && !eDur e then m.mirrorPage page
    else if eDur e && !c.dur then m.mirrorMap page 2
    else if c.dur then m.mirrorMap page 4
    else m
  if c.pin && !ePin e && eState e == stStable && (eTier e == tierFrame || eTier e == tierShed) then
    if m.asleep page then m.wantPage page else (m.promoteOrWait page).1
  else m

/-- PROMOTE cannot be met: the tenant's Bed share is full and none of its Bed pages can be demoted (R276). -/
def promoteQuota (m : Mach) (page : Nat) : Bool :=
  let t := m.acctTenant page
  let q := homeOf page
  !m.hasRoom t tierBed q && (m.coldest t tierBed q).isNone

/-- A PROMOTE that waits can no longer be met: no demotion makes room for it. -/
def promoteStuck (m : Mach) (page : Nat) : Bool := m.promoteQuota page && !m.roomComing (m.acctTenant page) (homeOf page)

/-- A PROMOTE that ends QUOTA waits for its promotion no longer; a pinned page, and one with a write that waits in the MSC, does (R243,
R258). -/
def unwant (m : Mach) (page : Nat) : Mach :=
  let q := homeOf page
  if ePin (m.entry page) || m.msc.any (fun x => pageOf (x.1 * 64) == page && x.2.dirty) then m
  else m.setTq q { m.tq q with want := (m.tq q).want.filter (· != page) }

/-- One TIER command, judged against the page's entry (R276). `m` has the command at stage 0, 1 or 3.
CLEAR_POISON frees storage and dormant records; the page's MSC lines and filter entries stay, of which the spec says nothing there
(DESIGN CHOICE, log 112). -/
def judge (m : Mach) (q : Nat) (c : TierCmd) : Mach :=
  let page := c.page
  let e := m.entry page
  let st := eState e
  let none_ := st == stStable && eTier e == tierNone
  let stableAt (t : Nat) : Bool := st == stStable && eTier e == t
  let fin (m : Mach) (r : Nat) : Mach := m.endCmd q page r
  let stage (m : Mach) (n : Nat) : Mach := m.setTq q { m.tq q with cmd := some { c with stage := n } }
  let removal (m : Mach) (done : Mach → Mach) : Mach :=
    let m := m.removeEntries page
    if m.pageHeld page then stage m 1 else done m
  match c.op with
  | 2 =>
    if none_ then fin m 3
    else if m.refusedAttr page c then fin m 5
    else if c.tenant ≠ eTenant e ∨ c.dur ≠ eDur e then removal m (fun m => fin (m.setAttr page c) 0)
    else fin (m.setAttr page c) 0
  | 3 =>
    if !none_ then fin m 3
    else if c.dur && !m.inDregion page then fin m 5
    else
      let m := m.setEntry page (attrs entryReset c.tenant c.dur c.pin c.sleepok)
      fin (if c.dur then m.mirrorMap page 1 else m) 0
  | 4 =>
    removal m (fun m =>
      let m := if eDur e then m.mirrorMap page 2 else m
      let m := (m.freeAll page true).setEntry page (eSetTier 0 tierNone)
      fin m 0)
  | 5 =>
    if stableAt tierBed || stableAt tierFrame || stableAt tierShed || st == stDormant || st == stPoisoned then
      removal m (fun m =>
        let m := if eDur e then m.mirrorMap page 3 else m
        fin ((m.freeAll page true).setEntry page (eSetState (eMove e tierBed 0 0 false) stZero)) 0)
    else fin m 3
  | 6 =>
    if stableAt tierFrame || stableAt tierShed then
      if (if c.stage = 3 then m.promoteStuck page else m.promoteQuota page) then fin (if c.stage = 3 then m.unwant page else m) 4
      else match m.promoteOrWait page with
        | (m, some _) => stage m 2
        | (m, none) => stage m 3
    else fin m 3
  | 7 =>
    if !((stableAt tierBed) || (stableAt tierFrame && c.toTier != 1)) then fin m 3
    else if ePin e then fin m 5
    else
      let dst := if c.toTier = 1 then tierFrame else tierShed
      if c.toTier ≠ 0 ∧ !m.hasRoom (m.acctTenant page) dst q then fin m 4
      else if c.toTier = 1 ∧ m.act R.TIER_POLICY_FRAME_EN q = 0 then fin m 6
      else match m.beginDemotion page c.toTier with
        | (m, .started _) => stage m 2
        | (m, .zeroed) => fin m 0
        | (m, .noSlot) => stage m 0
        | (m, .noSpace) => fin m (if c.toTier = 0 then 7 else 6)
        | (m, .noFrame) => fin m 6
        | (m, _) => fin m 7
  | 8 =>
    if st == stPoisoned then
      let m := m.freeAll page false
      let m := m.setEntry page (eSetState (eMove e tierBed 0 0 false) stZero)
      fin (if eDur e then m.mirrorMap page 3 else m) 0
    else fin m 3
  | _ => fin m 0

/-- A command on a page whose entry cannot be read (R275): FREE removes what the package holds of the page but its storage, and writes
a new None entry; any other ends with BAD_STATE, and CMD_ENTRY is then a free value (log 99). -/
def cmdUnreadable (m : Mach) (q : Nat) (c : TierCmd) : Mach :=
  let page := c.page
  if c.op = 4 then
    let m := m.removeEntries page
    if m.pageHeld page then m.setTq q { m.tq q with cmd := some { c with stage := 1 } }
    else
      let m := (pageLines page).foldl (fun m l => if (m.mscLine l).isSome then m.dropMsc l else m) m
      let m := m.dropJournal q (fun r => r.kind == 1 && pageOf r.spa == page)
      let m := m.setTq q { m.tq q with gone := (m.tq q).gone.filter (· != page) }
      (({ m with mapBad := m.mapBad.filter (· != page) }).setEntry page (eSetTier 0 tierNone)).endCmd q page 0
  else
    let (m, v) := ((m.mapFault page).endCmd q page 3).fresh
    m.set R.TIER_CMD_ENTRY_ENTRY v.toNat q

/-- The TIER command of a quadrant goes on (R276): WRONG_QUADRANT and OUTSIDE first; READ never waits; every other command
waits while the page is in a move or a rekey. -/
def cmdStep (m : Mach) (q : Nat) : Mach :=
  if !m.homeUp then m else
  match (m.tq q).cmd with
  | none => m
  | some c =>
    let page := c.page
    let st := eState (m.entry page)
    let stage (n : Nat) : Mach := m.setTq q { m.tq q with cmd := some { c with stage := n } }
    if c.stage = 2 then m
    else if homeOf page ≠ q then m.endCmd q page 1
    else if !m.managed page then m.endCmd q page 2
    else if m.mapUnreadable page then m.cmdUnreadable q c
    else if c.op = 1 then m.endCmd q page 0
    else if st = stPromoting ∧ c.stage = 3 then stage 2
    else if st = stPromoting ∨ st = stDemoting ∨ st = stRekeying then stage (if c.stage = 3 then 3 else 0)
    else m.judge q c

/-- A GO written to TIER.CMD (R276). -/
def tierGo (m : Mach) (q : Nat) : Mach :=
  let op := m.get R.TIER_CMD_OP q
  if op = 0 ∨ 8 < op ∨ !m.tierReady q ∨ !m.takesNew .tier q ∨ m.on R.TIER_CMD_BUSY q then m
  else
    let c : TierCmd :=
      ⟨op, m.get R.TIER_CMD_ARG_PAGE q * 4096, m.get R.TIER_CMD_TENANT q, m.on R.TIER_CMD_DUR q, m.on R.TIER_CMD_PIN q,
        m.on R.TIER_CMD_SLEEPOK q, m.get R.TIER_CMD_TO_TIER q, 0⟩
    ((m.setTq q { m.tq q with cmd := some c }).set R.TIER_CMD_BUSY 1 q).cmdStep q

/-! ### Promotions that wait (R258, R264) -/

/-- A page that waits for its promotion, or has dormant records to merge: the promotion begins once its entry is Stable and there is
room; a Zero page with records and a Poisoned page that has been read get their frames (R244, R245). -/
def wantPageStep (m : Mach) (p : Nat) : Mach :=
  let q := homeOf p
  let t := m.tq q
  let e := m.entry p
  let drop (m : Mach) : Mach :=
    if t.want.contains p then m.setTq q { m.tq q with want := (m.tq q).want.filter (· != p) } else m
  if m.hasFailed p || m.mapUnreadable p then drop m
  else if eState e = stZero ∧ m.recordsOf p ≠ [] then
    match m.fillZero p with
    | (m, true) => drop m
    | (m, false) => m.makeRoom p
  else if eState e = stPoisoned ∧ t.want.contains p then
    match m.fillPoisoned p with
    | (m, true) => drop m
    | (m, false) => m.makeRoom p
  else if [stDormant, stPromoting, stDemoting, stRekeying].contains (eState e) || m.asleep p then m
  else if eState e = stStable ∧ (eTier e = tierFrame ∨ eTier e = tierShed) then
    match m.beginPromotion p with
    | (m, some _) => drop m
    | (m, none) => m
  else drop m

/-- Pages with dormant records, and pages whose promotion could not begin (R250, R258, R264). -/
def wantStep (m : Mach) (q : Nat) : Mach :=
  let recs := ((m.quadJournal q).filter (fun r => r.kind == 1)).map (fun r => pageOf r.spa)
  ((m.tq q).want ++ recs).eraseDups.foldl (fun m p => m.wantPageStep p) m

/-! ### Strikes of shelves (R261) -/

/-- Pages whose LOC names a shelf. -/
def shelfPages (m : Mach) (n : Nat) : List Nat :=
  (m.pmap.filter (fun x => eTier x.2.toNat == tierShed && locShelf (eLoc x.2.toNat) == n &&
    !((m.tq (homeOf (x.1 * 4096))).gone.contains (x.1 * 4096)))).map (fun x => x.1 * 4096)

def moveOn (v : Move) (n : Nat) : Bool :=
  (v.srcTier == tierShed && locShelf v.srcLoc == n) || (v.dstTier == tierShed && locShelf v.dstLoc == n)

/-- Whether the filter shows a line of the page in X or O. -/
def cachedDirty (m : Mach) (page : Nat) : Bool :=
  m.filter.any (fun e => pageOf (e.1 * 64) == page && (e.2.st == FSt.x || e.2.st == FSt.o))

/-- A page's lines for its move off a shelf: those of its source with what the MSC and the dormant records hold of them (R166). The
second part is none where a line is poisoned, which no plot or unit can hold (R548). -/
def evacLines (m : Mach) (page : Nat) (ls : List Line) : Option (List Line) :=
  (List.range 64).foldl (fun a i =>
    let spa := page + 64 * i
    let v : ReadRes := match m.mscLine (spa / 64) with
      | some x => if x.poison then .poison else .ok x.data
      | none => m.overlay spa (.ok (ls.getD i 0))
    match a, v with
    | some a, .ok d => some (a ++ [d])
    | _, _ => none) (some [])

/-- Move a page off a shelf (step 3 of R261): to another allowed shelf, else to Frame, else to Bed; STARVED where none has
room. The page is read whole and verified as the move starts. -/
def evacuate (m : Mach) (page : Nat) : Mach :=
  let q := homeOf page
  let e := m.entry page
  let toBed (m : Mach) : Mach :=
    match m.beginPromotion page with
    | (m, some _) => m
    | (m, none) => m.starve page
  match m.freeMoveSlot q with
  | none => m
  | some k =>
    if m.hasFailed page then m
    else match (m.shedRead (homeOf page) (locShelf (eLoc e)) (eCmp e) (locPlace (eLoc e)) (List.range (unitsOf (eCmp e) (ePlots e)))).sourcePage
        page tierShed (eLoc e) (ePlots e) (eCmp e) with
    | (m, none, r) =>
      if r = .lost then m.poisonEntry page (m.unitFails page e (List.range (unitsOf (eCmp e) (ePlots e)))) else m.sourceBad page r
    | (m, some ls, _) =>
      let m := if eCmp e then m.add R.CODEC_PAGES_DEC_COUNT 1 q else m
      match m.evacLines page ls with
      | none => toBed m
      | some ls =>
        let en := Frame.encode (m.act R.CODEC_CTL_DICT_MIN q) (m.act R.CODEC_CTL_DICT_MAX q) ls
        let n := Frame.plotsOf en.bytes.length
        let tooBig := decide (Frame.ceiling < en.bytes.length)
        let m := m.countCodec q en
        let start (m : Mach) (v : Move) : Mach := (m.setMove k { v with promote := true }).setEntry page (eSetState e stPromoting)
        let toFrame (m : Mach) : Mach :=
          if tooBig ∨ m.act R.TIER_POLICY_FRAME_EN q = 0 ∨ !m.hasRoom (m.acctTenant page) tierFrame q then toBed m
          else match m.takePlots q n with
            | (m, some p) =>
              start (m.writePlots page (p * 512) en.bytes n) { demotion page e tierFrame p (n - 1) false with done := fullMask }
            | (m, none) => toBed m
        let cmp := m.act R.TIER_POLICY_SHED_CMP q == 1 && !tooBig
        let plots := if cmp then n else 8
        match m.shelfFor page plots (some (locShelf (eLoc e))) with
        | none => toFrame m
        | some s =>
          if m.moveRecsFree q < journalNeed plots then m
          else
            let (m, place) := if cmp then m.takeShelfPlots s q n else m.takeSlot s q 255
            match place with
            | none => toFrame m
            | some pl =>
              let pl1 := if cmp then n - 1 else 0
              let m := m.journalPage page s pl pl1 cmp (if cmp then en.bytes else pageBytes ls) (some k)
              start m { demotion page e tierShed (s * 2 ^ 32 + pl) pl1 cmp with writes := journalCount (unitPlot cmp pl 0) plots }

/-- A page that a strike has to move off its shelf: every page of an evacuating strike; in a sleeping strike the pages of foreign tenants,
which become Dormant through a Lost shelf alone (R266, log 97). -/
def mustLeave (m : Mach) (n page : Nat) : Bool := (m.shelf n).evac || m.foreignTenant (eTenant (m.entry page))

/-- Step 3 of R261. -/
def strikeMoves (m : Mach) (n : Nat) : Mach :=
  (m.shelfPages n).foldl (fun m p =>
    if !m.mustLeave n p then m
    else if eState (m.entry p) = stStable then m.evacuate p
    else if eState (m.entry p) = stPoisoned ∧ (m.shelf n).evac = true then
      match m.fillPoisoned p with
      | (m, true) => m
      | (m, false) => m.makeRoom p
    else m) m

/-- Step 4 of R261. -/
def dormantSweep (m : Mach) (n : Nat) : Mach :=
  (m.shelfPages n).foldl (fun m p =>
    let e := m.entry p
    if eState e = stStable then m.setEntry p (eSetState e stDormant) else m) m

/-- A strike goes on: the steps before its link is released (R261). -/
def strikeStep (m : Mach) (n : Nat) : Mach :=
  let s := m.shelf n
  let moving (m : Mach) : Bool := m.moves.any (fun x => moveOn x.2 n)
  let phase (m : Mach) (p : Nat) : Mach := m.setShelf n { m.shelf n with phase := p }
  let m := if s.phase = 1 ∧ moving m = false then phase m 2 else m
  let m :=
    if (m.shelf n).phase = 2 then
      let m := (m.shelfPages n).foldl (fun m p =>
        if eState (m.entry p) = stStable ∧ m.cachedDirty p = true ∧ m.hasFailed p = false then (m.beginPromotion p).1 else m) m
      if moving m || (m.shelfPages n).any (fun p => eState (m.entry p) == stStable && m.cachedDirty p && !m.hasFailed p) then m
      else phase m 3
    else m
  if (m.shelf n).phase = 3 then
    let m := m.strikeMoves n
    if moving m || (m.shelfPages n).any (fun p => m.mustLeave n p && (s.evac || eState (m.entry p) == stStable)) then m
    else phase (if s.evac then m else m.dormantSweep n) 4
  else m

/-- Begin a strike of an Awake shelf. -/
def strike (m : Mach) (n : Nat) (evac : Bool) : Mach :=
  if m.shelfState n ≠ 2 then m
  else
    let m := (m.setShelfState n 3).setShelf n { m.shelf n with evac := evac, phase := 1 }
    (m.ev 4 2 .tier (n + 3 * 2 ^ 8) (m.shelf n).ident).strikeStep n

/-! ### Everything that waits -/

/-- Take up what waits for the tier engines. -/
def settle (m : Mach) : Mach :=
  if !m.homeUp then m
  else
  let m := (m.shelves.filter (fun s => s.2.phase != 0)).foldl (fun m s => m.strikeStep s.1) m
  let m := [0, 1, 2, 3].foldl (fun m q => (m.wantStep q).cmdStep q) m
  let m := m.shedrotStep.memrotEnd
  let m := [0, 1, 2, 3].foldl (fun m q =>
    if (m.tq q).held.isEmpty && !(m.htx.any (fun t => t.fill == 2 || t.fill == 5)) then m else m.retryHeld q) m
  m.pump

end Mach
end Sys2Proof.Machine
end

