-- ==== Sys2Proof/Machine/TenOps.lean ====
section
/-! DEFINITION. Queues and descriptors (R358–R367, R372), the pipes of descriptors' messages (R323–R326), and what tenant
commands do (R352–R357). -/
namespace Sys2Proof.Machine

/-- All ones: what an absent page, the registers of a struck block, or the doorbell page of a Free context read as (R36, R61, R62, R358). -/
def allOnes : Nat := 2 ^ 64 - 1

namespace Mach

/-! ### Queues -/

/-- A queue as after reset: SIZE_LOG2 6, PHASE 1. -/
def noQueue : Queue := ⟨6, 0, 0, 0, 0, 0, 0, 0, 0, 0, 0, 0, true, 0, [], [], []⟩
def queue (m : Mach) (n : Nat) : Queue := m.queues.getD n noQueue
def setQueue (m : Mach) (n : Nat) (q : Queue) : Mach := { m with queues := m.queues.put n q noQueue }

end Mach

/-- Entries of a ring (R359). -/
def Queue.size (q : Queue) : Nat := 2 ^ bitsOf q.cfg 0 5
def Queue.quad (q : Queue) : Nat := bitsOf q.cfg 5 2
def Queue.urgentOk (q : Queue) : Bool := bitsOf q.cfg 7 1 == 1
def Queue.notify (q : Queue) : Nat := bitsOf q.cfg 8 2
def Queue.cid (q : Queue) : Nat := bitsOf q.cfg 10 9
def Queue.ipBit (q : Queue) : Nat := bitsOf q.cfg 19 6
def Queue.vector (q : Queue) : Nat := bitsOf q.cfg 25 11

/-- A field of a descriptor (R363): n bytes at an offset. -/
def Desc.field (d : Desc) (o n : Nat) : Nat := ofBytes ((d.bytes.drop o).take n)
def Desc.op (d : Desc) : Nat := d.field 0 1
def Desc.flags (d : Desc) : Nat := d.field 2 2
def Desc.urgent (d : Desc) : Bool := d.flags % 2 == 1
def Desc.ordered (d : Desc) : Bool := d.flags / 4 % 2 == 1
def Desc.len (d : Desc) : Nat := d.field 12 4
def Desc.src (d : Desc) : Nat := d.field 16 8
def Desc.dst (d : Desc) : Nat := d.field 24 8
def Desc.auxLen (d : Desc) : Nat := d.field 32 4
def Desc.ivctl (d : Desc) : Nat := d.field 36 4
def Desc.keysel (d : Desc) : Nat := d.field 40 2
def Desc.cctl (d : Desc) : Nat := d.field 6 2
def Desc.aad (d : Desc) : Nat := d.field 48 8

def opFence : Nat := 0x0E

namespace Mach

/-- The tenant whose block holds a queue. -/
def queueOwner (m : Mach) (n : Nat) : Option Nat :=
  (m.tenants.find? (fun x => x.2.state != 0 && decide (x.2.qbase ≤ n) && decide (n < x.2.qbase + x.2.queues))).map (·.1)

def bulkReady (m : Mach) (q : Nat) : Bool := m.hon R.HDR_STATUS_READY .bulk q && m.mode != 9 && m.mode != 10

/-- A QUEUE record (R398). -/
def mirrorQueue (m : Mach) (n : Nat) : Mach :=
  let q := m.queue n
  match m.queueOwner n with
  | some t => if m.durableTenant t then m.mirror 0 (.queue n q.state [q.cfg, q.sq, q.cq, q.acc, q.log]) else m
  | none => m

/-- Work of a queue that has been accepted and not completed. -/
def queueBusy (q : Queue) : Bool := q.live.any (fun d => !d.waitAck) || q.run.any (fun d => d.logged && !d.cancelled) || q.held.any (fun d => d.logged && !d.cancelled)

/-- R361: a Stopping queue whose last accepted descriptor has completed is Off. -/
def stopCheck (m : Mach) (n : Nat) : Mach :=
  let q := m.queue n
  if q.state = 2 ∧ queueBusy q = false ∧ q.live = [] then (m.setQueue n { q with state := 0 }).mirrorQueue n else m

/-- START (R361): from Off only. -/
def queueStart (m : Mach) (n : Nat) : Mach :=
  let q := m.queue n
  if q.state = 0 then (m.setQueue n { q with state := 1, halt := 0 }).mirrorQueue n else m

/-- STOP (R361). -/
def queueStop (m : Mach) (n : Nat) : Mach :=
  let q := m.queue n
  if q.state = 1 ∨ q.state = 3 then ((m.setQueue n { q with state := 2 }).mirrorQueue n).stopCheck n else m

/-- A queue enters Halted (R361, R365, R377). -/
def queueHalt (m : Mach) (n cause t : Nat) : Mach :=
  ((m.setQueue n { m.queue n with state := 3, halt := cause }).mirrorQueue n).err E.TEN_QUEUE_HALT sevContained 0 12 none n (some t)

/-! ### Bytes of a tenant's memory as the engine writes them -/

/-- The engine's agent number for a queue. -/
def bulkAgent (m : Mach) (n : Nat) : Nat := agentBulk (m.queue n).quad

/-- Write bytes at a tenant-visible address, line by line, each looked up on its own (R154). A faulting part is dropped. -/
def tenantPut (m : Mach) (t agent a : Nat) (b : List Byte) : Mach :=
  let n := b.length
  forN (linesIn a n) (fun i m =>
    let lo := max a ((a / 64 + i) * 64)
    let hi := min (a + n) ((a / 64 + i + 1) * 64)
    match m.translate (m.tenant t).rset lo true 2 t with
    | (m, some spa) => (m.cohPut spa ((b.drop (lo - a)).take (hi - lo)) false agent).1
    | (m, none) => m) m

/-- Write bytes of a queue log (R366): system-physical, and never mirrored as LINE records (R398). -/
def logPut (m : Mach) (a : Nat) (b : List Byte) : Mach × Bool :=
  match { m with quiet := true }.cohPut a b false agentLog with
  | (m, .refuse _) => ({ m with quiet := false }, false)
  | (m, _) => ({ m with quiet := false }, true)

/-- Place of a log entry (R365, R366). -/
def logAt (q : Queue) (seq : Nat) : Nat := q.log + 128 * (seq % q.size)

/-- The acceptance record (R367). -/
def acceptRecord (m : Mach) (n t : Nat) (paired : Bool) : Mach :=
  let q := m.queue n
  m.tenantPut t (m.bulkAgent n) q.acc (bytesOf 4 q.nextSeq ++ bytesOf 2 (m.tenant t).gen ++ bytesOf 1 paired.toNat ++ bytesOf 1 0 ++ bytesOf 8 q.count)

/-- Step 3 of R365, and step 2 before it where the partner's acknowledgement gave it. What a reset found not yet accepted is never accepted
(R354). -/
def finishAccept (m : Mach) (n seq : Nat) (paired : Bool) : Mach :=
  match m.queueOwner n with
  | none => m
  | some t =>
    let q := m.queue n
    if (m.tenant t).state = 1 ∧ q.live.any (fun d => d.waitAck && d.seq == seq) = true then
      let live := q.live.map (fun d => if d.waitAck ∧ d.seq = seq then { d with waitAck := false } else d)
      let q := { q with
        live := live
        head := (q.head + 1) % q.size
        nextSeq := (q.nextSeq + 1) % 2 ^ 32
        count := (q.count + 1) % 2 ^ 64 }
      let x := m.tenant t
      ((m.setQueue n q).setTenant t { x with accepted := (x.accepted + 1) % 2 ^ 64 }).acceptRecord n t paired
    else m

/-! ### Fetch and acceptance (R365) -/

/-- New bulk work that the mode accepts (R381, R382, R412); durable work in PAIRED also needs room for its ACCEPT record. -/
def takesWork (m : Mach) (t q : Nat) : Bool :=
  let dur := m.durableTenant t
  let md := m.mode
  !(m.pairState == 7 && m.taken.contains t) &&
  (md == 3 || md == 5 || md == 7 || (md == 4 && (!dur || m.ringRoom q 112)) || (md == 6 && !dur))

/-- The slot a KEYSEL resolves to (R321, R352). -/
def keyOf (m : Mach) (t ks : Nat) : Option Nat := (m.tenant t).keys.getD (ks % 8) none

/-- R314, R366: the IV an IVGEN descriptor is given at acceptance, FIXED[31:24] in byte 0 and FIXED[23:0] in bytes 1 to 3. -/
def takeIv (m : Mach) (t q : Nat) (d : Desc) : Mach × List Byte × Bool :=
  if (d.op = 0x05 ∨ d.op = 0x09) ∧ bitsOf d.ivctl 5 1 = 1 then
    match m.keyOf t d.keysel with
    | none => (m, List.replicate 12 0, false)
    | some k =>
      let s := m.slot k
      match (if s.state = 0 then none else m.drawIv k q 1) with
      | none => (m, List.replicate 12 0, false)
      | some (m, c) => (m, Crypto.toBytes (gcmIv (s.fixed / 2 ^ 24) s.fixed c), true)
  else (m, List.replicate 12 0, true)

def newDesc (b : List Byte) (gen : Nat) (t : Nat := 0) : Desc :=
  ⟨b, gen, ofBytes ((b.drop 8).take 4), List.replicate 12 0, true, false, false, false, false, false, false, 0, 0, 0, [], [], none, false, t, none⟩

/-- A descriptor refused before acceptance gets a completion of its own (R365). -/
def refuseDesc (m : Mach) (n : Nat) (d : Desc) (status info : Nat) : Mach :=
  let q := m.queue n
  m.setQueue n { q with run := q.run ++ [{ d with status := status, info := info }] }

/-- Accept an entry that passed every check: its log entry is written, then the acceptance point reached or waited for. -/
def acceptDesc (m : Mach) (n t : Nat) (d : Desc) : Mach :=
  let q := m.queue n
  let (m', iv, ok) := m.takeIv t q.quad d
  let d := { d with iv := iv, ivOk := ok, logged := true, waitAck := true }
  let entry := d.bytes ++ bytesOf 4 1 ++ bytesOf 2 d.gen ++ bytesOf 2 0 ++ iv ++ bytesOf 12 0
  match m'.logPut (logAt q d.seq) (entry ++ bytesOf 32 0) with
  | (_, false) => m
  | (m, true) =>
    let m := m.setQueue n { m.queue n with live := (m.queue n).live ++ [d] }
    let dur := m.durableTenant t
    if dur ∧ m.mode = 4 then m.mirror q.quad (.accept n d.gen d.seq entry)
    else (if dur then m.mirror q.quad (.accept n d.gen d.seq entry) else m).finishAccept n d.seq false

/-- One entry of a Running queue (R365). Where the entry cannot be accepted now it stays in its ring (R382). -/
def fetch (m : Mach) (n : Nat) : Mach :=
  let q := m.queue n
  match m.queueOwner n with
  | none => m
  | some t =>
    let x := m.tenant t
    if q.state ≠ 1 ∨ x.state ≠ 1 ∨ q.head = q.tail % q.size ∨ !m.bulkReady q.quad ∨ !m.takesNew .bulk q.quad ∨ !m.takesWork t q.quad ∨ q.live.any (·.waitAck) then m
    else
      match m.translate x.rset (q.sq + 64 * q.head) false 2 t with
      | (m, none) => m.queueHalt n 0x05 t
      | (m, some spa) =>
        match (m.homeOrdered (spa / 64)).cohRead (spa / 64) with
        | (m, .line (.ok l)) =>
          let b := bytesOf 64 l.toNat
          let d := newDesc b x.gen t
          let found := d.field 4 2
          let next (m : Mach) (seq : Bool) : Mach :=
            let q := m.queue n
            m.setQueue n { q with head := (q.head + 1) % q.size, nextSeq := if seq then (q.nextSeq + 1) % 2 ^ 32 else q.nextSeq }
          if found ≠ x.gen then
            let m := m.setTenant t { x with staleDesc := (x.staleDesc + 1) % 2 ^ 32 }
            (next m false).refuseDesc n d 0x03 found
          else if d.seq ≠ q.nextSeq then (m.refuseDesc n d 0x04 q.nextSeq).queueHalt n 0x04 t
          else if d.op = 0 ∨ 0x0E < d.op then (next m true).refuseDesc n d 0x01 0
          else m.acceptDesc n t d
        | (m, _) => m.queueHalt n 0x10 t

/-! ### Pipes (R323–R326) -/

/-- The pipe a new message is placed on: an idle one, the lowest first; for an urgent message also one whose normal message
can be suspended, the one with the most free slots first. -/
def placeFor (m : Mach) (q : Nat) (hash urgent : Bool) : Option Nat :=
  match (pipesOf hash).find? (fun p => (m.pipe q p).run.isNone) with
  | some p => some p
  | none =>
    if urgent && m.act R.CIPH_SCHED_SUSPEND_EN q == 1 then
      ((pipesOf hash).filter (fun p => m.canSuspend q p)).foldl (fun (b : Option Nat) p =>
        match b with
        | none => some p
        | some x => if (m.pipe q p).saved.length < (m.pipe q x).saved.length then some p else some x) none
    else none

/-- Change the descriptor of a message. -/
def modRun (m : Mach) (n seq : Nat) (f : Desc → Desc) : Mach :=
  let q := m.queue n
  m.setQueue n { q with run := q.run.map (fun d => if d.logged ∧ d.seq = seq then f d else d) }

/-- The context a suspended message leaves in its save slot (R325): where it has got to, its counter block or tweak state there, the GHASH,
CMAC or hash state over what it has done, and its AAD, which goes before its data; the key is not in it. -/
def savedCtx (m : Mach) (c : CMsg) : SavedCtx :=
  let pos := m.posNow c
  let key := c.slot.elim [] (fun k => Crypto.ofB (m.slot k.1).key)
  let text := c.text.take pos
  let aad := if pos = 0 then min c.aad.length (Config.progress (m.free + 1) c.queue c.seq / 16 * 16) else c.aad.length
  let hash (p : Crypto.Sha) (pad : List Nat) : Nat := Crypto.beVal ((Crypto.shaOver p (pad ++ text)).flatMap (Crypto.beBytes (p.w / 8)))
  match c.mode with
  | 0 =>
    let h := Crypto.beVal (Crypto.aesEnc key (Crypto.zeros 16))
    let done := if pos = 0 then c.aad.take aad else Crypto.padTo16 c.aad ++ text
    ⟨pos, Crypto.beVal (Crypto.gcmCtr c.iv (pos / 16 + 1)), Crypto.ghashOver h done, aad⟩
  | 1 =>
    let k2 := c.slot.elim [] (fun k => Crypto.ofB (m.slot (k.1 + 1)).key)
    ⟨pos, Crypto.xtsTweak k2 (Crypto.leVal c.iv) (pos / 16), 0, 0⟩
  | 2 => ⟨pos, (Crypto.beVal c.iv + pos / 16) % 2 ^ 128, 0, 0⟩
  | 3 => ⟨pos, 0, Crypto.beVal (Crypto.cbcMac key (Crypto.chunks 16 text)), 0⟩
  | 4 => ⟨pos, 0, hash Crypto.sha256P [], 0⟩
  | 5 => ⟨pos, 0, hash Crypto.sha384P [], 0⟩
  | 6 => ⟨pos, 0, hash Crypto.sha256P (Crypto.hmacPad Crypto.sha256P key 0x36), 0⟩
  | _ => ⟨pos, 0, hash Crypto.sha384P (Crypto.hmacPad Crypto.sha384P key 0x36), 0⟩

/-- Place a message on a pipe, suspending what runs there. -/
def place (m : Mach) (q p : Nat) (c : CMsg) : Mach :=
  let x := m.pipe q p
  match x.run with
  | none => m.setPipe q p { x with run := some c }
  | some o =>
    ((m.setPipe q p ⟨some c, x.saved ++ [{ o with ctx := m.savedCtx o }]⟩).modRun o.queue o.seq (fun d => { d with suspended := true })).add R.CIPH_SUSPENDS_COUNT 1 q

/-- Where an undefined output lies: the line is left or takes a free value, as a free choice says (log 29). -/
def scramble (m : Mach) (t agent a n : Nat) : Mach :=
  forN (linesIn a n) (fun i m =>
    let lo := max a ((a / 64 + i) * 64)
    let hi := min (a + n) ((a / 64 + i + 1) * 64)
    let (m, w) := m.fresh
    if w.toNat % 2 = 0 then m
    else
      match m.lookup (m.tenant t).rset lo true with
      | (m, .ok spa) =>
        let l := Config.freeLine m.free
        let m := { m with free := m.free + 1 }
        ((m.homeOrdered (spa / 64)).cohWrite (spa / 64) l ((2 ^ (hi - lo) - 1) * 2 ^ (spa % 64)) false agent).1
      | (m, .error _) => m) m

/-- Length of a descriptor's output range (R364). -/
def outLen (d : Desc) : Nat :=
  let mode := d.ivctl % 16
  match d.op with
  | 0x01 | 0x02 | 0x05 | 0x06 => d.len
  | 0x03 | 0x04 | 0x09 | 0x0A => d.auxLen
  | 0x07 => if mode = 4 then 32 else 48
  | 0x08 => if mode = 3 then 16 else if mode = 6 then 32 else 48
  | _ => 0

/-- Whether a message's key still passes on resume (R325): the slot's GEN, and the state checks of R321. A slot Exhausted meanwhile lets
the message finish (R334). -/
def keySame (m : Mach) (c : CMsg) (dec : Bool) : Bool :=
  match c.slot with
  | none => true
  | some (k, g) =>
    let s := m.slot k
    s.gen == g && (s.state == 1 || s.state == 3 || (s.state == 2 && dec))

/-- Resume the oldest suspended message of an idle pipe (R324, R325); one that SUSPEND_MAX_US has made resume runs a further 64 KiB before
it may be suspended again (R326). -/
def resume (m : Mach) (q p : Nat) : Mach :=
  let x := m.pipe q p
  match x.run, x.saved with
  | none, c :: rest =>
    match (m.queue c.queue).run.find? (fun d => d.logged && d.seq == c.seq && d.pipe == some p) with
    | none => m.setPipe q p { x with saved := rest }
    | some d =>
      let m := m.setPipe q p ⟨some { c with due := false, floor := if c.due then c.ctx.pos + 65536 else c.floor }, rest⟩
      if m.keySame c (d.op == 0x06 || d.op == 0x0A) then m.modRun c.queue c.seq (fun d => { d with suspended := false })
      else
        let t := (m.queueOwner c.queue).getD 0
        let m := m.scramble t (m.bulkAgent c.queue) d.dst (outLen d)
        let (m, w) := m.fresh
        let out := w.toNat % (d.out / 4096 + 1) * 4096
        m.modRun c.queue c.seq (fun d => { d with suspended := false, status := 0x0D, untrusted := true, info := 0, out := min d.out out, tag := none })
  | _, _ => m

/-- A message leaves its pipe: what it was is no longer running or suspended there; a suspended message whose time has
come resumes first (R326). -/
def freePipe (m : Mach) (n seq p : Nat) : Mach :=
  let q := (m.queue n).quad
  let x := m.pipe q p
  let mine (c : CMsg) : Bool := c.queue == n && c.seq == seq
  let m := m.setPipe q p ⟨x.run.filter (fun c => !mine c), x.saved.filter (fun c => !mine c)⟩
  match (m.pipe q p).saved with
  | c :: _ => if c.due then m.resume q p else m
  | [] => m

/-! ### Completions (R351, R370, R372) -/

def stale (m : Mach) (n : Nat) (d : Desc) : Bool :=
  d.cancelled || match m.queueOwner n with
    | some t => t != d.tenant || (m.tenant t).gen != d.gen
    | none => true

/-- Discard a completion of a tenant whose GEN is no longer current (R351). -/
def discard (m : Mach) (n t : Nat) : Mach :=
  let x := m.tenant t
  (m.add R.BULK_STALE_DISCARDS 1 (m.queue n).quad).setTenant t { x with staleCompl := (x.staleCompl + 1) % 2 ^ 32 }

def slotFree (q : Queue) : Bool := (q.cqTail + 1 + q.size - q.cqHead % q.size) % q.size != 0

def completionBytes (d : Desc) (phase : Bool) : List Byte :=
  bytesOf 4 d.seq ++ bytesOf 2 d.gen ++ bytesOf 1 d.status ++
    bytesOf 1 (phase.toNat + 2 * d.untrusted.toNat + 4 * d.replayed.toNat + 8 * d.partner.toNat) ++ bytesOf 8 d.out ++ ((d.bytes.drop 56).take 8) ++
    bytesOf 8 d.info

/-- Write one completion into the free slot at CQ_TAIL: log, ring, notification. -/
def writeCompletion (m : Mach) (n t : Nat) (d : Desc) : Mach :=
  let q := m.queue n
  let rec_ := completionBytes d q.phase
  let m := if d.logged then ((m.logPut (logAt q d.seq + 64) [2]).1.logPut (logAt q d.seq + 96) rec_).1 else m
  let m := if d.logged && m.durableTenant t then m.mirror q.quad (.complete n d.gen d.seq q.cqTail q.phase rec_) else m
  let m := m.tenantPut t (agentBulk q.quad) (q.cq + 32 * q.cqTail) rec_
  let wrap := decide (q.cqTail + 1 = q.size)
  let m := m.setQueue n { m.queue n with cqTail := if wrap then 0 else q.cqTail + 1, phase := if wrap then !q.phase else q.phase }
  let x := m.tenant t
  let m := (m.setTenant t { x with completed := (x.completed + 1) % 2 ^ 64 }).add R.BULK_COMPLETED_COUNT 1 q.quad
  if d.flags / 2 % 2 = 1 then
    if q.notify = 1 then (if m.dieUp (dieOf q.cid) then m.setIpend q.cid (2 ^ q.ipBit) true else m)
    else if q.notify = 2 then m.notifyVector t q.vector
    else m
  else m

/-- Completions held for a slot, in the order they were completed. -/
def drainHeld (m : Mach) (n : Nat) : Nat → Mach
  | 0 => m
  | fuel + 1 =>
    let q := m.queue n
    match q.held with
    | [] => m
    | d :: r =>
      if m.stale n d then drainHeld ((m.setQueue n { q with held := r }).discard n d.tenant) n fuel
      else if slotFree q then
        match m.queueOwner n with
        | some t => drainHeld ((m.setQueue n { q with held := r }).writeCompletion n t d) n fuel
        | none => m
      else m

/-- Whether a started descriptor's completion may be formed now: it is not suspended, its writes are visible (R370), what
PERSIST waits for is acknowledged, and FENCE has none before it (R364). -/
def mayComplete (m : Mach) (n i : Nat) (d : Desc) : Bool :=
  let q := m.queue n
  let agent := m.bulkAgent n
  d.cancelled ||
  (!d.suspended &&
   !([0, 1, 2, 3].any (fun k => (m.tq k).held.any (fun r => r.src == agent && d.heldLines.contains r.line))) &&
   d.acks.all (fun a => m.acceptMode != 6 && (m.outRing a.1).all (fun r => decide (a.2 < r.seq))) &&
   (d.op != opFence || !d.logged || (!((q.run.take i).any (fun e => e.logged && !e.cancelled)) && !(q.held.any (fun e => e.logged && !e.cancelled)))))

/-! ### Tenant commands (R352–R357) -/

/-- The staging area as a context. -/
def staged_ (m : Mach) (x : Tenant) : Tenant :=
  { x with
    kind := m.get R.TEN_TCFG_KIND
    durable := m.on R.TEN_TCFG_DURABLE
    rset := m.get R.TEN_TCFG_RSET
    queues := m.get R.TEN_TCFG_QUEUES
    qbase := m.get R.TEN_TCFG_QBASE
    bw := m.get R.TEN_TCFG_BW_SHARE
    lant := m.get R.TEN_TCFG_LANT_SHARE
    ld := m.get R.TEN_TCFG_LD
    keys := (List.range 8).map (fun n => if m.on (R.TEN_TKEY_V.at n) then some (m.get (R.TEN_TKEY_SLOT.at n)) else none)
    unbound := (List.range 8).map (fun n => if m.on (R.TEN_TKEY_V.at n) then 0 else m.get (R.TEN_TKEY_SLOT.at n))
    qBed := m.get R.TEN_TQ_BED_PAGES
    qFrame := m.get R.TEN_TQ_FRAME_PAGES
    qShed := m.get R.TEN_TQ_SHED_PAGES }

/-- TCFG of a context. -/
def cfgWord (x : Tenant) : Nat :=
  x.kind + x.durable.toNat * 2 ^ 2 + x.rset * 2 ^ 4 + x.queues * 2 ^ 16 + x.qbase * 2 ^ 25 + x.bw * 2 ^ 38 + x.lant * 2 ^ 46 + x.ld * 2 ^ 54

/-- TKEY n of a context, the number of a bound slot changed by `f`. -/
def keyWord (x : Tenant) (n : Nat) (f : Nat → Nat := id) : Nat := ((x.keys.getD n none).map f).elim (x.unbound.getD n 0) (· + 2 ^ 12)

def keyWords (x : Tenant) (f : Nat → Nat := id) : List Nat := (List.range 8).map (fun n => keyWord x n f)

/-- The window shows a Running context's values in force (R352). -/
def showTenant (m : Mach) (t : Nat) : Mach :=
  let x := m.tenant t
  if x.state ≠ 1 then m
  else
    let off (o : Nat) : Nat := pageOff 12 .ten 0 + o
    let m := m.setReg (off 0x118) (cfgWord x)
    let m := (List.range 8).foldl (fun m n => m.setReg (off (0x120 + 8 * n)) (keyWord x n)) m
    ((m.setReg (off 0x160) x.qBed).setReg (off 0x168) x.qFrame).setReg (off 0x170) x.qShed

/-- A CONTEXT record (R398). -/
def mirrorContext (m : Mach) (t op : Nat) : Mach :=
  let x := m.tenant t
  m.mirror 0 (.context t op x.gen (cfgWord x) (keyWords x) [x.qBed, x.qFrame, x.qShed])

/-- Queue blocks meet. -/
def blocksMeet (a n b k : Nat) : Bool := decide (0 < n) && decide (0 < k) && decide (a < b + k) && decide (b < a + n)

/-- A context in the shadow tables that uses a number of this one (R393). -/
def shadowClash (m : Mach) (t : Nat) (x : Tenant) : Bool :=
  m.pairState != 0 && m.pair.shCtx.any (fun e =>
    match e.2 with
    | .context u op _ cfg _ _ =>
      op != 4 && u != 0 && (u == t || bitsOf cfg 4 12 == x.rset || blocksMeet (bitsOf cfg 25 13) (bitsOf cfg 16 9) x.qbase x.queues)
    | _ => false)

def clash (m : Mach) (t : Nat) (x : Tenant) : Bool :=
  m.tenants.any (fun e => e.1 != t && e.2.state != 0 && (e.2.rset == x.rset || blocksMeet e.2.qbase e.2.queues x.qbase x.queues)) ||
  m.shadowClash t x

def badConfig (x : Tenant) : Bool :=
  decide (240 < x.queues) || decide (8192 < x.qbase + x.queues) || x.keys.any (fun k => k.any (fun s => decide (s < 16)))

/-- A draw on the Lantern pool of 256 units that the other contexts leave no room for, which is a LANT_SHARE out of range (R347, log 60). -/
def overdraws (m : Mach) (t : Nat) (x : Tenant) : Bool :=
  decide (256 < (m.tenants.filter (fun e => e.1 != t && e.2.state != 0)).foldl (fun a e => a + e.2.lant) x.lant)

/-- CREATE (R353): the result. -/
def createTenant (m : Mach) (t : Nat) : Mach × Nat :=
  let o := m.tenant t
  let x := m.staged_ o
  if o.state ≠ 0 then (m, 1)
  else if badConfig x || m.overdraws t x then (m, 2)
  else if m.clash t x then (m, 3)
  else if x.kind = 1 ∧ m.tenants.any (fun e => e.2.state != 0 && e.2.kind == 1 && e.2.ld == x.ld) then (m, 4)
  else
    let m := m.setTenant t { x with state := 1, attached := false, consent := false }
    let m := (List.range x.queues).foldl (fun m i => m.setQueue (x.qbase + i) { m.queue (x.qbase + i) with state := 0 }) m
    (if x.durable then m.mirrorContext t 1 else m, 0)

/-- RESIZE (R353, R357). -/
def resizeTenant (m : Mach) (t : Nat) : Mach × Nat :=
  let o := m.tenant t
  let x := { m.staged_ o with kind := o.kind, rset := o.rset, qbase := o.qbase, ld := o.ld }
  if o.state ≠ 1 then (m, 1)
  else if badConfig x || m.overdraws t x then (m, 2)
  else if m.clash t x then (m, 3)
  else if (List.range o.queues).any (fun i => decide (x.queues ≤ i) && (m.queue (o.qbase + i)).state != 0) then (m, 5)
  else if o.durable && !x.durable && !o.consent then (m, 6)
  else
    let m := m.setTenant t x
    (if o.durable || x.durable then m.mirrorContext t 2 else m, 0)

/-- Steps 1 and 2 of R354: nothing more is fetched, what is not started is dropped, what has started is cancelled, its
messages leave their pipes and save slots, and its output holds no defined value. A write that a home holds for it stays, and so does an
entry that waits for its acceptance, which is never given, until its log is cleared. -/
def cancelTenant (m : Mach) (t : Nat) : Mach :=
  let x := m.tenant t
  (List.range x.queues).foldl (fun m i =>
    let n := x.qbase + i
    let q := m.queue n
    let agent := m.bulkAgent n
    let mine := (q.run.filter (fun d => d.logged && !d.cancelled))
    let m := mine.foldl (fun m d =>
      let m := match d.pipe with | some p => m.freePipe n d.seq p | none => m
      m.scramble t agent d.dst (outLen d)) m
    let q := m.queue n
    let off (d : Desc) : Desc := { d with cancelled := true, pipe := none, suspended := false }
    m.setQueue n { q with live := q.live.filter (·.waitAck), run := q.run.map off, held := q.held.map off }) m

/-- RESET or DESTROY has begun. -/
def beginReset (m : Mach) (t : Nat) (destroy : Bool) : Mach :=
  let x := m.tenant t
  (m.setTenant t { x with state := if destroy then 3 else 2 }).cancelTenant t

/-- The CONTEXT record of a RESET. -/
def mirrorDur (m : Mach) (t : Nat) : Mach := if m.durableTenant t then m.mirrorContext t 3 else m

/-- Steps 4 and 5 of R354, and R355. -/
def endReset (m : Mach) (t : Nat) : Mach :=
  let x := m.tenant t
  if x.state ≠ 2 ∧ x.state ≠ 3 then m
  else
    let destroy := x.state = 3
    let m := (List.range x.queues).foldl (fun m i =>
      let n := x.qbase + i
      let q := m.queue n
      let m := (List.range (min q.size (q.nextSeq + q.live.length))).foldl (fun m k => (m.logPut (q.log + 128 * k) (bytesOf 128 0)).1) m
      let m := m.setQueue n
        { q with state := 0, halt := 0, nextSeq := 0, head := 0, tail := 0, cqHead := 0, cqTail := 0, phase := true, count := 0, live := [] }
      if q.state = 0 then m else m.mirrorQueue n) m
    let x := { x with gen := (x.gen + 1) % 2 ^ 16, state := 1 }
    let m :=
      if destroy then
        let m := if x.durable then (m.setTenant t x).mirrorContext t 4 else m
        m.setTenant t { x with state := 0, attached := false, consent := false, queues := 0, qbase := 0, rset := 0, qBed := 0, qFrame := 0, qShed := 0,
                               durable := false }
      else (m.setTenant t x).mirrorDur t
    match m.tenCmd with
    | some (op, u) => if u = t ∧ (op = 3 ∨ op = 4) then ({ m with tenCmd := none }.set R.TEN_TCMD_BUSY 0).set R.TEN_TCMD_RESULT 0 else m
    | none => m

/-- ATTACH and DETACH apply to the context at once (R356); the sweeps of ATTACH end it. -/
def attachDone (m : Mach) : Mach :=
  match m.tenCmd with
  | some (5, t) =>
    if [0, 1, 2, 3].all (fun q => !m.on R.HOME_SWEEP_BUSY q) then
      let m := m.setTenant t { m.tenant t with attached := true }
      let m := ({ m with tenCmd := none }.set R.TEN_TCMD_BUSY 0).set R.TEN_TCMD_RESULT 0
      if m.durableTenant t then m.mirrorContext t 5 else m
    else m
  | _ => m

end Mach
end Sys2Proof.Machine
end

