-- ==== Sys2Proof/Machine/BulkOps.lean ====
section
/-! DEFINITION. What a descriptor does when it starts (R293–R300, R318–R322, R364, R368–R371). -/
namespace Sys2Proof.Machine

/-- What a cipher message is made of beside its data (R325): its IV, initial counter block or data unit number, its AAD, and the bytes its
authentication or digest runs over. -/
structure MsgText where
  iv : List Nat
  aad : List Nat
  text : List Nat

/-- What a descriptor's run leaves for its completion: status, BYTES_OUT, INFO, UNTRUSTED, the lines the homes hold, the mirror records to
wait for, the tag its parameter block receives, and the message it placed. -/
structure RunRes where
  status : Nat
  out : Nat
  info : Nat
  untrusted : Bool := false
  heldLines : List Nat := []
  acks : List (Nat × Nat) := []
  tag : Option (List Byte) := none
  msg : Option MsgText := none

namespace Mach

/-- INFO of R373. -/
def infoWord (off opd : Nat) (cause wake shelf reason : Nat := 0) : Nat :=
  off % 2 ^ 32 + opd * 2 ^ 32 + cause * 2 ^ 34 + wake * 2 ^ 37 + shelf * 2 ^ 38 + reason * 2 ^ 44

/-- Why an access of the engine stopped: status and INFO. -/
abbrev Halt := Nat × Nat

/-- R371: what a refusal at the home gives. -/
def refusal (off opd : Nat) : RServe → Halt
  | .dormant n w => (0x0E, infoWord off opd 0 w.toNat n)
  | .refuse 2 => (0x11, infoWord off opd)
  | _ => (0x10, infoWord off opd)

/-- Read n bytes of a tenant from an address: the bytes read before the first stop, poisoned ranges (from, to), and the stop. -/
def bulkRead (m : Mach) (t a n opd : Nat) (copy : Bool) : Mach × List Byte × List (Nat × Nat) × Option Halt :=
  forN (linesIn a n) (fun i (r : Mach × List Byte × List (Nat × Nat) × Option Halt) =>
    match r with
    | (m, bs, pz, some h) => (m, bs, pz, some h)
    | (m, bs, pz, none) =>
      let lo := max a ((a / 64 + i) * 64)
      let hi := min (a + n) ((a / 64 + i + 1) * 64)
      let off := lo - a
      match m.lookup (m.tenant t).rset (lo % 2 ^ 64) false with
      | (m, .error c) => (m.rangeFault (m.tenant t).rset (lo % 2 ^ 64) c 2 t, bs, pz, some (0x05, infoWord off opd c))
      | (m, .ok spa) =>
        let part (l : Line) : List Byte := ((bytesOf 64 l.toNat).drop (spa % 64)).take (hi - lo)
        match (m.homeOrdered (spa / 64)).cohRead (spa / 64) with
        | (m, .line (.ok l)) => (m, bs ++ part l, pz, none)
        | (m, .line .poison) =>
          if copy then (m, bs ++ List.replicate (hi - lo) 0, pz ++ [(off, off + (hi - lo))], none)
          else (m, bs, pz, some (0x0F, infoWord off opd))
        | (m, .line .unreadable) => (m, bs, pz, some (0x10, infoWord off opd))
        | (m, s) => (m, bs, pz, some (refusal off opd s))) (m, [], [], none)

/-- Write bytes for a tenant at an address: how many were written before the first stop, the lines the homes hold, and the
stop. Lines that meet a poisoned range are written poisoned (R371). -/
def bulkWrite (m : Mach) (t agent a : Nat) (b : List Byte) (pz : List (Nat × Nat)) (opd : Nat := 1) : Mach × Nat × List Nat × Option Halt :=
  let n := b.length
  forN (linesIn a n) (fun i (r : Mach × Nat × List Nat × Option Halt) =>
    match r with
    | (m, k, hs, some h) => (m, k, hs, some h)
    | (m, k, hs, none) =>
      let lo := max a ((a / 64 + i) * 64)
      let hi := min (a + n) ((a / 64 + i + 1) * 64)
      let off := lo - a
      match m.lookup (m.tenant t).rset (lo % 2 ^ 64) true with
      | (m, .error c) => (m.rangeFault (m.tenant t).rset (lo % 2 ^ 64) c 2 t, k, hs, some (0x05, infoWord off opd c))
      | (m, .ok spa) =>
        let v := ofBytes ((b.drop off).take (hi - lo)) * 2 ^ (8 * (spa % 64))
        let bad := pz.any (fun z => decide (z.1 < off + (hi - lo)) && decide (off < z.2))
        match (m.homeOrdered (spa / 64)).cohWrite (spa / 64) (BitVec.ofNat 512 v) ((2 ^ (hi - lo) - 1) * 2 ^ (spa % 64)) bad agent with
        | (m, .done) => (m, k + (hi - lo), hs, none)
        | (m, .wait) => (m, k + (hi - lo), hs ++ [spa / 64], none)
        | (m, .refuse 2) => (m, k, hs, some (0x11, infoWord off opd))
        | (m, .refuse _) => (m, k, hs, some (0x10, infoWord off opd))) (m, 0, [], none)

/-! ### Checks (R293, R318, R320, R322, R364) -/

def opsStream : List Nat := [0x03, 0x04, 0x09, 0x0A]
def opsCipher : List Nat := [0x05, 0x06, 0x07, 0x08, 0x09, 0x0A]

def cmode (d : Desc) : Nat := d.ivctl % 16
def isHash (d : Desc) : Bool := d.op == 0x07 || (d.op == 0x08 && decide (6 ≤ cmode d))
def tagLen (d : Desc) : Nat := if bitsOf d.ivctl 6 5 = 0 then 16 else bitsOf d.ivctl 6 5
def fmt (d : Desc) : Nat := d.cctl % 8
def level (d : Desc) : Nat := bitsOf d.cctl 4 4
def multi (d : Desc) : Bool := bitsOf d.cctl 8 1 == 1

/-- CCTL of a stream descriptor is not allowed (R293, R300). -/
def badCctl (d : Desc) : Bool :=
  let comp := d.op == 0x03 || d.op == 0x09
  decide (4 < fmt d) || bitsOf d.cctl 3 1 == 1 || decide (2 ^ 9 ≤ d.cctl) || (comp && !Stream.levelOk (fmt d) (level d)) ||
  (comp && fmt d == 4 && d.len != 4096)

/-- IVCTL of a cipher descriptor is not allowed for its opcode (R318, R320, R322). -/
def badIvctl (d : Desc) : Bool :=
  let c := cmode d
  let okMode := match d.op with
    | 0x05 | 0x06 => decide (c < 3)
    | 0x07 => c == 4 || c == 5
    | 0x08 => c == 3 || c == 6 || c == 7
    | _ => c == 0
  let aes128 := bitsOf d.ivctl 4 1 == 1
  let ivgen := bitsOf d.ivctl 5 1 == 1
  let tl := bitsOf d.ivctl 6 5
  !okMode || (aes128 && !([0, 2, 3].contains c)) || (ivgen && !(c == 0 && (d.op == 0x05 || d.op == 0x09))) ||
  (c == 0 && tl != 0 && (decide (tl < 12) || decide (16 < tl))) || decide (2 ^ 11 ≤ d.ivctl) ||
  (c == 1 && (decide (d.len < 16) || decide (16777216 < d.len))) ||
  (!opsStream.contains d.op && decide (d.auxLen < outLen d))

def overlaps (a n b k : Nat) : Bool := decide (0 < n) && decide (0 < k) && decide (a < b + k) && decide (b < a + n)

/-- R364: the descriptor ends BAD_PARAM. -/
def badParam (q : Queue) (d : Desc) : Bool :=
  let o := d.op
  d.field 1 1 != 0 || decide (8 ≤ d.flags) || d.field 42 6 != 0 || (d.urgent && !q.urgentOk) ||
  ([0x05, 0x06, 0x08, 0x09, 0x0A].contains o && decide (7 < d.keysel)) ||
  (opsStream.contains o && badCctl d) || (opsCipher.contains o && badIvctl d) ||
  ([0x01, 0x03, 0x04, 0x05, 0x06, 0x09, 0x0A].contains o && overlaps d.src d.len d.dst (outLen d)) ||
  ([0x05, 0x06, 0x09, 0x0A].contains o && d.aad % 64 != 0) ||
  ((o == 0x0B || o == 0x0C) && (d.src % 4096 != 0 || d.len % 4096 != 0)) ||
  (o == 0x0C && !([1, 2].contains (d.auxLen % 4)))

/-! ### Keys (R320, R321) -/

/-- ALG a MODE asks for. -/
def wantAlg (d : Desc) : Nat :=
  match cmode d with
  | 1 => 2
  | 6 | 7 => 4
  | _ => if bitsOf d.ivctl 4 1 = 1 then 0 else 1

/-- The slot of a keyed message, or the status that ends it; the even slot of an XTS pair needs its odd half Active too (R332). An
Exhausted slot passes the state check and is at its limit (R334, crossing 8 of chapter 11). -/
def checkKey (m : Mach) (t : Nat) (d : Desc) : Except Nat Nat :=
  match m.keyOf t d.keysel with
  | none => .error 0x0A
  | some k =>
    let s := m.slot k
    let dec := d.op == 0x06 || d.op == 0x0A
    let use := if d.op = 0x08 then useMac else if dec then useDec else useEnc
    let stateOk (s : Slot) : Bool := s.state == 1 || (s.state == 2 && dec)
    if !stateOk s ∧ s.state ≠ 3 then .error 0x0A
    else if s.alg ≠ wantAlg d ∨ (s.alg = 2 ∧ (k % 2 = 1 ∨ (m.slot (k + 1)).alg ≠ 3 ∨ !stateOk (m.slot (k + 1)))) then .error 0x0A
    else if !has s.usage use then .error 0x0A
    else if s.owner ≠ t ∨ s.pkgOwned then .error 0x0A
    else if s.state = 3 ∨ (s.limit ≠ 0 ∧ s.limit ≤ s.use) ∨ !d.ivOk then .error 0x0B
    else .ok k

/-! ### Opcodes -/

/-- Whole pieces of 4 KiB before a stop (R369). -/
def wholePieces (n : Nat) : Nat := n / 4096 * 4096

/-- An end with a status, BYTES_OUT and INFO alone. -/
def res (status out info : Nat) : RunRes := { status := status, out := out, info := info }

/-- What follows a read that may have stopped and a write of what was read. -/
def after (w : Nat × List Nat × Option Halt) (rd : Option Halt) (ok : RunRes) : RunRes :=
  match w.2.2, rd with
  | some h, _ => { res h.1 w.1 h.2 with heldLines := w.2.1 }
  | none, some h => { res h.1 w.1 h.2 with heldLines := w.2.1 }
  | none, none => { ok with heldLines := w.2.1 }

/-- The bytes of memory behind a tenant's range, as the start and end of each line's part. -/
def spaParts (m : Mach) (t a n : Nat) : List (Nat × Nat) :=
  (List.range (linesIn a n)).filterMap (fun i =>
    let lo := max a ((a / 64 + i) * 64)
    let hi := min (a + n) ((a / 64 + i + 1) * 64)
    match (m.lookup (m.tenant t).rset (lo % 2 ^ 64) false).2 with
    | .ok spa => some (spa, spa + (hi - lo))
    | .error _ => none)

/-- Source and destination are one memory under two addresses in part (R298). -/
def aliased (m : Mach) (t : Nat) (d : Desc) : Bool :=
  let dst := m.spaParts t d.dst (outLen d)
  (m.spaParts t d.src d.len).any (fun x => dst.any (fun y => decide (x.1 < y.2) && decide (y.1 < x.2)))

/-- Output that holds no defined value: of a stream what lies beyond BYTES_OUT, and all of it where its source and destination overlap
(R297, R298); of the others what lies beyond BYTES_OUT where they end neither DONE nor BAD_PARAM (R369). Nothing is written where the key
does not pass (R321). -/
def leaveOpen (m : Mach) (t agent : Nat) (d : Desc) (r : RunRes) : Mach :=
  if r.status ∈ [0x02, 0x0A, 0x0B] then m
  else if opsStream.contains d.op && m.aliased t d then m.scramble t agent d.dst (outLen d)
  else if r.status = 0 && !opsStream.contains d.op then m
  else m.scramble t agent (d.dst + r.out) (outLen d - r.out)

def countIn (m : Mach) (q n : Nat) : Mach := m.add R.BULK_BYTES_IN_COUNT n q

def runCopy (m : Mach) (t q : Nat) (d : Desc) : Mach × RunRes :=
  let (m, b, pz, h) := m.bulkRead t d.src d.len 0 true
  let n := if h.isSome then wholePieces b.length else b.length
  let (m, w) := m.bulkWrite t (agentBulk q) d.dst (b.take n) pz
  let ok : RunRes := match pz with
    | [] => res 0 d.len 0
    | z :: _ => res 0x0F d.len (infoWord z.1 0)
  let r := after w h ok
  (m.countIn q b.length, r)

def runFill (m : Mach) (t q : Nat) (d : Desc) : Mach × RunRes :=
  let pat := (d.bytes.drop 48).take 8
  let (m, w) := m.bulkWrite t (agentBulk q) d.dst ((List.range d.len).map (fun k => pat.getD (k % 8) 0)) []
  (m, after w none (res 0 d.len 0))

/-- The first failure of a quadrant's streams (R297, R301). -/
def streamErr (m : Mach) (q t : Nat) (d : Desc) (reason off : Nat) : Mach :=
  if m.on R.CODEC_STREAM_ERR_VALID q then m
  else ((((m.set R.CODEC_STREAM_ERR_VALID 1 q).set R.CODEC_STREAM_ERR_REASON reason q).set R.CODEC_STREAM_ERR_FMT (fmt d) q).set
    R.CODEC_STREAM_ERR_TENANT t q).set R.CODEC_STREAM_ERR_OFFSET off q

/-- STREAMS, STREAM_IN and STREAM_OUT (R301). -/
def countStream (m : Mach) (q used : Nat) (r : RunRes) : Mach :=
  ((if r.status = 0 then m.add R.CODEC_STREAMS_COMPLETED 1 q else m.add R.CODEC_STREAMS_FAILED 1 q).add R.CODEC_STREAM_IN_BYTES used q).add
    R.CODEC_STREAM_OUT_BYTES r.out q

/-- A stream descriptor ends: one that ends MALFORMED, UNSUPPORTED or CHECK_FAIL is recorded where it is the quadrant's first (R297),
with the REASON and offset its INFO holds. -/
def endStream (m : Mach) (t q : Nat) (d : Desc) (used : Nat) (r : RunRes) : Mach :=
  let m := if r.status = 7 ∨ r.status = 8 ∨ r.status = 9 then m.streamErr q t d (bitsOf r.info 44 4) (bitsOf r.info 0 32) else m
  m.countStream q used r

/-- Lines of a page given as bytes. -/
def pageOfBytes (b : List Byte) : List Line := (List.range 64).map (fun i => lineOfBytes b i)

/-- The compressed form of bytes read whole (R293–R296, R300). -/
def packed (m : Mach) (q : Nat) (d : Desc) (b : List Byte) : Mach × List Byte :=
  if fmt d = 4 then
    let en := Frame.encode 3 16 (pageOfBytes b)
    (m.countCodec q en, en.bytes)
  else (m, Crypto.toBytes (Stream.compress (fmt d) (level d) (Crypto.ofB b)))

/-- What decompressing bytes gives: the output, REASON (0 none), status, and the input offset. -/
def unpacked (m : Mach) (q : Nat) (d : Desc) (b : List Byte) : Mach × List Byte × Nat × Nat × Nat :=
  if fmt d = 4 then
    match Frame.decodeBulk b with
    | .page ls => (m.add R.CODEC_PAGES_DEC_COUNT 1 q, pageBytes ls, 0, 0, min b.length (Frame.header b).len)
    | .badVersion => (m, [], 10, 0x08, 0)
    | .badFormat => (m, [], 10, 0x07, 0)
  else
    let r := Stream.decompress (fmt d) (multi d) (Crypto.ofB b)
    (m, Crypto.toBytes r.out.toList, r.reason, if r.reason = 0 then 0 else Stream.statusOf (fmt d) r.reason, r.off)

/-- Put a stream's output: cut at AUX_LEN (OUTPUT_FULL), and its own status where it has one. -/
def putStream (m : Mach) (t q : Nat) (d : Desc) (o : List Byte) (reason status off : Nat) : Mach × RunRes :=
  let cut := decide (d.auxLen < o.length)
  let (m, w) := m.bulkWrite t (agentBulk q) d.dst (o.take d.auxLen) []
  let ok : RunRes :=
    if cut then res 0x06 d.auxLen 0
    else if reason = 0 then res 0 o.length 0
    else res status o.length (infoWord off 0 0 0 0 reason)
  (m, after w none ok)

/-- A stream whose input stops part way: what the bytes before it decode to has been written (R369). -/
def partStream (m : Mach) (t q : Nat) (d : Desc) (b : List Byte) (h : Halt) : Mach × RunRes :=
  if fmt d = 4 then (m, res h.1 0 h.2)
  else
    let (m, o, reason, status, off) := m.unpacked q d (b.take (wholePieces b.length))
    if reason = 6 ∨ reason = 0 then
      let (m, w) := m.bulkWrite t (agentBulk q) d.dst (o.take d.auxLen) []
      (m, if d.auxLen < o.length then after w none (res 0x06 d.auxLen 0) else after w (some h) (res 0 0 0))
    else m.putStream t q d o reason status off

def runCompress (m : Mach) (t q : Nat) (d : Desc) : Mach × RunRes :=
  let (m, b, _, h) := m.bulkRead t d.src d.len 0 false
  let m := m.countIn q b.length
  let (m, r) := match h with
    | some h => (m, res h.1 0 h.2)
    | none =>
      let (m, o) := m.packed q d b
      m.putStream t q d o 0 0 0
  (m.endStream t q d b.length r, r)

def runDecompress (m : Mach) (t q : Nat) (d : Desc) : Mach × RunRes :=
  let (m, b, _, h) := m.bulkRead t d.src (if fmt d = 4 then min d.len 4252 else d.len) 0 false
  let m := m.countIn q b.length
  let (m, r) := match h with
    | some h => m.partStream t q d b h
    | none =>
      let (m, o, reason, status, off) := m.unpacked q d b
      m.putStream t q d o reason status off
  (m.endStream t q d b.length r, r)

/-! ### Cipher work (R318–R322) -/

/-- The cipher parameter block as it was read (R319). -/
structure Cpb where
  iv : List Byte
  tag : List Byte
  aadAddr : Nat
  aadLen : Nat
  rest : Nat

def cpbOf (b : List Byte) : Cpb :=
  ⟨b.take 16, (b.drop 16).take 16, ofBytes ((b.drop 32).take 8), ofBytes ((b.drop 40).take 4), ofBytes ((b.drop 44).take 20)⟩

/-- Everything a GCM, XTS or CTR message needs beside its data: the parameter block, and for GCM its AAD. -/
def readCpb (m : Mach) (t : Nat) (d : Desc) : Mach × Except Halt (Cpb × List Byte) :=
  match m.bulkRead t d.aad 64 2 false with
  | (m, _, _, some h) => (m, .error h)
  | (m, b, _, none) =>
    let c := cpbOf b
    if c.rest ≠ 0 ∨ (cmode d = 0 ∧ 65536 < c.aadLen) then (m, .error (0x02, 0))
    else if cmode d ≠ 0 then (m, .ok (c, []))
    else
      match m.bulkRead t c.aadAddr c.aadLen 3 false with
      | (m, _, _, some h) => (m, .error h)
      | (m, a, _, none) => (m, .ok (c, a))

/-- The IV of a GCM message: the descriptor's for IVGEN, else the block's. -/
def gcmIvOf (d : Desc) (c : Cpb) : List Nat := if bitsOf d.ivctl 5 1 = 1 then Crypto.ofB d.iv else Crypto.ofB (c.iv.take 12)

/-- The key bytes of a slot. -/
def keyBytes (m : Mach) (k : Nat) : List Nat := Crypto.ofB (m.slot k).key

/-- Encrypt or decrypt bytes of a message from its start. -/
def cipher (m : Mach) (k : Nat) (d : Desc) (c : Cpb) (enc : Bool) (b : List Byte) : List Byte :=
  let x := Crypto.ofB b
  Crypto.toBytes (match cmode d with
    | 0 => Crypto.gcmCrypt (m.keyBytes k) (gcmIvOf d c) x
    | 1 => Crypto.xts enc (m.keyBytes k) (m.keyBytes (k + 1)) (Crypto.leVal (Crypto.ofB c.iv)) x
    | _ => Crypto.ctr (m.keyBytes k) (Crypto.ofB c.iv) x)

/-- The tag of a GCM message over its ciphertext, cut to TAGLEN and filled with zeros. -/
def tagOf (m : Mach) (k : Nat) (d : Desc) (c : Cpb) (aad ct : List Byte) : List Byte :=
  let t := Crypto.toBytes (Crypto.gcmTag (m.keyBytes k) (gcmIvOf d c) (Crypto.ofB aad) (Crypto.ofB ct))
  t.take (tagLen d) ++ List.replicate (16 - tagLen d) 0

/-- What a context save slot would need of a message. -/
def textOf (d : Desc) (c : Cpb) (aad ct : List Byte) : MsgText :=
  ⟨if cmode d = 0 then gcmIvOf d c else Crypto.ofB c.iv, if cmode d = 0 then Crypto.ofB aad else [], Crypto.ofB ct⟩

/-- The parameter block as it is written when an encryption ends (R319): the tag, and for IVGEN the IV. -/
def putCpb (m : Mach) (t agent : Nat) (d : Desc) (tag : List Byte) : Mach × Nat × List Nat × Option Halt :=
  let m := if bitsOf d.ivctl 5 1 = 1 then (m.bulkWrite t agent d.aad d.iv [] 2).1 else m
  m.bulkWrite t agent (d.aad + 16) tag [] 2

/-- ENCRYPT and DECRYPT. -/
def runCrypt (m : Mach) (t q k : Nat) (d : Desc) (enc : Bool) : Mach × RunRes :=
  let agent := agentBulk q
  match m.readCpb t d with
  | (m, .error h) => (m, res h.1 0 h.2)
  | (m, .ok (c, aad)) =>
    let (m, b, _, h) := (m.useSlot k 1).bulkRead t d.src d.len 0 false
    let m := (m.countIn q b.length).add R.CIPH_BYTES_COUNT b.length q
    let b := if h.isSome then b.take (wholePieces b.length) else b
    let o := m.cipher k d c enc b
    let (m, w) := m.bulkWrite t agent d.dst o []
    let r := { after w h (res 0 d.len 0) with msg := some (textOf d c aad (if enc then o else b)) }
    if r.status ≠ 0 ∨ cmode d ≠ 0 then (m, r)
    else if enc then (m, { r with tag := some (m.tagOf k d c aad o) })
    else if m.tagOf k d c aad b = c.tag.take (tagLen d) ++ List.replicate (16 - tagLen d) 0 then (m, r)
    else (m.add R.CIPH_AUTH_FAIL_ORDINARY 1 q, { r with status := 0x0C, untrusted := true })

/-- HASH and MAC: the digest or tag of the source. -/
def runDigest (m : Mach) (t q : Nat) (k : Option Nat) (d : Desc) : Mach × RunRes :=
  let (m, b, _, h) := (k.elim m (fun k => m.useSlot k 1)).bulkRead t d.src d.len 0 false
  let m := (m.countIn q b.length).add R.CIPH_BYTES_COUNT b.length q
  match h with
  | some h => (m, res h.1 0 h.2)
  | none =>
    let key := match k with | some k => m.keyBytes k | none => []
    let x := Crypto.ofB b
    let o := match cmode d with
      | 3 => Crypto.cmac key x
      | 4 => Crypto.sha Crypto.sha256P x
      | 5 => Crypto.sha Crypto.sha384P x
      | 6 => Crypto.hmac Crypto.sha256P key x
      | _ => Crypto.hmac Crypto.sha384P key x
    let (m, w) := m.bulkWrite t (agentBulk q) d.dst (Crypto.toBytes o) []
    (m, { after w none (res 0 o.length 0) with msg := some ⟨[], [], x⟩ })

/-- PACK: compress, then GCM over the compressed stream (R320). -/
def runPack (m : Mach) (t q k : Nat) (d : Desc) : Mach × RunRes :=
  match m.readCpb t d with
  | (m, .error h) => (m.countStream q 0 (res h.1 0 h.2), res h.1 0 h.2)
  | (m, .ok (c, aad)) =>
    let (m, b, _, h) := (m.useSlot k 1).bulkRead t d.src d.len 0 false
    let m := m.countIn q b.length
    let (m, r) := match h with
      | some h => (m, res h.1 0 h.2)
      | none =>
        let (m, o) := m.packed q d b
        let ct := m.cipher k d c true o
        let (m, r) := (m.add R.CIPH_BYTES_COUNT o.length q).putStream t q d ct 0 0 0
        (m, { r with msg := some (textOf d c aad ct), tag := if r.status = 0 then some (m.tagOf k d c aad ct) else none })
    (m.endStream t q d b.length r, r)

/-- UNPACK: GCM decryption of LEN bytes, then decompression; a tag that does not match gives AUTH_FAIL whatever the stream
was (R307). -/
def runUnpack (m : Mach) (t q k : Nat) (d : Desc) : Mach × RunRes :=
  match m.readCpb t d with
  | (m, .error h) => (m.countStream q 0 (res h.1 0 h.2), res h.1 0 h.2)
  | (m, .ok (c, aad)) =>
    let (m, b, _, h) := (m.useSlot k 1).bulkRead t d.src d.len 0 false
    let m := (m.countIn q b.length).add R.CIPH_BYTES_COUNT b.length q
    let (m, r) := match h with
      | some h => m.partStream t q d (m.cipher k d c false b) h
      | none =>
        let (m, o, reason, status, off) := m.unpacked q d (m.cipher k d c false b)
        let (m, r) := m.putStream t q d o reason status off
        let r := { r with msg := some (textOf d c aad b) }
        if m.tagOf k d c aad b = c.tag.take (tagLen d) ++ List.replicate (16 - tagLen d) 0 then (m, r)
        else (m.add R.CIPH_AUTH_FAIL_ORDINARY 1 q, { r with status := 0x0C, untrusted := true, info := 0 })
    (m.endStream t q d b.length r, r)

/-! ### Hints, PERSIST (R364) -/

/-- A page lies where a hint asks for it, moves there, or waits to: a hint that is repeated changes nothing further and says the same
(R374). -/
def hinted (m : Mach) (page : Nat) (toTier : Option Nat) : Bool :=
  let e := m.entry page
  let moving (p : Move → Bool) : Bool := (m.moveOf page).any (fun x => p x.2)
  match toTier with
  | none => (eTier e == tierBed && eState e != stDemoting) || moving (fun v => v.promote && v.dstTier == tierBed) || (m.tq (homeOf page)).want.contains page
  | some x =>
    let tier := if x = 1 then tierFrame else tierShed
    (eTier e == tier && eState e != stPromoting) || moving (fun v => !v.promote && v.dstTier == tier)

/-- One page of a hint: whether it was acted on. -/
def hintPage (m : Mach) (t page : Nat) (toTier : Option Nat) : Mach × Bool :=
  let q := homeOf page
  let e := m.entry page
  let stable (x : Nat) : Bool := eState e == stStable && eTier e == x
  if eTier e = tierNone ∨ eTenant e ≠ t ∨ !m.tierReady q ∨ m.mapUnreadable page then (m, false)
  else if m.hinted page toTier then (m, true)
  else match toTier with
    | none =>
      if (stable tierFrame || stable tierShed) && !m.asleep page && !m.promoteQuota page then
        ((m.promoteOrWait page).1, true)
      else (m, false)
    | some x =>
      if !(stable tierBed || (stable tierFrame && x != 1)) || ePin e then (m, false)
      else if !m.hasRoom (m.acctTenant page) (if x = 1 then tierFrame else tierShed) q || (x == 1 && m.act R.TIER_POLICY_FRAME_EN q == 0) then (m, false)
      else match m.beginDemotion page x with
        | (m, .started _) => (m, true)
        | (m, .zeroed) => (m, true)
        | (m, _) => (m, false)

def runHint (m : Mach) (t : Nat) (d : Desc) (toTier : Option Nat) : Mach × RunRes :=
  let (m, done, skip, h) := forN (d.len / 4096) (fun i (r : Mach × Nat × Nat × Option Halt) =>
    match r with
    | (m, done, skip, some h) => (m, done, skip, some h)
    | (m, done, skip, none) =>
      let a := (d.src + 4096 * i) % 2 ^ 64
      match m.lookup (m.tenant t).rset a false with
      | (m, .error c) => (m.rangeFault (m.tenant t).rset a c 2 t, done, skip, some (0x05, infoWord (4096 * i) 0 c))
      | (m, .ok spa) =>
        match m.hintPage t (pageOf spa) toTier with
        | (m, true) => (m, done + 1, skip, none)
        | (m, false) => (m, done, skip + 1, none)) (m, 0, 0, none)
  match h with
  | some h => (m, res h.1 0 h.2)
  | none => (m, res 0 (4096 * done) skip)

/-- Clean one line to its home as a CLN Flush does (R196): durable writes still in a die are committed (R386), the owner's value is
written and its copy becomes clean, and the MSC's copy goes to the tier path. It waits where one of these has to. -/
def cleanLine (m : Mach) (line agent : Nat) : Mach × WRes :=
  let m := m.durNow line
  let kept := (List.range 12).any (fun d => (m.lines.find (lineKey d line)).any (fun x => x.st == .e))
  let put : Mach × WRes := match m.ownerLine line with
    | none => (m, .done)
    | some (v, p) =>
      if kept then (m, .done)
      else m.linePut { k := .wbDirty, src := agent, line := line, data := v, mask := fullMask, poison := p } false none
  match put with
  | (m, .refuse c) => (m, .refuse c)
  | (m, _) =>
    let m :=
      if m.lineBusy line || kept then m
      else
        let m := { m with lines := m.lines.mapV (fun k x =>
          if k % 2 ^ 42 = line then { x with st := match x.st with | .m => LSt.e | .o => LSt.s | y => y, writers := [] } else x) }
        match m.filter.find line with
        | some f => if f.st = .o then m.setFilter line { f with st := FSt.s } else m
        | none => m
    if m.heldWrites line ≠ [] then (m, .wait)
    else match m.mscClean line with
      | (m, true) => (m, .done)
      | (m, false) => (m, .wait)

/-- The mirror records that PERSIST waits for where acceptance is the partner's (R381): all there are. -/
def persistAcks (m : Mach) : List (Nat × Nat) :=
  if m.acceptMode = 4 ∨ m.acceptMode = 6 then [0, 1, 2, 3].map (fun k => (k, m.pair.next.getD k 1 - 1)) else []

/-- PERSIST: its completion waits for the lines that wait at their homes, and for the mirror records of the durable lines it cleaned. -/
def runPersist (m : Mach) (t agent : Nat) (d : Desc) : Mach × RunRes :=
  let a := d.dst
  let n := d.len
  let (m, hs, h) := forN (linesIn a n) (fun i (r : Mach × List Nat × Option Halt) =>
    match r with
    | (m, hs, some h) => (m, hs, some h)
    | (m, hs, none) =>
      let lo := max a ((a / 64 + i) * 64)
      match m.lookup (m.tenant t).rset (lo % 2 ^ 64) false with
      | (m, .error c) => (m.rangeFault (m.tenant t).rset (lo % 2 ^ 64) c 2 t, hs, some (0x05, infoWord (lo - a) 1 c))
      | (m, .ok spa) =>
        if m.mapUnreadable (pageOf spa) then (m.mapFault (pageOf spa), hs, some (0x10, infoWord (lo - a) 1))
        else if eTier (m.entry (pageOf spa)) = tierNone then (m, hs, some (0x11, infoWord (lo - a) 1))
        else if !m.tierReady (homeOf spa) || m.writeNotReady spa then (m, hs, some (0x10, infoWord (lo - a) 1))
        else match (m.homeOrdered (spa / 64)).cleanLine (spa / 64) agent with
          | (m, .done) => (m, hs, none)
          | (m, .wait) => (m, hs ++ [spa / 64], none)
          | (m, .refuse 2) => (m, hs, some (0x11, infoWord (lo - a) 1))
          | (m, .refuse _) => (m, hs, some (0x10, infoWord (lo - a) 1))) (m, [], none)
  match h with
  | some h => (m, { res h.1 0 h.2 with heldLines := hs })
  | none => (m, { res 0 n 0 with heldLines := hs, acks := m.persistAcks })

/-! ### Starting a descriptor (R368) -/

/-- Descriptors a BULK instance has started and not completed. -/
def inflight (m : Mach) (q : Nat) : Nat :=
  (m.queues.filter (fun x => x.2.quad == q)).foldl (fun a x => a + (x.2.run.filter (fun d => d.logged && !d.cancelled)).length) 0

def inflightMax (m : Mach) (q : Nat) : Nat := max 1 (min 128 (m.act R.BULK_CTL_INFLIGHT q))

/-- The next descriptor of a queue where it may start: accepted, first in SEQ order, after what FENCE and ORDERED ask. -/
def nextDesc (m : Mach) (n : Nat) : Option (Nat × Desc) :=
  let q := m.queue n
  match m.queueOwner n, q.live with
  | some t, d :: _ =>
    let open_ := (q.run ++ q.held).filter (fun e => !e.cancelled)
    if d.waitAck ∨ (m.tenant t).state ≠ 1 ∨ !m.bulkReady q.quad ∨ open_.any (fun e => e.logged && e.op == opFence) ∨ (d.ordered ∧ open_ ≠ []) ∨
        m.inflightMax q.quad ≤ m.inflight q.quad then none
    else some (t, d)
  | _, _ => none

/-- A keyed message of the descriptor: none for the others. -/
def keyed (d : Desc) : Bool := [0x05, 0x06, 0x08, 0x09, 0x0A].contains d.op

/-- The pipe a descriptor's message would take: `some none` where it needs none. -/
def pipeFor (m : Mach) (t : Nat) (q : Queue) (d : Desc) : Option (Option Nat) :=
  if !opsCipher.contains d.op || badParam q d then some none
  else if keyed d && (match m.checkKey t d with | .ok _ => false | .error _ => true) then some none
  else if !m.hon R.HDR_STATUS_READY .ciph q.quad || !m.takesNew .ciph q.quad then none
  else match m.placeFor q.quad (isHash d) d.urgent with
    | some p => some (some p)
    | none => none

/-- The page pipes of a quadrant have a decode that a demand waits for, or a tier move, to do before any bulk descriptor (R277): a
promotion of an encoded page whose source is all in. -/
def pagePipesBusy (m : Mach) (q : Nat) : Bool :=
  m.moves.any (fun x => x.1 / 64 == q && x.2.promote && x.2.phase == 1 && x.2.dstTier == tierBed &&
    (x.2.srcTier == tierFrame || (x.2.srcCmp && x.2.units + 1 == 2 ^ unitsOf true x.2.srcPlots)))

/-- Whether the units the descriptor needs can take it now. -/
def canStart (m : Mach) (n : Nat) : Option (Nat × Desc × Option Nat) :=
  match m.nextDesc n with
  | none => none
  | some (t, d) =>
    let q := m.queue n
    if opsStream.contains d.op && (!m.hon R.HDR_STATUS_READY .codec q.quad || !m.takesNew .codec q.quad) then none
    else if opsStream.contains d.op && fmt d == 4 && m.pagePipesBusy q.quad then none
    else match m.pipeFor t q d with
      | none => none
      | some p => some (t, d, p)

/-- URGENT first (R368): another queue of the instance has an urgent descriptor that can start. -/
def urgentElsewhere (m : Mach) (n : Nat) : Bool :=
  let q := (m.queue n).quad
  m.queues.any (fun x => x.1 != n && x.2.quad == q && match m.canStart x.1 with
    | some (_, d, _) => d.urgent
    | none => false)

/-- The queues of an instance, with their tenants, whose next descriptor, not an urgent one, can start. -/
def startable (m : Mach) (q : Nat) : List (Nat × Nat) :=
  m.queues.filterMap (fun x =>
    if x.2.quad = q then match m.canStart x.1 with
      | some (t, d, _) => if d.urgent then none else some (x.1, t)
      | none => none
    else none)

/-- The number after a given one in turn. -/
def nextAfter (xs : List Nat) (a : Nat) : Option Nat := ((xs.filter (a < ·)).min?).orElse fun _ => xs.min?

/-- Descriptors a tenant starts in its turn: its weight (R347, R368, log 61). -/
def weight (m : Mach) (t : Nat) : Nat := max 1 (m.tenant t).bw

/-- The queue whose turn it is: the tenants in weighted round-robin, and the queues of a tenant in turn (R368). -/
def turnOf (m : Mach) (q : Nat) : Option Nat :=
  let xs := m.startable q
  let a := m.arb.getD q ⟨0, 0⟩
  let t := if 0 < a.left && xs.any (fun x => x.2 == a.tenant) then some a.tenant else nextAfter (xs.map (·.2)) a.tenant
  t.bind (fun t => nextAfter ((xs.filter (fun x => x.2 == t)).map (·.1)) (m.turns.getD (q * 2048 + t) 0))

/-- A queue of a tenant has had its turn. -/
def tookTurn (m : Mach) (q t n : Nat) : Mach :=
  let a := m.arb.getD q ⟨0, 0⟩
  let left := if 0 < a.left ∧ a.tenant = t then a.left - 1 else m.weight t - 1
  { m with arb := m.arb.ins q ⟨t, left⟩, turns := m.turns.ins (q * 2048 + t) n }

/-- What a started descriptor does. -/
def runDesc (m : Mach) (n t : Nat) (d : Desc) : Mach × RunRes :=
  let qq := m.queue n
  let q := qq.quad
  let bad (s : Nat) (i : Nat := 0) : RunRes := res s 0 i
  let withKey (m : Mach) (f : Mach → Nat → Mach × RunRes) : Mach × RunRes :=
    match m.checkKey t d with
    | .error s => ((if opsStream.contains d.op then m.countStream q 0 (bad s) else m), bad s (d.keysel % 8))
    | .ok k => f m k
  if badParam qq d then ((if opsStream.contains d.op then m.countStream q 0 (bad 2) else m), bad 2)
  else match d.op with
    | 0x01 => m.runCopy t q d
    | 0x02 => m.runFill t q d
    | 0x03 => m.runCompress t q d
    | 0x04 => m.runDecompress t q d
    | 0x05 => withKey m (fun m k => m.runCrypt t q k d true)
    | 0x06 => withKey m (fun m k => m.runCrypt t q k d false)
    | 0x07 => m.runDigest t q none d
    | 0x08 => withKey m (fun m k => m.runDigest t q (some k) d)
    | 0x09 => withKey m (fun m k => m.runPack t q k d)
    | 0x0A => withKey m (fun m k => m.runUnpack t q k d)
    | 0x0B => m.runHint t d none
    | 0x0C => m.runHint t d (some (d.auxLen % 4))
    | 0x0D => m.runPersist t (agentBulk q) d
    | _ => (m, res 0 0 0)

/-- The message on a pipe has its text. -/
def fillMsg (m : Mach) (q p n seq : Nat) (x : MsgText) : Mach :=
  let o := m.pipe q p
  m.setPipe q p { o with run := o.run.map (fun c =>
    if c.queue = n ∧ c.seq = seq then { c with iv := x.iv, aad := x.aad, text := x.text, len := x.text.length } else c) }

/-- The next descriptor of a queue starts if it has this opcode and the order of R368 lets it. -/
def startDesc (m : Mach) (n op : Nat) : Mach :=
  match m.canStart n with
  | none => m
  | some (t, d, p) =>
    let q := (m.queue n).quad
    if d.op ≠ op ∨ (!d.urgent && (m.urgentElsewhere n || m.turnOf q != some n)) then m
    else
      let m := if d.urgent then m else m.tookTurn q t n
      let slot := match m.checkKey t d with
        | .ok k => if keyed d then some (k, (m.slot k).gen) else none
        | .error _ => none
      let m := match p with
        | some p => m.place q p ⟨n, d.seq, slot, d.urgent, false, cmode d, [], [], [], d.len, 0, ⟨0, 0, 0, 0⟩⟩
        | none => m
      let m := (m.setQueue n { m.queue n with live := (m.queue n).live.drop 1 }).add R.BULK_STARTED_COUNT 1 q
      let (m, r) := m.runDesc n t d
      let m := m.leaveOpen t (agentBulk q) d r
      let m := match p, r.msg with
        | some p, some x => m.fillMsg q p n d.seq x
        | _, _ => m
      let d := { d with
        status := r.status, out := r.out, info := r.info, untrusted := r.untrusted, heldLines := r.heldLines, acks := r.acks, pipe := p, tag := r.tag }
      let m := (m.setQueue n { m.queue n with run := (m.queue n).run ++ [d] }).add R.BULK_BYTES_OUT_COUNT (min r.out (outLen d)) q
      m.settle

/-! ### Resumption (R324, R326) -/

/-- An urgent message waits for a kind of pipe. -/
def urgentWaits (m : Mach) (q : Nat) (hash : Bool) : Bool :=
  m.queues.any (fun x => x.2.quad == q && match m.nextDesc x.1 with
    | some (t, d) => d.urgent && opsCipher.contains d.op && isHash d == hash && !badParam x.2 d &&
        (!keyed d || (match m.checkKey t d with | .ok _ => true | .error _ => false))
    | none => false)

/-- MESSAGE_RESUME. -/
def messageResume (m : Mach) (q p : Nat) : Mach :=
  if m.urgentWaits q (decide (4 ≤ p)) then m else m.resume q p

/-- SUSPEND_TIMEOUT: the oldest suspended message resumes at the pipe's next message boundary. -/
def suspendTimeout (m : Mach) (q p : Nat) : Mach :=
  let x := m.pipe q p
  match x.saved with
  | [] => m
  | c :: r => (m.setPipe q p { x with saved := { c with due := true } :: r }).resume q p

/-! ### Completion (R319, R370) -/

/-- What a started descriptor has still to do when its work is done: an encryption writes its parameter block (R319), and PERSIST waits
for the lines that were held, which go to the tier path, and for their records. -/
def endWork (m : Mach) (n i : Nat) (d : Desc) : Mach :=
  let put (m : Mach) (d : Desc) : Mach := m.setQueue n { m.queue n with run := (m.queue n).run.set i d }
  if d.status ≠ 0 ∨ d.cancelled then m
  else if d.op = 0x0D then
    if d.heldLines = [] then m
    else
      let m := d.heldLines.foldl (fun m l => (m.mscClean l).1) m
      put m { d with heldLines := d.heldLines.filter (fun l => (m.mscLine l).any (·.dirty)), acks := m.persistAcks }
  else match d.tag with
    | none => m
    | some tag =>
      let (m, w) := m.putCpb d.tenant (m.bulkAgent n) d tag
      put m (match w.2.2 with
        | some h => { d with tag := none, status := h.1, info := h.2 }
        | none => { d with tag := none, heldLines := d.heldLines ++ w.2.1 })

/-- The completion of the descriptor at an index of a queue's started list. -/
def completeDesc (m : Mach) (n i : Nat) : Mach :=
  let ready (m : Mach) (d : Desc) : Bool := m.bulkReady (m.queue n).quad && m.mayComplete n i d
  match (m.queue n).run[i]? with
  | none => m
  | some d =>
    if !ready m d then m
    else
      let m := m.endWork n i d
      match (m.queue n).run[i]? with
      | none => m
      | some d =>
        if !ready m d || (d.op == 0x0D && d.heldLines != [] && !d.cancelled) then m
        else
          let q := m.queue n
          let m := match d.pipe with
            | some p => (m.freePipe n d.seq p).add R.CIPH_MESSAGES_COUNT 1 q.quad
            | none => m
          let q := m.queue n
          let m := m.setQueue n { q with run := q.run.eraseIdx i, held := q.held ++ [d] }
          (m.drainHeld n ((m.queue n).held.length)).stopCheck n

/-! ### Replay (R375) -/

def insDesc (d : Desc) : List Desc → List Desc
  | [] => [d]
  | e :: r => if d.seq < e.seq then d :: e :: r else e :: insDesc d r

/-- A queue log's entry as storage holds it after a warm reset, when no cache holds a line. -/
def logEntry (m : Mach) (a : Nat) : Mach × Option (List Byte) :=
  match m.homeValue (a / 64) with
  | (m, .ok x) => match m.homeValue (a / 64 + 1) with
    | (m, .ok y) => (m, some (bytesOf 64 x.toNat ++ bytesOf 64 y.toNat))
    | (m, _) => (m, none)
  | (m, _) => (m, none)

/-- Run again what a queue's log holds as Accepted after a warm reset (R375), an entry whose acceptance the partner had not acknowledged
included. Completions of entries that were refused carry the old GEN and are discarded (R85, R351). Of an entry that cannot be read, OFFSET
and OPERAND are free (log 63). -/
def replayQueue (m : Mach) (n : Nat) : Mach :=
  let q := m.queue n
  match m.queueOwner n with
  | none => m
  | some t =>
    let gen := (m.tenant t).gen
    let m := ((q.run ++ q.held).filter (fun d => !d.logged || d.cancelled)).foldl (fun m d => m.discard n d.tenant) m
    let m := (q.live ++ (q.run ++ q.held).filter (fun d => d.logged && !d.cancelled)).foldl (fun m d =>
      let a := logAt q d.seq
      let base := { newDesc d.bytes gen t with seq := d.seq, iv := d.iv, ivOk := d.ivOk, logged := true, replayed := true }
      match m.logEntry a with
      | (m, some b) =>
        let d := { base with bytes := b.take 64, iv := (b.drop 72).take 12 }
        if ofBytes ((b.drop 64).take 1) ≠ 1 then m
        else (m.setQueue n { m.queue n with live := (m.queue n).live ++ [d] }).add R.BULK_REPLAYED_COUNT 1 q.quad
      | (m, _) =>
        let m := m.err E.BULK_LOG_UNCORRECTABLE sevContained q.quad 12 (some a) 0 (some t)
        let (m, v) := m.fresh
        (m.setQueue n { m.queue n with run := (m.queue n).run ++ [{ base with status := 0x10, info := v.toNat % 2 ^ 34 }] }).add R.BULK_REPLAYED_COUNT 1 q.quad)
      (m.setQueue n { q with live := [], run := [], held := [] })
    let q := m.queue n
    m.setQueue n { q with live := q.live.foldl (fun l d => insDesc d l) [] }

end Mach
end Sys2Proof.Machine
end

