-- ==== Sys2Proof/Machine/Bulk.lean ====
section
/-! DEFINITION. The commands of the bulk engine: descriptors and their messages (R323–R326, R361–R376). -/
namespace Sys2Proof.Machine

open Mach

/-- R324, R325: a suspended message resumes on its pipe. -/
def execMessageResume (q : Fin 4) (pipe : Fin 6) (s : State) : Out := s.cmd (fun m => m.messageResume q.val pipe.val)

/-- R326: a suspended message has waited SUSPEND_MAX_US. -/
def execSuspendTimeout (q : Fin 4) (pipe : Fin 6) (s : State) : Out := s.cmd (fun m => m.suspendTimeout q.val pipe.val)

/-- R365: a BULK instance takes the next entry of a queue. -/
def execDescriptorFetch (queue : BitVec 13) (s : State) : Out := s.cmd (fun m => (m.fetch queue.toNat).settle)

/-- R364: COPY. -/
def execCopy (queue : BitVec 13) (s : State) : Out := s.cmd (fun m => m.startDesc queue.toNat 0x01)

/-- R364: FILL. -/
def execFill (queue : BitVec 13) (s : State) : Out := s.cmd (fun m => m.startDesc queue.toNat 0x02)

/-- R293–R300: COMPRESS. -/
def execCompress (queue : BitVec 13) (s : State) : Out := s.cmd (fun m => m.startDesc queue.toNat 0x03)

/-- R293–R300: DECOMPRESS. -/
def execDecompress (queue : BitVec 13) (s : State) : Out := s.cmd (fun m => m.startDesc queue.toNat 0x04)

/-- R318–R323: ENCRYPT. -/
def execEncrypt (queue : BitVec 13) (s : State) : Out := s.cmd (fun m => m.startDesc queue.toNat 0x05)

/-- R307, R318–R323: DECRYPT. -/
def execDecrypt (queue : BitVec 13) (s : State) : Out := s.cmd (fun m => m.startDesc queue.toNat 0x06)

/-- R320: HASH. -/
def execHash (queue : BitVec 13) (s : State) : Out := s.cmd (fun m => m.startDesc queue.toNat 0x07)

/-- R320: MAC. -/
def execMac (queue : BitVec 13) (s : State) : Out := s.cmd (fun m => m.startDesc queue.toNat 0x08)

/-- R320: PACK. -/
def execPack (queue : BitVec 13) (s : State) : Out := s.cmd (fun m => m.startDesc queue.toNat 0x09)

/-- R320: UNPACK. -/
def execUnpack (queue : BitVec 13) (s : State) : Out := s.cmd (fun m => m.startDesc queue.toNat 0x0A)

/-- R276, R364: PROMOTE_HINT. -/
def execPromoteHint (queue : BitVec 13) (s : State) : Out := s.cmd (fun m => m.startDesc queue.toNat 0x0B)

/-- R276, R364: DEMOTE_HINT. -/
def execDemoteHint (queue : BitVec 13) (s : State) : Out := s.cmd (fun m => m.startDesc queue.toNat 0x0C)

/-- R364: PERSIST. -/
def execPersist (queue : BitVec 13) (s : State) : Out := s.cmd (fun m => m.startDesc queue.toNat 0x0D)

/-- R364: FENCE. -/
def execBulkFence (queue : BitVec 13) (s : State) : Out := s.cmd (fun m => m.startDesc queue.toNat 0x0E)

/-- R370, R372: the completion of a started descriptor. -/
def execCompletionWrite (queue : BitVec 13) (index : BitVec 8) (s : State) : Out :=
  s.cmd (fun m => (m.completeDesc queue.toNat index.toNat).settle)

end Sys2Proof.Machine
end

