-- ==== Sys2Proof/Machine/Elec.lean ====
section
/-! DEFINITION. Thermal and power control, rails, service life and the test access port (R527–R545), and the window of
the corrected-read counts (R223). -/
namespace Sys2Proof.Machine
namespace Mach

/-- Main power and the management controller's controls are on: every mode but OFF and AUX. -/
def mainOn (m : Mach) : Bool := decide (2 ≤ m.mode)

/-- Cores whose caps the controls move: released, on a die neither struck nor parked (R534). -/
def capped (m : Mach) : List Nat :=
  ((List.range 12).flatMap (fun d => if m.dieUp d then m.dieCores d else [])).filter (fun cid => (m.core cid).run != .parked)

/-- PSTATE_CAP of every die that answers: the larger of t and p for each core the controls move, 0 for the others; and HOT and
LIMITING (R533, R534). -/
def putCaps (m : Mach) : Mach :=
  let act := m.capped
  let t : Tbl Nat := (List.range 12).foldl (fun t d => t.put d (if m.dieUp d then m.tcap.getD d 0 else 0) 0) []
  let p : Tbl Nat := act.foldl (fun t c => t.put c (m.pcap.getD c 0) 0) []
  let m : Mach := { m with tcap := t, pcap := p }
  let m := (List.range 12).foldl (fun m d =>
    if m.dieUp d then
      let v := (m.dieCores d).foldl (fun v cid =>
        if act.contains cid then v + max (t.getD d 0) (p.getD cid 0) * 4 ^ (cid % 32) else v) 0
      m.set R.CLK_PSTATE_CAP v 0 d
    else m) m
  (m.set R.PKG_POWER_STATUS_HOT (if t.any (fun e => e.2 != 0) then 1 else 0)).set R.PKG_POWER_STATUS_LIMITING
    (if p.any (fun e => e.2 != 0) then 1 else 0)

/-- DIE_TEMP as a signed number of 1/16 °C. -/
def tempOf (m : Mach) (k : Nat) : Int := (BitVec.ofNat 16 (m.get (R.PKG_DIE_TEMP_TEMP.at k))).toInt

/-- New readings: a die without one is not valid (R533); a die whose temperature reaches ALERT_C sets OVERTEMP (R535). -/
def readTemps (m : Mach) (temps : List (Fin 13 × BitVec 16)) : Mach :=
  let alert : Int := 16 * (min 120 (m.act R.PKG_THERM_CTL_ALERT_C) : Nat)
  (List.range 13).foldl (fun m k =>
    match temps.find? (fun t => t.1.val == k) with
    | none => m.set (R.PKG_DIE_TEMP_VALID.at k) 0
    | some t =>
      let was := m.on (R.PKG_DIE_TEMP_VALID.at k) && decide (alert ≤ m.tempOf k)
      let m := (m.set (R.PKG_DIE_TEMP_TEMP.at k) t.2.toNat).set (R.PKG_DIE_TEMP_VALID.at k) 1
      if decide (alert ≤ t.2.toInt) && !was then m.err E.PKG_OVERTEMP sevContained 0 12 none k else m) m

/-- One evaluation of thermal control (R534). -/
def thermalTick (m : Mach) : Mach :=
  let thr : Int := 16 * (min 105 (m.act R.PKG_THERM_CTL_THROTTLE_C) : Nat)
  let low : Int := thr - 16 * (m.act R.PKG_THERM_CTL_HYST_C : Nat)
  let tio := m.tempOf 12
  let m := (List.range 12).foldl (fun m k =>
    let c := m.tcap.getD k 0
    let tk := m.tempOf k
    if !m.dieUp k then m
    else if thr ≤ tk ∨ thr ≤ tio then
      if c < 3 then ({ m with tcap := m.tcap.put k (c + 1) 0 } : Mach).add R.PKG_POWER_STATUS_CAP_STEPS 1 else m
    else if tk < low ∧ tio < low then { m with tcap := m.tcap.put k (c - 1) 0 }
    else m) m
  m.putCaps

/-- LIMIT_W clamped to TDP_MIN and TDP_MAX (R533). -/
def limitW (m : Mach) : Nat := max m.fuses.tdpMin (min m.fuses.tdpMax (m.act R.PKG_POWER_LIMIT_LIMIT_W))

/-- One evaluation of power control with POWER in 1/8 W (R534, R535). -/
def powerTick (m : Mach) (power : Nat) : Mach :=
  let m := m.set R.PKG_POWER_STATUS_POWER power
  let limit := 8 * m.limitW
  let act := m.capped
  let cap (c : Nat) : Nat := m.pcap.getD c 0
  let m :=
    if limit < power then
      let low := act.foldl (fun a c => min a (cap c)) 3
      if low < 3 then
        let up := act.filter (fun c => cap c == low)
        let m := if act.all (fun c => cap c == 0) then m.err E.PKG_POWER_LIMITING sevCorrected else m
        ({ m with pcap := up.foldl (fun t c => t.put c (low + 1) 0) m.pcap } : Mach).add R.PKG_POWER_STATUS_CAP_STEPS up.length
      else m
    else if power * 100 < limit * 95 then
      let high := act.foldl (fun a c => max a (cap c)) 0
      if 0 < high then { m with pcap := (act.filter (fun c => cap c == high)).foldl (fun t c => t.put c (high - 1) 0) m.pcap }
      else m
    else m
  m.putCaps

/-! ### Service life (R544) -/

/-- The largest r whose 160th power is at most n, its bits found from bit `b` − 1 down. -/
def root160 (n : Nat) : Nat → Nat → Nat
  | 0, r => r
  | b + 1, r => if (r + 2 ^ b) ^ 160 ≤ n then root160 n b (r + 2 ^ b) else root160 n b r

/-- 2^((T − 80) / 10) × 2^48, rounded down, for a temperature in 1/16 °C. -/
def lifeRate (t : Int) : Nat :=
  let e := t - 1280 + 160 * 48
  if e < 0 then 0 else root160 (2 ^ e.toNat) (e.toNat / 160 + 1) 0

/-- One second of service: the hottest valid DIE_TEMP, or a free value where none is valid; 1/16 h is 225 s. -/
def accrue (m : Mach) : Mach :=
  let hot := (List.range 13).foldl (fun (a : Option Int) k =>
    if m.on (R.PKG_DIE_TEMP_VALID.at k) then some (match a with | some x => max x (m.tempOf k) | none => m.tempOf k) else a) none
  let (m, t) : Mach × Int := match hot with
    | some t => (m, t)
    | none =>
      let (m, v) := m.fresh
      (m, (v.setWidth 16).toInt)
  let f := m.lifeFrac + lifeRate t
  let unit := 225 * 2 ^ 48
  ({ m with lifeFrac := f % unit } : Mach).add R.PKG_LIFE_USED_EQ (f / unit)

/-! ### Test access (R538–R540) -/

/-- The instruction an 8-bit code selects (R538). -/
def tapInsn : Nat → TapInsn
  | 0x01 => .idcode
  | 0x02 => .samplePreload
  | 0x03 => .extest
  | 0x04 => .clamp
  | 0x05 => .highz
  | 0x20 => .ijtag
  | _ => .bypass

/-- The TAP answers while VDD_IOD is in range. -/
def tapOn (m : Mach) : Bool := m.mode != 0 && !m.railsLost.contains .iod

/-- What the instruction acts as now: EXTEST, CLAMP and HIGHZ in MAINTENANCE only, IJTAG there or under INSTR_EN (R538). -/
def tapActs (m : Mach) : TapInsn :=
  match m.tap.insn with
  | .extest => if m.mode = 11 then .extest else .bypass
  | .clamp => if m.mode = 11 then .clamp else .bypass
  | .highz => if m.mode = 11 then .highz else .bypass
  | .ijtag => if m.mode = 11 ∨ m.on R.TAP_ACCESS_INSTR_EN then .ijtag else .bypass
  | i => i

def tapLoad (m : Mach) (code : Nat) : Mach := if m.tapOn then { m with tap := { m.tap with insn := tapInsn code } } else m

/-- IDCODE (R538). -/
def idcode (m : Mach) : Nat := m.fuses.iodRev % 16 * 2 ^ 28 + 0x9240 * 2 ^ 12 + 0x6AD * 2 + 1

/-- Dies whose insertion bit is held at 0 (R539): struck (or not yet trained) or parked. -/
def segHeld (m : Mach) : Nat := Nat.lor (m.get R.PKG_STRUCK_MASK_DIES) (m.get R.PKG_DIE_STATE_PARKED)

/-- A list of bits as a number, the first bit lowest. -/
def ofBits : List Bool → Nat
  | [] => 0
  | b :: r => b.toNat + 2 * ofBits r

/-- Capture-DR and the shift and update that follow, with the bits then in the register, from the cell next to TDO
(R538, R539). A change of what is held takes effect first. For the IEEE 1687 network
the bits are those of the 13 insertion bits alone: that of CD11 is next to TDO and that of the I/O die farthest from it. -/
def captureDr (m : Mach) (data : List Bool) : Mach :=
  let held := m.segHeld
  let keep (v : Nat) : Nat := v - Nat.land v held
  let m := (m.set R.TAP_SEGMENTS_HELD held).set R.TAP_SEGMENTS_INSERTED (keep (m.get R.TAP_SEGMENTS_INSERTED))
  match m.tapActs with
  | .idcode => { m with tap := { m.tap with captured := .id m.idcode } }
  | .samplePreload | .extest =>
    let (m, v) := m.fresh
    { m with tap := { m.tap with captured := .lands m.pins v, boundary := data } }
  | .ijtag =>
    let was := m.get R.TAP_SEGMENTS_INSERTED + m.get R.TAP_SEGMENTS_IOD_INSERTED * 2 ^ 12
    let bits := (List.range 12).foldl (fun a k => a + (data.getD (11 - k) false).toNat * 2 ^ k) 0
    let m := (m.set R.TAP_SEGMENTS_INSERTED (keep bits)).set R.TAP_SEGMENTS_IOD_INSERTED (data.getD 12 false).toNat
    { m with tap := { m.tap with captured := .network was } }
  | _ => { m with tap := { m.tap with captured := .bypass } }

end Mach

open Mach

/-- R533–R535: thermal control's 1 ms evaluation, with the readings then refreshed. -/
def execThermalControlTick (temps : List (Fin 13 × BitVec 16)) (s : State) : Out :=
  s.cmd (fun m => if m.mainOn then (m.readTemps temps).thermalTick else m)

/-- R534: power control's 1 ms evaluation. -/
def execPowerControlTick (power : BitVec 16) (s : State) : Out := s.cmd (fun m => if m.mainOn then m.powerTick power.toNat else m)

/-- R536: THERMTRIP_N is asserted and THERMTRIP raised. -/
def execThermtrip (s : State) : Out :=
  s.cmd (fun m => if m.mode = 0 then m else ({ m with pins := { m.pins with thermtripN := false } } : Mach).err E.PKG_THERMTRIP sevFatal)

/-- R528. -/
def execAvsFault (s : State) : Out := s.cmd (fun m => if m.mode = 0 then m else m.err E.PKG_AVS_FAULT sevContained)

/-- R531: a rail leaves its range while PWRGOOD is high. VDD_CD k is not monitored while CDPWR_EN k is low, nor while a restart
brings it back. -/
def execRailLost (rail : Rail) (s : State) : Out :=
  s.cmd (fun m =>
    let off : Bool := match rail with
      | .cd k => bitsOf (m.get R.PKG_DIE_STATE_PARKED) k.val 1 == 1 || m.dieOp.getD k.val 0 == 4
      | _ => false
    if !m.pins.pwrgood || off then m
    else
      let info := match rail with | .cd k => k.val | .iod => 12 | .ser => 13 | .serA => 14 | .ddr => 15
      ({ m with railsLost := if m.railsLost.contains rail then m.railsLost else m.railsLost ++ [rail] } : Mach).err
        E.PKG_RAIL_LOST sevFatal 0 12 none info)

/-- R544: a second in a mode other than OFF and AUX. -/
def execLifeAccrual (s : State) : Out := s.cmd (fun m => if m.mainOn then m.accrue else m)

/-- R544: LIFE_USED is saved to SPI flash. -/
def execLifeSave (s : State) : Out :=
  s.cmd (fun m => if m.mainOn then { m with lifeSaved := m.get R.PKG_LIFE_USED_EQ } else m)

/-- R538: TRST_N low. -/
def execTapReset (s : State) : Out := s.cmd (fun m => if m.tapOn then { m with tap := { m.tap with insn := .idcode } } else m)

/-- R538: instruction 0x01. -/
def execTapIdcode (s : State) : Out := s.cmd (fun m => m.tapLoad 0x01)

/-- R538: instruction 0x02. -/
def execTapSamplePreload (s : State) : Out := s.cmd (fun m => m.tapLoad 0x02)

/-- R538: instruction 0x03. -/
def execTapExtest (s : State) : Out := s.cmd (fun m => m.tapLoad 0x03)

/-- R538: instruction 0x04. -/
def execTapClamp (s : State) : Out := s.cmd (fun m => m.tapLoad 0x04)

/-- R538: instruction 0x05. -/
def execTapHighz (s : State) : Out := s.cmd (fun m => m.tapLoad 0x05)

/-- R538, R539: instruction 0x20. -/
def execTapIjtag (s : State) : Out := s.cmd (fun m => m.tapLoad 0x20)

/-- R538: an instruction code shifted in: 0xFF, and every code that names no instruction, selects BYPASS. -/
def execTapBypass (code : Byte) (s : State) : Out := s.cmd (fun m => m.tapLoad code.toNat)

/-- R223: corrected reads older than the window leave a device's count. A window of 0 is none (R232). -/
def execEraseWindowExpiry (ch : Fin 16) (n : Fin 80) (old : BitVec 16) (s : State) : Out :=
  s.cmd (fun m => if m.act R.DDR_ECC_CTL_ERASE_WINDOW_H ch.val = 0 then m else m.set (R.DDR_DEVCOUNT_COUNT.at n.val) (m.get (R.DDR_DEVCOUNT_COUNT.at n.val) ch.val - old.toNat) ch.val)

/-- R539: Capture-DR, the shift and the update. -/
def execCaptureDr (data : List Bool) (s : State) : Out := s.cmd (fun m => if m.tapOn then m.captureDr data else m)

end Sys2Proof.Machine
end

