-- ==== Sys2Proof/Machine/Seed.lean ====
section
/-! DEFINITION. The seed store's commands and rotations (R327–R344). -/
namespace Sys2Proof.Machine
namespace Mach

def seedReady (m : Mach) : Bool := m.hon R.HDR_STATUS_READY .seed

/-- A KEK that may wrap or unwrap (R331): Active, or the fused DEVKEK, with the usage and ALG 1. -/
def kekOk (m : Mach) (n bit : Nat) : Bool :=
  let s := m.slot n
  (s.state == 1 || (s.state == 4 && n == 1)) && has s.usage bit && s.alg == 1

/-- A blob's fields after unwrapping (R332). -/
def blobNat (b : List Nat) (i n : Nat) : Nat := Crypto.leVal ((b.drop i).take n)

/-- CMD_ATTR as R327 lays it out, from bit 3: ALG, USAGE, OWNER, PKG_OWNED. -/
def attrAlg (v : Nat) : Nat := bitsOf v 0 3
def attrUsage (v : Nat) : Nat := bitsOf v 3 10
def attrOwner (v : Nat) : Nat := bitsOf v 13 11
def attrPkg (v : Nat) : Bool := bitsOf v 24 1 == 1

/-- CMD_ATTR asks for a usage it may not request (R331). -/
def attrBad (v : Nat) : Bool := has (attrUsage v) useMemory || has (attrUsage v) useShed || has (attrUsage v) useFw

/-- GENERATE (R331): the result. -/
def seedGen (m : Mach) (n v : Nat) (fixed : Option Nat) : Mach × Nat :=
  let alg := attrAlg v
  let u := attrUsage v
  if n < 16 ∨ (alg = 2 ∧ n % 2 = 1) then (m, 1)
  else if (m.slot n).state ≠ 0 ∨ (alg = 2 ∧ (m.slot (n + 1)).state ≠ 0) then (m, 2)
  else if 4 < alg ∨ attrBad v then (m, 6)
  else if !m.on R.SEED_DRBG_HEALTHY then (m, 5)
  else
    let fill (m : Mach) (n alg : Nat) : Mach :=
      let (m, k) := m.newKey
      let (m, f) := match fixed with
        | some f => (m, f)
        | none =>
          let (m, w) := m.fresh
          (m, w.toNat % 2 ^ 32)
      (m.fillSlot n alg u (attrOwner v) (attrPkg v) f (if alg = 0 then k.take 16 else k)).mirrorSlot n (attrOwner v) false
    let m := fill m.reseed n alg
    (if alg = 2 then fill m (n + 1) 3 else m, 0)

/-- IMPORT (R331, R332). -/
def seedImport (m : Mach) (n kek addr v : Nat) : Mach × Nat :=
  if n < 16 then (m, 1)
  else if (m.slot n).state ≠ 0 then (m, 2)
  else if !m.kekOk kek useUnwrap then (m, 3)
  else if attrBad v then (m, 6)
  else if !m.managed addr then (m, 7)
  else
    match m.cohBytes addr 56 with
    | (m, .ok (b, false)) =>
      let m := (m.useSlot kek 1).privDone 0 1 56
      match Crypto.kwUnwrap (Crypto.ofB (m.slot kek).key) (Crypto.ofB b) with
      | none => (m.add R.CIPH_AUTH_FAIL_PRIVILEGED 1, 4)
      | some p =>
        let alg := blobNat p 34 1
        let prev := m.slot (n - 1)
        if blobNat p 32 1 ≠ 1 then (m, 8)
        else if 4 < alg ∨ (alg = 3 ∧ prev.state = 1 ∧ prev.alg = 2 ∧ Crypto.ofB prev.key = p.take 32) then (m, 6)
        else
          let key := Crypto.toBytes (p.take (if alg = 0 then 16 else 32))
          let m := m.fillSlot n alg (blobNat p 36 2 % 2 ^ 10) (attrOwner v) (attrPkg v) (blobNat p 40 4) key
          (m.mirrorSlot n (attrOwner v) false, 0)
    | (m, _) => (m, 4)

/-- EXPORT (R331): slots 12 and 13 only under a KEK with MIRROR while a pair is being formed or kept. -/
def seedExport (m : Mach) (n kek addr : Nat) : Mach × Nat :=
  let s := m.slot n
  let pairSlot := (n == 12 || n == 13) && has (m.slot kek).usage useMirror && m.mirrorFed
  if n < 16 ∧ !pairSlot then (m, 1)
  else if s.state ≠ 1 ∧ s.state ≠ 2 then (m, 2)
  else if !has s.usage useExport ∧ !pairSlot then (m, 6)
  else if !m.kekOk kek useWrap then (m, 3)
  else if !m.managed addr then (m, 7)
  else
    let m := m.useSlot kek 1
    match m.cohPut addr (m.wrapSlot n kek) with
    | (m, .refuse _) => (m, 7)
    | (m, _) => (m, 0)

/-- GO of SEED.CMD (R331): the command is carried out at once. -/
def seedGo (m : Mach) : Mach :=
  let op := m.get R.SEED_CMD_OP
  let n := m.get R.SEED_CMD_SLOT
  let kek := m.get R.SEED_CMD_KEK
  let addr := m.get R.SEED_CMD_ADDR_ADDR * 64
  let v := m.get R.SEED_CMD_ATTR_ATTR
  if !m.seedReady ∨ op = 0 ∨ 5 < op then m
  else
    let (m, r) := match op with
      | 1 => m.seedGen n v (if m.on R.SEED_CMD_ATTR_FIXED_GIVEN then some (m.get R.SEED_CMD_ATTR_FIXED) else none)
      | 2 => m.seedImport n kek addr v
      | 3 => m.seedExport n kek addr
      | 4 =>
        if n < 16 then (m, 1)
        else if (m.slot n).state ≠ 1 then (m, 2)
        else (m.setSlot n { m.slot n with state := 2 }, 0)
      | _ =>
        if n < 16 then (m, 1)
        else
          let owner := (m.slot n).owner
          ((m.emptySlot n).mirrorSlot n owner true, 0)
    m.set R.SEED_CMD_RESULT r

/-- Write CMD_ATTR; a reserved ALG keeps its value (R7, R327). -/
def seedAttr (m : Mach) (v : Nat) : Mach :=
  if 4 < attrAlg v then (m.set R.SEED_CMD_ATTR_REST (bitsOf v 3 22)).err ⟨.seed, 2⟩ sevCorrected else m.set R.SEED_CMD_ATTR_ATTR v

/-- Write CMD's fields and set GO. -/
def seedCmd (m : Mach) (src : Src) (op n : Nat) (f : Mach → Mach) : Mach :=
  m.guarded src 12 .seed 0 (fun m => (f ((m.set R.SEED_CMD_OP op).set R.SEED_CMD_SLOT n)).seedGo.settle)

end Mach

open Mach

/-- R331: GENERATE. -/
def execSeedGenerate (src : Src) (slot : BitVec 12) (attr : BitVec 25) (fixed : Option (BitVec 32)) (s : State) : Out :=
  s.cmd (fun m => m.seedCmd src 1 slot.toNat (fun m =>
    ((m.seedAttr attr.toNat).set R.SEED_CMD_ATTR_FIXED_GIVEN fixed.isSome.toNat).set R.SEED_CMD_ATTR_FIXED
      (fixed.elim 0 BitVec.toNat)))

/-- R331, R332: IMPORT. -/
def execSeedImport (src : Src) (slot kek : BitVec 12) (addr : BitVec 42) (attr : BitVec 25) (s : State) : Out :=
  s.cmd (fun m => m.seedCmd src 2 slot.toNat (fun m =>
    ((m.set R.SEED_CMD_KEK kek.toNat).set R.SEED_CMD_ADDR_ADDR addr.toNat).seedAttr attr.toNat))

/-- R331: EXPORT. -/
def execSeedExport (src : Src) (slot kek : BitVec 12) (addr : BitVec 42) (s : State) : Out :=
  s.cmd (fun m => m.seedCmd src 3 slot.toNat (fun m => (m.set R.SEED_CMD_KEK kek.toNat).set R.SEED_CMD_ADDR_ADDR addr.toNat))

/-- R331: RETIRE. -/
def execSeedRetire (src : Src) (slot : BitVec 12) (s : State) : Out := s.cmd (fun m => m.seedCmd src 4 slot.toNat id)

/-- R328, R331: DESTROY. -/
def execSeedDestroy (src : Src) (slot : BitVec 12) (s : State) : Out := s.cmd (fun m => m.seedCmd src 5 slot.toNat id)

/-- R330: a test of the noise source or the DRBG fails. -/
def execDrbgHealthFail (s : State) : Out :=
  s.cmd (fun m => ((m.set R.SEED_DRBG_HEALTHY 0).addSat R.SEED_DRBG_FAILS 1).err E.SEED_DRBG_FAIL sevContained)

/-- R344: slot storage is found unreadable. A Fused slot stays Fused (R328). -/
def execSlotUncorrectable (slot : BitVec 12) (s : State) : Out :=
  s.cmd (fun m =>
    let n := slot.toNat
    (m.emptySlot n).err E.SEED_SLOT_UNCORRECTABLE (if n < 16 then sevFatal else sevContained) 0 12 none n)

/-- R335: MEMROT.GO. -/
def execMemrotGo (src : Src) (s : State) : Out := s.cmd (fun m => m.guarded src 12 .seed 0 (fun m => m.memrotStart true))

/-- R335: the current pair's count reaches MEMROT_AT.USE. -/
def execMemrotAuto (s : State) : Out :=
  s.cmd (fun m =>
    let at_ := m.get R.SEED_MEMROT_AT_USE
    if m.on R.SEED_MEMROT_AUTO ∧ at_ ≠ 0 ∧ at_ ≤ (m.slot (8 + 2 * m.get R.SEED_MEMROT_CUR)).use then m.memrotStart false else m)

/-- R336, R338: a TIER instance's cursor reaches an entry. -/
def execMemrotRekey (q : Fin 4) (s : State) : Out := s.cmd (fun m => (m.memrotStep q.val).settle)

/-- R341: SHEDROT.GO. -/
def execShedrotGo (src : Src) (s : State) : Out := s.cmd (fun m => m.guarded src 12 .seed 0 (fun m => (m.shedrotStart true).settle))

/-- R341: the current Shed slot's count reaches SHEDROT_AT.USE. -/
def execShedrotAuto (s : State) : Out :=
  s.cmd (fun m =>
    let at_ := m.get R.SEED_SHEDROT_AT_USE
    if m.on R.SEED_SHEDROT_AUTO ∧ at_ ≠ 0 ∧ at_ ≤ (m.slot m.shedSlot).use then (m.shedrotStart false).settle else m)

end Sys2Proof.Machine
end

