-- ==== Sys2Proof/Machine/Coherence.lean ====
section
/-! DEFINITION. The commands of the caches, the coherence protocols and the DDR5 channels (R157, R164, R172, R188–R205,
R220–R231). A message row is the arrival of one message at its destination. -/
namespace Sys2Proof.Machine
namespace Mach

/-- A request of a die reaches its home. Where no such message was in flight the die is one that has just sent it, so its
line is in the transient of R182. -/
def requestArrives (m : Mach) (k : MsgK) (p : Packet) : Mach :=
  let die := p.src.val
  let line := p.line.toNat
  if !m.homeUp then m
  else if !isDie die then m.protocol line
  else if !m.dieUp die then m
  else
    let sent := m.net.any (fun g => g.k == k && g.src == die && g.line == line)
    let m := if sent then m
      else
        let x := m.dl die line
        if x.st = .i ∧ k ≠ .upgrade then m.setDl die line { x with st := if k = .rdShared then .isd else .imd, got := false, granted := .i, need := 0, acks := 0 }
        else if (x.st = .s ∨ x.st = .o) ∧ k = .upgrade then m.setDl die line { x with st := .smd, got := false, granted := x.st, need := 0, acks := 0 }
        else m
    let (m, g) := match m.takeMsg (fun g => g.k == k && g.src == die && g.line == line) with
      | (m, some g) => (m, g)
      | (m, none) => (m, pktMsg k p)
    (m.homeRequest { k := k, src := die, line := line, spec := g.flag, prefetch := g.aux % 2 == 1 }).settle

/-- A request of a non-caching agent reaches the home. -/
def agentRequest (m : Mach) (k : MsgK) (p : Packet) : Mach :=
  let line := p.line.toNat
  if !m.homeUp then m
  else if isDie p.src.val ∨ 72 ≤ p.src.val then m.protocol line
  else
    let (m, g) := m.arrive k p
    let mask := if k = .wrLine then fullMask else if k = .wrPart then g.aux else 0
    (m.homeRequest { k := k, src := g.src, line := line, data := g.data, mask := mask, poison := g.poison }).settle

/-- A message reaches a compute die. -/
def atDie (m : Mach) (k : MsgK) (p : Packet) (f : Mach → Nat → Msg → Mach) : Mach :=
  let die := p.dst.val
  if !m.homeUp then m
  else if !isDie die then m.protocol p.line.toNat
  else if !m.dieUp die then m
  else
    let (m, g) := m.arrive k p
    (f m die g).settle

/-- A snoop reaches a die. -/
def snoopArrives (m : Mach) (k : MsgK) (p : Packet) : Mach :=
  m.atDie k p (fun m die g => (m.uEvent 7 0x3F none 0 die).snoop die g)

/-- A message reaches the home of its line. -/
def atHome (m : Mach) (k : MsgK) (p : Packet) (f : Mach → Msg → Mach) : Mach :=
  if !m.homeUp then m
  else
    let (m, g) := m.arrive k p
    (f m g).settle

/-- The lowest way group whose state differs from what is requested (R172). -/
def pruneNext (m : Mach) (die slice : Nat) : Option Nat :=
  [1, 2, 3].find? (fun g => m.get R.L3_PRUNE_REQ_GROUPS slice die / 2 ^ (g - 1) % 2 != m.get R.L3_PRUNE_STATUS_PRUNED slice die / 2 ^ (g - 1) % 2)

/-- The slice goes on to the lowest way group whose state differs from what is requested; BUSY shows whether there is one. -/
def startPrune (m : Mach) (die slice : Nat) : Mach :=
  let k := die * 64 + slice
  match m.pruneNext die slice with
  | none => { m with pruning := m.pruning.erase k }.set R.L3_PRUNE_STATUS_BUSY 0 slice die
  | some g =>
    { m with pruning := m.pruning.ins k (g, m.get R.L3_PRUNE_REQ_GROUPS slice die / 2 ^ (g - 1) % 2 == 1) }.set R.L3_PRUNE_STATUS_BUSY 1 slice die

/-- A write of PRUNE_REQ.GROUPS. The group in progress goes on under the old request. -/
def pruneReq (m : Mach) (die slice v : Nat) : Mach :=
  let m := m.set R.L3_PRUNE_REQ_GROUPS (bitsOf v 1 3) slice die
  if (m.pruning.find (die * 64 + slice)).isSome then m else m.startPrune die slice

/-- Lines of a way group of a slice. -/
def groupLines (m : Mach) (die slice g : Nat) : List Nat :=
  (m.lines.filter (fun e => e.1 / 2 ^ 42 == die && l3Slice (e.1 % 2 ^ 42) == slice && (match e.2.l3 with | some w => w / 4 == g | none => false))).map
    (fun e => e.1 % 2 ^ 42)

/-- A writeback of the die for a line of the slice has not been acknowledged. -/
def sliceBusy (m : Mach) (die slice : Nat) : Bool :=
  m.lines.any (fun e => e.1 / 2 ^ 42 == die && l3Slice (e.1 % 2 ^ 42) == slice && [LSt.mia, .oia, .eia, .sia].contains e.2.st) ||
  m.net.any (fun g => l3Slice g.line == slice && ((g.k == .wbKeep && g.src == die) || (g.k == .wbAck && g.dst == die && g.aux == 1)))

/-- A line leaves its way group (R172). Where an L2 of the die holds it too, its copy in the L3 goes: a dirty one is written back by a
WbDirty with KEEP, and the L2s keep it clean (DEDUCED, log 117). -/
def pruneLine (m : Mach) (die line : Nat) : Mach :=
  let x := m.dl die line
  let dirty := x.st == .m || x.st == .o
  if !isStableSt x.st || m.flushing die line then m
  else if x.l2 = [] then m.leaveDie die line dirty
  else if !dirty then m.setDl die line { x with l3 := none }
  else if x.writers ≠ [] then m.sendDurWbs die line
  else (m.cmoLocal die line 0).setDl die line { (m.cmoLocal die line 0).dl die line with l3 := none }

/-- The slice's work on its way group (R172): its dirty lines are offered and its clean lines invalidated; once none is left and no
writeback of the slice is open the group is powered down. A group to be powered up comes back empty. -/
def pruneStep (m : Mach) (die slice : Nat) : Mach :=
  match m.pruning.find (die * 64 + slice) with
  | none => m
  | some (g, down) =>
    let bit := 2 ^ (g - 1)
    let pr := m.get R.L3_PRUNE_STATUS_PRUNED slice die
    let done (m : Mach) (v : Nat) : Mach :=
      let m := (m.set R.L3_PRUNE_STATUS_PRUNED v slice die).add R.L3_PRUNE_STATUS_DONE_COUNT 1 slice die
      let m := m.startPrune die slice
      m.ev 6 2 .l3 (m.reg (pageOff die .l3 slice + 0x110)) 0 slice die
    if !down then done m (pr - bit)
    else
      let m := (m.groupLines die slice g).foldl (fun m l => m.pruneLine die l) m
      if m.groupLines die slice g = [] ∧ m.sliceBusy die slice = false then done m (pr + bit) else m

/-- Begin the invalidation of the selected range set (R157); one in progress starts again. -/
def rangeInv (m : Mach) : Mach := { m with rinv := m.rinv ++ [m.get R.TEN_RSET_SEL_SET] }

/-- A home still holds an access of an agent that range blocks translate for: it has not been performed, or is not yet visible
(R157). -/
def rangeHeld (m : Mach) : Bool :=
  let cur (g : Msg) : Bool := g.k == .snpCur && decide (12 ≤ g.ackTo ∧ g.ackTo < 72)
  m.net.any (fun g => [MsgK.rdCur, .wrLine, .wrPart].contains g.k || cur g) || m.lines.any (fun e => e.2.snq.any cur) || m.hq.any (fun r => !isDie r.src) ||
  m.htx.any (fun t => !isDie t.req.src && t.req.src < 72) || m.tierq.any (fun e => e.2.held.any (fun r => !isDie r.src))

/-- Start the removal of every filter entry of a tenant at one home that has no transaction open (R201). -/
def sweepStart (m : Mach) (q t : Nat) : Mach :=
  (m.filter.filter (fun e => homeOf (e.1 * 64) == q && e.2.tenant == t)).foldl (fun m e =>
    if m.htx.any (fun x => x.req.line == e.1) then m
    else (m.startBackInv e.1).add R.HOME_SWEEP_LINES 1 q) m

/-- HOME.SWEEP.GO. -/
def sweepGo (m : Mach) (q t : Nat) : Mach :=
  let m := m.set R.HOME_SWEEP_TENANT t q
  if m.on R.HOME_SWEEP_BUSY q then m
  else ((({ m with sweeping := m.sweeping.ins q t }).set R.HOME_SWEEP_BUSY 1 q).set R.HOME_SWEEP_LINES 0 q).sweepStart q t

/-- Where the home's copy of a line lies in a Bed frame now. -/
def lineLda (m : Mach) (line : Nat) : Option Nat :=
  let spa := line * 64
  let e := m.entry (pageOf spa)
  if eState e = stZero ∨ eState e = stPoisoned ∨ eState e = stDormant then none
  else if eTier e = tierBed then some (bedLda (eLoc e) spa)
  else match m.moveOf (pageOf spa) with
    | some (_, v) => if v.promote ∧ v.dstTier = tierBed ∧ v.done / 2 ^ (spa % 4096 / 64) % 2 = 1 then some (bedLda v.dstLoc spa) else none
    | none => none

/-- A DDR read done for a line returns to the home (R227): the transaction that waits for it goes on; one whose page has
moved since is served again. A SPEC request that has its line now has its effects (R198, R246). -/
def memData (m : Mach) (spa lda : Nat) : Mach :=
  let line := spa / 64
  match m.memResp.find? (fun r => r.spa / 64 == line && r.lda / 64 == lda / 64) with
  | none => m.protocol line
  | some r =>
    let m := { m with memResp := m.memResp.erase r }
    match m.htx.find? (fun t => t.req.line == line && t.fill == 1) with
    | none => m
    | some t =>
      if m.lineLda line = some (lda / 64 * 64) ∧ (m.mscLine line).isNone then
        let m := if t.req.spec && !t.req.prefetch && r.res != .unreadable then (m.serveRead spa).1 else m
        (m.servedTx t (.line r.res)).settle
      else (m.askTiers t).settle

/-- Whether an LDA lies in a page map part (R236). -/
def inMap (m : Mach) (lda : Nat) : Bool :=
  let q := m.ldaQuad lda
  m.tierReady q && decide (lda - q * m.qsize q < m.get R.TIER_LAYOUT_MAP_TIB q * 2 ^ 29)

/-- A page whose entry is lost: its move ends with nothing freed, and nothing of the entry is left to act on (R275). -/
def loseEntry (m : Mach) (page : Nat) : Mach :=
  let m := match m.moveOf page with
    | some (k, _) => ((m.dropJournal (k / 64) (fun r => r.move == some k)).endMove k).moveEnded page 3
    | none => m
  m.setEntry page (eSetTier 0 tierNone)

/-- A map line of eight entries that cannot be read (R275). The record's address is the first page of the eight, which lie 16 KiB apart
(log 99). A line the map cache holds dirty is not read. -/
def mapLost (m : Mach) (lda : Nat) : Mach :=
  let q := m.ldaQuad lda
  let i := (lda - q * m.qsize q) / 8
  let ps := (List.range 8).map (fun j => pageAt q (i + j))
  if m.mapDirty.contains (lda / 64) then m
  else
    let m := ps.foldl (fun m p => m.loseEntry p) { m with mapBad := (m.mapBad ++ ps).eraseDups }
    ({ m with mapDirty := m.mapDirty.filter (· != lda / 64) } : Mach).err E.TIER_MAP_UNCORRECTABLE sevContained q 12 (some (pageAt q i))

/-- ERASE_REQ (R226). -/
def eraseReq (m : Mach) (ch v : Nat) : Mach :=
  let rank := bitsOf v 0 2
  let sub := bitsOf v 2 1
  let dev := bitsOf v 3 4
  if bitsOf v 7 1 = 0 then m
  else if 10 ≤ dev then m.err ⟨.ddr, 2⟩ sevCorrected ch
  else if (m.erasedDevice ch rank sub).isSome then m
  else m.enterErasure ch rank sub dev true

end Mach

open Mach

/-- R157: RANGE_INV. -/
def execRangeInv (src : Src) (s : State) : Out := s.cmd (fun m => m.guarded src 12 .ten 0 rangeInv)

/-- R157: every range cache has dropped the set, once the accesses translated under its copies are performed. INV_BUSY clears with the
later one where an invalidation has been restarted (DEDUCED, log 95). -/
def execRangeInvDone (set : BitVec 12) (s : State) : Out :=
  s.cmd (fun m =>
    if m.rangeHeld then m
    else
      let left := m.rinv.erase set.toNat
      if !m.rinv.contains set.toNat then m
      else if left.contains set.toNat then { m with rinv := left }
      else { m with rinv := left, rstale := m.rstale.keep (fun k _ => k / 8 != set.toNat) })

/-- R164: an eviction offer. -/
def execEvictionOffer (die : Fin 12) (line : BitVec 42) (offer : OfferTo) (s : State) : Out :=
  s.cmd (fun m =>
    if !m.homeUp || !m.dieUp die.val then m
    else match offer with
      | .l3 core way dead reuse => m.offerL3 die.val line.toNat core.val way.val dead reuse
      | .msc => m.offerMsc die.val line.toNat)

/-- R172: a write of PRUNE_REQ. -/
def execPruneReqWrite (src : Src) (die : Fin 12) (slice : Fin 20) (value : Word) (s : State) : Out :=
  s.cmd (fun m => m.guarded src die.val .l3 slice.val (fun m => m.pruneReq die.val slice.val value.toNat))

/-- R172, R173: one way group is done. -/
def execPruneGroupDone (die : Fin 12) (slice : Fin 20) (s : State) : Out :=
  s.cmd (fun m => if m.dieUp die.val then m.pruneStep die.val slice.val else m)

/-- R188, R197: RdShared. -/
def execRdShared (p : Packet) (s : State) : Out := s.cmd (fun m => m.requestArrives .rdShared p)

/-- R188, R197: RdOwn. -/
def execRdOwn (p : Packet) (s : State) : Out := s.cmd (fun m => m.requestArrives .rdOwn p)

/-- R188, R197: Upgrade. -/
def execUpgrade (p : Packet) (s : State) : Out := s.cmd (fun m => m.requestArrives .upgrade p)

/-- R196: Flush. -/
def execFlush (op : FlushOp) (p : Packet) (s : State) : Out :=
  s.cmd (fun m =>
    let die := p.src.val
    let line := p.line.toNat
    let k : MsgK := match op with | .cln => .flushCln | .inv => .flushInv | .clninv => .flushClnInv
    if !m.homeUp then m
    else if !isDie die then m.protocol line
    else
      let (m, g) := m.arrive k p
      (m.homeRequest { k := k, src := die, line := line, cid := g.aux }).settle)

/-- R192, R194: Evict. -/
def execEvict (p : Packet) (s : State) : Out := s.cmd (fun m => m.atHome .evict p (fun m g => m.homeEvict g))

/-- R192, R194: WbDirty. With KEEP it is a message of its own in flight. -/
def execWbDirty (p : Packet) (s : State) : Out :=
  s.cmd (fun m => m.atHome (if p.flag then .wbKeep else .wbDirty) p (fun m g => m.homeWb g))

/-- R195: RdCur. -/
def execRdCur (p : Packet) (s : State) : Out := s.cmd (fun m => m.agentRequest .rdCur p)

/-- R195: WrLine. -/
def execWrLine (p : Packet) (s : State) : Out := s.cmd (fun m => m.agentRequest .wrLine p)

/-- R195: WrPart. -/
def execWrPart (p : Packet) (s : State) : Out := s.cmd (fun m => m.agentRequest .wrPart p)

/-- R384, R386: DurWb. -/
def execDurWb (p : Packet) (s : State) : Out :=
  s.cmd (fun m => m.atHome .durWb p (fun m g =>
    let k := g.aux * 4 + homeOf (g.line * 64)
    let m := { m with durGot := m.durGot.ins k (m.durGot.getD k 0 + 1) }
    m.homeDurWb g.line g.src g.aux g.data g.poison))

/-- R387: DurSync, answered when its DurWbs have reached their acceptance point. -/
def execDurSync (p : Packet) (s : State) : Out :=
  s.cmd (fun m => m.atHome .durSync p (fun m g =>
    { m with durWaits := m.durWaits ++ [(g.aux, g.dst % 4, g.n)] }.durCheck))

/-- R189: SnpFwdShared. -/
def execSnpFwdShared (p : Packet) (s : State) : Out := s.cmd (fun m => m.snoopArrives .snpFwdShared p)

/-- R189: SnpFwdOwn. -/
def execSnpFwdOwn (p : Packet) (s : State) : Out := s.cmd (fun m => m.snoopArrives .snpFwdOwn p)

/-- R189: SnpShared. -/
def execSnpShared (p : Packet) (s : State) : Out := s.cmd (fun m => m.snoopArrives .snpShared p)

/-- R189: SnpOwn. -/
def execSnpOwn (p : Packet) (s : State) : Out := s.cmd (fun m => m.snoopArrives .snpOwn p)

/-- R189: SnpInv. -/
def execSnpInv (p : Packet) (s : State) : Out := s.cmd (fun m => m.snoopArrives .snpInv p)

/-- R189: SnpInvData. -/
def execSnpInvData (p : Packet) (s : State) : Out := s.cmd (fun m => m.snoopArrives .snpInvData p)

/-- R189: SnpCur. -/
def execSnpCur (p : Packet) (s : State) : Out := s.cmd (fun m => m.snoopArrives .snpCur p)

/-- R189: SnpClean. -/
def execSnpClean (p : Packet) (s : State) : Out := s.cmd (fun m => m.snoopArrives .snpClean p)

/-- R191: Data. -/
def execDataMsg (p : Packet) (s : State) : Out := s.cmd (fun m => m.atDie .data p (fun m die g => m.takeData die g))

/-- R191: Grant. -/
def execGrant (p : Packet) (s : State) : Out := s.cmd (fun m => m.atDie .grant p (fun m die g => m.takeGrant die g))

/-- R195: DataCur reaches the agent that read, or under H1 the home that passes it on. -/
def execDataCur (p : Packet) (s : State) : Out :=
  s.cmd (fun m => m.atHome .dataCur p (fun m g =>
    if 72 ≤ g.dst then m.homeData g (some (g.data, g.poison))
    else if isDie g.dst then m.protocol g.line
    else m))

/-- R189: SnpData. A die the filter shows as owner never answers "none"; one whose own request was refused does. -/
def execSnpData (p : Packet) (s : State) : Out :=
  s.cmd (fun m =>
    if !m.homeUp then m
    else match m.takeMsg (fun g => g.k == .snpNone && g.src == p.src.val && g.line == p.line.toNat) with
      | (m, some g) => (m.homeData g none).settle
      | (m, none) =>
        let sent := m.net.any (fun g => g.k == .snpData && g.src == p.src.val && g.dst == p.dst.val && g.line == p.line.toNat)
        if p.flag && !sent then m.protocol p.line.toNat
        else
          let (m, g) := m.arrive .snpData p
          (m.homeData g (some (g.data, g.poison))).settle)

/-- R191: InvAck. -/
def execInvAck (p : Packet) (s : State) : Out := s.cmd (fun m => m.atHome .invAck p (fun m g => m.takeInvAck g))

/-- R192: WbAck. -/
def execWbAck (p : Packet) (s : State) : Out :=
  s.cmd (fun m =>
    let known := m.net.any (fun g => g.k == .wbAck && g.src == p.src.val && g.dst == p.dst.val && g.line == p.line.toNat)
    m.atDie .wbAck p (fun m die g =>
    let x := m.dl die g.line
    if g.aux = 1 then (if known then (m.keepAcked die g).runRest die g.line x.wait.length else m.protocol g.line)
    else if [LSt.mia, .oia, .eia, .sia].contains x.st then
      let m := m.serveQueue die g.line
      let x := m.dl die g.line
      (m.setDl die g.line { x.gone .i with writers := [] }).runRest die g.line x.wait.length
    else m.protocol g.line))

/-- R193: CmpAck. -/
def execCmpAck (p : Packet) (s : State) : Out :=
  s.cmd (fun m => m.atHome .cmpAck p (fun m g =>
    match m.htx.find? (fun t => t.req.line == g.line && t.cmpAck && t.req.src == g.src) with
    | some t => m.dropTx t
    | none => m.protocol g.line))

/-- R196, R386, R387: Cmp. -/
def execCmp (p : Packet) (s : State) : Out :=
  s.cmd (fun m => m.atHome .cmp p (fun m g =>
    if !isDie g.dst then m
    else
      let cid := g.aux
      let c := m.core cid
      if g.n = 1 then
        if !c.maint.contains g.line then m.protocol g.line
        else ((m.flushDone cid g.line).serveQueue g.dst g.line).runRest g.dst g.line (m.dl g.dst g.line).wait.length
      else if g.n = 2 then
        if c.dwPend.contains g.line then
          let m := m.durWbDone cid g.line
          if (m.dl g.dst g.line).writers = [] then (m.serveQueue g.dst g.line).runRest g.dst g.line (m.dl g.dst g.line).wait.length else m
        else m.protocol g.line
      else if g.n = 3 then
        match c.sync with
        | some y =>
          if y.homes.contains (g.src % 4) then m.setCore cid { c with sync := some { y with homes := y.homes.erase (g.src % 4) } }
          else m.protocol g.line
        | none => m.protocol g.line
      else m.protocol g.line))

/-- R197, R198: Refuse. -/
def execRefuse (p : Packet) (s : State) : Out :=
  s.cmd (fun m => m.atHome .refuse p (fun m g => if isDie g.dst then m.takeRefuse g.dst g else m))

/-- R220: a channel controller reads a line and decodes its codeword; `errs` is what the cells have taken since. A channel in
self-refresh is not read (R77). -/
def execMemRd (spa lda : BitVec 48) (errs : List (Fin 80 × Byte)) (s : State) : Out :=
  s.cmd (fun m =>
    let a := lda.toNat / 64 * 64
    if !m.homeUp || !m.chanReady a then m
    else
      let (m, r) := m.readCoded a (errs.map (fun e => (e.1.val, e.2.toNat)))
        (some (if m.inMap a then m.sysEnc a else m.bedEnc (lineOf spa.toNat))) false
      let c := (m.ldaChan a).1
      let m := m.uEvent 8 (c % 4) none (c / 4)
      if m.inMap a then (if r = .unreadable ∨ r = .poison then (m.mapLost a).settle else m)
      else { m with memResp := m.memResp ++ [⟨lineOf spa.toNat, a, r⟩] })

/-- R218, R221, R227: a channel controller encrypts, encodes and writes a line. A channel in self-refresh is not written (R77). -/
def execMemWr (spa lda : BitVec 48) (data : Line) (poison : Bool) (s : State) : Out :=
  s.cmd (fun m =>
    let a := lda.toNat / 64 * 64
    if !m.homeUp || !m.chanReady a then m
    else
      let c := (m.ldaChan a).1
      (m.writeBed (lineOf spa.toNat) a data poison).uEvent 9 (c % 4) none (c / 4))

/-- R227: read data returns to the home. -/
def execMemData (spa lda : BitVec 48) (s : State) : Out := s.cmd (fun m => if m.homeUp then m.memData spa.toNat lda.toNat else m)

/-- R204: a snoop to a die has gone unanswered for SNOOP_TIMEOUT. -/
def execSnoopTimeout (die : Fin 12) (line : BitVec 42) (s : State) : Out :=
  s.cmd (fun m =>
    let l := line.toNat
    if m.net.any (fun g => isSnoop g.k && g.dst == die.val && g.line == l) || (m.dl die.val l).snq != [] then
      m.err E.HOME_SNOOP_TIMEOUT sevFatal (homeOf (l * 64)) 12 (some (l * 64))
    else m)

/-- R201: SWEEP.GO. -/
def execSweepGo (src : Src) (q : Fin 4) (tenant : BitVec 11) (s : State) : Out :=
  s.cmd (fun m => m.guarded src 12 .home q.val (fun m => m.sweepGo q.val tenant.toNat))

/-- R229: a channel fails its cold training in BRINGUP. -/
def execDdrTrainFail (ch : Fin 16) (ranks : BitVec 4) (s : State) : Out :=
  s.cmd (fun m => if m.mode = 2 ∧ !m.on R.DDR_TRAIN_TRAINED ch.val then m.trainFail ch.val ranks.toNat else m)

/-- R226: ERASE_REQ. -/
def execEraseReq (src : Src) (ch : Fin 16) (value : Word) (s : State) : Out :=
  s.cmd (fun m => m.guarded src 12 .ddr ch.val (fun m => m.eraseReq ch.val value.toNat))

/-- R231: a channel that runs is lost, or its warm restore fails: Fatal either way. -/
def execChannelLost (ch : Fin 16) (s : State) : Out :=
  s.cmd (fun m =>
    let c := ch.val
    if m.hon R.HDR_STATUS_READY .ddr c then (m.err E.DDR_CHANNEL_LOST sevFatal c)
    else if m.on R.DDR_TRAIN_TRAINED c ∧ m.on R.DDR_TRAIN_SELF_REFRESH c then m.err E.DDR_TRAIN_FAIL sevFatal c
    else m)

end Sys2Proof.Machine
end

