-- ==== Sys2Proof/Machine/Tenants.lean ====
section
/-! DEFINITION. The tenant commands and the doorbells (R347–R362). -/
namespace Sys2Proof.Machine
namespace Mach

def tenReady (m : Mach) : Bool := m.hon R.HDR_STATUS_READY .ten

/-- ATTACH (R356): the homes refuse from now on, but for the requests they have already taken (R201), and the four sweeps begin. -/
def attachStart (m : Mach) (t : Nat) : Mach :=
  let m := { m with
    attached := if m.attached.contains t then m.attached else m.attached ++ [t]
    hq := m.hq.map (fun r => if m.lineTenant r.line = t then { r with pre := true } else r)
    sweeping := [(0, t), (1, t), (2, t), (3, t)] }
  ([0, 1, 2, 3].foldl (fun m q =>
    (((m.set R.HOME_SWEEP_TENANT t q).set R.HOME_SWEEP_BUSY 1 q).set R.HOME_SWEEP_LINES 0 q).sweepStart q t) m)

/-- The next ATTACH of a takeover, one at a time (R410 step 6, R467). -/
def takenNext (m : Mach) : Mach :=
  match m.tenCmd, m.pair.attaches with
  | none, (t, _) :: r =>
    let m := { m with pair := { m.pair with attaches := r } }
    ({ m with tenCmd := some (5, t) }.set R.TEN_TCMD_BUSY 1).attachStart t
  | _, _ => m

/-- DETACH (R356). -/
def detachTenant (m : Mach) (t : Nat) : Mach :=
  let m := m.setTenant t { m.tenant t with attached := false }
  let m := { m with attached := m.attached.filter (· != t) }
  if m.durableTenant t then m.mirrorContext t 6 else m

/-- TCMD.GO (R352, R353). -/
def tenGo (m : Mach) : Mach :=
  let op := m.get R.TEN_TCMD_OP
  let t := m.get R.TEN_TSEL_TENANT
  let x := m.tenant t
  let fin (m : Mach) (r : Nat) : Mach := m.set R.TEN_TCMD_RESULT r
  let begin_ (m : Mach) : Mach := { m with tenCmd := some (op, t) }.set R.TEN_TCMD_BUSY 1
  if !m.tenReady ∨ m.on R.TEN_TCMD_BUSY ∨ op = 0 ∨ 6 < op then m
  else match op with
    | 1 =>
      let (m, r) := m.createTenant t
      fin (if r = 0 then m.showTenant t else m) r
    | 2 =>
      let (m, r) := m.resizeTenant t
      fin (if r = 0 then m.showTenant t else m) r
    | 3 => if t = 0 then fin m 7 else if x.state ≠ 1 then fin m 1 else (begin_ m).beginReset t false
    | 4 => if t = 0 then fin m 7 else if x.state ≠ 1 ∨ x.attached then fin m 1 else (begin_ m).beginReset t true
    | 5 =>
      if t = 0 then fin m 7 else if x.state ≠ 1 ∨ x.kind ≠ 1 ∨ x.attached then fin m 1
      else ((begin_ m).attachStart t).attachDone
    | _ => if t = 0 then fin m 7 else if x.state ≠ 1 ∨ !x.attached then fin m 1 else fin (m.detachTenant t) 0

/-- Select a context, write the staging area where the command has one, and set GO. -/
def tenWrite (m : Mach) (src : Src) (t op : Nat) (c : Option TenantCfg) : Mach :=
  m.guarded src 12 .ten 0 (fun m =>
    let m := (m.set R.TEN_TSEL_TENANT t).showTenant t
    let m := match c with
      | none => m
      | some c =>
        let m := if c.kind.val = 3 then m.err ⟨.ten, 2⟩ sevCorrected else m.set R.TEN_TCFG_KIND c.kind.val
        let m := (((m.set R.TEN_TCFG_DURABLE c.durable.toNat).set R.TEN_TCFG_RSET c.rset.toNat).set R.TEN_TCFG_QUEUES c.queues.toNat).set R.TEN_TCFG_QBASE c.qbase.toNat
        let m := ((m.set R.TEN_TCFG_BW_SHARE c.bw.toNat).set R.TEN_TCFG_LANT_SHARE c.lant.toNat).set R.TEN_TCFG_LD c.ld.toNat
        let m := (List.range 8).foldl (fun (m : Mach) n =>
          match c.keys.getD n none with
          | some k => (m.set (R.TEN_TKEY_SLOT.at n) k.toNat).set (R.TEN_TKEY_V.at n) 1
          | none => m.set (R.TEN_TKEY_V.at n) 0) m
        ((m.set R.TEN_TQ_BED_PAGES c.bed.toNat).set R.TEN_TQ_FRAME_PAGES c.frame.toNat).set R.TEN_TQ_SHED_PAGES c.shed.toNat
    ((m.set R.TEN_TCMD_OP op).tenGo).settle)

/-- The work of a Resetting or Destroying tenant has been performed or dropped (R354 steps 3 to 5, R355). An FLR's function
answers configuration requests again (R463). -/
def tenDrained (m : Mach) (t : Nat) : Mach :=
  let m := m.endReset t
  { m with lds := m.lds.mapV (fun k x => if x.flr && m.boundTo k == some t then { x with flr := false } else x) }

/-- What follows a sweep that has ended: the ATTACH of a tenant with no sweep left ends, and a takeover begins its next one (R356, R410,
R467). -/
def attachEnd (m : Mach) (t : Nat) : Mach :=
  let m' := m.attachDone
  if m.tenCmd = some (5, t) ∧ m'.tenCmd = none ∧ m'.taken.contains t = true then
    (m'.hostEvent (ldOfCfg (m'.tenant t).ld) ⟨0, 0, false, 0, 0, 0, 0⟩).takenNext
  else m'.takenNext

/-- A home's sweep has nothing left, of its tenant when it began (R201, R356). -/
def sweepDone (m : Mach) (q : Nat) : Mach :=
  if !m.on R.HOME_SWEEP_BUSY q then m
  else
    let t := m.sweeping.getD q 0
    let m := (m.sweepStart q t).settle
    if m.filter.any (fun e => homeOf (e.1 * 64) == q && e.2.tenant == t) ||
        m.hq.any (fun r => r.pre && homeOf (r.line * 64) == q && m.lineTenant r.line == t) then m
    else (m.set R.HOME_SWEEP_BUSY 0 q).attachEnd t

/-! ### Doorbells (R358, R362) -/

/-- Pool queue of a tenant's local queue: none where the tenant is Free or has no such queue. -/
def localQueue (m : Mach) (t i : Nat) : Option Nat :=
  let x := m.tenant t
  if x.state ≠ 0 ∧ i < x.queues then some (x.qbase + i) else none

/-- A write of TAIL. -/
def sqDoorbell (m : Mach) (t i tail : Nat) : Mach :=
  match m.localQueue t i with
  | some n => m.setQueue n { m.queue n with tail := tail }
  | none => m

/-- A write of HEAD of the completion ring: held completions go out while slots are free. -/
def cqDoorbell (m : Mach) (t i head : Nat) : Mach :=
  match m.localQueue t i with
  | some n =>
    let m := m.setQueue n { m.queue n with cqHead := head }
    ((m.drainHeld n (m.queue n).held.length).stopCheck n).settle
  | none => m

/-- A write of 2^lg bytes in the doorbell page of a tenant (R358): the bytes of TAIL, HEAD or CONSENT it covers. -/
def doorbellPut (m : Mach) (t r lg v : Nat) : Mach :=
  let x := m.tenant t
  let merged (old : Nat) : Nat := putBits old (8 * (r % 8)) (8 * 2 ^ lg) v
  if x.state = 0 then m
  else if r / 8 * 8 = 0xF00 then m.setTenant t { x with consent := bitsOf (merged (x.consent.toNat * 2 ^ 17)) 17 1 == 1 }
  else if 0xF00 < r ∨ 2 ≤ r % 8 ∨ x.queues ≤ r / 16 then m
  else
    let q := m.queue (x.qbase + r / 16)
    if r / 8 % 2 = 0 then m.sqDoorbell t (r / 16) (merged q.tail % 2 ^ 16) else m.cqDoorbell t (r / 16) (merged q.cqHead % 2 ^ 16)

/-- A register of the doorbell page of a tenant, as it reads (R358). -/
def doorbellGet (m : Mach) (t r : Nat) : Nat :=
  let off := r / 8 * 8
  let x := m.tenant t
  if x.state = 0 then allOnes
  else if off = 0xF00 then x.gen + x.durable.toNat * 2 ^ 16 + x.consent.toNat * 2 ^ 17 + x.attached.toNat * 2 ^ 18
  else if 0xF00 < off then 0
  else if x.queues ≤ off / 16 then allOnes
  else
    let q := m.queue (x.qbase + off / 16)
    if off % 16 = 0 then q.tail % 2 ^ 16 + q.head % 2 ^ 16 * 2 ^ 16 + q.state * 2 ^ 32
    else q.cqHead % 2 ^ 16 + q.cqTail % 2 ^ 16 * 2 ^ 16 + q.phase.toNat * 2 ^ 32

end Mach

open Mach

/-- R353: CREATE. -/
def execTenCreate (src : Src) (tenant : BitVec 11) (cfg : TenantCfg) (s : State) : Out :=
  s.cmd (fun m => m.tenWrite src tenant.toNat 1 (some cfg))

/-- R353, R357: RESIZE. -/
def execTenResize (src : Src) (tenant : BitVec 11) (cfg : TenantCfg) (s : State) : Out :=
  s.cmd (fun m => m.tenWrite src tenant.toNat 2 (some cfg))

/-- R354: RESET. -/
def execTenReset (src : Src) (tenant : BitVec 11) (s : State) : Out := s.cmd (fun m => m.tenWrite src tenant.toNat 3 none)

/-- R355: DESTROY. -/
def execTenantDestroy (src : Src) (tenant : BitVec 11) (s : State) : Out := s.cmd (fun m => m.tenWrite src tenant.toNat 4 none)

/-- R354, R355: the cancelled work is done with. -/
def execTenantWorkDrained (tenant : BitVec 11) (s : State) : Out := s.cmd (fun m => (m.tenDrained tenant.toNat).settle)

/-- R356: ATTACH. -/
def execTenAttach (src : Src) (tenant : BitVec 11) (s : State) : Out := s.cmd (fun m => m.tenWrite src tenant.toNat 5 none)

/-- R356: DETACH. -/
def execTenDetach (src : Src) (tenant : BitVec 11) (s : State) : Out := s.cmd (fun m => m.tenWrite src tenant.toNat 6 none)

/-- R201, R356: a home's sweep ends. -/
def execSweepDone (q : Fin 4) (s : State) : Out := s.cmd (fun m => m.sweepDone q.val)

/-- R358, R362: a write of SQ_DB. -/
def execSqDoorbell (tenant : BitVec 11) (i : BitVec 8) (tail : BitVec 16) (s : State) : Out :=
  s.cmd (fun m => m.sqDoorbell tenant.toNat i.toNat tail.toNat)

/-- R358, R362: a write of CQ_DB. -/
def execCqDoorbell (tenant : BitVec 11) (i : BitVec 8) (head : BitVec 16) (s : State) : Out :=
  s.cmd (fun m => m.cqDoorbell tenant.toNat i.toNat head.toNat)

/-- R359, R361: QCMD START. -/
def execQueueStart (src : Src) (queue : BitVec 13) (s : State) : Out :=
  s.cmd (fun m => m.guarded src 12 .ten 0 (fun m => (m.set R.TEN_QSEL_QUEUE queue.toNat).queueStart queue.toNat))

/-- R359, R361: QCMD STOP. -/
def execQueueStop (src : Src) (queue : BitVec 13) (s : State) : Out :=
  s.cmd (fun m => m.guarded src 12 .ten 0 (fun m => (m.set R.TEN_QSEL_QUEUE queue.toNat).queueStop queue.toNat))

end Sys2Proof.Machine
end

