-- ==== Sys2Proof/Machine/PairOps.lean ====
section
/-! DEFINITION. What the commands of a pair are made of: formation, the mirror window, severance, the fence, takeover and
handback (R388–R414, R467, R468). -/
namespace Sys2Proof.Machine
namespace Mach

def setPState (m : Mach) (st : Nat) : Mach := m.set R.PKG_PAIR_STATE_STATE st
def pairResult (m : Mach) (r : Nat) : Mach := m.set R.PKG_PAIR_STATE_RESULT r

/-! ### The window (R391, R402) -/

def gib (n : Nat) : Nat := n * 2 ^ 30

/-- Where an address of the partner's durable region lies in the mirror window. -/
def toWindow (m : Mach) (a : Nat) : Option Nat :=
  if gib m.pair.peerBase ≤ a ∧ a < gib (m.pair.peerBase + m.pair.peerSize) then
    some (gib (m.get R.PKG_PAIR_MWINDOW_BASE_GIB) + (a - gib m.pair.peerBase))
  else none

/-- The partner's address of a place in the window. -/
def fromWindow (m : Mach) (w : Nat) : Option Nat :=
  let lo := gib (m.get R.PKG_PAIR_MWINDOW_BASE_GIB)
  if lo ≤ w ∧ w < lo + gib m.pair.peerSize then some (gib m.pair.peerBase + (w - lo)) else none

/-- Where a record's address is applied: in the window, and on a Loser that is handed its work back at its own address
(R412). -/
def applyAt (m : Mach) (a : Nat) : Option Nat := if m.pairState = 7 ∧ m.mode = 6 then some a else m.toWindow a

/-- Pages of the window that are not None, also one whose entry is as cold bring-up wrote it. -/
def windowPages (m : Mach) : List Nat :=
  ((List.range (m.get R.PKG_PAIR_MWINDOW_SIZE_GIB * 2 ^ 18)).map (fun i => gib (m.get R.PKG_PAIR_MWINDOW_BASE_GIB) + 4096 * i)).filter
    (fun p => eTier (m.entry p) != tierNone)

/-! ### Formation (R394, R395, R414) -/

/-- The pair key as R394 asks for it: Active, ALG 1, USAGE WRAP, UNWRAP and MIRROR. -/
def pairKek (m : Mach) : Nat := m.get R.PKG_PAIR_KEYS_KEK

def kekFits (m : Mach) : Bool :=
  let s := m.slot m.pairKek
  s.state == 1 && s.alg == 1 && has s.usage useWrap && has s.usage useUnwrap && has s.usage useMirror

/-- The slots TX, RX, PSHED0 and PSHED1. -/
def pairSlots (m : Mach) : List Nat :=
  [m.get R.PKG_PAIR_KEYS_TX, m.get R.PKG_PAIR_KEYS_RX, m.get R.PKG_PAIR_KEYS_PSHED0, m.get R.PKG_PAIR_KEYS_PSHED1]

def slotsFit (m : Mach) : Bool :=
  m.kekFits && m.pairSlots.all (fun n => decide (16 ≤ n) && (m.slot n).state == 0) && m.pairSlots.eraseDups.length == 4

/-- Mirror majors the package offers, as a bitmap: 1 on an I1 I/O die, 1 and 2 on an I2 (R414). -/
def mirrorMajors (m : Mach) : Nat := if m.fuses.iodRev = 2 then 6 else 2

/-- The highest major both offer (R30), 0 where there is none. -/
def commonMajor (a b : Nat) : Nat := ((List.range 8).filter (fun v => a / 2 ^ v % 2 == 1 && b / 2 ^ v % 2 == 1)).foldl max 0

/-- The features of a mirror major (R414). -/
def mirrorFeatures (major : Nat) : Nat := if major = 2 then 3 else 0

/-- Numbers in use that a pair shares (R393). -/
def usedTenants (m : Mach) : List Nat := (m.tenants.filter (fun x => x.1 != 0 && x.2.state != 0)).map (·.1)
def usedQueues (m : Mach) : List Nat :=
  (m.tenants.filter (fun x => x.2.state != 0)).flatMap (fun x => (List.range x.2.queues).map (x.2.qbase + ·))
def usedSets (m : Mach) : List Nat := ((m.tenants.filter (fun x => x.2.state != 0)).map (·.2.rset)).filter (· != 0)

def meets (a b : List Nat) : Bool := a.any b.contains

/-- Whether a region of whole GiB lies inside the managed space. -/
def gibManaged (m : Mach) (base size : Nat) : Bool := decide (gib (base + size) ≤ m.managedEnd)

/-- WINDOW of R395. -/
def windowBad (m : Mach) (h : Hello) : Bool :=
  let db := m.get R.PKG_PAIR_DREGION_BASE_GIB
  let ds := m.get R.PKG_PAIR_DREGION_SIZE_GIB
  let wb := m.get R.PKG_PAIR_MWINDOW_BASE_GIB
  let ws := m.get R.PKG_PAIR_MWINDOW_SIZE_GIB
  let none_ := (m.pmap.filter (fun x =>
    decide (gib wb ≤ x.1 * 4096) && decide (x.1 * 4096 < gib (wb + ws)) && eTier x.2.toNat == tierNone)).length
  decide (h.mwindow.toNat < ds) || decide (ws < h.dregion.toNat) || !m.gibManaged db ds || !m.gibManaged wb ws ||
    (decide (0 < ds) && decide (0 < ws) && decide (db < wb + ws) && decide (wb < db + ds)) || none_ != ws * 2 ^ 18

/-- The checks of step 2 in the order of the results of R395: 0 where none fails. -/
def helloResult (m : Mach) (h : Hello) : Nat :=
  if h.refused.val ≠ 0 then h.refused.val
  else if commonMajor m.mirrorMajors h.majors.toNat = 0 then 3
  else if !m.slotsFit then 4
  else if meets m.usedTenants (h.tenants.map BitVec.toNat) || meets m.usedQueues (h.queues.map BitVec.toNat) ||
      meets m.usedSets (h.sets.map BitVec.toNat) then 5
  else if m.windowBad h then 6
  else if [0, 1, 2, 3].any (fun q => !m.on R.TIER_LAYOUT_MIRROR q) then 7
  else if h.codecMajor.toNat ≠ 1 then 8
  else 0

/-- Both rings of every stream are empty (R391, R401). -/
def clearRings (m : Mach) : Mach :=
  streams.foldl (fun m q => (m.setOut q []).set (R.PKG_MIRROR_RX_PENDING.at q) 0) (m.setPair { m.pair with inb := [], lost := [] })

/-- Formation ends without a pair, in SOLO also after a handback (R395). -/
def formFail (m : Mach) (r : Nat) : Mach :=
  let m := m.clearRings
  let m := ((m.setPair { m.pair with step := 0, cmd := 0, syncOut := [], syncAcked := [], syncIn := [] }).setPState 0).pairResult r
  if m.mode = 5 ∨ m.mode = 6 then m.enterMode 3 else m

/-- The key in a wrapped key (R332) under the pair key: ALG, USAGE, FIXED and the key. A KEK that is not Active unwraps nothing (R334). -/
def unwrapPair (m : Mach) (b : List Byte) : Option (Nat × Nat × Nat × List Byte) :=
  if (m.slot m.pairKek).state ≠ 1 then none
  else match Crypto.kwUnwrap (Crypto.ofB (m.slot m.pairKek).key) (Crypto.ofB b) with
  | none => none
  | some p =>
    let alg := blobNat p 34 1
    if blobNat p 32 1 ≠ 1 ∨ 4 < alg then none
    else some (alg, blobNat p 36 2 % 2 ^ 10, blobNat p 40 4, Crypto.toBytes (p.take (if alg = 0 then 16 else 32)))

/-- Fill a slot of the pair logic. -/
def fillPair (m : Mach) (n alg usage fixed : Nat) (key : List Byte) : Mach := m.fillSlot n alg usage 0 true fixed key

/-- The HELLO of step 2 of R394 with this package's own data. -/
def ownHello (m : Mach) (refused : Nat) : Hello where
  serial := BitVec.ofNat 63 m.fuses.serial
  rev := Fin.ofNat 4 m.fuses.iodRev
  majors := BitVec.ofNat 8 m.mirrorMajors
  features := BitVec.ofNat 8 (mirrorFeatures (commonMajor m.mirrorMajors m.mirrorMajors))
  codecMajor := 1
  dregion := BitVec.ofNat 17 (m.get R.PKG_PAIR_DREGION_SIZE_GIB)
  mwindow := BitVec.ofNat 17 (m.get R.PKG_PAIR_MWINDOW_SIZE_GIB)
  tenants := m.usedTenants.map (BitVec.ofNat 11)
  queues := m.usedQueues.map (BitVec.ofNat 13)
  sets := m.usedSets.map (BitVec.ofNat 12)
  keyToPeer := []
  keyFromPeer := []
  refused := Fin.ofNat 11 refused

/-- A HELLO goes to the partner. -/
def sendHello (m : Mach) (h : Hello) : Mach := m.setPair { m.pair with hello := some h }

/-- Step 3 of R394: the package with the lower SERIAL generates the session keys and sends them wrapped, the other imports them. None on a
failure. -/
def sessionKeys (m : Mach) (h : Hello) : Option Mach :=
  let tx := m.get R.PKG_PAIR_KEYS_TX
  let rx := m.get R.PKG_PAIR_KEYS_RX
  if (m.slot m.pairKek).state ≠ 1 then none
  else if m.fuses.serial < h.serial.toNat then
    if !m.on R.SEED_DRBG_HEALTHY then none
    else
      let gen (m : Mach) (n : Nat) : Mach :=
        let (m, k) := (m.emptySlot n).reseed.newKey
        let (m, f) := m.fresh
        m.fillPair n 1 (2 ^ useMirror) (f.toNat % 2 ^ 32) k
      let m := gen (gen m tx) rx
      some ((m.sendHello { m.ownHello 0 with keyToPeer := m.wrapSlot rx m.pairKek, keyFromPeer := m.wrapSlot tx m.pairKek }).useSlot m.pairKek 2)
  else
    match m.unwrapPair h.keyToPeer, m.unwrapPair h.keyFromPeer with
    | some a, some b =>
      let m := m.useSlot m.pairKek 2
      some ((((m.emptySlot tx).emptySlot rx).fillPair tx a.1 a.2.1 a.2.2.1 a.2.2.2).fillPair rx b.1 b.2.1 b.2.2.1 b.2.2.2)
    | _, _ => none

/-- RB_BASE, RB_TARGET and RB_SIZE of a block. -/
def blockWords (b : RBlock) : Nat × Nat × Nat := (b.v.toNat + 2 * b.r.toNat + 4 * b.w.toNat + b.base, b.target, b.unitsM1)

def blockOf (base target size : Nat) : RBlock :=
  ⟨base % 2 == 1, base / 2 % 2 == 1, base / 4 % 2 == 1, bitsOf base 21 27 * 2 ^ 21, bitsOf target 21 27 * 2 ^ 21, size % 2 ^ 25⟩

/-- The RANGE record of a block of a durable tenant's set (R398). -/
def rangeRec (set n : Nat) (b : RBlock) : MBody :=
  let w := blockWords b
  .range set n w.1 w.2.1 w.2.2

/-- A changed block of a set in use by a durable tenant is mirrored (R398). -/
def mirrorRange (m : Mach) (set n : Nat) : Mach :=
  if m.tenants.any (fun x => x.2.state != 0 && x.2.durable && x.2.rset == set && x.1 != 0) then m.mirror 0 (rangeRec set n (m.rblock set n)) else m

/-- Step 4 of R394 for one context. -/
def sendContext (m : Mach) (t : Nat) : Mach :=
  let x := m.tenant t
  let m := m.mirrorContext t 1
  let m := (List.range x.queues).foldl (fun m i =>
    let q := m.queue (x.qbase + i)
    m.mirror 0 (.queue (x.qbase + i) q.state [q.cfg, q.sq, q.cq, q.acc, q.log])) m
  let m := (List.range 8).foldl (fun m n => m.mirror 0 (rangeRec x.rset n (m.rblock x.rset n))) m
  x.keys.foldl (fun m k =>
    match k with
    | none => m
    | some n =>
      let m := m.mirrorKey n false
      if (m.slot n).alg = 2 then m.mirrorKey (n + 1) false else m) m

/-- SYNC on some streams (R394, R404, R413). -/
def sendSync (m : Mach) (l : List Nat) : Mach :=
  let m := l.foldl (fun m q => m.emitRec q .sync none) m
  m.setPair { m.pair with syncOut := streams.filter (fun q => m.pair.syncOut.contains q || l.contains q), syncAcked := m.pair.syncAcked.filter (fun q => !l.contains q) }

/-- PAGE records of the durable pages of some quadrants (step 5 of R394). -/
def sendPages (m : Mach) (l : List Nat) : Mach :=
  m.pmap.foldl (fun m x =>
    let page := x.1 * 4096
    let e := m.entry page
    if eDur e && eTier e != tierNone && m.inDregion page && l.contains (homeOf page) then m.mirrorPage page else m) m

/-- Steps 3 to 5 of R394 once the session keys stand. -/
def sendAll (m : Mach) : Mach :=
  let m := [12, 13].foldl (fun m n => if (m.slot n).state = 0 then m else m.mirrorKey n false) m
  let m := (m.usedTenants.filter (fun t => (m.tenant t).durable && (m.tenant t).state == 1)).foldl (fun m t => m.sendContext t) m
  ((m.setPState 2).sendPages streams).sendSync streams

/-- FORM written (R389, R394): the package sends its HELLO. -/
def formStart (m : Mach) : Mach :=
  if m.mode ≠ 3 ∨ m.pairState ≠ 0 ∨ !m.on R.PKG_PAIR_CTL_ENABLE then m.pairResult 1
  else if !m.guyAny then m.pairResult 2
  else
    let m := m.sendHello (m.ownHello 0)
    (m.setPair { m.pair with step := 2, cmd := 1 }).setPState 1

/-- The pair logic of a new formation: SEQ 1 for the first record, nothing held, empty shadow tables (R397, R402). -/
def freshPair (m : Mach) (h : Hello) : Mach :=
  let m := m.setPair { m.pair with
    out := [], next := [], held := [], inb := [], fails := [], syncOut := [], syncAcked := [], syncIn := [], shCtx := [], shQueue := [],
    shRange := [], shKey := [], shAcc := [], shDone := [], shLast := [], keyMap := [], owed := [],
    sent := [], wire := [], ackOut := [], lost := [],
    peerBase := m.get R.PKG_PAIR_DREGION_BASE_GIB 0 13, peerSize := h.dregion.toNat, step := 3, cmd := 1 }
  streams.foldl (fun m q => (m.setOut q []).set (R.PKG_MIRROR_RX_PENDING.at q) 0) m

/-- A partner's HELLO (R394): answered with the package's own, and with the result where it fails the checks, while ENABLE is set and the
package could form a pair; after a handback it only brings the session keys of step 3 (R412). -/
def hello (m : Mach) (h : Hello) : Mach :=
  let keys (m : Mach) : Mach :=
    match m.sessionKeys h with
    | none => m.formFail 4
    | some m => m.sendAll
  if !m.guyAny then m
  else if m.pairState = 1 ∧ m.pair.step = 3 then keys m
  else if (m.pairState = 1 ∧ m.pair.step = 2) ∨ (m.pairState = 0 ∧ m.mode = 3 ∧ m.on R.PKG_PAIR_CTL_ENABLE) then
    let r := m.helloResult h
    let m := ((m.set R.PKG_PAIR_PEER_SERIAL h.serial.toNat).setPState 1).sendHello (m.ownHello r)
    match r with
    | 0 =>
      let major := commonMajor m.mirrorMajors h.majors.toNat
      let m := (m.set R.PKG_PAIR_STATE_MIRROR_MAJOR major).set R.PKG_PAIR_STATE_FEATURES (Nat.land (mirrorFeatures major) h.features.toNat)
      keys (m.freshPair h)
    | r => m.formFail r
  else m

/-! ### Acceptance that was waiting (R381, R404) -/

/-- What the acknowledgement of an ACCEPT record gives: the acceptance, or a count where the tenant's GEN has moved on (R351). -/
def ackAccept (m : Mach) (n seq gen : Nat) : Mach :=
  match m.queueOwner n with
  | none => m
  | some t => if (m.tenant t).gen = gen then m.finishAccept n seq (m.acceptMode == 4) else m.discard n t

/-- What an acknowledged record accepts. In SEVERED durable work stays held until the pair is whole again (R381, R404). -/
def ackRec (m : Mach) (r : MRec) : Mach :=
  if m.acceptMode = 6 then
    let l : List (Nat × Nat) := (match r.forDur with | some k => [(0, k)] | none => []) ++
      match r.body with | .accept n gen seq _ => [(n + 1, seq + 2 ^ 32 * gen)] | _ => []
    m.setPair { m.pair with owed := m.pair.owed ++ l }
  else
    let m := match r.forDur with | some k => m.accepted k | none => m
    match r.body with
    | .accept n gen seq _ => m.ackAccept n seq gen
    | _ => m

/-- Acceptances that waited for the pair to be whole again, or for a takeover (R381, R404). -/
def payOwed (m : Mach) : Mach :=
  let l := m.pair.owed
  if m.acceptMode = 6 then m
  else l.foldl (fun m o => if o.1 = 0 then m.accepted o.2 else m.ackAccept (o.1 - 1) (o.2 % 2 ^ 32) (o.2 / 2 ^ 32)) (m.setPair { m.pair with owed := [] })

/-! ### Completion of formation, resynchronisation and unpairing -/

/-- The pair is complete once every SYNC sent has been acknowledged and every SYNC received has been (R394, R404, R413). -/
def pairCheck (m : Mach) : Mach :=
  let p := m.pair
  if streams.all p.syncAcked.contains && streams.all p.syncIn.contains then
    let clear (m : Mach) : Mach := m.setPair { m.pair with syncOut := [], syncAcked := [], syncIn := [], step := 0, cmd := 0 }
    if p.cmd = 2 ∧ m.pairState = 3 then
      let m := ((clear m).setPState 0).set R.PKG_PAIR_STATE_WAS_PAIRED 0
      let m := m.clearRings.pairResult 0
      (if m.mode = 4 then m.enterMode 3 else m).durCheck
    else if m.pairState = 2 ∨ (m.pairState = 4 ∧ p.step = 5) then
      let m := (((clear m).setPState 3).set R.PKG_PAIR_STATE_WAS_PAIRED 1)
      let m := if m.pairState = 3 ∧ p.cmd ≠ 0 then m.pairResult 0 else m
      let m := if m.mode = 3 ∨ m.mode = 5 ∨ m.mode = 6 then m.enterMode 4 else m
      m.payOwed.durCheck
    else m
  else m

/-- An acknowledgement of a stream up to a SEQ (R400). -/
def mirrorAck (m : Mach) (q seq : Nat) : Mach :=
  if !m.mirrorMode then m
  else
  let l := m.outRing q
  let done := l.filter (fun r => decide (r.seq ≤ seq))
  let m := m.setOut q (l.filter (fun r => decide (seq < r.seq)))
  let m := done.foldl (fun m r => m.ackRec r) m
  let m := if done.any (fun r => r.body == MBody.sync) && m.pair.syncOut.contains q && !m.pair.syncAcked.contains q then
      m.setPair { m.pair with syncAcked := m.pair.syncAcked ++ [q] } else m
  m.durCheck.pairCheck.settle

/-! ### Records received (R399–R402) -/

def setPending (m : Mach) (q : Nat) : Mach :=
  m.set (R.PKG_MIRROR_RX_PENDING.at q) (m.pair.inb.filter (fun x => x.1 == q)).length

/-- Bytes a stream's inbound ring of 124 MiB holds (R401). -/
def inboundBytes (m : Mach) (q : Nat) : Nat := (m.pair.inb.filter (fun x => x.1 == q)).foldl (fun a x => a + 16 + x.2.body.len) 0

/-- Place a record in the inbound ring, unless it is already held (R400). -/
def placeRec (m : Mach) (q : Nat) (r : MRec) : Mach :=
  if m.pair.held.getD q 0 < r.seq then
    let st := m.pairState
    let m := if st = 6 then m.setPState 7 else m
    (m.setPair { m.pair with inb := m.pair.inb ++ [(q, r)], held := m.pair.held.ins q r.seq }).setPending q
  else m

/-- Whether this package holds records of a partner now. -/
def mirrorTakes (m : Mach) : Bool := m.mirrorFed || m.pairState == 6 || m.pairState == 7

/-- Set a whole page's lines by non-caching writes; a line that waits is kept by its home. -/
def mirrorLines (m : Mach) (w : Nat) (ls : List Line) (poison : Bool) : Mach :=
  forN 64 (fun i m => ((m.homeOrdered (w / 64 + i)).cohWrite (w / 64 + i) (if poison then 0 else ls.getD i 0) fullMask poison).1) m

/-- ALLOC of a page a record names (R402): a window page has DUR 0, a page a Loser gets back DUR 1 (R412, log 121). -/
def windowAlloc (m : Mach) (w tenant : Nat) (sleepok : Bool) : Mach :=
  m.setEntry w (attrs entryReset tenant (!m.inMirrorWindow w) false sleepok)

/-- A line leaves every die within the command: its durable writes are committed and an owner's value goes home, which holds a write that
has to wait (R184, R382, R386). -/
def pullLine (m : Mach) (l : Nat) : Mach :=
  let m := m.durNow l
  match m.ownerLine l with
  | some (d, p) => ((m.dropCopies l).linePut { k := .wbDirty, src := agentHome (homeOf (l * 64)), line := l, data := d, poison := p } true none).1
  | none => m.dropCopies l

/-- The filter entries of a page's lines with nothing in flight are removed within the command, as a victim's are (R184, R185). -/
def pullPage (m : Mach) (page : Nat) : Mach :=
  (pageLines page).foldl (fun m l =>
    if (m.filter.find l).isSome && !m.lineBusy l then (m.add R.HOME_SF_COUNTS_BACKINV 1 (homeOf page)).pullLine l else m) m

/-- Every filter entry of a page goes before a record is applied to it (R185): true once none is left. A takeover, which applies its records
at once (R410), does not wait for a line with something in flight (log 122). -/
def clearPage (m : Mach) (w : Nat) (force : Bool) : Mach × Bool :=
  if force then (m.pullPage w, true)
  else
    let m := m.removeEntries w
    (m, !m.pageHeld w)

/-- A page's tenant and SLEEPOK as a record gives them: a window page has DUR 0 and PIN 0, a page a Loser gets back keeps its own (R402,
R412). The MSC's lines follow the tenant. False while filter entries have to go first (R185). -/
def setOwner (m : Mach) (w tenant : Nat) (sleepok force : Bool) : Mach × Bool :=
  match if eTenant (m.entry w) = tenant then (m, true) else m.clearPage w force with
  | (m, false) => (m, false)
  | (m, true) =>
    let e := m.entry w
    let own := !m.inMirrorWindow w
    let m : Mach := { m with msc := m.msc.mapV (fun l x => if pageOf (l * 64) = w then { x with tenant := tenant } else x) }
    (m.setEntry w (attrs e tenant (own && eDur e) (own && ePin e) sleepok), true)

/-- A MAP record (R398, R402), and whether it is done: like the TIER commands it waits until the page's filter entries are gone. -/
def applyMap (m : Mach) (w tenant op : Nat) (sleepok force : Bool) : Mach × Bool :=
  let e := m.entry w
  let none_ := eTier e = tierNone
  let gone (f : Mach → Mach) : Mach × Bool := match m.clearPage w force with
    | (m, true) => (f m, true)
    | r => r
  match op with
  | 1 => (if none_ then m.windowAlloc w tenant sleepok else m, true)
  | 2 => gone (fun m => (m.freeAll w true).setEntry w (eSetTier 0 tierNone))
  | 3 => if none_ then (m, true) else gone (fun m => (m.freeAll w true).setEntry w (eSetState (eMove (m.entry w) tierBed 0 0 false) stZero))
  | 4 => if none_ then (m, true) else m.setOwner w tenant sleepok force
  | 5 =>
    if eTier e = tierFrame ∨ eTier e = tierShed then gone (fun m => m.setEntry w (eSetState (m.entry w) stPoisoned))
    else ((if none_ then m.windowAlloc w tenant sleepok else m).mirrorLines w [] true, true)
  | _ => (m, true)

/-- Whether the tier engine has the page in a move or a rekey, or a line of it has a transaction open, so that a record for the page
itself waits (R185, R242). -/
def pageMoving (m : Mach) (w : Nat) : Bool :=
  let st := eState (m.entry w)
  st == stPromoting || st == stDemoting || st == stRekeying || m.htx.any (fun t => pageOf (t.req.line * 64) == w)

/-- The log of a queue of the partner as it lies in the window. -/
def shadowLog (m : Mach) (n : Nat) : Option (Nat × Nat) :=
  match m.pair.shQueue.find n with
  | some (.queue _ _ regs) => (m.applyAt (regs.getD 4 0)).map (fun a => (a, 2 ^ bitsOf (regs.getD 0 0) 0 5))
  | _ => none

/-- Write into the window copy of a queue log. -/
def shadowPut (m : Mach) (n seq off : Nat) (b : List Byte) : Mach :=
  match m.shadowLog n with
  | some (a, size) => (m.cohPut (a + 128 * (seq % size) + off) b).1
  | none => m

/-- A KEY record: the partner's Shed slots go to PSHED0 and PSHED1, the others wrapped into the shadow table (R394, R402). -/
def applyKey (m : Mach) (n : Nat) (body : MBody) : Mach :=
  match body with
  | .key slot _ destroyed wrapped =>
    if slot = 12 ∨ slot = 13 then
      let dst := m.get (if slot = 12 then R.PKG_PAIR_KEYS_PSHED0 else R.PKG_PAIR_KEYS_PSHED1)
      let m := m.useSlot m.pairKek 1
      match m.unwrapPair wrapped with
      | some x => if destroyed then m.emptySlot dst else (m.emptySlot dst).fillPair dst x.1 x.2.1 x.2.2.1 x.2.2.2
      | none => if m.pairState = 1 ∨ m.pairState = 2 then m.formFail 4 else m
    else
      let sh := m.pair.shKey
      m.setPair { m.pair with shKey := if destroyed then sh.erase n else sh.ins n body }
  | _ => m

/-- The tier engine gives up what it does with a window page, so that a takeover can apply its records at once (R410): a move ends at its
source, a rekey's records are dropped. -/
def stopPage (m : Mach) (w : Nat) : Mach :=
  let m := match m.moveOf w with
    | some (k, v) => if v.promote then (m.restoreDone v).dropPromotion k v stStable else m.abandonDemotion k v true
    | none => m
  let q := homeOf w
  if eState (m.entry w) = stRekeying then
    let m := m.dropJournal q (fun r => r.kind != 1 && pageOf r.spa == w && r.move.isNone)
    (m.setTq q { m.tq q with rekeys := (m.tq q).rekeys.filter (· != w) }).endRekey w
  else m

/-- Apply one held record (R402), and whether its effect is whole. A takeover does not let it wait for the tier engine (`force`). -/
def applyBody (m : Mach) (q : Nat) (b : MBody) (force : Bool := false) : Mach × Bool :=
  let all (m : Mach) : Mach × Bool := (m, true)
  match b with
  | .line a tenant d poison =>
    match m.applyAt a with
    | none => all m
    | some w =>
      let m := if eTier (m.entry (pageOf w)) = tierNone then m.windowAlloc (pageOf w) tenant false else m
      all ((m.homeOrdered (w / 64)).cohWrite (w / 64) d fullMask poison).1
  | .page a tenant sleepok zero poison ls =>
    match m.applyAt a with
    | none => all m
    | some w =>
      if m.pageMoving w && !force then (m, false)
      else
        let m := if force then m.stopPage w else m
        match if eTier (m.entry w) = tierNone then (m.windowAlloc w tenant sleepok, true) else m.setOwner w tenant sleepok force with
        | (m, false) => (m, false)
        | (m, true) => if zero && !poison then m.applyMap w tenant 3 sleepok force else all (m.mirrorLines w ls poison)
  | .map a tenant op sleepok =>
    match m.applyAt a with
    | none => all m
    | some w => if m.pageMoving w && !force then (m, false) else (if force then m.stopPage w else m).applyMap w tenant op sleepok force
  | .accept n _ seq entry =>
    let m := m.shadowPut n seq 0 entry
    all (m.setPair { m.pair with shAcc := m.pair.shAcc.ins n b })
  | .complete n _ seq _ _ rec_ =>
    let m := (m.shadowPut n seq 64 [2]).shadowPut n seq 96 rec_
    let size := (m.shadowLog n).elim (2 ^ 16) (·.2)
    all (m.setPair { m.pair with shDone := m.pair.shDone.ins (n * 2 ^ 16 + seq % size) b, shLast := m.pair.shLast.ins n b })
  | .context t op _ cfg _ _ =>
    let p := m.pair
    let mine (n : Nat) : Bool := decide (bitsOf cfg 25 13 ≤ n) && decide (n < bitsOf cfg 25 13 + bitsOf cfg 16 9)
    let keep (on : Bool) (t : Tbl MBody) (f : Nat → Nat) : Tbl MBody := if on then t.keep (fun k _ => !mine (f k)) else t
    all (m.setPair { p with
      shCtx := if op = 4 then p.shCtx.erase t else p.shCtx.ins t b
      shAcc := keep (op == 3 || op == 4) p.shAcc id
      shLast := keep (op == 3 || op == 4) p.shLast id
      shDone := keep (op == 3 || op == 4) p.shDone (· / 2 ^ 16) })
  | .queue n _ _ => all (m.setPair { m.pair with shQueue := m.pair.shQueue.ins n b })
  | .range set n _ _ _ => all (m.setPair { m.pair with shRange := m.pair.shRange.ins (set * 8 + n) b })
  | .key n _ _ _ => all (m.applyKey n b)
  | .sync =>
    let m := m.setPair { m.pair with syncIn := if m.pair.syncIn.contains q then m.pair.syncIn else m.pair.syncIn ++ [q] }
    let m := if m.pairState = 3 ∧ m.pair.cmd = 0 then (m.setPair { m.pair with cmd := 2 }).sendSync streams else m
    all m.pairCheck

/-- Apply every held record (R402, R410, R412). -/
def applyHeld (m : Mach) : Mach :=
  let m := m.pair.inb.foldl (fun m x => (m.applyBody x.1 x.2.body true).1) m
  streams.foldl (fun m q => m.setPending q) (m.setPair { m.pair with inb := [] })

/-- Apply the oldest held record of a stream where it is of a kind. -/
def applyFront (m : Mach) (q : Nat) (kind : MBody → Bool) : Mach :=
  if !m.homeUp then m
  else match m.pair.inb.find? (fun x => x.1 == q) with
  | none => m
  | some x =>
    if kind x.2.body then
      match m.applyBody q x.2.body with
      | (m, false) => m.settle
      | (m, true) => ((m.setPair { m.pair with inb := m.pair.inb.erase x }).setPending q).settle
    else m

/-! ### Losing the pair link (R403, R404, R408) -/

/-- The partner cannot be reached, or reports FROZEN: a formation ends with NO_LINK, a pair is severed. -/
def sever (m : Mach) : Mach :=
  let st := m.pairState
  if st = 1 ∨ st = 2 then m.formFail 2
  else if st = 3 then
    let m := (m.setPState 4).setPair { m.pair with syncOut := [], syncAcked := [], syncIn := [], step := 0, cmd := 0 }
    if m.mode = 4 then m.enterMode 6 else m
  else if st = 4 then m.setPair { m.pair with syncOut := [], syncAcked := [], syncIn := [], step := 0 }
  else m

/-- A Guyline port's service has come or gone (R396, R400): a stream that has another port sends again there. `down` where a port is
declared down, which with no port left is the pair link's end (R430). -/
def portChanged (m was : Mach) (down : Bool) : Mach :=
  if m.guyAny then m.resend (streams.filter (fun q => !was.guyAny || was.streamPort q != m.streamPort q))
  else if down then m.sever else m

/-- R404: a port is up and the partner is in SEVERED or PAIRED: both send again, and end with a SYNC on every stream. -/
def resync (m : Mach) : Mach :=
  if m.mode = 6 ∧ m.pairState = 4 ∧ m.pair.step = 0 ∧ m.guyAny ∧ ([0, 1].any (fun g => m.guyUp g && [4, 6].contains (m.guys.find g |>.elim 0 (·.peerMode)))) then
    let lost := m.pair.lost
    let m := (m.set R.PKG_PAIR_STATE_RESYNC_NEEDED 0).setPair { m.pair with step := 5, lost := [] }
    (((m.resend streams).sendPages lost).sendSync streams)
  else m

/-! ### Takeover (R405–R411, R467) -/

/-- Whether the partner shows itself alive (R409). A status frame that reports FROZEN does not count (log 34). -/
def partnerAlive (m : Mach) : Bool :=
  (m.on R.PKG_PARTNER_VIEW_VALID && [0, 1].any (fun n => m.guyUp n && (m.guys.find n).elim false (fun g => g.peerMode != 9))) || m.pair.alive

/-- The first free slot, from 16 up, for a key; an XTS pair takes an even slot and the next one. -/
def freeSlot (m : Mach) (pair : Bool) : Option Nat :=
  ((List.range 4080).map (16 + ·)).find? (fun n =>
    (m.slot n).state == 0 && !m.pairSlots.contains n && (!pair || (n % 2 == 0 && (m.slot (n + 1)).state == 0 && !m.pairSlots.contains (n + 1))))

/-- Import a key of the partner for a tenant (step 3 of R410): the slot it is in now. -/
def importShadow (m : Mach) (t s : Nat) : Mach × Option Nat :=
  let blob (n : Nat) : Option (Nat × Nat × Nat × List Byte) :=
    match m.pair.shKey.find n with
    | some (.key _ _ _ w) => m.unwrapPair w
    | _ => none
  match blob s with
  | none => (m, none)
  | some k =>
    match m.freeSlot (k.1 == 2) with
    | none => (m, none)
    | some f =>
      let put (m : Mach) (n old : Nat) (k : Nat × Nat × Nat × List Byte) : Mach :=
        let m := (m.useSlot m.pairKek 1).fillSlot n k.1 k.2.1 t false k.2.2.1 k.2.2.2
        m.setPair { m.pair with keyMap := m.pair.keyMap.ins n old }
      let m := put m f s k
      match k.1, blob (s + 1) with
      | 2, some k2 => (put m (f + 1) (s + 1) k2, some f)
      | _, _ => (m, some f)

/-- A range block of the partner as the winner uses it (step 3 of R410). -/
def retarget (m : Mach) (b : RBlock) : RBlock :=
  let size := (b.unitsM1 + 1) * 2 ^ 21
  match m.toWindow b.target with
  | some w => if b.target + size ≤ gib (m.pair.peerBase + m.pair.peerSize) then { b with target := w } else { b with v := false }
  | none => { b with v := false }

/-- Set a queue up from its shadow record (step 4 of R410). -/
def takeQueue (m : Mach) (n : Nat) : Mach :=
  match m.pair.shQueue.find n with
  | some (.queue _ st regs) =>
    let r (i : Nat) : Nat := regs.getD i 0
    let size := 2 ^ bitsOf (r 0) 0 5
    let seq := match m.pair.shAcc.find n with
      | some (.accept _ _ s _) => s + 1
      | _ => 0
    let (tail, phase) := match m.pair.shLast.find n with
      | some (.complete _ _ _ i ph _) => if i + 1 = size then (0, !ph) else (i + 1, ph)
      | _ => (0, true)
    let log := (m.toWindow (r 4)).getD (r 4)
    m.setQueue n { noQueue with
      cfg := r 0, sq := r 1, cq := r 2, acc := r 3, log := log, state := st, nextSeq := seq % 2 ^ 32, head := seq % size, tail := seq % size,
      cqHead := tail, cqTail := tail, phase := phase }
  | _ => m

/-- Step 5 of R410 for a queue: the completions again, then the accepted entries to be run again. -/
def replayTaken (m : Mach) (t n gen newGen : Nat) : Mach :=
  let q := m.queue n
  let m := (m.pair.shDone.filter (fun x => x.1 / 2 ^ 16 == n)).foldl (fun m x =>
    match x.2 with
    | .complete _ _ _ i _ rec_ => m.tenantPut t (agentBulk q.quad) (q.cq + 32 * i) rec_
    | _ => m) m
  let m := (List.range q.size).foldl (fun m k =>
    match m.cohBytes (q.log + 128 * k) 128 with
    | (m, .ok (b, false)) =>
      if Wire.nat b 64 1 = 1 ∧ Wire.nat b 68 2 = gen then
        let d := { newDesc (b.take 64) newGen t with iv := (b.drop 72).take 12, logged := true, replayed := true, partner := true }
        (m.setQueue n { m.queue n with live := insDesc d (m.queue n).live }).add R.BULK_REPLAYED_COUNT 1 q.quad
      else m
    | (m, _) => m) m
  m.acceptRecord n t false

/-- Steps 3 to 5 of R410 for one shadow context. -/
def takeContext (m : Mach) (t : Nat) : Mach :=
  match m.pair.shCtx.find t with
  | some (.context _ _ gen cfg keys quotas) =>
    if bitsOf cfg 2 1 = 0 then m
    else
      let (m, ks) := (keys.take 8).foldl (fun (r : Mach × List (Option Nat)) k =>
        if k / 2 ^ 12 % 2 = 1 then
          let (m, s) := r.1.importShadow t (k % 2 ^ 12)
          (m, r.2 ++ [s])
        else (r.1, r.2 ++ [none])) (m, [])
      let set := bitsOf cfg 4 12
      let x : Tenant :=
        { state := 1, attached := false, consent := false, gen := (gen + 1) % 2 ^ 16, kind := bitsOf cfg 0 2, durable := true, rset := set,
          queues := bitsOf cfg 16 9, qbase := bitsOf cfg 25 13, bw := bitsOf cfg 38 8, lant := bitsOf cfg 46 8, ld := bitsOf cfg 54 10,
          keys := ks, unbound := (keys.take 8).map (fun k => if k / 2 ^ 12 % 2 = 1 then 0 else k % 2 ^ 12), qBed := quotas.getD 0 0, qFrame := quotas.getD 1 0, qShed := quotas.getD 2 0, accepted := 0, completed := 0,
          staleCompl := 0, staleDesc := 0 }
      let m := m.setTenant t x
      let m := (List.range 8).foldl (fun m n =>
        match m.pair.shRange.find (set * 8 + n) with
        | some (.range _ _ b tg sz) => m.putBlock set n (m.retarget (blockOf b tg sz))
        | _ => m) m
      let m := (List.range x.queues).foldl (fun m i => (m.takeQueue (x.qbase + i)).replayTaken t (x.qbase + i) gen x.gen) m
      { m with taken := if m.taken.contains t then m.taken else m.taken ++ [t] }
  | _ => m

def setDur (m : Mach) (page : Nat) (dur : Bool) : Mach :=
  let m := m.pullPage page
  let m := if dur then m.cleanPage page else m
  m.setEntry page (putBits (m.entry page) 8 1 dur.toNat)

/-- Step 6 of R410: the Standby logical device of a foreign tenant (R467). -/
def exposeTaken (m : Mach) (t : Nat) : Mach :=
  let x := m.tenant t
  if x.kind ≠ 1 then m
  else match (List.range 1024).find? (fun k => m.ldField R.EP_LD_V k == 1 && m.ldField R.EP_LD_STANDBY k == 1 && m.ldField R.EP_LD_PEER_TENANT k == t) with
    | none => m
    | some k =>
      let ld := portOf k + 64 * (k % 16)
      (m.setTenant t { x with ld := ld }).setPair { m.pair with attaches := m.pair.attaches ++ [(t, k)] }

/-- R410: the winner takes its partner's durable tenants over. -/
def takeover (m : Mach) : Mach :=
  let m := (m.setPState 5).pairResult 0
  let mine := streams.flatMap (fun q => m.outRing q)
  let m := streams.foldl (fun m q => m.setOut q []) m
  let m := (mine.foldl (fun m r => m.ackRec r) m).payOwed
  let m := m.applyHeld
  let m := m.windowPages.foldl (fun m p => m.setDur p true) m
  let ts := m.pair.shCtx.map (·.1)
  let m := ts.foldl (fun m t => m.takeContext t) m
  let m := (ts.filter m.taken.contains).foldl (fun m t => m.exposeTaken t) m
  m.takenNext.durCheck.settle

/-- The package wins the fence: SEVERED to TAKEOVER. -/
def fenceWon (m : Mach) : Mach :=
  if m.mode = 6 then (m.enterMode 5).takeover else m

/-- The fence is lost (R406). -/
def fenceLost (m : Mach) : Mach := (m.pairResult 9).enterFrozen 2

/-- The takeover decision (R406, R407, R409). -/
def decide_ (m : Mach) : Mach :=
  if m.pair.deciding then m
  else if m.mode ≠ 6 then m.pairResult 1
  else if m.pairState = 6 then m.pairResult 9
  else if m.pairState ≠ 4 then m.pairResult 1
  else if m.partnerAlive then m.pairResult 10
  else if m.on R.PKG_PAIR_STATE_FENCE_IN then m.fenceLost
  else
    let m := { m with pins := { m.pins with pairFenceOut := true } }
    (m.setPair { m.pair with deciding := true }).set R.PKG_PAIR_STATE_FENCE_OUT 1

/-- 16 µs after the token (R406): with a token received meanwhile the lower SERIAL wins. A fence lost in DRAIN freezes the package too
(R73); one won there shows when the package returns to SEVERED. -/
def fenceWait (m : Mach) : Mach :=
  if !m.pair.deciding then m
  else
    let m := m.setPair { m.pair with deciding := false }
    if m.mode ≠ 6 ∧ m.mode ≠ 8 then m
    else if !m.on R.PKG_PAIR_STATE_FENCE_IN ∨ m.fuses.serial < m.get R.PKG_FENCE_TOKEN_TOKEN then m.fenceWon else m.fenceLost

/-- A token on PAIR_FENCE_IN (R405, R406). -/
def fenceToken (m : Mach) (token : Nat) : Mach :=
  let m := { m with pins := { m.pins with pairFenceIn := true } }
  let m := ((m.set R.PKG_FENCE_TOKEN_TOKEN token).set R.PKG_FENCE_TOKEN_VALID 1).set R.PKG_PAIR_STATE_FENCE_IN 1
  if m.pair.deciding ∨ m.pairState = 5 ∨ m.on R.PKG_PAIR_STATE_FENCE_OUT then m else m.enterFrozen 2

/-! ### Handback (R412, R468) -/

/-- A record of the Winner to its partner in Handback. -/
def emit0 (m : Mach) (b : MBody) : Mach := m.emitRec 0 b none

/-- A slot number as the partner knows it. -/
def oldSlot (m : Mach) (n : Nat) : Nat := (m.pair.keyMap.find n).getD n

/-- PAGE records of the window, addressed to the partner's own addresses. -/
def handPages (m : Mach) : Mach :=
  m.windowPages.foldl (fun m w =>
    match m.fromWindow w with
    | none => m
    | some a =>
      let e := m.entry w
      let (m, ls) := m.readPage w
      m.emitRec (homeOf w) (m.pageBody a e ls) none) m

/-- The records of one queue of a taken-over tenant. -/
def handQueue (m : Mach) (n : Nat) : Mach :=
  let q := m.queue n
  let log := (m.fromWindow q.log).getD q.log
  let m := m.emit0 (.queue n q.state [q.cfg, q.sq, q.cq, q.acc, log])
  match m.queueOwner n with
  | none => m
  | some t =>
    let x := m.tenant t
    let m := if q.nextSeq = 0 then m else
      match m.cohBytes (logAt q (q.nextSeq - 1)) 96 with
      | (m, .ok (b, _)) => m.emitRec q.quad (.accept n x.gen (q.nextSeq - 1) b) none
      | (m, _) => m
    let i := (q.cqTail + q.size - 1) % q.size
    match m.lookup x.rset (q.cq + 32 * i) false with
    | (m, .ok spa) =>
      match m.cohBytes spa 32 with
      | (m, .ok (b, _)) =>
        if Wire.nat b 4 2 = x.gen then
          m.emitRec q.quad (.complete n x.gen (Wire.nat b 0 4) i (Wire.nat b 7 1 % 2 == 1) b) none
        else m
      | (m, _) => m
    | (m, .error _) => m

/-- The records of a taken-over tenant. -/
def handTenant (m : Mach) (t : Nat) : Mach :=
  let x := m.tenant t
  let m := m.emit0 (.context t 1 x.gen (cfgWord x) (keyWords x m.oldSlot) [x.qBed, x.qFrame, x.qShed])
  let m := (List.range x.queues).foldl (fun m i => m.handQueue (x.qbase + i)) m
  let m := (List.range 8).foldl (fun m n =>
    let b := m.rblock x.rset n
    match m.fromWindow b.target with
    | some a => if b.v then m.emit0 (rangeRec x.rset n { b with target := a }) else m
    | none => m) m
  x.keys.foldl (fun m k =>
    match k with
    | none => m
    | some n =>
      let key (m : Mach) (n : Nat) : Mach :=
        if (m.slot m.pairKek).state = 1 then (m.useSlot m.pairKek 1).emit0 (.key (m.oldSlot n) (m.slot n).gen false (m.wrapSlot n m.pairKek)) else m
      let m := key m n
      if (m.slot n).alg = 2 then key m (n + 1) else m) m

/-- Logical devices that serve taken-over tenants. -/
def takenLds (m : Mach) : List Nat :=
  m.taken.filterMap (fun t => let x := m.tenant t; if x.state = 1 ∧ x.kind = 1 ∧ x.attached then some (ldOfCfg x.ld) else none)

/-- HANDBACK written: steps 1 and 2 of R412, and Draining of R468. -/
def handbackStart (m : Mach) : Mach :=
  if m.mode ≠ 5 ∨ m.pairState ≠ 5 then m.pairResult 1
  else if !m.guyAny then m.pairResult 2
  else
    let m := streams.foldl (fun m q => m.setOut q []) (m.setPState 7)
    let m := m.setPair { m.pair with step := 1, cmd := 4 }
    let m := m.handPages
    let m := m.taken.foldl (fun m t => m.handTenant t) m
    m.takenLds.foldl (fun m k =>
      (m.setLd k { m.ldFn k with draining := true, released := false }).hostEvent k ⟨0, 0, false, 0, 1, 0, 0⟩) m

/-- Whether the accepted work of the taken-over tenants is complete. -/
def takenIdle (m : Mach) : Bool :=
  m.taken.all (fun t => let x := m.tenant t; (List.range x.queues).all (fun i => !queueBusy (m.queue (x.qbase + i))))

/-- Steps 2 (its end), 3 and 5 of R412: the final records, the copies destroyed, the fence released, and formation from its
step 3 on. -/
def handbackEnd (m : Mach) : Mach :=
  if m.pairState ≠ 7 ∨ m.mode ≠ 5 ∨ m.pair.step ≠ 1 ∨ m.takenIdle = false ∨ m.takenLds.any (fun k => !(m.ldFn k).released) then m
  else
    let m := m.handPages
    let m := m.taken.foldl (fun m t => m.handTenant t) m
    let lds := m.takenLds
    let m := m.taken.foldl (fun m t => m.detachTenant t) m
    let m := lds.foldl (fun m k => m.setLd k { m.ldFn k with draining := false, released := false }) m
    let m := m.taken.foldl (fun m t =>
      let x := m.tenant t
      let m := (List.range x.queues).foldl (fun m i => m.setQueue (x.qbase + i) { noQueue with cfg := (m.queue (x.qbase + i)).cfg }) m
      m.setTenant t { x with state := 0, gen := (x.gen + 1) % 2 ^ 16, attached := false, consent := false, queues := 0, qbase := 0, rset := 0,
                             qBed := 0, qFrame := 0, qShed := 0, durable := false }) m
    let m := m.windowPages.foldl (fun m p => m.setDur p false) m
    let m := { m with taken := [], pins := { m.pins with pairFenceOut := false } }
    let m := (m.set R.PKG_PAIR_STATE_FENCE_OUT 0).setPState 1
    (m.setPair { m.pair with step := 3, syncOut := [], syncAcked := [], syncIn := [] })

/-- Step 4 of R412 for one tenant: its context runs again with GEN + 1. -/
def resumeTenant (m : Mach) (t : Nat) : Mach :=
  match m.pair.shCtx.find t with
  | some (.context _ _ gen cfg _ quotas) =>
    let o := m.tenant t
    let set := bitsOf cfg 4 12
    let x : Tenant := { o with
      state := 1, gen := (gen + 1) % 2 ^ 16, kind := bitsOf cfg 0 2, durable := bitsOf cfg 2 1 == 1, rset := set, queues := bitsOf cfg 16 9,
      qbase := bitsOf cfg 25 13, bw := bitsOf cfg 38 8, lant := bitsOf cfg 46 8, qBed := quotas.getD 0 0, qFrame := quotas.getD 1 0,
      qShed := quotas.getD 2 0 }
    let m := m.setTenant t x
    let m := (List.range 8).foldl (fun m n =>
      match m.pair.shRange.find (set * 8 + n) with
      | some (.range _ _ b tg sz) => m.putBlock set n (blockOf b tg sz)
      | _ => m) m
    let m := m.pair.shKey.foldl (fun m k =>
      match k.2 with
      | .key s _ _ w =>
        if (m.slot s).state = 0 ∧ 16 ≤ s then
          match m.unwrapPair w with
          | some b => (m.useSlot m.pairKek 1).fillSlot s b.1 b.2.1 t false b.2.2.1 b.2.2.2
          | none => m
        else m
      | _ => m) m
    (List.range x.queues).foldl (fun m i =>
      let n := x.qbase + i
      let log := (m.queue n).log
      let m := m.takeQueue n
      m.setQueue n { m.queue n with log := match m.pair.shQueue.find n with | some (.queue _ _ regs) => regs.getD 4 0 | _ => log }) m
  | _ => m

/-- The partner's PAIR_FENCE_OUT is high again: FENCE_IN clears, and a Loser in handback resumes its tenants and forms the
pair again from step 3 of R394 (R408, R412). -/
def fenceInHigh (m : Mach) : Mach :=
  let m := { m with pins := { m.pins with pairFenceIn := false } }
  let m := m.set R.PKG_PAIR_STATE_FENCE_IN 0
  if m.pairState = 7 ∧ m.mode = 6 then
    let m := m.applyHeld
    let ts := m.pair.shCtx.map (·.1)
    let m := ts.foldl (fun m t => m.resumeTenant t) m
    let m := streams.foldl (fun m q => m.setOut q []) (m.setPState 1)
    let m := m.setPair { m.pair with
      step := 3, shCtx := [], shQueue := [], shRange := [], shKey := [], shAcc := [], shDone := [], shLast := [],
      syncOut := [], syncAcked := [], syncIn := [] }
    m.settle
  else m

/-- UNPAIR written (R413). -/
def unpairStart (m : Mach) : Mach :=
  if m.mode ≠ 4 ∨ m.pairState ≠ 3 then m.pairResult 1
  else (m.setPair { m.pair with cmd := 2 }).sendSync streams

end Mach
end Sys2Proof.Machine
end

