-- ==== Sys2Proof/Machine/GuyOps.lean ====
section
/-! DEFINITION. The Guyline ports and the Hylar modules (R415–R433, R448, R449). -/
namespace Sys2Proof.Machine
namespace Mach

/-! ### Guyline -/

def noGuy : GuyPort where
  lanes := []
  bad := []
  nextPair := 0
  pairs := []
  expect := 0
  next := 0
  acked := 0xFFFF
  nak := false
  credits := 1024
  trained := false
  peerLanes := 0
  peerMode := 0
  retrain := false
  ask := none
  grant := none
  window := 0

def guy (m : Mach) (n : Nat) : GuyPort := m.guys.getD n noGuy
def setGuy (m : Mach) (n : Nat) (g : GuyPort) : Mach := { m with guys := m.guys.ins n g }

/-- The largest of 16, 12, 8 and 4 lanes that n lanes allow (R427): 0 where fewer than 4 are there. -/
def widthFor (n : Nat) : Nat := if 16 ≤ n then 16 else if 12 ≤ n then 12 else if 8 ≤ n then 8 else if 4 ≤ n then 4 else 0

/-- A LINK event of a port or module (R501). -/
def linkEvent (m : Mach) (b : Block) (inst : Nat) (up : Bool) (cause port : Nat) : Mach :=
  m.ev 9 2 b (up.toNat + cause * 2 ^ 4 + port * 2 ^ 8) 0 inst

/-- The partner's view is valid only while a port is up (R431). -/
def viewDown (m : Mach) : Mach := if m.guyAny then m else m.set R.PKG_PARTNER_VIEW_VALID 0

/-- A retrain begins: steps 1 to 4 of R427 again (R428). -/
def guyRetrain (m : Mach) (n : Nat) : Mach :=
  let m := (m.set R.GUY_STATUS_TRAINING 1 n).add R.GUY_EVENTS_RETRAINS 1 n
  m.setGuy n { m.guy n with retrain := true, trained := false, grant := none }

/-- A port is declared down (R430): its replay buffer is discarded and it keeps retraining; with the other port up the mirror
records go again there, with none up the pair link is down. -/
def guyDown (m : Mach) (n : Nat) : Mach :=
  let was := m
  let m := ((m.set R.GUY_STATUS_UP 0 n).set R.GUY_STATUS_ACTIVE 0 n).set R.GUY_STATUS_FAIL_CAUSE 4 n
  let m := ((m.set R.GUY_STATUS_TRAINING 1 n).add R.GUY_EVENTS_DOWNS 1 n).err E.GUY_DECLARED_DOWN sevContained n
  let g := m.guy n
  let m := m.setGuy n { g with acked := (g.next + 0xFFFF) % 2 ^ 16, trained := false, retrain := false, grant := none, window := 0, nak := false }
  let m := (m.linkEvent .guy n false 4 0).viewDown
  m.portChanged was true

/-- Count a failure of R430 in the window. -/
def guyFail (m : Mach) (n k : Nat) : Mach :=
  let g := m.guy n
  if g.retrain then m else m.setGuy n { g with window := g.window + k }

/-- The bytes a frame's CRC covers (R424). -/
def frameBytes (kind : Nat) (h : FrameHdr) (stream : Nat) (payload : List Byte) : List Byte :=
  bytesOf 1 kind ++ bytesOf 1 (h.nak.toNat + 2 * h.replay.toNat) ++ bytesOf 2 h.fseq.toNat ++ bytesOf 2 h.ackseq.toNat ++ [h.credits] ++
    bytesOf 1 stream ++ (payload ++ List.replicate 244 0).take 244

/-- A numbered frame arrives on a port that is up (R424, R426): whether its content is taken. -/
def frameIn (m : Mach) (n kind : Nat) (h : FrameHdr) (stream : Nat) (payload : List Byte) : Mach × Bool :=
  if !m.guyUp n then (m, false)
  else if Wire.crc32 (frameBytes kind h stream payload) ≠ h.crc.toNat then
    let m := (m.add R.GUY_FRAMES_CRC_FAIL 1 n).guyFail n 1
    (m.setGuy n { m.guy n with nak := true }, false)
  else
    let g := m.guy n
    let held := (g.next + 2 ^ 17 - 1 - h.ackseq.toNat) % 2 ^ 16
    let m := if h.nak then m.add R.GUY_FRAMES_REPLAYED held n else m
    let g := { g with acked := h.ackseq.toNat, credits := min 1024 (g.credits + h.credits.toNat) }
    if h.fseq.toNat ≠ g.expect then (m.setGuy n { g with nak := true }, false)
    else (m.setGuy n { g with expect := (g.expect + 1) % 2 ^ 16, nak := false }, true)

/-- The leader sets a width (R428). -/
def setWidth (m : Mach) (n w : Nat) : Mach := m.set R.GUY_STATUS_ACTIVE w n

/-- Lanes both ends have with lock. -/
def guyLanes (m : Mach) (n : Nat) : Nat := min (m.guy n).lanes.length (m.guy n).peerLanes

/-- A wanted width the leader can set: it, or the largest below it that the lanes allow. -/
def grantWidth (m : Mach) (n w : Nat) : Nat := min w (widthFor (m.guyLanes n))

/-- Fewer lanes keep lock (R428): the leader reduces the width, and with fewer than 4 lanes the port's service ends. -/
def laneLost (m : Mach) (n : Nat) : Mach :=
  let k := (m.guy n).lanes.length
  if !m.guyUp n then m
  else if widthFor k = 0 then (((m.set R.GUY_STATUS_UP 0 n).guyRetrain n).viewDown).portChanged m false
  else if m.on R.GUY_STATUS_LEADER n ∧ k < m.get R.GUY_STATUS_ACTIVE n then m.setWidth n (widthFor k)
  else m

/-- Take up the pairs that follow in PSEQ order; a granted width starts at its pair (R423, R428). -/
def dealPairs (m : Mach) (n : Nat) : Nat → Mach
  | 0 => m
  | fuel + 1 =>
    let g := m.guy n
    if g.pairs.contains g.nextPair then
      let m := match g.grant with
        | some (w, p) => if p = g.nextPair then (m.setWidth n w).setGuy n { g with grant := none } else m
        | none => m
      let g := m.guy n
      dealPairs (m.setGuy n { g with pairs := g.pairs.erase g.nextPair, nextPair := (g.nextPair + 1) % 2 ^ 16 }) n fuel
    else m

/-- A codeword pair on a lane (R423). -/
def codewordPair (m : Mach) (n lane : Nat) (h : PairHdr) : Mach :=
  let m := (m.add R.GUY_FEC_CORRECTED h.corrected.val n).add R.GUY_FEC_UNCORRECTED h.uncorrected.val n
  let g := m.guy n
  let p := h.pseq.toNat
  let sum := [p % 256, p / 256, h.lane.toNat, h.active.toNat, 0x5A].foldl Nat.xor 0
  if sum = h.check.toNat then
    let ahead := (p + 2 ^ 16 - g.nextPair) % 2 ^ 16
    let g := { g with
      bad := g.bad.put lane 0 0
      lanes := if g.lanes.contains lane then g.lanes else g.lanes ++ [lane]
      pairs := if ahead < 32 ∧ !g.pairs.contains p then g.pairs ++ [p] else g.pairs }
    (m.setGuy n g).dealPairs n 33
  else
    let k := g.bad.getD lane 0 + 1
    let m := if g.lanes.contains lane then m else m.guyFail n 5
    let g := m.guy n
    if k < 4 then m.setGuy n { g with bad := g.bad.put lane k 0 }
    else
      let held := g.lanes.contains lane
      let m := m.setGuy n { g with bad := g.bad.put lane 4 0, lanes := g.lanes.filter (· != lane) }
      if held then m.laneLost n else m

/-- Step 3 of R427: the refusals in their order. -/
def trainCause (m : Mach) (n : Nat) (serial majors : Nat) : Nat :=
  if serial = m.fuses.serial then 1
  else if m.guyUp (1 - n) ∧ m.get R.GUY_PEER_SERIAL (1 - n) ≠ serial then 2
  else if m.pairState ≠ 0 ∧ m.get R.PKG_PAIR_PEER_SERIAL ≠ serial then 2
  else if majors / 2 % 2 = 0 then 3
  else 0

def trainFrame (m : Mach) (n serial majors lanes mode : Nat) : Mach :=
  if !m.guyOn n ∨ !m.on R.GUY_STATUS_TRAINING n then m
  else match m.trainCause n serial majors with
    | 0 =>
      let m := ((m.set R.GUY_PEER_SERIAL serial n).set R.GUY_STATUS_MAJOR 1 n).set R.GUY_STATUS_FAIL_CAUSE 0 n
      let m := m.set R.GUY_STATUS_LEADER (decide (m.fuses.serial < serial)).toNat n
      m.setGuy n { m.guy n with trained := true, peerLanes := lanes, peerMode := mode }
    | c =>
      let m := ((m.set R.GUY_STATUS_FAIL_CAUSE c n).err E.GUY_REFUSED sevContained n).setGuy n { m.guy n with trained := false }
      m.linkEvent .guy n false c 0

/-- A follower whose WIDTH.REQ differs from ACTIVE asks for a change (R429). -/
def askAgain (m : Mach) (n : Nat) : Mach :=
  if m.on R.GUY_STATUS_LEADER n then m
  else
    let r := m.get R.GUY_WIDTH_REQ n
    m.setGuy n { m.guy n with ask := if r = m.get R.GUY_STATUS_ACTIVE n then none else some r }

/-- Step 4 of R427: the port is up. Unacknowledged mirror records go again (R400, R404). -/
def trainDone (m : Mach) (n : Nat) (lanes : List Nat) : Mach :=
  let g := m.guy n
  let m := m.setGuy n { g with lanes := lanes, bad := [] }
  let w := widthFor (m.guyLanes n)
  if !m.guyOn n ∨ !m.on R.GUY_STATUS_TRAINING n ∨ g.trained = false ∨ w = 0 then m
  else
    let was := m.guyUp n
    let old := m
    let m := ((m.set R.GUY_STATUS_UP 1 n).set R.GUY_STATUS_TRAINING 0 n).setWidth n w
    let g := m.guy n
    let m := m.setGuy n { g with
      retrain := false, grant := none, ask := none, nextPair := 0, pairs := []
      expect := if was then g.expect else 0
      next := if was then g.next else 0
      acked := if was then g.acked else 0xFFFF
      credits := if was then g.credits else 1024 }
    let m := m.askAgain n
    if was then m.sendStreams else ((m.linkEvent .guy n true 0 0).portChanged old false).resync

/-- Bytes 0 to 7 of a page's copy behind die 13. -/
def copyPage : StatusPage → Nat
  | .pkg => pageOff 13 .pkg 0
  | .lant => pageOff 13 .lant 0
  | .guy0 => pageOff 13 .guy 0
  | .guy1 => pageOff 13 .guy 1

/-- A STATUS frame's part of the partner's view (R66, R68, R431). -/
def statusIn (m : Mach) (p : StatusPage) (off mode : Nat) (data : List Byte) : Mach :=
  let m := forN 16 (fun i m => m.setReg (copyPage p + 128 * off + 8 * i) (Wire.nat data (8 * i) 8)) m
  let m : Mach := { m with statusAt := some m.time, pair := { m.pair with alive := mode != 9 } }
  let m := m.set R.PKG_PARTNER_VIEW_VALID 1
  let m := [0, 1].foldl (fun m n => m.setGuy n { m.guy n with peerMode := mode }) m
  if mode = 9 ∧ m.pairState = 3 then m.sever else m.resync

/-- No STATUS frame for STATUS_TIMEOUT_US (R431); a pair is severed (R73). -/
def statusTimeout (m : Mach) : Mach :=
  let m : Mach := { m with pair := { m.pair with alive := false } }
  let m := m.set R.PKG_PARTNER_VIEW_VALID 0
  if m.pairState = 3 then m.sever else m

/-! ### Hylar -/

def noHyl : HylEnd := ⟨0, 0xFFF, List.replicate 6 93, 0, 0, false, []⟩
def hylEnd (m : Mach) (k : Nat) : HylEnd := m.hylEnds.getD k noHyl
def setHyl (m : Mach) (k : Nat) (x : HylEnd) : Mach := { m with hylEnds := m.hylEnds.ins k x }

/-- Instance and die of the HYL page of an end of die d's module (R421): 0 the I/O die's end. -/
def hylPage (d e : Nat) : Nat × Nat := if e = 0 then (d, 12) else (0, d)

def onHyl (m : Mach) (d : Nat) (f : Mach → Nat → Nat → Mach) : Mach := f (f m d 12) 0 d

/-- The module retrains (R418): flits wait in the replay buffers. -/
def hylRetrain (m : Mach) (d : Nat) : Mach :=
  m.onHyl d (fun m i die => (m.set R.HYL_LINK_STATUS_TRAINING 1 i die).add R.HYL_RETRAINS_COUNT 1 i die)

/-- A Hylar link goes down (R420). Outside a requested strike or park the die is a dead agent: Fatal, and the domain goes
down. -/
def hylDown (m : Mach) (d cause : Nat) : Mach :=
  let m := m.onHyl d (fun m i die =>
    ((m.set R.HYL_LINK_STATUS_UP 0 i die).set R.HYL_LINK_STATUS_TRAINING 0 i die).set R.HYL_LINK_STATUS_FAIL_CAUSE cause i die)
  (m.linkEvent .hyl d false cause 0).err E.HYL_LINK_DOWN sevFatal d

/-- A link flit arrives at an end (R417–R419): the fabric flit it delivers. During a retrain flits wait at their sender (R418). -/
def hylFlit (m : Mach) (d e : Nat) (flit : List Byte) (ctl crc : Nat) : Mach × Option (List Byte) :=
  let (i, die) := hylPage d e
  let k := 2 * d + e
  let x := m.hylEnd k
  let b := (flit ++ List.replicate 88 0).take 88
  if !m.on R.HYL_LINK_STATUS_UP i die || m.on R.HYL_LINK_STATUS_TRAINING i die then (m, none)
  else if Wire.crc32 (b ++ bytesOf 4 ctl) ≠ crc then ((m.add R.HYL_ERRORS_CRC 1 i die).setHyl k { x with nak := true }, none)
  else
    let ack := bitsOf ctl 12 12
    let nak := bitsOf ctl 24 1 = 1
    let runs := if ack = x.acked then x.runs else 0
    let runs := if nak then runs + 1 else runs
    let m := if nak then m.add R.HYL_ERRORS_REPLAYS 1 i die else m
    let cls := bitsOf ctl 25 3
    let x := { x with
      acked := ack
      credits := (List.range 6).map (fun c => if c = cls then min 93 (x.credits.getD c 0 + bitsOf ctl 28 4) else x.credits.getD c 0) }
    let limit := max 1 (m.act R.HYL_LINK_CTL_REPLAY_LIMIT i die)
    let (m, runs) := if limit ≤ runs then (m.hylRetrain d, 0) else (m, runs)
    let x := { x with runs := runs }
    if bitsOf ctl 0 12 ≠ x.expect then (m.setHyl k { x with nak := true }, none)
    else
      let null := Wire.nat b 8 1 % 64 = 0
      (m.setHyl k { x with expect := (x.expect + 1) % 2 ^ 12, nak := false, last := if null then x.last else b }, if null then none else some b)

/-- A retrain ends (R420). Each end judges the run of failed retrains by its own page's RETRAIN_LIMIT (R421). -/
def hylRetrained (m : Mach) (d : Nat) (ok : Bool) : Mach :=
  if !m.on R.HYL_LINK_STATUS_TRAINING d ∨ !m.on R.HYL_LINK_STATUS_UP d then m
  else if ok then
    (m.onHyl d (fun m i die => m.set R.HYL_LINK_STATUS_TRAINING 0 i die)).setHyl (2 * d) { m.hylEnd (2 * d) with fails := 0 }
  else
    let n := (m.hylEnd (2 * d)).fails + 1
    let m := m.setHyl (2 * d) { m.hylEnd (2 * d) with fails := n }
    let limit (i die : Nat) : Nat := max 1 (m.act R.HYL_LINK_CTL_RETRAIN_LIMIT i die)
    if min (limit d 12) (limit 0 d) ≤ n then m.hylDown d 5 else m.hylRetrain d

end Mach
end Sys2Proof.Machine
end

