-- ==== Sys2Proof/Machine/Tiers.lean ====
section
/-! DEFINITION. The commands of the tiers and the shelves (R242–R276): the eight TIER commands, moves, ageing, strikes and
what a shelf completes. -/
namespace Sys2Proof.Machine
namespace Mach

/-! ### Choosing a page to demote (R251, R257) -/

/-- Whether watermark or Shed demotion runs, and its hysteresis (R251). -/
def demoteRuns (m : Mach) (q : Nat) (shed : Bool) : Mach × Bool :=
  let f := m.get R.TIER_FREE_FREE_FRAMES q
  let t := m.tq q
  let lo := if shed then m.act R.TIER_WM_SHED_SHED_LOW q else m.act R.TIER_WM_FREE_LOW q
  let hi := if shed then m.act R.TIER_WM_SHED_SHED_HIGH q else m.act R.TIER_WM_FREE_HIGH q
  let on := decide (f < lo) || ((if shed then t.shedOn else t.wmOn) && decide (f < hi))
  (m.setTq q (if shed then { t with shedOn := on } else { t with wmOn := on }), on)

/-- The page a TIER instance demotes for a cause. -/
def chooseDemotion (m : Mach) (q : Nat) : DemoteCause → Mach × Option Nat
  | .watermark =>
    let (m, on) := m.demoteRuns q false
    (m, if on then m.candidate q (fun _ e => eTier e == tierBed && decide (m.act R.TIER_POLICY_DEMOTE_AGE q ≤ eAge e)) else none)
  | .shed =>
    let (m, on) := m.demoteRuns q true
    (m, if on then m.candidate q (fun _ e => eTier e == tierFrame && decide (m.act R.TIER_POLICY_DEMOTE_AGE q ≤ eAge e)) else none)
  | .age =>
    (m, if m.act R.TIER_POLICY_AGE_DEMOTE q = 1 then
      m.candidate q (fun _ e => (eTier e == tierBed || eTier e == tierFrame) && decide (m.act R.TIER_POLICY_FORCE_AGE q ≤ eAge e)) else none)
  | .quota t frame =>
    let tier := if frame then tierFrame else tierBed
    let n := t.toNat
    (m, if share (m.quotaOf n tier) tier < m.tierUse n tier q then
      m.candidate q (fun p e => eTier e == tier && m.acctTenant p == n) else none)

def demotionStart (m : Mach) (q : Nat) (cause : DemoteCause) : Mach :=
  if !m.tierReady q || !m.homeUp then m
  else match m.chooseDemotion q cause with
    | (m, none) => m
    | (m, some p) =>
      ((m.passCursor q p).beginDemotion p 0).1.settle

/-! ### Commands written to TIER.CMD -/

/-- Write CMD_ARG and CMD and set GO (R276). -/
def tierCmd (m : Mach) (src : Src) (q op page : Nat) (a : Option PageAttrs) (toTier : Nat) : Mach :=
  m.guarded src 12 .tier q (fun m =>
    let m := (m.set R.TIER_CMD_ARG_PAGE page q).set R.TIER_CMD_OP op q
    let m := match a with
      | some a => (((m.set R.TIER_CMD_TENANT a.tenant.toNat q).set R.TIER_CMD_DUR a.dur.toNat q).set R.TIER_CMD_PIN a.pin.toNat q).set
          R.TIER_CMD_SLEEPOK a.sleepok.toNat q
      | none => m
    let m := if toTier = 3 then m.err ⟨.tier, 2⟩ sevCorrected q else m.set R.TIER_CMD_TO_TIER toTier q
    (m.tierGo q).settle)

/-! ### Moves -/

/-- Answer the request a home holds for a shelf unit with what the tiers say now. A SPEC request that is refused leaves no trace
(R198). -/
def answerShelf (m : Mach) (r : HReq) (s : Mach × RServe) : Mach :=
  match m.htx.find? (fun t => t.req == r && t.fill == 3) with
  | none => m
  | some t => (if r.spec && isRefusal s.2 then { m with free := s.1.free } else s.1).servedTx t s.2

/-- Serve again the requests that wait for units of a page. -/
def serveAgain (m : Mach) (page : Nat) : Mach :=
  let rs := m.shelfReads.filter (fun r => r.page == page && r.req.isSome)
  let m := { m with shelfReads := m.shelfReads.filter (fun r => !(r.page == page && r.req.isSome)) }
  rs.foldl (fun m r =>
    match r.req with
    | none => m
    | some q => m.answerShelf q (m.serveFor q)) m

/-- R247 steps 5 to 7, and the end of a move of an evacuation. -/
def promotionCommit (m : Mach) (k : Nat) : Mach :=
  match m.moves.find k with
  | none => m
  | some v =>
    if !v.promote || !m.homeUp then m
    else if v.dstTier = tierBed then
      if v.srcTier = tierShed ∧ v.units + 1 ≠ 2 ^ unitsOf v.srcCmp v.srcPlots then m
      else ((m.commitPromotion k v).serveAgain v.page).settle
    else if v.writes = 0 then (m.commitDemotion k v).settle
    else m

/-- R252 steps 7 and 8; for Shed only once the shelf has completed every write (R254). -/
def demotionCommit (m : Mach) (k : Nat) : Mach :=
  match m.moves.find k with
  | none => m
  | some v => if v.promote ∨ v.dstTier = tierNone ∨ v.writes ≠ 0 ∨ m.homeUp = false then m else (m.commitDemotion k v).settle

/-- An ageing sweep of a map part (R246). -/
def ageingSweep (m : Mach) (q : Nat) : Mach :=
  let bare := min 7 ((m.tq q).bare + 1)
  let m := m.setTq q { m.tq q with bare := bare }
  let aged (w : Word) : Word :=
    let e := w.toNat
    if eTier e = tierNone then w else BitVec.ofNat 64 (eSetAge e (min 7 (eAge e + 1)))
  let m := (m.pmap.filter (fun e => homeOf (e.1 * 4096) == q && aged e.2 != e.2)).foldl (fun m e => m.dirtyMap (e.1 * 4096)) m
  { m with pmap := m.pmap.foldr (fun e t =>
      if homeOf (e.1 * 4096) = q then t.put e.1 (aged e.2) (BitVec.ofNat 64 (m.bareEntry q)) else t.ins e.1 e.2) [] }

/-! ### Shelves -/

/-- A SHELF_STATE event with the new state (R501). -/
def shelfTo (m : Mach) (n st : Nat) : Mach := (m.setShelfState n st).ev 4 2 .tier (n + st * 2 ^ 8) (m.shelf n).ident

/-- A shelf number returns to Empty: its space maps, tags and identity go (R255, R260, R342). -/
def shelfEmpty (m : Mach) (n : Nat) : Mach :=
  let m := (m.tags.filter (fun t => t.1 / 2 ^ 40 == n)).foldl (fun m t => m.subUnits t.2.slot 1) m
  let m := if (m.shelf n).mapped then m.subUnits (m.labelSlot n) 1 else m
  let m := { m with tags := m.tags.keep (fun k _ => k / 2 ^ 40 != n), smap := m.smap.keep (fun k _ => k / 2 ^ 32 != n) }
  let m := m.shelfTo n 0
  (m.setShelf n noShelf).set (R.TIER_SHELF_STAT_CAP_GIB.at n) 0

/-- The lines a promotion had written when its shelf went: from the destination into the journal as dormant records
(crossing 4 of the chapter on tiers), whatever records are free (DESIGN CHOICE, log 111). -/
def keepDone (m : Mach) (v : Move) : Mach :=
  (List.range 64).foldl (fun m i =>
    if v.done / 2 ^ i % 2 = 0 then m
    else
      let spa := v.page + 64 * i
      let (m, r) := m.readBed spa v.dstLoc
      let rec_ (d : Line) (p : Bool) : JRec :=
        ⟨homeOf spa, spa, 1, p, locShelf v.srcLoc, locPlace v.srcLoc, i, fullMask, 0, none, 0, false, 0, false, d⟩
      match r with
      | .ok d => m.addJournal (rec_ d false)
      | _ => m.addJournal (rec_ 0 true)) m

/-- A move whose source or destination lay on a shelf that is gone (R242, R254, R448). -/
def loseMove (m : Mach) (n k : Nat) (v : Move) : Mach :=
  if !v.promote then m.abandonDemotion k v true
  else if v.dstTier = tierShed ∧ locShelf v.dstLoc = n then m.dropPromotion k v stStable
  else if v.dstTier = tierBed ∧ v.units + 1 ≠ 2 ^ unitsOf v.srcCmp v.srcPlots then (m.keepDone v).dropPromotion k v stDormant
  else m

/-- A shelf's link is lost (R260, R263, R448): moves on it end, a dormant sweep runs, and the reads that waited for it are
refused. -/
def shelfLost (m : Mach) (n : Nat) : Mach :=
  if m.shelfState n ≠ 2 ∧ m.shelfState n ≠ 3 then m
  else
    let m := (m.shelfTo n 5).setShelf n { m.shelf n with phase := 0 }
    let m := (m.moves.filter (fun x => moveOn x.2 n)).foldl (fun m x => m.loseMove n x.1 x.2) m
    let m := m.dormantSweep n
    let m := { m with journal := m.journal.map (fun (r : JRec) => if r.shelf = n then { r with sent := false } else r) }
    let m := [0, 1, 2, 3].foldl (fun m q => m.syncJournal q) m
    let ps := ((m.shelfReads.filter (fun r => r.shelf == n)).map (·.page)).eraseDups
    let m := ps.foldl (fun m p => m.serveAgain p) m
    ({ m with shelfReads := m.shelfReads.filter (fun r => r.shelf != n) }).settle

/-- Step 6 of R261 with R445: the link is released, or the release fails and the shelf is Lost. -/
def strikeDone (m : Mach) (n : Nat) (released : Bool) : Mach :=
  let s := m.shelf n
  let inFlight := m.journal.any (fun r => r.shelf == n && r.kind != 1 && r.sent)
  if m.shelfState n ≠ 3 ∨ s.phase ≠ 4 ∨ inFlight ∨ m.shelfReads.any (fun r => r.shelf == n) then m
  else
    let port := m.get (R.TIER_SHELF_CFG_PORT.at n)
    if released then
      let m := m.set (R.PG_PORT_CTL_LINK_DISABLE.at (port % 4)) 1 (port / 4)
      let m := (m.set (R.PG_PORT_STATUS_UP.at (port % 4)) 0 (port / 4)).set (R.PG_PORT_STATUS_CXLMEM.at (port % 4)) 0 (port / 4)
      if s.evac then m.shelfEmpty n else (m.shelfTo n 4).setShelf n { s with phase := 0 }
    else (m.err E.PG_SHELF_RELEASE sevContained (port / 4)).shelfLost n

/-- RELEASE of an Asleep or Lost shelf (R262). A promotion that still runs from it ends. -/
def shelfRelease (m : Mach) (n : Nat) : Mach :=
  if m.shelfState n ≠ 4 ∧ m.shelfState n ≠ 5 then m
  else
    let m := (m.shelfPages n).foldl (fun m p =>
      let q := homeOf p
      let e := m.entry p
      let m := match m.moveOf p with
        | some (k, v) => if v.promote then (m.restoreDone v).dropPromotion k v stPoisoned else m
        | none => m
      let m := m.setEntry p (eSetState (m.entry p) stPoisoned)
      let m := if eDur e && eState e != stPoisoned then m.mirrorMap p 5 else m
      let t := m.tq q
      m.setTq q { t with gone := t.gone ++ [p], rekeys := t.rekeys.filter (· != p), poisonLater := t.poisonLater.filter (· != p) }) m
    let m := [0, 1, 2, 3].foldl (fun m q => m.dropJournal q (fun r => r.shelf == n && r.kind != 1)) m
    (m.shelfEmpty n).settle

/-- The tag entries of a KIND 2 record reach the shelf (R316, R342). -/
def putTags (m : Mach) (r : JRec) : Mach :=
  let hs := maskTags r.mask
  (List.range hs.length).foldl (fun m i =>
    let h := hs.getD i 0
    let w := r.data.toNat / 2 ^ (256 * h) % 2 ^ 256
    let slot := bitsOf w 192 16
    let m := m.dropTag r.shelf (r.place + h)
    let t : TagEntry :=
      ⟨bitsOf w 0 128, slot, bitsOf w 128 64, (m.slot slot).key, (m.shelf r.shelf).ident, pageOf r.spa, r.unit + i, r.cmp, if r.cmp then r.plots else 0⟩
    ({ m with tags := m.tags.ins (tagKey r.shelf (r.place + h)) t }).addUnits slot 1) m

/-- A shelf write of a move has completed: the line's DONE bit, or all of them with the last write (R254, R270). -/
def moveWrote (m : Mach) (k : Nat) (v : Move) (r : JRec) : Mach :=
  let one := if r.kind = 0 ∧ r.cmp = false ∧ v.done / 2 ^ r.off % 2 = 0 then 2 ^ r.off else 0
  m.setMove k { v with writes := v.writes - 1, done := if v.writes ≤ 1 then fullMask else v.done + one }

/-- A shelf completes the write of a journal record (R254, R267, R342). -/
def shelfWrite (m : Mach) (q seq : Nat) : Mach :=
  match m.journal.find? (fun r => r.q == q && r.seq == seq && r.kind != 1 && r.sent) with
  | none => m
  | some r =>
    if m.shelfState r.shelf ≠ 2 ∧ m.shelfState r.shelf ≠ 3 then m
    else
      let m := if r.kind = 0 then m.putLine (hdm r.shelf (recByte r)) r.data else m.putTags r
      let m := m.dropJournal q (fun x => x.seq == seq)
      match r.move with
      | some k =>
        match m.moves.find k with
        | some v => (m.moveWrote k v r).settle
        | none => m.settle
      | none =>
        let page := pageOf r.spa
        if m.journal.any (fun x => x.q == q && x.kind != 1 && pageOf x.spa == page && x.move.isNone) then m.settle
        else
          let m := m.setTq q { m.tq q with rekeys := (m.tq q).rekeys.filter (· != page) }
          (if eState (m.entry page) = stRekeying then m.endRekey page else m).settle

/-- A shelf unit and its tag entry have been read and verified on the SHED channel (R249, R317); `intact` is false where the
data came back poisoned or altered, which counts as a tag failure (R438). -/
def shelfRead (m : Mach) (n page u : Nat) (intact : Bool) : Mach :=
  let hit (r : ShelfRead) : Bool := r.shelf == n && r.page == page && r.unit == u
  let rs := m.shelfReads.filter hit
  if rs.isEmpty ∨ (m.shelfState n ≠ 2 ∧ m.shelfState n ≠ 3) then m
  else
    let m := { m with shelfReads := m.shelfReads.filter (fun r => !hit r) }
    let e := m.entry page
    let reqs := rs.filterMap (·.req)
    let there := eTier e == tierShed && locShelf (eLoc e) == n && eState e != stPoisoned
    let m := if there then m.shedRead (homeOf page) n (eCmp e) (locPlace (eLoc e)) [u] else m
    if !there then (reqs.foldl (fun m r => m.answerShelf r (m.serveFor r)) m).settle
    else if intact && m.unitOk n page u (eCmp e) (ePlots e) (locPlace (eLoc e)) then
      let mv := m.moveOf page
      let m := match mv with
        | some (k, v) =>
          if v.promote && v.units / 2 ^ u % 2 == 0 then m.setMove k { v with units := v.units + 2 ^ u } else m
        | none => m
      let more : Option Nat := match m.moveOf page with
        | some (_, v) =>
          if v.promote && eCmp e then (List.range (unitsOf true (ePlots e))).find? (fun x => v.units / 2 ^ x % 2 == 0) else none
        | none => none
      match more with
      | some x =>
        { m with shelfReads := m.shelfReads ++ reqs.map (fun r => ShelfRead.mk n page x (some r) (mv.map (·.1))) }
      | none => (reqs.foldl (fun m r => m.answerShelf r (m.sourceFor r)) m).settle
    else
      let m := m.poisonEntry page
      let m := reqs.foldl (fun m r => m.answerShelf r (m, .line .poison)) m
      (m.serveAgain page).settle

end Mach

open Mach

/-- R276: TIER command READ. -/
def execTierRead (src : Src) (q : Fin 4) (page : BitVec 36) (s : State) : Out :=
  s.cmd (fun m => m.tierCmd src q.val 1 page.toNat none 0)

/-- R258, R276: TIER command SET_ATTR. -/
def execTierSetAttr (src : Src) (q : Fin 4) (page : BitVec 36) (a : PageAttrs) (s : State) : Out :=
  s.cmd (fun m => m.tierCmd src q.val 2 page.toNat (some a) 0)

/-- R276: TIER command ALLOC. -/
def execTierAlloc (src : Src) (q : Fin 4) (page : BitVec 36) (a : PageAttrs) (s : State) : Out :=
  s.cmd (fun m => m.tierCmd src q.val 3 page.toNat (some a) 0)

/-- R276: TIER command FREE. -/
def execTierFree (src : Src) (q : Fin 4) (page : BitVec 36) (s : State) : Out :=
  s.cmd (fun m => m.tierCmd src q.val 4 page.toNat none 0)

/-- R276: TIER command ZERO. -/
def execTierZero (src : Src) (q : Fin 4) (page : BitVec 36) (s : State) : Out :=
  s.cmd (fun m => m.tierCmd src q.val 5 page.toNat none 0)

/-- R276: TIER command PROMOTE. -/
def execTierPromote (src : Src) (q : Fin 4) (page : BitVec 36) (s : State) : Out :=
  s.cmd (fun m => m.tierCmd src q.val 6 page.toNat none 0)

/-- R276: TIER command DEMOTE. -/
def execTierDemote (src : Src) (q : Fin 4) (page : BitVec 36) (toTier : Fin 4) (s : State) : Out :=
  s.cmd (fun m => m.tierCmd src q.val 7 page.toNat none toTier.val)

/-- R276: TIER command CLEAR_POISON. -/
def execTierClearPoison (src : Src) (q : Fin 4) (page : BitVec 36) (s : State) : Out :=
  s.cmd (fun m => m.tierCmd src q.val 8 page.toNat none 0)

/-- R247: the move in a slot has written its lines. -/
def execPromotionCommit (q : Fin 4) (slot : Fin 64) (s : State) : Out :=
  s.cmd (fun m => if m.tierReady q.val then m.promotionCommit (q.val * 64 + slot.val) else m)

/-- R251, R252, R257: a TIER instance starts a demotion of its own accord. -/
def execDemotionStart (q : Fin 4) (cause : DemoteCause) (s : State) : Out := s.cmd (fun m => if m.takesNew .tier q.val then m.demotionStart q.val cause else m)

/-- R252, R254: the demotion in a slot commits. -/
def execDemotionCommit (q : Fin 4) (slot : Fin 64) (s : State) : Out :=
  s.cmd (fun m => if m.tierReady q.val then m.demotionCommit (q.val * 64 + slot.val) else m)

/-- R246: an ageing sweep. -/
def execAgeingSweep (q : Fin 4) (s : State) : Out := s.cmd (fun m => if m.tierReady q.val && m.takesNew .tier q.val then m.ageingSweep q.val else m)

/-- R261: SHELF_CFG.STRIKE_EVAC. -/
def execStrikeEvac (src : Src) (shelf : Fin 64) (s : State) : Out :=
  s.cmd (fun m => m.guarded src 12 .tier 0 (fun m => (m.strike shelf.val true).settle))

/-- R261: SHELF_CFG.STRIKE_SLEEP. -/
def execStrikeSleep (src : Src) (shelf : Fin 64) (s : State) : Out :=
  s.cmd (fun m => m.guarded src 12 .tier 0 (fun m => (m.strike shelf.val false).settle))

/-- R261, R445: the strike's link release ends. -/
def execShelfStrikeDone (shelf : Fin 64) (released : Bool) (s : State) : Out := s.cmd (fun m => m.strikeDone shelf.val released)

/-- R262: SHELF_CFG.RELEASE. -/
def execShelfRelease (src : Src) (shelf : Fin 64) (s : State) : Out :=
  s.cmd (fun m => m.guarded src 12 .tier 0 (fun m => m.shelfRelease shelf.val))

/-- R263, R448: a shelf's link is lost. -/
def execShelfLost (shelf : Fin 64) (s : State) : Out := s.cmd (fun m => m.shelfLost shelf.val)

/-- R265: WAKE_RETRY_S after a wake request. -/
def execWakeRetryExpire (shelf : Fin 64) (s : State) : Out := s.cmd (fun m => m.set (R.TIER_SHELF_STAT_WAKE_PEND.at shelf.val) 0)

/-- R267: a shelf completes a write. -/
def execShelfWriteComplete (q : Fin 4) (seq : Word) (s : State) : Out := s.cmd (fun m => m.shelfWrite q.val seq.toNat)

/-- R249, R317: a shelf unit has been read. -/
def execShelfReadComplete (shelf : Fin 64) (page : BitVec 36) (unit : Fin 8) (intact : Bool) (s : State) : Out :=
  s.cmd (fun m => m.shelfRead shelf.val (page.toNat * 4096) unit.val intact)

end Sys2Proof.Machine
end

