-- ==== Sys2Proof/Machine/LinkOps.lean ====
section
/-! DEFINITION. Port groups and pitching: the ports of a group, device accesses and device requests, containment, and what a
pitch does (R434–R447). -/
namespace Sys2Proof.Machine
namespace Mach

/-! ### Ports (R434, R435) -/

/-- Whether SPLIT creates port i of a group. -/
def portExists (m : Mach) (p : Nat) : Bool :=
  match m.get R.PG_CFG_SPLIT (p / 4) with
  | 0 => p % 4 == 0
  | 1 => p % 2 == 0
  | 2 => p % 4 != 1
  | _ => true

/-- Lanes of a port. -/
def portLanes (m : Mach) (p : Nat) : Nat :=
  match m.get R.PG_CFG_SPLIT (p / 4) with
  | 0 => 16
  | 1 => 8
  | 2 => if p % 4 = 0 then 8 else 4
  | _ => 4

def portGet (m : Mach) (f : Fld) (p : Nat) : Nat := m.get (f.at (p % 4)) (p / 4)
def portSet (m : Mach) (f : Fld) (p v : Nat) : Mach := m.set (f.at (p % 4)) v (p / 4)
def portUp (m : Mach) (p : Nat) : Bool := m.portGet R.PG_PORT_STATUS_UP p == 1
def portContained (m : Mach) (p : Nat) : Bool := m.portGet R.PG_PORT_STATUS_CONTAINED p == 1
def noPg : PgPort := ⟨0, [], false, false, .none⟩

/-- What a port holds beyond its registers. -/
def pgPort (m : Mach) (p : Nat) : PgPort := m.pgDevs.getD p noPg
def setPg (m : Mach) (p : Nat) (x : PgPort) : Mach := { m with pgDevs := m.pgDevs.put p x noPg }
def pgDone (m : Mach) (p code : Nat) (data : List Byte) : Mach := m.setPg p { m.pgPort p with code := code, data := data }
/-- A port group takes new work: requests and the training of a link (R48, R49). -/
def pgOn (m : Mach) (g : Nat) : Bool := m.takesNew .pg g

/-- A group that is enabled takes no new work now: it is quiesced, or stopping (R48, R49). -/
def pgHeld (m : Mach) (g : Nat) : Bool := m.hon R.HDR_STATUS_ENABLED .pg g && !m.pgOn g

/-- The largest width a port of k lanes runs when n lanes train: a power of two down to 1. -/
def portWidth (k n : Nat) : Nat := ([16, 8, 4, 2, 1].find? (fun w => decide (w ≤ k) && decide (w ≤ n))).getD 0

/-- A port trains (R435, R440). R58 makes the retrain of "the link" the safe point of a PG or EP page and does not say which link of a
group with several ports: the model takes the training of any one port of the group (DESIGN CHOICE, log 103). FLIT mode and the protocol are negotiated at the first training and stand at a retrain; without FLIT
mode the link runs at 32 GT/s at most. -/
def linkUp (m : Mach) (p rate width : Nat) (flit cxlmem : Bool) : Mach :=
  let g := p / 4
  let w := portWidth (m.portLanes p) width
  if !m.pgOn g || !m.portExists p || m.portGet R.PG_PORT_CTL_LINK_DISABLE p == 1 || w == 0 then m
  else
    let was := m.portUp p
    let flit := if was then m.portGet R.PG_PORT_STATUS_FLIT p == 1 else flit || rate == 4
    let cxl := if was then m.portGet R.PG_PORT_STATUS_CXLMEM p == 1 else cxlmem && m.on R.PG_CFG_CXL g
    let rate := min (if flit then rate else min rate 3) (m.get R.PG_CFG_MAX_RATE g)
    let m := ((m.portSet R.PG_PORT_STATUS_UP p 1).portSet R.PG_PORT_STATUS_RATE p rate).portSet R.PG_PORT_STATUS_WIDTH p w
    let m := (m.portSet R.PG_PORT_STATUS_FLIT p flit.toNat).portSet R.PG_PORT_STATUS_PRESENT p 1
    let m := m.portSet R.PG_PORT_STATUS_CXLMEM p cxl.toNat
    let m := m.setPg p { m.pgPort p with retrain := false }
    let m := (m.safePoint 12 .pg g).safePoint 12 .ep g
    if was then m else m.linkEvent .pg g true 0 (p % 4)

/-! ### Device accesses of cores (R109–R111, R128, R437) -/

/-- A failed access is logged: DEVREAD_FAILED, or DEVWRITE_LOST for a store acknowledged early (R493). -/
def devLog (m : Mach) (d : DevMsg) : Mach :=
  match d.port with
  | none => m
  | some p =>
    if d.rd.isSome then m.errCause .pg 69 sevContained (p / 4) 12 (some d.spa) (p % 4)
    else if !d.ne then m.errCause .pg 68 sevContained (p / 4) 12 (some d.spa) (p % 4)
    else m

/-- A device access ends at its core: a load takes its data, or all ones on an error; a tracked store that failed is kept
for DEVWRITE. -/
def devEnd (m : Mach) (d : DevMsg) (data err : Nat) : Mach :=
  let m := if err = 0 then m else m.devLog d
  let c := m.core d.cid
  if !m.dieUp (dieOf d.cid) ∨ c.run = .stopped ∨ c.run = .parked then m
  else match d.rd with
    | some rd =>
      let n := 2 ^ (8 * 2 ^ d.lg)
      m.endLoad d.cid rd d.lg (if err = 0 then data % n else n - 1) d.ilen
    | none =>
      if !d.ne then m
      else
        let c := { c with trk := c.trk.erase ⟨d.spa, d.lg, d.pl⟩ }
        if err = 0 then m.setCore d.cid c
        else
          let f : DevFail := match c.dfail with
            | some f => { f with more := satAdd 16 f.more 1 }
            | none => ⟨d.spa, err, d.lg, d.pl, 0⟩
          (m.setCore d.cid { c with dfail := some f })

/-- Every access outstanding to a port completes with an error (R437, R448). -/
def devFailPort (m : Mach) (p : Nat) : Mach :=
  { m with devq := m.devq.map (fun (d : DevMsg) => if d.port = some p ∧ d.k ≠ 2 then { d with k := 2, err := 2 } else d) }

/-! ### Loss of a port (R437, R448) -/

/-- Shelves whose root port is p. -/
def shelvesAt (m : Mach) (p : Nat) : List Nat := (List.range 64).filter (fun n => m.get (R.TIER_SHELF_CFG_PORT.at n) == p)

/-- What a port carried ends: its device accesses fail and the shelves on it are lost. -/
def portService (m : Mach) (p : Nat) : Mach := (m.shelvesAt p).foldl (fun m n => m.shelfLost n) (m.devFailPort p)

/-- A root port's link goes down without being asked for. -/
def portLost (m : Mach) (p : Nat) (dropped : Bool) : Mach :=
  let g := p / 4
  if m.isUpstream g || !m.portExists p || !m.portUp p then m
  else
    let m := if dropped then
        let m := (m.portSet R.PG_PORT_STATUS_UP p 0).portSet R.PG_PORT_STATUS_CXLMEM p 0
        (m.err E.PG_SURPRISE_DOWN sevContained g).linkEvent .pg g false 0 (p % 4)
      else m
    let dpc := m.act (R.PG_PORT_CTL_DPC_EN.at (p % 4)) g == 1
    let m := if dpc && !m.portContained p then (m.portSet R.PG_PORT_STATUS_CONTAINED p 1).add R.PG_LINKERR_CONTAINMENTS 1 g else m
    if dropped || dpc then m.portService p else m

/-- LINK_DISABLE holds a link down (R440). -/
def portDisable (m : Mach) (p : Nat) : Mach :=
  if m.portUp p then
    let m := (m.portSet R.PG_PORT_STATUS_UP p 0).portSet R.PG_PORT_STATUS_CXLMEM p 0
    (m.linkEvent .pg (p / 4) false 0 (p % 4)).portService p
  else m

/-! ### Loss of an upstream port (R448, R463, R465) -/

/-- The logical devices of a group, or of one of its ports. -/
def groupLds (g : Nat) : List Nat := (List.range 64).map (ldKey g ·)
def portLds (p : Nat) : List Nat := (List.range 16).map (fun l => ldKey (p / 4) (16 * (p % 4) + l))

/-- A link that carried hosts' requests is gone: no completion is returned for writes already received. -/
def dropHostWrites (m : Mach) (ks : List Nat) : Mach :=
  let mine (key : Nat) : Bool := decide (2 ^ 16 ≤ key) && ks.contains ((key - 2 ^ 16) % 2 ^ 32)
  let strip (o : Option Nat) : Option Nat := match o with | some key => if mine key then none else some key | none => none
  let m := [0, 1, 2, 3].foldl (fun m q =>
    m.setTq q { m.tq q with held := (m.tq q).held.map (fun (r : HReq) => if r.cid ≠ 0 ∧ r.k ≠ .durWb ∧ mine (r.cid - 1) = true then { r with cid := 0 } else r) }) m
  { m with pair := { m.pair with
      out := m.pair.out.mapV (fun _ l => l.map (fun (r : MRec) => { r with forDur := strip r.forDur }))
      owed := m.pair.owed.filter (fun o => !(o.1 == 0 && mine o.2)) } }

/-- The link of an upstream port goes down. -/
def upstreamDown (m : Mach) (p : Nat) : Mach :=
  let m := (m.portSet R.PG_PORT_STATUS_UP p 0).portSet R.PG_PORT_STATUS_CXLMEM p 0
  (m.linkEvent .pg (p / 4) false 0 (p % 4)).dropHostWrites (portLds p)

/-! ### Device requests (R436) -/

/-- The binding of a requester on a port: the lowest valid entry that matches. -/
def binding (m : Mach) (p rid : Nat) : Option Nat :=
  let g := p / 4
  (List.range 32).find? (fun n =>
    let k := m.get (R.PG_BIND_RID_MASK.at n) g
    m.get (R.PG_BIND_V.at n) g == 1 && m.get (R.PG_BIND_PORT.at n) g == p % 4 &&
      Nat.land rid k == Nat.land (m.get (R.PG_BIND_RID.at n) g) k)

/-- The tenant whose range set a set is. -/
def setTenantOf (m : Mach) (set : Nat) : Option Nat := (m.tenants.find? (fun x => x.2.state != 0 && x.2.rset == set)).map (·.1)

def unbound (m : Mach) (p : Nat) : Mach := m.err E.PG_UNBOUND_RID sevContained (p / 4)

/-- An interrupt write (step 1). -/
def deviceInterrupt (m : Mach) (p rid data : Nat) : Mach :=
  let cid := bitsOf data 0 9
  let ok := match m.binding p rid with
    | some n => m.get (R.PG_BIND_IRQ_OK.at n) (p / 4) == 1
    | none => false
  let there := decide (cid / 32 < 12) && decide (cid % 32 < m.fuses.coresPerDie) && m.dieUp (cid / 32)
  if ok && decide (data < 2 ^ 15) && there then m.setIpend cid (2 ^ bitsOf data 9 6) true else m.unbound p

/-- A device's request: interrupts, then bindings, then the range set. In FROZEN it gets no completion (R77). -/
def deviceRequest (m : Mach) (p rid : Nat) (r : DevReq) : Mach :=
  let g := p / 4
  let read := match r with | .read .. => true | _ => false
  let m := m.pgDone p 0 []
  if !m.portUp p || m.portContained p || m.isUpstream g || !m.pgOn g || m.mode == 9 then m
  else
    let win := m.get R.PG_MSIWIN_BASE g * 4096
    let irq := match r with
      | .write a d => m.on R.PG_MSIWIN_V g && d.length == 4 && decide (win ≤ a.toNat) && decide (a.toNat < win + 4096)
      | _ => false
    match r, irq with
    | .write _ d, true => m.deviceInterrupt p rid (ofBytes d)
    | _, _ =>
      match m.binding p rid with
      | none => let m := m.unbound p; if read then m.pgDone p 1 [] else m
      | some n =>
        let set := m.get (R.PG_BIND_RSET.at n) g
        let t := m.setTenantOf set
        match r with
        | .read a len =>
          (match m.translate set a.toNat false 0 t with
          | (m, none) => m.pgDone p 1 []
          | (m, some spa) =>
            match m.cohBytes spa len.val with
            | (m, .ok (b, _)) => m.pgDone p 0 b
            | (m, .error _) => m.pgDone p 2 [])
        | .write a d =>
          match m.translate set a.toNat true 0 t with
          | (m, none) => m
          | (m, some spa) => (m.cohPut spa d false (agentPg g)).1

/-! ### Pitching (R441–R447) -/

def allTiersReady (m : Mach) : Bool := [0, 1, 2, 3].all (fun q => m.tierReady q)

/-- Start the steps of R444 for a shelf, shown in a group's mailbox. In BRINGUP only R447 pitches a shelf, none is pitched in
FROZEN (R95, log 88), and a group that takes no new work starts none (R48, log 15). -/
def pitchStart (m : Mach) (g n : Nat) (format : Bool) : Mach :=
  let st := m.shelfState n
  let res (m : Mach) (r : Nat) : Mach := m.set R.PG_SHELF_PITCH_RESULT r g
  if m.get (R.TIER_SHELF_CFG_PORT.at n) / 4 ≠ g then res m 12
  else if m.mode = 9 ∨ m.pgHeld g = true ∨ (m.mode = 2 ∧ !m.repitch.contains n) ∨ !m.allTiersReady ∨ (st ≠ 0 ∧ st ≠ 4 ∧ st ≠ 5) then res m 1
  else
    let m := (m.set R.PG_SHELF_PITCH_BUSY 1 g).setShelf n { m.shelf n with before := st }
    ({ m with pitch := m.pitch.ins n (format, g) }).shelfTo n 1

/-- Space maps of a shelf fit in every quadrant's region (R255). -/
def smapFits (m : Mach) (cap : Nat) : Bool :=
  let used := ((List.range 64).filter (fun n => (m.shelf n).mapped)).foldl (fun a n => a + m.shareSlots n) 0
  [0, 1, 2, 3].all (fun q => decide (used + slotsOf cap / 4 ≤ m.get R.TIER_LAYOUT_SMAP_GIB q * 2 ^ 30))

/-- The conditions of R443 on a returning shelf's label, in their order: the RESULT of the first that fails. -/
def labelCheck (m : Mach) (n cap : Nat) (b : List Byte) : Nat :=
  let slot := 12 + Wire.nat b 6 1 % 2
  let head := b.take 48
  if Wire.nat b 0 4 ≠ 0x5EEDF07E then 7
  else if Wire.nat b 4 1 ≠ 1 then 8
  else if (m.slot slot).state = 0 ∨ m.labelTag slot (Wire.nat b 7 1 % 64) (Wire.nat b 32 8) head ≠ b.drop 48 then 7
  else if Wire.nat b 16 8 % 2 ^ 63 ≠ m.fuses.serial then 9
  else if Wire.nat b 7 1 % 64 ≠ n then 10
  else if Wire.nat b 8 8 ≠ (m.shelf n).ident then 10
  else if Wire.nat b 24 4 ≠ 1 + slotsOf cap ∨ Wire.nat b 28 4 ≠ slotsOf cap then 4
  else 0

/-- A pitch ends with a result other than DONE: the number returns to its former state (R260). -/
def pitchFail (m : Mach) (n r : Nat) (ident : Option Nat) : Mach :=
  let (_, g) := m.pitch.getD n (false, 0)
  let m := ({ m with pitch := m.pitch.erase n }).set R.PG_SHELF_PITCH_BUSY 0 g
  let m := m.set R.PG_SHELF_PITCH_RESULT r g
  let back := (m.shelf n).before
  let m := m.shelfTo n back
  let m := if back = 0 then m.setShelf n noShelf else m
  match ident with
  | some i => m.ev 5 1 .pg (n + r * 2 ^ 8) i g
  | none => m

/-- A pitch ends Awake: for a returning shelf its records go on and the awake sweep runs (R260, R264, R265). -/
def pitchAwake (m : Mach) (n cap : Nat) : Mach :=
  let (_, g) := m.pitch.getD n (false, 0)
  let m := ({ m with pitch := m.pitch.erase n, repitch := m.repitch.filter (· != n) }).set R.PG_SHELF_PITCH_BUSY 0 g
  let m := (m.set R.PG_SHELF_PITCH_RESULT 0 g).set (R.TIER_SHELF_STAT_CAP_GIB.at n) cap
  let sleepcap := m.get (R.TIER_SHELF_CFG_SLEEPCAP.at n) == 1
  let m := m.setShelf n { m.shelf n with mapped := true, sleepcap := sleepcap, phase := 0 }
  let m := (m.shelfTo n 2).set (R.TIER_SHELF_STAT_WAKE_PEND.at n) 0
  let m := (m.journal.filter (fun r => r.shelf == n && r.kind != 1)).foldl (fun m r => m.sendRecord r) m
  let m := (m.shelfPages n).foldl (fun m p => m.wakeEntry p) m
  let m := [0, 1, 2, 3].foldl (fun m q => m.syncJournal q) m
  m.settle

/-- Steps 2 to 7 of R444 with what the link and the device answer. -/
def pitchDone (m : Mach) (n : Nat) (f : ShelfFound) : Mach :=
  match m.pitch.find n with
  | none => m
  | some (format, _) =>
    let p := m.get (R.TIER_SHELF_CFG_PORT.at n)
    let b := (f.label ++ List.replicate 64 0).take 64
    let cap := f.capGib.toNat
    let magic := Wire.nat b 0 4 == 0x5EEDF07E
    let ident := if magic then Wire.nat b 8 8 else 0
    if f.linkLost || !m.portUp p || m.portContained p then m.pitchFail n 2 none
    else if m.portGet R.PG_PORT_STATUS_CXLMEM p = 0 then m.pitchFail n 3 none
    else if cap = 0 ∨ 2048 < cap then m.pitchFail n 4 none
    else if (m.shelf n).before = 0 then
      if !format then m.pitchFail n 5 none
      else if m.pairState ≠ 0 ∧ magic ∧ Wire.nat b 16 8 % 2 ^ 63 = m.get R.PKG_PAIR_PEER_SERIAL then m.pitchFail n 6 none
      else
        let (m, v) := m.fresh
        let m := m.setShelf n { m.shelf n with ident := v.toNat }
        let m := m.writeLabel n v.toNat cap
        if m.smapFits cap then m.pitchAwake n cap else (m.subUnits m.shedSlot 1).pitchFail n 11 none
    else
      let m := m.setBytes (hdm n 0) b
      let slot := m.labelSlot n
      let m := if magic ∧ Wire.nat b 4 1 = 1 ∧ (m.slot slot).state ≠ 0 then (m.useSlot slot 1).privDone 0 1 0 else m
      match m.labelCheck n cap b with
      | 0 => m.pitchAwake n cap
      | r => m.pitchFail n r (some ident)

/-- AUTOPITCH, or R447, starts a pitch when the shelf's port has trained. -/
def autopitch (m : Mach) (n : Nat) : Mach :=
  let p := m.get (R.TIER_SHELF_CFG_PORT.at n)
  let st := m.shelfState n
  if m.mode ≠ 9 ∧ m.pgHeld (p / 4) = false ∧ (m.mode ≠ 2 ∨ m.repitch.contains n = true) ∧ m.portUp p ∧ m.portGet R.PG_PORT_STATUS_CXLMEM p = 1 ∧ (st = 4 ∨ st = 5) ∧
      (m.on (R.TIER_SHELF_CFG_AUTOPITCH.at n) = true ∨ m.repitch.contains n = true) ∧ m.allTiersReady = true ∧ m.on R.PG_SHELF_PITCH_BUSY (p / 4) = false then
    m.pitchStart (p / 4) n false
  else m

/-! ### Completion timeouts (R437) -/

/-- Remove the first element a test picks. -/
def takeFirst {α : Type} (f : α → Bool) : List α → Option (α × List α)
  | [] => none
  | x :: r => if f x then some (x, r) else (takeFirst f r).map (fun y => (y.1, x :: y.2))

def timedOut (m : Mach) : TimedOut → Mach
  | .device p =>
    match takeFirst (fun d : DevMsg => d.k != 2 && d.port == some p.val) m.devq with
    | none => m
    | some (d, r) => (({ m with devq := r } : Mach).err E.PG_COMPLETION_TIMEOUT sevContained (p.val / 4)).devEnd d 0 1
  | .unit n page u =>
    let pg := page.toNat * 4096
    let hit (r : ShelfRead) : Bool := r.shelf == n.val && r.page == pg && r.unit == u.val && r.req.isSome
    let rs := m.shelfReads.filter hit
    if rs.isEmpty then m
    else
      let m := ({ m with shelfReads := m.shelfReads.filter (fun r => !hit r) }).err E.PG_COMPLETION_TIMEOUT sevContained
        (m.get (R.TIER_SHELF_CFG_PORT.at n.val) / 4)
      (rs.foldl (fun m r => match r.req with
        | some q => m.answerShelf q (m, .refuse refUncorrectable)
        | none => m) m).settle
  | .pitch n =>
    if (m.pitch.find n.val).isSome then
      (m.err E.PG_COMPLETION_TIMEOUT sevContained (m.get (R.TIER_SHELF_CFG_PORT.at n.val) / 4)).pitchFail n.val 2 none
    else m
  | .release n =>
    if m.shelfState n.val = 3 ∧ (m.shelf n.val).phase = 4 then
      (m.err E.PG_COMPLETION_TIMEOUT sevContained (m.get (R.TIER_SHELF_CFG_PORT.at n.val) / 4)).strikeDone n.val false
    else m

end Mach
end Sys2Proof.Machine
end

