-- ==== Sys2Proof/Machine/Endpoint.lean ====
section
/-! DEFINITION. The commands of foreign hosts at the logical devices (R450–R468). -/
namespace Sys2Proof.Machine
namespace Mach

/-- A logical device that answers on a link that is up: presented, and LD 0 alone where the port does not run as a
multi-logical device (R450). In FROZEN nothing is answered (R465), and a quiesced group leaves its hosts' requests on the link (R48). -/
def ldThere (m : Mach) (k : Nat) : Bool :=
  m.isUpstream (k / 64) && m.ldField R.EP_LD_V k == 1 && m.ldLink k && ((m.pgPort (portOf k)).mld || k % 16 == 0) && m.mode != 9 && !m.pgHeld (k / 64)

/-! ### CXL.mem (R461, R462) -/

/-- CAUSE of a refusal at the home, with its flags and shelf (R461). -/
def hostCause : RServe → Nat × Nat × Nat
  | .dormant n wake => (16, 2 * wake.toNat, n)
  | .refuse c => (if c = refNone then 17 else if c = refNotReady then 19 else 18, 0, 0)
  | _ => (18, 0, 0)

/-- A refused request: poison for a read, a completion for a write, a refusal record, and both DROPS registers. -/
def hostRefuse (m : Mach) (k : Nat) (write : Bool) (dpa : Nat) (c : Nat × Nat × Nat) : Mach :=
  let g := k / 64
  let x := m.ldFn k
  let m := m.setLd k { x with resp := some ⟨write, dpa, 0, !write⟩, dropsM := (x.dropsM + 1) % 2 ^ 32 }
  let m := (m.add R.EP_DROPS_REFUSED_MEM 1 g).err ⟨.ep, 17⟩ sevCorrected g
  m.hostEvent k ⟨1, 0, true, dpa, c.1, write.toNat + c.2.1, c.2.2⟩

/-- A foreign host's request reaches the home (R523). -/
def hostOrdered (m : Mach) (spa : Nat) : Mach := (m.homeOrdered (spa / 64)).qEvent 0x0C (spa / 64)

/-- A CXL.mem request of a foreign host (R452, R461, R462). In DRAIN a write stays held on its link (R74). -/
def hostMem (m : Mach) (k : Nat) (write : Bool) (dpa : Nat) (data : Line) (mask : Nat) : Mach :=
  if !m.ldThere k ∨ (m.mode = 8 ∧ write = true) then m
  else if m.ldState k ≠ 2 then m.hostRefuse k write dpa (20, 0, 0)
  else
    let t := (m.boundTo k).getD 0
    let set := (m.tenant t).rset
    match m.lookup set dpa write with
    | (m, .error c) => (m.rangeFault set dpa c 1 t).hostRefuse k write dpa (c, 0, 0)
    | (m, .ok spa) =>
      let done (m : Mach) (r : HostResp) : Mach := m.setLd k { m.ldFn k with resp := some r }
      if write then
        let m := (m.setLd k { m.ldFn k with resp := none }).hostOrdered spa
        match m.cohWrite (spa / 64) data mask false (agentEp (k / 64)) (some (hostKey k dpa)) with
        | (m, .refuse c) => m.hostRefuse k true dpa (hostCause (.refuse c))
        | (m, .wait) => m
        | (m, .done) => (if eDur (m.entry (pageOf spa)) then m else m.hostDone (hostKey k dpa)).settle
      else match (m.hostOrdered spa).cohRead (spa / 64) with
        | (m, .line (.ok d)) => (done m ⟨false, dpa, d, false⟩).settle
        | (m, .line .poison) => (done m ⟨false, dpa, 0, true⟩).settle
        | (m, r) => (m.hostRefuse k false dpa (hostCause r)).settle

/-! ### Resets (R463) -/

/-- The function's state is reset; the LD's own registers, its part in a handback and its catalogue stay. -/
def ldClear (m : Mach) (k : Nat) (keepHdm : Bool) : Mach :=
  let x := m.ldFn k
  m.setLd k { ldReset with
    hdm := if keepHdm then x.hdm else none
    resp := if keepHdm then x.resp else none
    lastMsg := x.lastMsg, msgs := x.msgs, ltrLast := x.ltrLast, ltrSent := x.ltrSent, ltrAt := x.ltrAt
    dropsN := x.dropsN, dropsM := x.dropsM, draining := x.draining, released := x.released, flr := x.flr
    change := x.change, cat := x.cat }

def fundamentalReset (m : Mach) (g : Nat) : Mach :=
  if !m.isUpstream g then m
  else
    let m := m.add R.EP_RESETS_FUNDAMENTAL 1 g
    let m := [0, 1, 2, 3].foldl (fun m i => if m.portUp (4 * g + i) then m.upstreamDown (4 * g + i) else m) m
    (groupLds g).foldl (fun m k => m.ldClear k false) m

def flr (m : Mach) (k : Nat) : Mach :=
  if !m.ldThere k then m
  else
    let m := (m.ldClear k true).add R.EP_RESETS_FLR 1 (k / 64)
    match m.boundTo k with
    | some t =>
      if m.ldField R.EP_LD_MGR k = 1 then m
      else (m.setLd k { m.ldFn k with flr := true }).beginReset t false
    | none => m

/-! ### Releases (R468) -/

def ldRelease (m : Mach) (k : Nat) : Mach := if (m.ldFn k).draining then m.setLd k { m.ldFn k with released := true } else m

/-! ### The mailbox (R450, R457) -/

def mail (m : Mach) (k : Nat) (f : LdFn → LdFn) : Mach := if m.ldThere k then m.setLd k (f (m.ldFn k)) else m

/-- The timestamp: what was set, and the time since. -/
def stampNow (m : Mach) (x : LdFn) : Nat := if x.stamp = 0 then 0 else x.stamp + (m.time + 2 ^ 48 - x.stampAt) % 2 ^ 48 * 5 / 12

/-- The FM-owned LD of a port that runs as a multi-logical device. -/
def fmMail (m : Mach) (p : Nat) (a : MailAnswer) : Mach :=
  if m.isUpstream (p / 4) && m.portUp p && (m.pgPort p).mld && m.mode != 9 then m.setPg p { m.pgPort p with mail := a } else m

/-- Capacities of the port's logical devices in units of 256 MiB. -/
def fmUnits (m : Mach) (p : Nat) : List Nat := (portLds p).map (fun k => m.shownCapacity k / 2 ^ 28)

/-! ### LTR (R466) -/

/-- Accepted descriptors of a tenant that are not complete. -/
def tenantDepth (m : Mach) (t : Nat) : Nat :=
  let x := m.tenant t
  (List.range x.queues).foldl (fun a i =>
    let q := m.queue (x.qbase + i)
    a + (q.live.filter (fun d => !d.waitAck)).length + (q.run.filter (fun d => d.logged && !d.cancelled)).length +
      (q.held.filter (fun d => d.logged && !d.cancelled)).length) 0

/-- The field an LD reports. -/
def ltrValue (m : Mach) (k : Nat) : Nat :=
  let g := k / 64
  let t := (m.boundTo k).getD 0
  if m.ldState k ≠ 2 then m.act R.EP_LTR_VAL_IDLE g
  else if m.act R.EP_LTR_CTL_BUSY_DEPTH g ≤ m.tenantDepth t then m.act R.EP_LTR_VAL_BUSY g
  else if (List.range 64).any (fun n => m.get (R.TIER_SHELF_STAT_WAKE_PEND.at n) == 1 && (m.shelf n).wakeBy == t) then m.act R.EP_LTR_VAL_WAKE g
  else m.act R.EP_LTR_VAL_IDLE g

def ltrSend (m : Mach) (k : Nat) : Mach :=
  let x := m.ldFn k
  let v := m.ltrValue k
  let gap := max 1 (m.act R.EP_LTR_CTL_MIN_INTERVAL_US (k / 64)) * 2400
  let due := match x.ltrAt with
    | none => true
    | some t => decide (gap ≤ (m.time + 2 ^ 48 - t) % 2 ^ 48)
  if m.ldThere k && x.ltrEn && v != x.ltrLast && due then
    m.setLd k { x with ltrLast := v, ltrSent := (x.ltrSent + 1) % 2 ^ 16, ltrAt := some m.time }
  else m

/-! ### Configuration space and BARs (R454–R457) -/

/-- What a BAR dword holds after a write: the bits below the size read 0, and the lower dwords name a 64-bit memory BAR. -/
def barValue (i v : Nat) : Nat :=
  let keep (n : Nat) : Nat := v / 2 ^ n * 2 ^ n
  match i with
  | 0 => keep 25 + 4
  | 2 => keep 23 + 4
  | 4 => keep 17 + 4
  | 6 => keep 16 + v % 2
  | _ => v

/-- The pages of BAR2/3 that a logical device decodes (R455): all of them with MGR, else that of its bound tenant, or of PEER_TENANT while it
is Standby. -/
def decodesPage (m : Mach) (k t : Nat) : Bool :=
  m.ldField R.EP_LD_MGR k == 1 || m.boundTo k == some t || (m.ldState k == 1 && m.ldField R.EP_LD_PEER_TENANT k == t)

/-- A host's write in BAR2/3 (R358, R455). A page the device does not decode and that of a Standby device ignore it. -/
def barWrite (m : Mach) (k off lg v : Nat) : Mach :=
  let t := off / 0x1000
  if off % 2 ^ lg ≠ 0 ∨ !m.decodesPage k t ∨ m.ldState k = 1 then m else m.doorbellPut t (off % 0x1000) lg v

/-- What a host reads in BAR2/3 (R358, R455). -/
def barRead (m : Mach) (k off : Nat) : Nat :=
  let t := off / 0x1000
  if !m.decodesPage k t then allOnes else if m.ldState k = 1 then 0 else m.doorbellGet t (off % 0x1000)

/-- Send the vectors that are pending and no longer masked. -/
def sendPending (m : Mach) (k : Nat) : Mach :=
  let x := m.ldFn k
  if x.msixMask || !x.msixOn then m
  else x.pba.foldl (fun m v =>
    let y := m.ldFn k
    if (y.msix.getD v (0, 0, true)).2.2 then m
    else (m.setLd k { y with pba := y.pba.filter (· != v) }).sendVector k v) m

def hostWrite (m : Mach) (k : Nat) (w : HostWrite) : Mach :=
  let x := m.ldFn k
  if !m.ldThere k || x.flr then m
  else match w with
    | .command mse bme => m.setLd k { x with mse := mse, bme := bme }
    | .bar i v => m.setLd k { x with bars := x.bars.ins i.val (barValue i.val v.toNat) }
    | .rom v => m.setLd k { x with bars := x.bars.ins 6 (barValue 6 v.toNat) }
    | .msixControl on mask => (m.setLd k { x with msixOn := on, msixMask := mask }).sendPending k
    | .vector i a d mask => if x.mse then (m.setLd k { x with msix := x.msix.ins i.toNat (a.toNat, d.toNat, mask) }).sendPending k else m
    | .ltrEnable on => m.setLd k { x with ltrEn := on }
    | .hdm base size => if x.mse then m.setLd k { x with hdm := some (base.toNat, size.toNat) } else m
    | .power d3 => m.setLd k { x with d3 := d3 }
    | .doorbell off lg v => if x.mse && !x.d3 then m.barWrite k off.toNat lg.val v.toNat else m

end Mach

/-- The key of a logical device's operands. -/
def ldOf (group : Fin 16) (ld : Fin 64) : Nat := Mach.ldKey group.val ld.val

open Mach

/-- R461, R462: a CXL.mem request for the line at a device physical address; a write writes the bytes of the mask. -/
def execHostMemRequest (group : Fin 16) (ld : Fin 64) (write : Bool) (dpa : BitVec 64) (data : Line) (mask : BitVec 64) (s : State) : Out :=
  s.cmd (fun m => m.hostMem (ldOf group ld) write (dpa.toNat / 64 * 64) data mask.toNat)

/-- R463: the group's PERST# goes low. -/
def execFundamentalReset (group : Fin 16) (s : State) : Out := s.cmd (fun m => m.fundamentalReset group.val)

/-- R463: an in-band hot reset or an LD reset. -/
def execHotReset (group : Fin 16) (ld : Fin 64) (s : State) : Out :=
  s.cmd (fun m => if m.ldThere (ldOf group ld) then ((m.add R.EP_RESETS_HOT 1 group.val).ldClear (ldOf group ld) false) else m)

/-- R463: Initiate FLR. -/
def execFlr (group : Fin 16) (ld : Fin 64) (s : State) : Out := s.cmd (fun m => m.flr (ldOf group ld))

/-- R465: an upstream link drops without PERST#. -/
def execUpstreamSurpriseDown (port : Fin 64) (s : State) : Out :=
  s.cmd (fun m =>
    let g := port.val / 4
    if m.isUpstream g && m.portUp port.val then
      ((m.add R.EP_RESETS_SURPRISE 1 g).err ⟨.ep, 16⟩ sevContained g).upstreamDown port.val
    else m)

/-- R450, R465: an upstream link trains. -/
def execUpstreamLinkUp (port : Fin 64) (rate : Fin 5) (width : Fin 17) (flit mld : Bool) (s : State) : Out :=
  s.cmd (fun m =>
    let p := port.val
    if m.isUpstream (p / 4) then
      let m := m.linkUp p rate.val width.val flit true
      if m.portUp p then m.setPg p { m.pgPort p with mld := mld } else m
    else m)

/-- R468: HOST_CTL.RELEASE. -/
def execHostRelease (group : Fin 16) (ld : Fin 64) (s : State) : Out :=
  s.cmd (fun m => if m.ldThere (ldOf group ld) then m.ldRelease (ldOf group ld) else m)

/-- R468: EP.LD FORCE_RELEASE. -/
def execForceRelease (src : Src) (group : Fin 16) (ld : Fin 64) (s : State) : Out :=
  s.cmd (fun m => m.guarded src 12 .ep group.val (fun m => m.ldRelease (ldOf group ld)))

/-- R452, R457: Identify Memory Device. -/
def execIdentifyMemoryDevice (group : Fin 16) (ld : Fin 64) (s : State) : Out :=
  s.cmd (fun m => m.mail (ldOf group ld) (fun x => { x with mail := .identify (m.shownCapacity (ldOf group ld)) }))

/-- R457: Get Health Info, whose contents the spec leaves open. -/
def execGetHealthInfo (group : Fin 16) (ld : Fin 64) (s : State) : Out :=
  s.cmd (fun m => let (m, v) := m.fresh; m.mail (ldOf group ld) (fun x => { x with mail := .open v }))

/-- R457: Get Event Records. -/
def execGetEventRecords (group : Fin 16) (ld : Fin 64) (log : Fin 4) (s : State) : Out :=
  s.cmd (fun m => m.mail (ldOf group ld) (fun x => { x with mail := .records (x.logs.filter (fun e => e.log == log.val)) }))

/-- R457: Clear Event Records. -/
def execClearEventRecords (group : Fin 16) (ld : Fin 64) (log : Fin 4) (handles : List (BitVec 16)) (s : State) : Out :=
  s.cmd (fun m => m.mail (ldOf group ld) (fun x => { x with
    mail := .done
    logs := x.logs.filter (fun e => !(e.log == log.val && (handles.map BitVec.toNat).contains e.handle)) }))

/-- R457: Get Event Interrupt Policy. -/
def execGetEventInterruptPolicy (group : Fin 16) (ld : Fin 64) (s : State) : Out :=
  s.cmd (fun m => m.mail (ldOf group ld) (fun x => { x with mail := .policy x.policy }))

/-- R457: Set Event Interrupt Policy. -/
def execSetEventInterruptPolicy (group : Fin 16) (ld : Fin 64) (policy : BitVec 32) (s : State) : Out :=
  s.cmd (fun m => m.mail (ldOf group ld) (fun x => { x with mail := .done, policy := policy.toNat }))

/-- R457: Get Supported Logs, whose contents the spec leaves open. -/
def execGetSupportedLogs (group : Fin 16) (ld : Fin 64) (s : State) : Out :=
  s.cmd (fun m => let (m, v) := m.fresh; m.mail (ldOf group ld) (fun x => { x with mail := .open v }))

/-- R457: Get Log, whose contents the spec leaves open. -/
def execGetLog (group : Fin 16) (ld : Fin 64) (s : State) : Out :=
  s.cmd (fun m => let (m, v) := m.fresh; m.mail (ldOf group ld) (fun x => { x with mail := .open v }))

/-- R457: Get Timestamp. -/
def execGetTimestamp (group : Fin 16) (ld : Fin 64) (s : State) : Out :=
  s.cmd (fun m => m.mail (ldOf group ld) (fun x => { x with mail := .time (m.stampNow x) }))

/-- R457: Set Timestamp. -/
def execSetTimestamp (group : Fin 16) (ld : Fin 64) (ns : Word) (s : State) : Out :=
  s.cmd (fun m => m.mail (ldOf group ld) (fun x => { x with mail := .done, stamp := ns.toNat, stampAt := m.time }))

/-- R457: any other mailbox command. -/
def execUnsupportedCommand (group : Fin 16) (ld : Fin 64) (_opcode : BitVec 16) (s : State) : Out :=
  s.cmd (fun m => m.mail (ldOf group ld) (fun x => { x with mail := .unsupported }))

/-- R450: Get LD Info. -/
def execGetLdInfo (port : Fin 64) (s : State) : Out :=
  s.cmd (fun m => m.fmMail port.val (.ldInfo ((m.fmUnits port.val).foldl (· + ·) 0 * 2 ^ 28) 16))

/-- R450: Get LD Allocations. -/
def execGetLdAllocations (port : Fin 64) (s : State) : Out := s.cmd (fun m => m.fmMail port.val (.allocations (m.fmUnits port.val)))

/-- R450: Set LD Allocations and the QoS commands. -/
def execSetLdAllocations (port : Fin 64) (s : State) : Out := s.cmd (fun m => m.fmMail port.val .unsupported)

/-- R466: an LTR message is due. -/
def execLtrSend (group : Fin 16) (ld : Fin 64) (s : State) : Out := s.cmd (fun m => m.ltrSend (ldOf group ld))

/-- R454–R457: a host's write to configuration space or a BAR register. -/
def execHostConfigWrite (group : Fin 16) (ld : Fin 64) (w : HostWrite) (s : State) : Out :=
  s.cmd (fun m => m.hostWrite (ldOf group ld) w)

end Sys2Proof.Machine
end

