-- ==== Sys2Proof/Machine/FabOps.lean ====
section
/-! DEFINITION. The fabric: nodes and routes, the routes the network interfaces hold, the Hylar bridges, and the probes and
trace buffers (R469–R486). -/
namespace Sys2Proof.Machine

/-! ### Nodes (R469–R471) -/

/-- Column and row of the router a node of a compute die attaches to. -/
def dieNode (l : Nat) : Option (Nat × Nat) :=
  if l < 20 then some (l % 5, l / 5)
  else if 32 ≤ l ∧ l < 52 then some ((l - 32) % 5, (l - 32) / 5)
  else if l = 60 ∨ l = 61 then some (2, 0)
  else none

/-- Column and row of the router a node of the I/O die attaches to. -/
def iodNode (l : Nat) : Option (Nat × Nat) :=
  let q := l / 32
  let r := l % 32
  if l = 60 then some (4, 2)
  else if l = 28 then some (1, 3)
  else if l = 29 then some (3, 3)
  else if l = 30 then some (5, 3)
  else if l = 31 then some (7, 3)
  else if 4 ≤ q then none
  else if r = 0 then some (2 * q + 1, 0)
  else if r ≤ 2 then some (2 * q, 2)
  else if r ≤ 5 then some (2 * q + 1, 2)
  else if 8 ≤ r ∧ r < 12 then some (if r < 10 then 2 * q else 2 * q + 1, 1)
  else if 12 ≤ r ∧ r < 15 then some (2 * q, 0)
  else if 16 ≤ r ∧ r < 20 then some (if r < 18 then 2 * q else 2 * q + 1, 3)
  else if r = 20 ∧ (q = 0 ∨ q = 3) then some (2 * q, 3)
  else if r = 24 then some (2 * q + 1, 3)
  else none

/-- Router of a node within its die's mesh. -/
def nodeAt (die l : Nat) : Option (Nat × Nat) := if die = 12 then iodNode l else dieNode l

/-- LOCAL of the I/O die's bridge toward a compute die. -/
def bridgeLocal (d : Nat) : Nat := d / 3 * 32 + 12 + d % 3

/-! ### Routes (R479, R480) -/

/-- Hop codes along one axis: `up` while the target is higher, `down` while it is lower. -/
def hops (a b up down : Nat) : List Nat := if a ≤ b then List.replicate (b - a) up else List.replicate (a - b) down

/-- Route A (column first) or B (row first) between two routers, the eject code 0 at its end. -/
def routeCodes (a b : Nat × Nat) (rowFirst : Bool) : List Nat :=
  let c := hops a.1 b.1 1 2
  let r := hops a.2 b.2 3 4
  if rowFirst then r ++ c else c ++ r

/-- ROUTE: ten 3-bit codes, the first hop lowest. -/
def routeWord (l : List Nat) : Nat := l.foldr (fun c a => c + 8 * a) 0 % 2 ^ 30

/-- The routers a flit passes, from the one it enters at. -/
def routePath (a : Nat × Nat) : List Nat → List (Nat × Nat)
  | [] => [a]
  | 1 :: r => a :: routePath (a.1 + 1, a.2) r
  | 2 :: r => a :: routePath (a.1 - 1, a.2) r
  | 3 :: r => a :: routePath (a.1, a.2 + 1) r
  | _ :: r => a :: routePath (a.1, a.2 - 1) r

namespace Mach

/-- A die whose routes have been computed and not invalidated (R480). -/
def dieRouted (m : Mach) (d : Nat) : Bool := m.get R.PKG_READY_CD / 2 ^ d % 2 == 1 && m.dieUp d

/-- Router at which a flit for a node leaves a die's mesh: the node's own, or the bridge toward its die; none where the
entry is invalid. -/
def exitOf (m : Mach) (die dst : Nat) : Option (Nat × Nat) :=
  let dd := dst / 128
  if dd = die then (if die < 12 && !m.dieRouted die then none else nodeAt die (dst % 128))
  else if die < 12 then (if m.dieRouted die && (dd == 12 || (decide (dd < 12) && m.dieRouted dd)) then dieNode 60 else none)
  else if dd < 12 ∧ m.dieRouted dd = true then iodNode (bridgeLocal dd)
  else none

/-- Routes A and B of a network interface toward a destination (R484). -/
def routes (m : Mach) (die ni dst : Nat) : Option (Nat × Nat) :=
  match nodeAt die ni, m.exitOf die dst with
  | some a, some b => some (routeWord (routeCodes a b false), routeWord (routeCodes a b true))
  | _, _ => none

/-! ### Probes and trace (R485, R486) -/

/-- Key of a FAB page's trace records. -/
def fabKey (die inst : Nat) : Nat := (die * 4 + inst) * 2048

/-- Empty a FAB page's trace buffer (R484). -/
def traceClear (m : Mach) (die inst : Nat) : Mach :=
  let k := fabKey die inst
  let m : Mach := { m with trace := m.trace.keep (fun i _ => i < k || k + 2048 ≤ i) }
  ((m.set R.FAB_TSTAT_WPTR 0 inst die).set R.FAB_TSTAT_FULL 0 inst die).set R.FAB_TSTAT_DROPPED 0 inst die

/-- Write a trace record of a page, or drop it. -/
def traceWrite (m : Mach) (die inst : Nat) (b : List Byte) : Mach :=
  if !m.on R.FAB_TCTL_EN inst die then m
  else if m.on R.FAB_TSTAT_FULL inst die && !m.on R.FAB_TCTL_WRAP inst die then m.add R.FAB_TSTAT_DROPPED 1 inst die
  else
    let i := m.get R.FAB_TSTAT_WPTR inst die
    let m := { m with trace := m.trace.ins (fabKey die inst + i) b }
    let m := if i = 2047 then m.set R.FAB_TSTAT_FULL 1 inst die else m
    m.set R.FAB_TSTAT_WPTR ((i + 1) % 2048) inst die

/-- Whether a probe matches a flit. -/
def probeHit (m : Mach) (die inst p h : Nat) : Bool :=
  let g (f : Fld) : Nat := m.get (f.at p) inst die
  let msg := bitsOf h 64 6
  let cls := bitsOf h 70 3
  let node := if g R.FAB_PMATCH_ON_DST = 1 then bitsOf h 43 11 else bitsOf h 32 11
  let k := g R.FAB_PMATCH_NODE_MASK
  g R.FAB_PCFG_EN == 1 && g R.FAB_PCFG_CCLASS_MASK / 2 ^ cls % 2 == 1 && g R.FAB_PMSG_MASK / 2 ^ msg % 2 == 1 &&
    Nat.land node k == Nat.land (g R.FAB_PMATCH_NODE) k && (g R.FAB_PMATCH_TENANT_EN == 0 || bitsOf h 75 11 == g R.FAB_PMATCH_TENANT)

/-- A flit with header h seen at router r as hop number i of n: the page that covers the router counts and traces it. -/
def observe (m : Mach) (die r i n h : Nat) : Mach :=
  let inst := if die = 12 then r % 8 / 2 else 0
  (List.range 4).foldl (fun m p =>
    let point := m.get (R.FAB_PCFG_POINT.at p) inst die
    let here := match point with
      | 0 => i == 0
      | 1 => i + 1 == n
      | _ => true
    if here && m.get (R.FAB_PCFG_ROUTER.at p) inst die == r && m.probeHit die inst p h then
      let m := m.add (R.FAB_PCOUNT_COUNT.at p) 1 inst die
      if m.get (R.FAB_PCFG_TRACE.at p) inst die = 1 then
        m.traceWrite die inst (bytesOf 24 h ++ bytesOf 6 m.time ++ bytesOf 1 (p + 4 * point) ++ bytesOf 1 r)
      else m
    else m) m

/-- A flit crosses a mesh on a route. -/
def cross (m : Mach) (die : Nat) (a : Nat × Nat) (codes : List Nat) (h : Nat) : Mach :=
  let path := routePath a codes
  let cols := if die = 12 then 8 else 5
  let n := path.length
  (List.range n).foldl (fun m i =>
    let (x, y) := path.getD i a
    let route := routeWord (codes.drop i)
    m.observe die (x + cols * y) i n (h / 2 ^ 30 * 2 ^ 30 + route)) m

/-- A flit discarded for want of a route (R482). -/
def noRoute (m : Mach) (die inst : Nat) : Mach :=
  (m.add R.FAB_DROPS_NOROUTE 1 inst die).err E.FAB_NOROUTE sevContained inst die

/-- A DevRd flit that no route takes is answered with all ones (R482). -/
def devUnrouted (m : Mach) (h : Nat) : Mach :=
  let src := bitsOf h 32 11
  let spa := bitsOf h 128 42 * 64 + bitsOf h 170 6
  if bitsOf h 64 6 ≠ 48 then m
  else { m with devq := m.devq.map (fun (d : DevMsg) =>
    if d.cid = src / 128 * 32 + src % 128 ∧ d.spa = spa ∧ d.rd.isSome = true ∧ d.k = 0 then { d with k := 2, data := 2 ^ 64 - 1, err := 0 } else d) }

/-- A flit a Hylar bridge passes into its mesh (R480, R481): at the I/O die's end, or where `atDie`, at the compute die's. The
bridge refills ROUTE from its own table; ANY flits take routes A and B in turn. -/
def bridgeIn (m : Mach) (d : Nat) (atDie : Bool) (flit : List Byte) : Mach :=
  let die := if atDie then d else 12
  let ni := if atDie then 60 else bridgeLocal d
  let h := ofBytes (flit.take 24)
  let dst := bitsOf h 43 11
  match nodeAt die ni, m.exitOf die dst with
  | some a, some b =>
    let any := bitsOf h 73 2 == 0
    let key := (die * 128 + ni, dst)
    let useB := any && m.fabAlt.contains key
    let m := if any then { m with fabAlt := if useB then m.fabAlt.erase key else key :: m.fabAlt } else m
    m.cross die a (routeCodes a b useB) h
  | _, _ => (m.noRoute die (if die = 12 then d / 3 else 0)).devUnrouted h

end Mach

open Mach

/-- R483, R487: an uncorrectable header word on a mesh link. -/
def execMeshHeaderError (die : Fin 13) (inst : Fin 4) (s : State) : Out :=
  s.cmd (fun m => if populated m.fuses die.val .fab inst.val && (die.val == 12 || m.dieUp die.val) then m.err E.FAB_HEADER_UNCORRECTABLE sevFatal inst.val die.val else m)

/-- R484: TCTL.CLEAR. -/
def execTraceClear (src : Src) (die : Fin 13) (inst : Fin 4) (s : State) : Out :=
  s.cmd (fun m => m.guarded src die.val .fab inst.val (fun m => m.traceClear die.val inst.val))

end Sys2Proof.Machine
end

