-- ==== Sys2Proof/Machine/Links.lean ====
section
/-! DEFINITION. The commands of the Hylar modules, the Guyline ports and the port groups (R415–R449). -/
namespace Sys2Proof.Machine
namespace Mach

/-- The payload of a CONTROL frame (R425): OP, lanes, PSEQ of a GRANT in bytes 2 and 3, and the sender's SERIAL. -/
def controlBytes (op lanes pseq serial : Nat) : List Byte := bytesOf 1 op ++ bytesOf 1 lanes ++ bytesOf 2 pseq ++ bytesOf 4 0 ++ bytesOf 8 serial

/-- A CONTROL frame from the port's peer. -/
def control (m : Mach) (n : Nat) (h : FrameHdr) (op lanes pseq : Nat) (f : Mach → Mach) : Mach :=
  match m.frameIn n 4 h 0 (controlBytes op lanes pseq (m.get R.GUY_PEER_SERIAL n)) with
  | (m, true) => f m
  | (m, false) => m

/-- The payload of an ACK frame: at most 14 entries fit. -/
def ackBytes (l : List (Fin 4 × Word)) : List Byte :=
  bytesOf 1 l.length ++ bytesOf 7 0 ++ l.flatMap (fun e => bytesOf 1 e.1.val ++ bytesOf 7 0 ++ bytesOf 8 e.2.toNat)

def pageCode : StatusPage → Nat
  | .pkg => 0 | .lant => 1 | .guy0 => 2 | .guy1 => 3

def statusBytes (p : StatusPage) (off mode : Nat) (data : List Byte) : List Byte :=
  bytesOf 2 (pageCode p) ++ bytesOf 2 (128 * off) ++ bytesOf 1 mode ++ bytesOf 3 0 ++ (data ++ List.replicate 128 0).take 128

def trainBytes (serial majors minor lanes port mode : Nat) : List Byte :=
  bytesOf 8 serial ++ bytesOf 1 majors ++ bytesOf 1 minor ++ bytesOf 1 lanes ++ bytesOf 1 port ++ bytesOf 1 mode

/-- Lanes a bitmap names. -/
def lanesOf (b : BitVec 16) : List Nat := (List.range 16).filter (fun i => b.getLsbD i)

/-- A retrain request of this end (R428, R429): the leader retrains, the follower asks the leader. -/
def retrainWanted (m : Mach) (n : Nat) : Mach :=
  if !m.guyUp n then m
  else if m.on R.GUY_STATUS_LEADER n then m.guyRetrain n
  else m.setGuy n { m.guy n with ask := some 32 }

/-- A write of WIDTH.REQ (R429, R433). -/
def widthWanted (m : Mach) (n w : Nat) : Mach :=
  if w ≠ 16 ∧ w ≠ 12 ∧ w ≠ 8 ∧ w ≠ 4 then m.err ⟨.guy, 2⟩ sevCorrected n
  else
    let m := m.set R.GUY_WIDTH_REQ w n
    if !m.guyUp n ∨ (m.guy n).retrain = true then m
    else if m.on R.GUY_STATUS_LEADER n then m.setWidth n (m.grantWidth n w)
    else m.askAgain n

end Mach

open Mach

/-- R417–R419: a Hylar link flit arrives at one end of a die's module. -/
def execHylarFlit (die : Fin 12) (atDie : Bool) (flit : List Byte) (ctl crc : BitVec 32) (s : State) : Out :=
  s.cmd (fun m =>
    match m.hylFlit die.val atDie.toNat flit ctl.toNat crc.toNat with
    | (m, some b) => m.bridgeIn die.val atDie b
    | (m, none) => m)

/-- R420: a Hylar retrain ends. -/
def execHylarRetrainDone (die : Fin 12) (ok : Bool) (s : State) : Out := s.cmd (fun m => m.hylRetrained die.val ok)

/-- R25, R420: a die loses the forwarded root clock. -/
def execFwdClockLoss (die : Fin 12) (s : State) : Out :=
  s.cmd (fun m =>
    let m := (m.set R.CLK_FWD_STATUS_FWD_OK 0 0 die.val).set R.CLK_FWD_STATUS_DESKEW_DONE 0 0 die.val
    if m.on R.HYL_LINK_STATUS_UP die.val then m.hylDown die.val 4 else m)

/-- R423: a codeword pair of a lane. -/
def execCodewordPair (port : Fin 2) (lane : Fin 16) (h : PairHdr) (s : State) : Out := s.cmd (fun m => m.codewordPair port.val lane.val h)

/-- R424–R426: a DATA frame; its bytes join the stream's batch sequence. -/
def execDataFrame (port : Fin 2) (h : FrameHdr) (stream : Fin 4) (payload : List Byte) (s : State) : Out :=
  s.cmd (fun m =>
    match m.frameIn port.val 1 h stream.val payload with
    | (m, true) =>
      let q := stream.val
      m.setPair { m.pair with rx := m.pair.rx.put q (m.pair.rx.getD q [] ++ (payload ++ List.replicate 244 0).take 244) [] }
    | (m, false) => m)

/-- R400, R425: an ACK frame. Without MULTI_ACK in the FEATURES both parties set it names one stream (R30, R414). -/
def execAckFrame (port : Fin 2) (h : FrameHdr) (entries : List (Fin 4 × Word)) (s : State) : Out :=
  s.cmd (fun m =>
    let l := entries.take 14
    match m.frameIn port.val 2 h 0 (ackBytes l) with
    | (m, true) =>
      (if m.get R.PKG_PAIR_STATE_FEATURES / 2 % 2 = 1 then l else l.take 1).foldl (fun m e => m.mirrorAck e.1.val e.2.toNat) m
    | (m, false) => m)

/-- R66, R431: a STATUS frame. -/
def execStatusFrame (port : Fin 2) (h : FrameHdr) (page : StatusPage) (offset : Fin 32) (mode : BitVec 4) (data : List Byte) (s : State) : Out :=
  s.cmd (fun m =>
    match m.frameIn port.val 3 h 0 (statusBytes page offset.val mode.toNat data) with
    | (m, true) => m.statusIn page offset.val mode.toNat data
    | (m, false) => m)

/-- R428, R429: a RETRAIN_REQ reaches the leader. -/
def execRetrainReq (port : Fin 2) (h : FrameHdr) (s : State) : Out :=
  s.cmd (fun m => m.control port.val h 1 0 0 (fun m => if m.on R.GUY_STATUS_LEADER port.val then m.guyRetrain port.val else m))

/-- R428, R429: a WIDTH_REQ reaches the leader. -/
def execWidthReq (port : Fin 2) (h : FrameHdr) (lanes : Byte) (s : State) : Out :=
  s.cmd (fun m => m.control port.val h 2 lanes.toNat 0 (fun m =>
    if m.on R.GUY_STATUS_LEADER port.val = true ∧ (m.guy port.val).retrain = false then m.setWidth port.val (m.grantWidth port.val lanes.toNat) else m))

/-- R428: a GRANT reaches the follower, which switches width at the pair it names. -/
def execWidthGrant (port : Fin 2) (h : FrameHdr) (lanes : Byte) (pseq : BitVec 16) (s : State) : Out :=
  s.cmd (fun m => m.control port.val h 3 lanes.toNat pseq.toNat (fun m =>
    if m.on R.GUY_STATUS_LEADER port.val then m
    else (m.setGuy port.val { m.guy port.val with grant := some (lanes.toNat, pseq.toNat) }).dealPairs port.val 33))

/-- R427: a TRAIN frame. -/
def execTrainFrame (port : Fin 2) (crc : BitVec 32) (serial : BitVec 63) (majors minor lanes peerPort : Byte) (mode : BitVec 4) (s : State) : Out :=
  s.cmd (fun m =>
    let b := trainBytes serial.toNat majors.toNat minor.toNat lanes.toNat peerPort.toNat mode.toNat
    if Wire.crc32 (frameBytes 5 ⟨false, false, 0, 0, 0, 0⟩ 0 b) = crc.toNat then
      m.trainFrame port.val serial.toNat majors.toNat lanes.toNat mode.toNat
    else m.add R.GUY_FRAMES_CRC_FAIL 1 port.val)

/-- R427: training reaches step 4. -/
def execGuyTrainDone (port : Fin 2) (lanes : BitVec 16) (s : State) : Out := s.cmd (fun m => m.trainDone port.val (lanesOf lanes))

/-- R428, R433: WIDTH.RETRAIN. -/
def execGuyRetrain (src : Src) (port : Fin 2) (s : State) : Out :=
  s.cmd (fun m => m.guarded src 12 .guy port.val (fun m => m.retrainWanted port.val))

/-- R429, R433: WIDTH.REQ. -/
def execWidthReqWrite (src : Src) (port : Fin 2) (lanes : BitVec 5) (s : State) : Out :=
  s.cmd (fun m => m.guarded src 12 .guy port.val (fun m => m.widthWanted port.val lanes.toNat))

/-- R430: 100 ms of a retrain. -/
def execGuyRetrainTimeout (port : Fin 2) (s : State) : Out :=
  s.cmd (fun m => if (m.guy port.val).retrain then m.guyDown port.val else m)

/-- R430: a window ends. -/
def execDownWindowEnd (port : Fin 2) (s : State) : Out :=
  s.cmd (fun m =>
    let n := port.val
    let bad := decide (m.act R.GUY_CTL_DOWN_COUNT n < (m.guy n).window)
    let m := (m.setGuy n { m.guy n with window := 0 }).safePoint 12 .guy n
    if bad && m.guyUp n then m.guyDown n else m)

/-- R431: a STATUS round of 128 frames on each up port; in FROZEN too. -/
def execStatusRoundTimer (s : State) : Out :=
  s.cmd (fun m => [0, 1].foldl (fun m n =>
    if m.guyUp n then m.setGuy n { m.guy n with next := ((m.guy n).next + 128) % 2 ^ 16 } else m) m)

/-- R431: STATUS_TIMEOUT_US without a STATUS frame. -/
def execPartnerStatusTimeout (s : State) : Out := s.cmd (fun m => m.statusTimeout)

/-- R432: a beacon is sent in every mode except OFF. -/
def execBeaconTimer (s : State) : Out := s.cmd (fun m => if m.mode = 0 then m else { m with beacon := some (m.fuses.serial, m.mode) })

/-- R432: the partner's beacon. -/
def execSidebandBeacon (port : Fin 2) (serial : BitVec 63) (mode : BitVec 4) (s : State) : Out :=
  s.cmd (fun m => if m.mode = 0 then m else
    { ((m.set R.GUY_STATUS_SB_PRESENT 1 port.val).set R.GUY_STATUS_PEER_SB_MODE mode.toNat port.val) with
      sbSerial := m.sbSerial.ins port.val serial.toNat })

/-- R433: 1 ms without a beacon. -/
def execSbPresentTimeout (port : Fin 2) (s : State) : Out := s.cmd (fun m => m.set R.GUY_STATUS_SB_PRESENT 0 port.val)

/-- R435: a port trains. -/
def execPortLinkUp (port : Fin 64) (rate : Fin 5) (width : Fin 17) (flit cxlmem : Bool) (s : State) : Out :=
  s.cmd (fun m => m.linkUp port.val rate.val width.val flit cxlmem)

/-- R437, R448: a root port's link drops, or meets an uncorrectable error. -/
def execPortLinkDown (port : Fin 64) (dropped : Bool) (s : State) : Out := s.cmd (fun m => m.portLost port.val dropped)

/-- R436: a device's request. -/
def execDeviceRequest (port : Fin 64) (rid : BitVec 16) (req : DevReq) (s : State) : Out :=
  s.cmd (fun m => m.deviceRequest port.val rid.toNat req)

/-- R437: a completion timeout. -/
def execCompletionTimeout (what : TimedOut) (s : State) : Out := s.cmd (fun m => m.timedOut what)

/-- R437: PORT_CTL.RELEASE_DPC. -/
def execReleaseDpc (src : Src) (port : Fin 64) (s : State) : Out :=
  s.cmd (fun m => m.guarded src 12 .pg (port.val / 4) (fun m =>
    if m.portExists port.val then m.portSet R.PG_PORT_STATUS_CONTAINED port.val 0 else m))

/-- R440: PORT_CTL.RETRAIN: the link retrains and stays up; it reports what it settles on when it has trained. -/
def execPortRetrain (src : Src) (port : Fin 64) (s : State) : Out :=
  s.cmd (fun m => m.guarded src 12 .pg (port.val / 4) (fun m =>
    if m.portUp port.val then m.setPg port.val { m.pgPort port.val with retrain := true } else m))

/-- R444: SHELF_PITCH.GO. -/
def execShelfPitch (src : Src) (group : Fin 16) (shelf : Fin 64) (format : Bool) (s : State) : Out :=
  s.cmd (fun m => m.guarded src 12 .pg group.val (fun m =>
    let g := group.val
    let m := (m.set R.PG_SHELF_PITCH_SHELF shelf.val g).set R.PG_SHELF_PITCH_FORMAT format.toNat g
    if m.on R.PG_SHELF_PITCH_BUSY g then m else m.pitchStart g shelf.val format))

/-- R444, R447: a pitch without software. -/
def execAutopitch (shelf : Fin 64) (s : State) : Out := s.cmd (fun m => m.autopitch shelf.val)

/-- R443, R444: a pitch ends; not in FROZEN, where the link carries no request (R95). -/
def execShelfPitchDone (shelf : Fin 64) (found : ShelfFound) (s : State) : Out :=
  s.cmd (fun m => if m.mode = 9 then m else m.pitchDone shelf.val found)

end Sys2Proof.Machine
end

