-- ==== Sys2Proof/Machine/Pair.lean ====
section
/-! DEFINITION. The commands of a pair (R389–R413). -/
namespace Sys2Proof.Machine
namespace Mach

/-- Write a bit of PAIR_CTL (R389). -/
def pairWrite (m : Mach) (src : Src) (f : Mach → Mach) : Mach := m.guarded src 12 .pkg 0 f

/-- The GCM message of a batch under the RX slot (R306, R314, R399): its records, none where it fails. -/
def openBatch (m : Mach) (q : Nat) (b : Batch) : Option (List MRec) :=
  let s := m.slot (m.get R.PKG_PAIR_KEYS_RX)
  if s.state ≠ 1 then none
  else
    let key := Crypto.ofB s.key
    let iv := gcmIv q s.fixed b.counter.toNat
    let aad := q :: Crypto.leBytes 8 b.seq.toNat
    let ct := Crypto.ofB b.cipher
    if Crypto.toBytes (Crypto.gcmTag key iv aad ct) ≠ b.tag then none
    else
      let p := Crypto.toBytes (Crypto.gcmCrypt key iv ct)
      some (Wire.records p.length p)

/-- A batch whole in the bytes that DATA frames have brought (R425), and the bytes after it. -/
def batchAt (m : Mach) (q : Nat) : Option (Batch × List Byte) :=
  let b := m.pair.rx.getD q []
  let n := Wire.nat b 0 4
  if b.length < 24 ∨ b.length < 24 + n + 16 then none
  else some (⟨BitVec.ofNat 64 (Wire.nat b 8 8), BitVec.ofNat 64 (Wire.nat b 16 8), (b.drop 24).take n, (b.drop (24 + n)).take 16⟩, b.drop (40 + n))

/-- A batch of a stream fails and is not acknowledged; three in a row declare the stream's port down (R399). -/
def batchFails (m : Mach) (q : Nat) : Mach :=
  let n := m.pair.fails.getD q 0 + 1
  let m := m.setPair { m.pair with fails := m.pair.fails.put q (n % 3) 0 }
  if n = 3 then m.guyDown (m.streamPort q) else m

/-- A received batch (R399, R400). Where DATA frames have brought a whole batch of the stream, that is the one taken; with no room in the
inbound ring it stays where it is. One longer than 64 KiB is refused before any of it is processed (R306), and one for an RX slot that takes
no message is refused too (R334), which fails it. The records of a good one are placed and acknowledged. -/
def mirrorBatch (m : Mach) (q : Nat) (b : Batch) : Mach :=
  let x := (m.batchAt q).getD (b, m.pair.rx.getD q [])
  let b := x.1
  if !m.mirrorTakes || !m.mirrorMode || decide (124 * 2 ^ 20 < m.inboundBytes q + b.cipher.length) then m
  else
    let rx := m.get R.PKG_PAIR_KEYS_RX
    let m := m.setPair { m.pair with rx := m.pair.rx.put q x.2 [] }
    let ch := m.mirrorCiph q
    if 65536 < b.cipher.length then (m.err E.CIPH_PRIV_TOO_LONG sevContained ch).batchFails q
    else if (m.slot rx).state ≠ 1 then m.batchFails q
    else
      let got := m.openBatch q b
      let m := (m.useSlot rx 1).privDone ch 1 b.cipher.length
      match got with
      | none => (m.add R.CIPH_AUTH_FAIL_PRIVILEGED 1 ch).batchFails q
      | some l =>
        let m := m.setPair { m.pair with fails := m.pair.fails.put q 0 0 }
        let m := l.foldl (fun m r => m.placeRec q r) m
        m.setPair { m.pair with ackOut := m.pair.ackOut.put q (m.pair.held.getD q 0) 0 }

end Mach

open Mach

/-- R394: PAIR_CTL.FORM. -/
def execPairForm (src : Src) (s : State) : Out := s.cmd (fun m => m.pairWrite src (fun m => m.formStart))

/-- R394, R395: a partner's HELLO. -/
def execHello (h : Hello) (s : State) : Out := s.cmd (fun m => m.hello h)

/-- R413: PAIR_CTL.UNPAIR. -/
def execUnpair (src : Src) (s : State) : Out := s.cmd (fun m => m.pairWrite src (fun m => m.unpairStart))

/-- R406, R409: PAIR_CTL.TAKEOVER. -/
def execTakeover (src : Src) (s : State) : Out := s.cmd (fun m => m.pairWrite src (fun m => m.decide_))

/-- R412: PAIR_CTL.HANDBACK. -/
def execHandback (src : Src) (s : State) : Out := s.cmd (fun m => m.pairWrite src (fun m => m.handbackStart))

/-- R399, R400: a mirror batch. -/
def execMirrorBatch (stream : Fin 4) (b : Batch) (s : State) : Out := s.cmd (fun m => m.mirrorBatch stream.val b)

/-- R402: a held LINE record. -/
def execLineRecord (stream : Fin 4) (s : State) : Out :=
  s.cmd (fun m => m.applyFront stream.val (fun b => match b with | .line .. => true | _ => false))

/-- R402: a held PAGE record. -/
def execPageRecord (stream : Fin 4) (s : State) : Out :=
  s.cmd (fun m => m.applyFront stream.val (fun b => match b with | .page .. => true | _ => false))

/-- R402: a held MAP record. -/
def execMapRecord (stream : Fin 4) (s : State) : Out :=
  s.cmd (fun m => m.applyFront stream.val (fun b => match b with | .map .. => true | _ => false))

/-- R402: a held ACCEPT record. -/
def execAcceptRecord (stream : Fin 4) (s : State) : Out :=
  s.cmd (fun m => m.applyFront stream.val (fun b => match b with | .accept .. => true | _ => false))

/-- R402: a held COMPLETE record. -/
def execCompleteRecord (stream : Fin 4) (s : State) : Out :=
  s.cmd (fun m => m.applyFront stream.val (fun b => match b with | .complete .. => true | _ => false))

/-- R402: a held CONTEXT record. -/
def execContextRecord (stream : Fin 4) (s : State) : Out :=
  s.cmd (fun m => m.applyFront stream.val (fun b => match b with | .context .. => true | _ => false))

/-- R402: a held QUEUE record. -/
def execQueueRecord (stream : Fin 4) (s : State) : Out :=
  s.cmd (fun m => m.applyFront stream.val (fun b => match b with | .queue .. => true | _ => false))

/-- R402: a held RANGE record. -/
def execRangeRecord (stream : Fin 4) (s : State) : Out :=
  s.cmd (fun m => m.applyFront stream.val (fun b => match b with | .range .. => true | _ => false))

/-- R394, R402: a held KEY record. -/
def execKeyRecord (stream : Fin 4) (s : State) : Out :=
  s.cmd (fun m => m.applyFront stream.val (fun b => match b with | .key .. => true | _ => false))

/-- R394, R404, R413: a held SYNC record. -/
def execSyncRecord (stream : Fin 4) (s : State) : Out :=
  s.cmd (fun m => m.applyFront stream.val (fun b => match b with | .sync => true | _ => false))

/-- R400: an acknowledgement. -/
def execMirrorAck (stream : Fin 4) (seq : Word) (s : State) : Out := s.cmd (fun m => m.mirrorAck stream.val seq.toNat)

/-- R405, R406: a token on PAIR_FENCE_IN. -/
def execFenceTokenIn (token : BitVec 63) (s : State) : Out := s.cmd (fun m => m.fenceToken token.toNat)

/-- R406, R410: 16 µs after the token. -/
def execFenceWaitExpire (s : State) : Out := s.cmd (fun m => m.fenceWait)

/-- R409: AUTO_TAKEOVER_MS without a Guyline port. -/
def execAutoTakeoverExpire (s : State) : Out :=
  s.cmd (fun m => if m.mode = 6 ∧ m.pairState = 4 ∧ m.on R.PKG_PAIR_CTL_AUTO_TAKEOVER ∧ m.guyAny = false then m.decide_ else m)

/-- R412, R468: every Draining logical device has been released. -/
def execHandbackReleased (s : State) : Out := s.cmd (fun m => m.handbackEnd)

/-- R408, R412: the partner's PAIR_FENCE_OUT returns high. -/
def execPairFenceInHigh (s : State) : Out := s.cmd (fun m => m.fenceInHigh)

end Sys2Proof.Machine
end

