-- ==== Sys2Proof/Machine/Modes.lean ====
section
/-! DEFINITION. Dies struck, pitched, parked and restarted (R78–R82), and the conditions of the mode transitions (R73,
R74, R408). -/
namespace Sys2Proof.Machine
namespace Mach

/-! ### Dies (R80–R82) -/

/-- DIE_STATE.BUSY of a die: 1 strike, 2 park, 3 pitch, 4 restart; 0 none. -/
def setDieOp (m : Mach) (k op : Nat) : Mach :=
  ({ m with dieOp := m.dieOp.put k op 0 } : Mach).set (R.PKG_DIE_STATE_BUSY.bit k) (if op = 0 then 0 else 1)

def dieOpOf (m : Mach) (k : Nat) : Nat := m.dieOp.getD k 0

/-- The Hylar module of a die starts training: it has been released, and a coherence version selected. -/
def trainDie (m : Mach) (k : Nat) : Mach := m.set R.HYL_LINK_STATUS_TRAINING 1 k

/-- What a strike or park does until the fence: store buffers are drained, durable writes sent, dirty lines written back and
clean ones given up. A line another core's durable write still needs waits for its Cmp. -/
def dieDrain (m : Mach) (k : Nat) : Mach :=
  let m := (m.dieCores k).foldl (fun m cid =>
    let m := m.drainAll cid
    (m.core cid).dwl.foldl (fun m l => m.sendDurWb cid l) m) m
  (m.lines.filter (fun e => e.1 / 2 ^ 42 == k)).foldl (fun m e =>
    let l := e.1 % 2 ^ 42
    if (m.dl k l).wait ≠ [] then m else m.leaveDie k l false) m

/-- All of a die's outstanding requests are complete, and it holds no line and no tagged instruction. -/
def dieQuiet (m : Mach) (k : Nat) : Bool :=
  !(m.lines.any (fun e => e.1 / 2 ^ 42 == k)) && !(m.net.any (fun g => g.src == k || g.dst == k)) &&
  !(m.tlbis.any (fun t => dieOf t.cid == k || t.acks.contains k)) &&
  (m.dieCores k).all (fun cid =>
    let c := m.core cid
    c.sb.isEmpty && c.trk.isEmpty && c.sync.isNone && c.maint.isEmpty && c.dwPend.isEmpty && c.tag.flight.isNone &&
      !m.outstanding cid && !(m.devq.any (fun d => d.cid == cid)))

/-- Every register of a die returns to its reset value, and its cores, lines and link state are gone (R80, R81, R83). -/
def dieReset (m : Mach) (k : Nat) : Mach :=
  let other (key : Nat) : Bool := key / 0x1000000 != k
  let m : Mach := { m with
    regs := m.regs.keep (fun a _ => other a)
    active := m.active.keep (fun a _ => other a)
    staged := m.staged.keep (fun a _ => other a)
    err64 := m.err64.filter other
    cores := m.cores.keep (fun c _ => dieOf c != k)
    lines := m.lines.keep (fun e _ => e / 2 ^ 42 != k)
    pruning := m.pruning.keep (fun e _ => e / 64 != k)
    trace := m.trace.keep (fun e _ => e / 8192 != k)
    tcap := m.tcap.erase k
    pcap := m.pcap.keep (fun c _ => dieOf c != k)
    hylEnds := m.hylEnds.keep (fun e _ => e / 2 != k) }
  let m := (m.filter.filter (fun e => e.2.pres.contains k)).foldl (fun m e => m.dropHolder e.1 k) m
  ((m.set (R.PKG_READY_CD.bit k) 0).set R.HYL_LINK_STATUS_UP 0 k).set R.HYL_LINK_STATUS_TRAINING 0 k

/-- The fence step: the Hylar module is fenced, and the die is struck or parked. A BOOT_DIE struck in BRINGUP takes the package
to FROZEN (R94). -/
def dieFence (m : Mach) (k : Nat) : Mach :=
  let op := m.dieOpOf k
  let m := (m.dieReset k).setDieOp k 0
  if op = 1 then
    let m := m.set (R.PKG_STRUCK_MASK_DIES.bit k) 1
    if m.mode = 2 ∧ m.get R.PKG_BOOT_BOOT_DIE = k then m.enterFrozen 0 else m
  else m.set (R.PKG_DIE_STATE_PARKED.bit k) 1

/-- The PARK bit of one die is written (R81, R82); `struckNow` where the same write strikes it. -/
def parkBit (m : Mach) (k want : Nat) (struckNow : Bool) : Mach :=
  let op := m.dieOpOf k
  let bit := R.PKG_DIE_CTL_PARK.bit k
  if m.get bit = want ∨ (op ≠ 0 ∧ ¬(op = 2 ∧ want = 0)) ∨ (want = 0 ∧ m.mode = 7 ∧ 0 < k) then m
  else
    let m := m.set bit want
    if want = 1 then (if m.dieUp k && !struckNow then (m.setDieOp k 2).dieDrain k else m)
    else if op = 2 then m.setDieOp k 0
    else if m.on (R.PKG_DIE_STATE_PARKED.bit k) then
      let m := m.set (R.PKG_DIE_STATE_PARKED.bit k) 0
      if m.on (R.PKG_STRUCK_MASK_DIES.bit k) then m else (m.setDieOp k 4).trainDie k
    else m

/-- A write of DIE_CTL (R79–R82). -/
def dieCtl (m : Mach) (strike pitch park : Nat) : Mach :=
  forN 12 (fun k m =>
    let busy := m.dieOpOf k != 0
    let struck := m.on (R.PKG_STRUCK_MASK_DIES.bit k)
    let hit := bitsOf strike k 1 == 1 && !busy && !struck
    let m := m.parkBit k (bitsOf park k 1) hit
    if hit then (let m := m.setDieOp k 1; if m.dieUp k then m.dieDrain k else m)
    else if bitsOf pitch k 1 = 1 ∧ struck ∧ busy = false ∧ m.get R.PKG_COMPAT_COH_VER ≠ 0 then (m.setDieOp k 3).trainDie k
    else m) m

/-! ### Conditions of the transitions (R73, R74) -/

/-- DRAINED may become 1 (R74): no DURSYNC, accepted descriptor or foreign-host write that began before is open, and every
journal record of a write to an Awake shelf is complete. -/
def drained (m : Mach) : Bool :=
  m.cores.all (fun c => c.2.sync.isNone) && m.durWaits.isEmpty &&
  m.queues.all (fun q => q.2.live.isEmpty && !queueBusy q.2) &&
  [0, 1, 2, 3].all (fun q => (m.tq q).held.all (fun r => r.cid == 0) && (m.outRing q).all (fun r => r.forDur.isNone)) &&
  m.pair.owed.isEmpty &&
  m.journal.all (fun r => r.kind == 1 || m.shelfState r.shelf != 2)

/-- The mode a MODE_REQ of SOLO leads to from BRINGUP (R73): the pair state a warm reset preserved has been settled by R408. -/
def soloMode (m : Mach) : Nat := if m.pairState = 5 then 5 else if m.pairState = 4 ∨ m.pairState = 6 then 6 else 3

/-- A MODE_REQ of SOLO may leave BRINGUP. -/
def mayServe (m : Mach) : Bool :=
  m.hon R.HDR_STATUS_READY .mgmt && m.get R.PKG_READY_CD != 0 && m.hon R.HDR_STATUS_READY .ten

/-- BRINGUP ends: the next Fatal error starts a new incident (R507). -/
def endBringup (m : Mach) : Mach := { m with lant := { m.lant with incident := false } }

/-- APPLIANCE (R75): PARK is 0xFFE whatever a die does, and CD1 to CD11 are parked; a die in a pitch or restart comes up parked. -/
def appliance (m : Mach) : Mach :=
  forN 12 (fun k m =>
    let want := if k = 0 then 0 else 1
    if m.dieOpOf k = 0 ∨ m.dieOpOf k = 2 then m.parkBit k want false else m.set (R.PKG_DIE_CTL_PARK.bit k) want) (m.enterMode 7)

/-- From DRAIN back to a mode, which is an entry to APPLIANCE too (R75): held work goes on. What the pair did meanwhile shows at once (R73). -/
def drainReturn (m : Mach) (to_ : Nat) : Mach :=
  let m := if to_ = 7 then m.appliance else m.enterMode to_
  let m := if to_ = 4 ∧ m.pairState = 4 then m.enterMode 6
    else if to_ = 4 ∧ m.pairState = 0 then m.enterMode 3
    else if (to_ = 3 ∨ to_ = 5 ∨ to_ = 6) ∧ m.pairState = 3 then m.enterMode 4
    else if to_ = 6 ∧ m.pairState = 4 ∧ m.on R.PKG_PAIR_STATE_FENCE_OUT ∧ m.pair.deciding = false then m.fenceWon
    else m
  m.payOwed.resync.durCheck.settle

end Mach
end Sys2Proof.Machine
end

