-- ==== Sys2Proof/Machine/Reset.lean ====
section
/-! DEFINITION. The resets of R83: power-on, cold, warm, and the orderly power-down, with what R84, R85, R87, R88, R206
and R408 keep; and the recoveries of the first BRINGUP after a warm reset (R271, R315, R338, R375, R447, R496). -/
namespace Sys2Proof.Machine
namespace Mach

/-! ### Registers kept -/

/-- Offsets of a page of the I/O die that a cold reset keeps: MODE, RESET_CAUSE, ROOT_STATUS, STORE_STAT
and DOMAIN (R69, R88, R24, R507, R206); single fields of them are cleared afterwards. -/
def keepCold (b : Block) (off : Nat) : Bool :=
  match b with
  | .pkg => off == 0x100 || off == 0x130
  | .clk => off == 0x100
  | .lant => off == 0x1B0
  | .home => off == 0x128
  | _ => false

/-- What a warm reset keeps besides (R85): STRUCK_MASK, the pair registers, the seed store, training results and
geometry of the DDR channels, the base registers of the map and the shelf table. -/
def keepWarm (b : Block) (off : Nat) : Bool :=
  keepCold b off || match b with
  | .pkg => off == 0x110 || (decide (0x300 ≤ off) && decide (off < 0x390))
  | .seed => true
  | .ddr => off == 0x100 || off == 0x108 || off == 0x110 || (decide (0x140 ≤ off) && decide (off < 0x180))
  | .tier => off == 0x100 || (decide (0x800 ≤ off) && decide (off < 0xC00))
  | _ => false

/-- Whether a predicate on block and offset names the register of the I/O die at an offset of the control region. -/
def keptAt (p : Block → Nat → Bool) (k : Nat) : Bool :=
  k / 0x1000000 == 12 && match blockOfCode (k / 0x40000 % 0x40) with | some b => p b (k % 0x1000) | none => false

/-- Registers of the I/O die that a predicate keeps. -/
def keepRegs (p : Block → Nat → Bool) (t : Tbl Word) : Tbl Word := t.keep (fun k _ => keptAt p k)

/-! ### Cold reset (R83) -/

/-- Bytes lost with power or at a cold reset: the DRAM and the boot window's ways, not the shelves' media. -/
def lostByte (a : Nat) : Bool := decide (a < 2 ^ 47) || decide (2 ^ 48 ≤ a)

def wipeMem (m : Mach) : Mach :=
  { m with wr := ((m.base ++ m.wr).filter (fun c => lostByte c.1 && c.2 != 0)).map (fun c => (c.1, 0)) ++ m.wr }

/-- Every slot but the Fused ones is Empty after a cold reset; GEN rises where it was not (R83, R328). -/
def coldSlots (s : Tbl Slot) : Tbl Slot :=
  (s.mapV (fun _ x =>
    if x.state = 4 then x else ⟨0, 0, 0, 0, false, if x.state = 0 then x.gen else (x.gen + 1) % 2 ^ 16, 0, 0, 0, 0, []⟩)).keep
    (fun _ x => x.state == 4 || x.gen != 0)

/-- Registers, caches and tables at their reset values, but the registers `keep` names, the standby-powered store, SPI flash, the
board's pins and the GEN of the slots. -/
def coldRegs (m : Mach) (keep : Block → Nat → Bool) : Mach :=
  let fw := m.get R.PKG_BOOT_FW_FAIL
  let bf := m.get R.PKG_BOOT_BOOT_FAIL
  let d : Dev := { Dev.reset with
    regs := keepRegs keep m.regs
    time := m.time
    free := m.free
    pins := { m.pins with alertN := true }
    lant := { Dev.reset.lant with store := m.lant.store, incident := m.lant.incident }
    slots := coldSlots m.slots
    tap := m.tap
    lifeSaved := m.lifeSaved
    railsLost := m.railsLost
    frozenCause := 0 }
  let m : Mach := { m with toDev := d }
  let m := ((m.set R.PKG_BOOT_FW_FAIL fw).set R.PKG_BOOT_BOOT_FAIL bf).set R.PKG_MODE_REQ_ERR 0
  let m := ((m.set R.CLK_ROOT_STATUS_LOCKED 0).set R.CLK_ROOT_STATUS_REFCLK_OK 0).set R.CLK_ROOT_STATUS_HOLDOVER 0
  m.set R.PKG_LIFE_USED_EQ m.lifeSaved

/-- Everything at its reset value but the standby-powered store, what R88 and R206 keep, SPI flash and the board's pins. -/
def coldState (m : Mach) : Mach := (m.coldRegs keepCold).wipeMem

/-- PKG_RESET_N or PWRGOOD falls (R73, R83, R88): the package enters AUX with PAIR_FENCE_OUT deasserted (R95), and PKG_RESET_N
releases THERMTRIP_N (R536). -/
def coldReset (m : Mach) (pin : ResetPin) : Mach :=
  if m.mode = 0 then m
  else
    let m := if m.mode = 1 then m else m.enterMode 1
    let p := m.pins
    let m := m.coldState
    let m : Mach := { m with pins := match pin with
      | .pkgResetN => { p with pkgResetN := false, thermtripN := true, pairFenceOut := false, alertN := true }
      | .pwrgood => { p with pwrgood := false, pairFenceOut := false, alertN := true } }
    let fatal := m.on R.PKG_BOOT_FW_FAIL || m.on R.PKG_BOOT_BOOT_FAIL
    let m := m.set R.LANT_ALARM_FATAL fatal.toNat
    let m := (m.set R.PKG_RESET_CAUSE_LAST (match pin with | .pkgResetN => 1 | .pwrgood => 2)).set R.PKG_RESET_CAUSE_FROZEN_CAUSE 0
    m.set R.PKG_RESET_CAUSE_WARM_COUNT 0

/-- Standby power is lost (R73): nothing is kept but SPI flash and the shelves. -/
def powerOff (m : Mach) : Mach :=
  let m := m.wipeMem
  let m : Mach := { m with
    toDev := { Dev.reset with
      free := m.free
      lifeSaved := m.lifeSaved
      pins := { Dev.reset.pins with standby := false, pwrgood := m.pins.pwrgood, pkgResetN := m.pins.pkgResetN, pairFenceIn := m.pins.pairFenceIn } }
    errs := [], evs := [] }
  m.set R.PKG_MODE_MODE 0

/-- Standby rails come within limits (R73, R83): the power-on reset, and LIFE_USED from flash (R544). -/
def powerOn (m : Mach) : Mach :=
  if m.mode ≠ 0 then m
  else
    let m : Mach := { m with toDev := { Dev.reset with
      free := m.free
      lifeSaved := m.lifeSaved
      pins := { Dev.reset.pins with pwrgood := m.pins.pwrgood, pkgResetN := m.pins.pkgResetN, pairFenceIn := m.pins.pairFenceIn } } }
    m.set R.PKG_LIFE_USED_EQ m.lifeSaved

/-! ### Warm reset (R83–R85, R88, R408) -/

/-- Dirty lines of the dies and then of the MSC are written back. -/
def writeBack (m : Mach) : Mach :=
  let m := (m.filter.filter (fun e => e.2.st == FSt.x || e.2.st == FSt.o)).foldl (fun m e => m.pullLine e.1) m
  m.msc.foldl (fun m e =>
    match m.mscLine e.1 with
    | some x => if x.dirty then m.settleMsc e.1 x else m
    | none => m) m

def selfRefresh (m : Mach) : Mach :=
  (List.range 16).foldl (fun m c => if m.on R.DDR_TRAIN_TRAINED c then m.set R.DDR_TRAIN_SELF_REFRESH 1 c else m) m

/-- R408: the STATE in which the package resumes, by the first row that holds; FENCE_OUT is looked at first for Winner and
Handback. What a core or a foreign host waited for before the reset waits no longer, and the durable contexts' new GEN is mirrored (R350,
R398). -/
def pairWarm (m : Mach) : Mach :=
  let st := m.pairState
  let clean (m : Mach) : Mach := m.setPair { m.pair with
    step := 0, cmd := 0, syncOut := [], syncAcked := [], syncIn := [], deciding := false, alive := false, rx := [],
    owed := m.pair.owed.filter (fun o => o.1 != 0), out := m.pair.out.mapV (fun _ l => l.map (fun r => { r with forDur := none })) }
  let single (m : Mach) : Mach := m.clearRings.setPair { m.clearRings.pair with owed := [] }
  let m := (clean m).unsend streams
  if (st = 5 ∨ st = 7) ∧ m.on R.PKG_PAIR_STATE_FENCE_OUT then m.setPState 5
  else if m.on R.PKG_PAIR_STATE_FENCE_IN then m.setPState 6
  else match st with
    | 1 | 2 => single (m.setPState 0)
    | 3 | 4 | 7 =>
      (m.tenants.filter (fun x => x.2.state == 1 && x.2.durable)).foldl (fun m x => m.mirrorContext x.1 0) (m.setPState 4)
    | _ => m

/-- A tenant command in progress goes on after a warm reset (log 71); an ATTACH has no line left to sweep and ends (R356). -/
def keepTenCmd (m : Mach) : Mach :=
  match m.tenCmd with
  | none => m
  | some (5, t) => (m.set R.TEN_TCMD_BUSY 1).attachEnd t
  | some _ => m.set R.TEN_TCMD_BUSY 1

/-- The registers and caches after a warm reset. COUNT of a queue is of its generation (R367). -/
def warmState (m : Mach) : Mach :=
  let fw := m.hget R.HDR_STATUS_READY .mgmt
  let slot := m.get R.PKG_BOOT_FW_SLOT
  let ver := m.get R.PKG_BOOT_FW_VERSION
  let h1 := m.get R.PKG_COMPAT_FORCE_H1
  let failed := (List.range 16).filter (fun c => m.chanFailed c)
  let d := m.toDev
  let d : Dev := { Dev.reset with
    regs := keepRegs keepWarm d.regs
    active := keepRegs keepWarm d.active
    time := d.time
    free := d.free
    pins := { d.pins with alertN := true }
    lant := { Dev.reset.lant with store := d.lant.store, incident := d.lant.incident }
    lineMeta := d.lineMeta
    slots := d.slots
    tags := d.tags
    attached := d.attached
    pmap := d.pmap
    mapBad := d.mapBad
    frames := d.frames
    moves := d.moves
    journal := d.journal.map (fun (r : JRec) => { r with sent := false })
    smap := d.smap
    shelves := d.shelves
    tierq := d.tierq.mapV (fun _ (t : TierQ) => { t with held := [], cmd := none, want := [], wmOn := false, shedOn := false })
    tenants := d.tenants.mapV (fun _ (t : Tenant) => { t with gen := (t.gen + 1) % 2 ^ 16 })
    tenGen := (d.tenGen + 1) % 2 ^ 16
    pair := d.pair
    rblocks := d.rblocks
    rfaults := d.rfaults
    frozenCause := d.frozenCause
    queues := d.queues.mapV (fun _ (q : Queue) => { q with count := 0 })
    taken := d.taken
    tenCmd := d.tenCmd
    tap := d.tap
    lifeSaved := d.lifeSaved
    lifeFrac := 0
    railsLost := d.railsLost
    onPclk := d.onPclk
    config := d.config }
  let m : Mach := { m with toDev := d }
  let m := ((m.hset R.HDR_STATUS_READY .mgmt fw).set R.PKG_BOOT_FW_SLOT slot).set R.PKG_BOOT_FW_VERSION ver
  let m := (m.set R.PKG_COMPAT_FORCE_H1 h1).set R.PKG_MODE_REQ_ERR 0
  let m := failed.foldl (fun m c => m.hset R.HDR_STATUS_STRUCK .ddr 1 c) m
  let m := [0, 1, 2, 3].foldl (fun m q => ((m.syncFree q).syncMoves q).syncJournal q) m
  (m.set R.PKG_LIFE_USED_EQ m.lifeSaved).keepTenCmd

/-- WARMRESET begins (R83), from DRAIN (LAST 3) or from FROZEN (LAST 4). A root PLL in holdover puts the management controller
back on AUXOSC (R547). -/
def warmReset (m : Mach) (last : Nat) : Mach :=
  let m := if last = 3 then m.writeBack.flushMap.selfRefresh else m
  let m := (m.enterMode 10).loseCoalesced
  let m := m.warmState.pairWarm
  let m := if m.on R.CLK_ROOT_STATUS_HOLDOVER then { m with onPclk := false } else m
  let m := (m.set R.PKG_RESET_CAUSE_LAST last).set R.PKG_RESET_CAUSE_FROZEN_CAUSE (if last = 4 then m.frozenCause else 0)
  m.add R.PKG_RESET_CAUSE_WARM_COUNT 1

/-- The orderly power-down (R87): every die is parked, the MSC written back, writes to Awake shelves completed, LIFE_USED
saved (R544), and AUX entered with DRAM in self-refresh (R230), whose contents the board's removal of its rails loses: the cold reset
that must follow (R73). PAIR_FENCE_OUT holds its value (R95). -/
def powerDown (m : Mach) : Mach :=
  let m := (List.range 12).foldl (fun m k => if m.dieUp k then (m.dieCores k).foldl (fun m cid => m.drainAll cid) m else m) m
  let m := m.writeBack
  let m := (m.journal.filter (fun r => r.kind != 1 && m.shelfState r.shelf == 2)).foldl (fun m r => m.shelfWrite r.q r.seq) m
  let m : Mach := { m with lifeSaved := m.get R.PKG_LIFE_USED_EQ }
  let kept := m.lineMeta
  let m := (m.flushMap.selfRefresh.enterMode 1).coldRegs (fun b off => keepCold b off || (b == .ddr && off == 0x110))
  let m : Mach := { m with lineMeta := kept }
  m.set R.PKG_PAIR_STATE_FENCE_OUT m.pins.pairFenceOut.toNat

/-! ### Mode requests (R70, R71, R73) -/

/-- MAINTENANCE (R76): the slots it may lose are emptied (R328). -/
def maintenance (m : Mach) : Mach :=
  let m := m.endBringup.enterMode 11
  m.slots.foldl (fun m e => if e.2.state = 1 ∨ e.2.state = 2 ∨ e.2.state = 3 then m.emptySlot e.1 else m) m

/-- A write of a mode's code to MODE_REQ. A BRINGUP whose images have failed is left by a cold reset alone (R92). -/
def modeReq (m : Mach) (code : Nat) : Mach :=
  let md := m.mode
  let bad : Mach := m.set R.PKG_MODE_REQ_ERR 1
  let drained := m.on R.PKG_MODE_DRAINED
  if code = md then m
  else if md = 2 ∧ code = 3 then (if m.mayServe then (m.endBringup.enterMode m.soloMode).resync.durCheck else bad)
  else if md = 2 ∧ code = 11 ∧ m.bring ≠ 0 then m.maintenance
  else if md = 3 ∧ code = 7 then m.appliance
  else if md = 7 ∧ code = 3 then m.enterMode 3
  else if code = 8 ∧ 3 ≤ md ∧ md ≤ 7 then m.enterMode 8
  else if md = 8 ∧ code = 10 then (if drained then m.warmReset 3 else bad)
  else if md = 8 ∧ code = 1 then (if drained then m.powerDown else bad)
  else if md = 8 ∧ code = m.get R.PKG_MODE_PREV_MODE then m.drainReturn code
  else if md = 9 ∧ code = 10 ∧ m.get R.PKG_MODE_PREV_MODE ≠ 11 then m.warmReset 4
  else bad

/-! ### Recoveries of the first BRINGUP after a warm reset -/

/-- R447 and R269: every shelf that was Pitching, Awake or Striking becomes Lost, its Stable pages Dormant. -/
def loseShelves (m : Mach) : Mach :=
  let m := (List.range 64).foldl (fun m n =>
    if m.shelfState n ∈ [1, 2, 3] then
      ((m.shelfTo n 5).setShelf n { m.shelf n with phase := 0 }).dormantSweep n
    else m) m
  { m with repitch := (List.range 64).filter (fun n => m.shelfState n == 5) }

/-- One record of the move log (R271, R272). A promotion from a shelf rolls forward only if every line is in its destination; one that
ends on a shelf is Dormant, as no shelf is Awake yet (R447). -/
def recoverMove (m : Mach) (k : Nat) (v : Move) : Mach :=
  let m :=
    if v.phase = 2 then (m.freeLoc v.srcTier v.srcLoc v.srcPlots v.srcCmp).endMove k
    else if !v.promote then m.abandonDemotion k v false
    else if v.done = fullMask then
      if v.dstTier = tierBed then m.switchPromotion k v
      else
        let m := m.commitDemotion k v
        if v.dstTier = tierShed then m.setEntry v.page (eSetState (m.entry v.page) stDormant) else m
    else if v.dstTier ≠ tierBed then m.dropPromotion k v stDormant
    else if v.srcTier = tierShed then (m.keepDone v).dropPromotion k v stDormant
    else m.commitPromotion k v
  if v.poisonAfter then m.setEntry v.page (eSetState (m.entry v.page) stPoisoned) else m

/-- What a TIER instance does before it sets READY: the move log, a page being rekeyed (R338), the pages to be poisoned after that
(R210), and R496 where the quadrant's PARTIAL bit is set. -/
def recoverTier (m : Mach) (q : Nat) : Mach :=
  let m := (m.moves.filter (fun e => e.1 / 64 == q)).foldl (fun m e => m.recoverMove e.1 e.2) m
  let m := if m.on (R.SEED_REKEY_PAGE_VALID.at q) then m.rekeyPage (pageAt q (m.get (R.SEED_REKEY_PAGE_PAGE.at q))) true else m
  let rekeying (p : Nat) : Bool := eState (m.entry p) == stRekeying
  let t := m.tq q
  let m := (t.poisonLater.filter (fun p => !rekeying p)).foldl (fun m p => m.setEntry p (eSetState (m.entry p) stPoisoned))
    (m.setTq q { t with poisonLater := t.poisonLater.filter rekeying })
  let bit := R.LANT_STORE_STAT_PARTIAL.bit q
  if m.on bit then
    let m := m.pmap.foldl (fun m e =>
      let page := e.1 * 4096
      let w := m.entry page
      if homeOf page = q ∧ eDur w = false ∧ eTier w ≠ tierNone ∧ (eState w = stStable ∨ eState w = stRekeying ∨ eState w = stDormant) then
        (pageLines page).foldl (fun m l => m.poisonLine l) m
      else m) m
    m.set bit 0
  else m

/-- While UNREPLAYED is 1 the hub queues bank CUR on the sideband from BRINGUP on (R508). -/
def replaySideband (m : Mach) : Mach :=
  if m.on R.LANT_STORE_STAT_UNREPLAYED then
    let cur := m.get R.LANT_STORE_STAT_CUR
    forN (m.bankCount cur) (fun i m =>
      match m.lant.store.find (bankBase cur + i) with
      | some r => m.toSideband { r with replayed := true }
      | none => m) m
  else m

end Mach
end Sys2Proof.Machine
end

