-- ==== Sys2Proof/Machine/View.lean ====
section
/-! DEFINITION. What a read of control space returns (R34–R47, R61–R68, R546), with the registers whose value the state
holds elsewhere: windows, mirrors and computed fields. -/
namespace Sys2Proof.Machine

/-- Blocks with a software enable (R546). -/
def hasEnable (b : Block) : Bool :=
  [Block.ddr, .pg, .guy, .tier, .codec, .bulk, .ciph, .rake, .lant].contains b

namespace Mach

/-- Whether a block counts as enabled (R546, R421, R453). -/
def enabledBlk (m : Mach) (die : Nat) (b : Block) (inst : Nat) : Bool :=
  if die < 12 then m.dieUp die
  else if hasEnable b then m.hon R.HDR_STATUS_ENABLED b inst
  else if b = .pkg then m.on R.PKG_COMPAT_COH_VER
  else if b = .ep then m.hon R.HDR_STATUS_READY .pg inst
  else m.hon R.HDR_STATUS_READY b inst

/-- A port group has no request of its own or of a neighbour under way: device accesses, shelf reads and writes sent, a pitch, and
requests of its devices and foreign hosts at the homes. -/
def groupIdle (m : Mach) (g : Nat) : Bool :=
  let at_ (n : Nat) : Bool := m.get (R.TIER_SHELF_CFG_PORT.at n) / 4 == g
  let mine (src : Nat) : Bool := src == agentPg g || src == agentEp g
  m.devq.all (fun d => match d.port with | some p => p / 4 != g | none => true) &&
  m.shelfReads.all (fun r => !at_ r.shelf) && m.pitch.all (fun e => !at_ e.1) &&
  m.journal.all (fun r => !(r.sent && r.kind != 1 && at_ r.shelf)) &&
  m.htx.all (fun x => !mine x.req.src) && m.hq.all (fun r => !mine r.src) &&
  [0, 1, 2, 3].all (fun q => (m.tq q).held.all (fun r => !mine r.src))

/-- The work a block took on has finished (R48, R49). -/
def workDone (m : Mach) (b : Block) (inst : Nat) : Bool :=
  match b with
  | .bulk => m.queues.all (fun q => q.2.quad != inst || (q.2.live.isEmpty && q.2.run.isEmpty))
  | .codec => m.queues.all (fun q => q.2.quad != inst || q.2.run.all (fun d => !opsStream.contains d.op))
  | .ciph => (List.range 6).all (fun p => (m.pipe inst p).run.isNone && (m.pipe inst p).saved.isEmpty)
  | .tier => !m.on R.TIER_CMD_BUSY inst && m.moves.all (fun e => e.1 / 64 != inst)
  | .ddr => m.memResp.all (fun r => (m.ldaChan r.lda).1 != inst)
  | .pg => m.groupIdle inst
  | .guy => !m.guyUp inst || (m.guy inst).next == ((m.guy inst).acked + 1) % 2 ^ 16
  | _ => true

/-- A block with a software enable is quiescing: QUIESCE is 1 and work it had taken on is not finished (R47, R48). -/
def quiescing (m : Mach) (b : Block) (inst : Nat) : Bool :=
  hasEnable b && m.hon R.HDR_CONTROL_QUIESCE b inst && m.hon R.HDR_STATUS_ENABLED b inst && !m.workDone b inst

/-- STATUS (R47): READY of a compute die's blocks follows the die; ERR, ENABLED and a quiesce in BUSY are computed. -/
def statusView (m : Mach) (die : Nat) (b : Block) (inst : Nat) : Nat :=
  let page := pageOff die b inst
  let errs := Nat.land (m.reg (page + 0x28)) (allOnes - m.reg (page + 0x30))
  let err := errs != 0 || (m.err64.contains page && m.reg (page + recBase b) % 2 == 1)
  let st := m.reg (page + 0x10)
  let st := if die < 12 then putBits st 0 1 1 else if b = .ep then putBits st 0 1 (m.hget R.HDR_STATUS_READY .pg inst) else st
  let st := if decide (die = 12) && m.quiescing b inst then putBits st 1 1 1 else st
  putBits (putBits st 3 1 err.toNat) 5 1 (m.enabledBlk die b inst).toNat

/-- PKG.READY (R89): CD is held, the rest mirrors STATUS.READY of the pages. -/
def readyView (m : Mach) : Nat :=
  let r := m.reg (pageOff 12 .pkg 0 + 0x128)
  let rd (b : Block) (i : Nat) : Bool := m.hon R.HDR_STATUS_READY b i
  let bits (b : Block) (n lo : Nat) (v : Nat) : Nat := (List.range n).foldl (fun v i => putBits v (lo + i) 1 (rd b i).toNat) v
  let v := bits .pg 16 28 (bits .ddr 16 12 r)
  let v := (List.range 4).foldl (fun v q => putBits v (44 + q) 1 (rd .tier q && rd .codec q && rd .bulk q && rd .ciph q).toNat) v
  let v := bits .guy 2 48 v
  putBits (putBits (putBits v 50 1 (rd .seed 0).toNat) 51 1 (rd .mgmt 0).toNat) 52 1 (rd .ten 0).toNat

/-- PARTNER_VIEW.AGE (R68): µs since the copy was refreshed; saturated where none is recorded. -/
def ageView (m : Mach) : Nat :=
  let r := m.reg (pageOff 12 .pkg 0 + 0x220)
  putBits r 16 16 (match m.statusAt with | some t => statusAge m.time t | none => 0xFFFF)

/-- CORE.STATUS (R101); a strike or park in progress has stopped the die's cores. -/
def coreView (m : Mach) (cid : Nat) : Nat :=
  let c := m.core cid
  let held := [1, 2].contains (m.dieOpOf (dieOf cid))
  let run := match c.run with
    | .parked => 0
    | .running => if held then 3 else 1
    | .waiting => if held then 3 else 2
    | .stopped => 3
  run + c.pl * 2 ^ 2 + c.sb.isEmpty.toNat * 2 ^ 4 + c.dfail.isSome.toNat * 2 ^ 5 + c.sb.length * 2 ^ 8

/-- SLOT_ATTR (R327). -/
def slotAttr (s : Slot) : Nat :=
  s.state + s.alg * 2 ^ 3 + s.usage * 2 ^ 6 + s.owner * 2 ^ 16 + s.pkgOwned.toNat * 2 ^ 27 + s.gen * 2 ^ 32

/-- TSTATE (R352). -/
def stateWord (x : Tenant) : Nat := x.state + x.attached.toNat * 2 ^ 3 + x.consent.toNat * 2 ^ 4 + x.gen * 2 ^ 16

/-- A tenant's ring as TRING and TRING_POS show it; one never set up is disabled at its reset values. -/
def tring (m : Mach) (t : Nat) : TenantRing := m.lant.trings.getD t ⟨false, 0, 0, true, 0⟩

/-- The windows of the TEN page (R151, R156, R352, R359). -/
def tenView (m : Mach) (off : Nat) : Option Nat :=
  let t := m.get R.TEN_TSEL_TENANT
  let x := m.tenant t
  let q := m.queue (m.get R.TEN_QSEL_QUEUE)
  let set := m.get R.TEN_RSET_SEL_SET
  match off with
  | 0x110 => some (stateWord x)
  | 0x178 => some x.accepted
  | 0x180 => some x.completed
  | 0x188 => some (x.staleCompl % 2 ^ 32 + x.staleDesc % 2 ^ 32 * 2 ^ 32)
  | 0x408 => some q.cfg
  | 0x410 => some q.sq
  | 0x418 => some q.cq
  | 0x420 => some q.acc
  | 0x428 => some q.log
  | 0x430 => some (q.state * 2 ^ 2 + q.halt * 2 ^ 8)
  | 0x438 => some (q.nextSeq % 2 ^ 32 + q.head % 2 ^ 16 * 2 ^ 32 + q.cqTail % 2 ^ 16 * 2 ^ 48)
  | 0x808 => some ((m.rinv.contains set).toNat * 2)
  | 0x810 => some (match m.rfaults.find set with | some f => f.addr | none => 0)
  | 0x818 => some (match m.rfaults.find set with | some f => 1 + f.cause * 2 + f.source * 2 ^ 4 + f.count * 2 ^ 16 | none => 0)
  | _ =>
    if 0x900 ≤ off ∧ off < 0xA00 then
      let b := m.rblock set ((off - 0x900) / 32)
      some (match off % 32 with
        | 0 => b.v.toNat + b.r.toNat * 2 + b.w.toNat * 4 + b.base
        | 8 => b.target
        | 0x10 => b.unitsM1
        | _ => 0)
    else none

/-- The windows of the LANT page (R510). -/
def lantView (m : Mach) (off : Nat) : Option Nat :=
  let r := m.tring (m.get R.LANT_TRING_SEL_TENANT)
  match off with
  | 0x130 => some (r.en.toNat + r.base)
  | 0x138 => some (r.index % 2 ^ 16 + r.phase.toNat * 2 ^ 16 + r.drops % 2 ^ 32 * 2 ^ 32)
  | _ =>
    if 0x188 ≤ off ∧ off < 0x1A8 then
      some (match m.lant.store.find (m.get R.LANT_STORE_SEL_SLOT) with
        | some e => ofBytes ((e.bytes.drop (off - 0x188)).take 8)
        | none => 0)
    else none

/-- The slot window of the SEED page (R343). -/
def seedView (m : Mach) (off : Nat) : Option Nat :=
  let s := m.slot (m.get R.SEED_SLOT_SEL_SLOT)
  match off with
  | 0x108 => some (slotAttr s)
  | 0x110 => some s.use
  | 0x118 => some s.limit
  | 0x120 => some s.ivctr
  | 0x128 => some s.fixed
  | _ => none

/-- ROUTE and TDATA of a FAB page (R484). -/
def fabView (m : Mach) (die inst off : Nat) : Option Nat :=
  if off = 0x108 then
    some (match m.routes die (m.get R.FAB_ROUTE_SEL_NI inst die) (m.get R.FAB_ROUTE_SEL_DEST inst die) with
      | some (a, b) => a + 2 ^ 30 + b * 2 ^ 32
      | none => 0)
  else if 0x1D8 ≤ off ∧ off < 0x1F8 then
    some (match m.trace.find (fabKey die inst + m.get R.FAB_TIDX_INDEX inst die) with
      | some b => ofBytes ((b.drop (off - 0x1D8)).take 8)
      | none => 0)
  else none

/-- Pages of a shelf and TQUSE of a TIER page (R259, R273); the shelf table is on instance 0 only. -/
def tierView (m : Mach) (q off : Nat) : Option Nat :=
  let t := m.get R.TIER_TQSEL_TENANT q
  match off with
  | 0x1F0 => some (m.tierUse t tierBed q % 2 ^ 32 + m.tierUse t tierFrame q % 2 ^ 32 * 2 ^ 32)
  | 0x1F8 => some (m.tierUse t tierShed q % 2 ^ 32 + m.pinnedUse t q % 2 ^ 32 * 2 ^ 32)
  | _ =>
    if 0x800 ≤ off ∧ off < 0xC00 then
      if q ≠ 0 then some 0
      else if off % 16 = 8 then
        some (putBits (m.reg (pageOff 12 .tier 0 + off)) 32 32 (m.shelfPages ((off - 0x800) / 16)).length)
      else none
    else none

/-- PIPE_STATUS (R345): for each pipe and hash engine, the messages suspended, whether it runs one, and whether that is urgent. -/
def pipeView (m : Mach) (q : Nat) : Nat :=
  (List.range 6).foldl (fun v p =>
    let x := m.pipe q p
    putBits v (8 * p) 8 (x.saved.length + x.run.isSome.toNat * 2 ^ 5 + (match x.run with | some c => c.urgent.toNat | none => 0) * 2 ^ 6)) 0

/-- LD n of an EP page (R453): what the LD is bound to and its state. -/
def ldView (m : Mach) (g n : Nat) : Nat :=
  let k := ldKey g n
  let v := m.reg (pageOff 12 .ep g + 0x100 + 8 * n)
  let v := match m.boundTo k with
    | some t => putBits (putBits v 16 11 t) 27 1 1
    | none => putBits v 16 12 0
  putBits v 28 3 (m.ldState k)

/-- A block-specific register, at an offset that is a multiple of 8. -/
def blockView (m : Mach) (die : Nat) (b : Block) (inst off : Nat) : Nat :=
  let r := m.reg (pageOff die b inst + off)
  match b with
  | .pkg => match off with
    | 0x100 => putBits r 10 1 m.degraded.toNat
    | 0x128 => m.readyView
    | 0x220 => m.ageView
    | _ => r
  | .clk => if decide (off = 0x100) == decide (die = 12) || recBase b ≤ off then r else 0
  | .tap => if die < 12 ∧ off < recBase b then 0 else r
  | .core => if off = 0x110 then m.coreView (32 * die + inst) else r
  | .msc => match off with
    | 0x118 => m.mscQuotaOf inst (m.get R.MSC_QSEL_TENANT inst)
    | 0x120 => m.mscUse inst (m.get R.MSC_QSEL_TENANT inst)
    | _ => r
  | .ten => (m.tenView off).getD r
  | .lant => (m.lantView off).getD r
  | .seed => (m.seedView off).getD r
  | .fab => (m.fabView die inst off).getD r
  | .tier => (m.tierView inst off).getD r
  | .rake => if off = 0x108 then putBits r 35 1 (m.hon R.HDR_STATUS_ENABLED .rake inst).toNat else r
  | .ciph => if off = 0x108 then m.pipeView inst else r
  | .pg =>
    if ((0x110 ≤ off ∧ off < 0x130) ∨ (0x130 ≤ off ∧ off < 0x150)) ∧ m.portExists (4 * inst + (off - 0x110) % 0x20 / 8) = false then 0 else r
  | .ep => if !m.isUpstream inst && off < recBase b then 0 else if 0x100 ≤ off ∧ off < 0x300 then m.ldView inst ((off - 0x100) / 8) else r
  | _ => r

/-- A register of a page that answers. -/
def pageView (m : Mach) (die : Nat) (b : Block) (inst off : Nat) : Nat :=
  if off = 0x10 then m.statusView die b inst
  else if off < 0x100 then m.reg (pageOff die b inst + off)
  else if m.hon R.HDR_STATUS_STRUCK b inst die then allOnes
  else m.blockView die b inst off

/-- The 64-bit register at an offset of the control region, as a source reads it. A refused read returns 0 and sets ACCESS;
an unpopulated page, a die that does not answer and a view that is not valid read as all ones. -/
def ctlRead (m : Mach) (src : Src) (k : Nat) : Mach × Nat :=
  let die := k / 0x1000000
  let inst := k / 0x1000 % 0x40
  let off := k % 0x1000 / 8 * 8
  match blockOfCode (k / 0x40000 % 0x40) with
  | none => (m, allOnes)
  | some b =>
    if !populated m.fuses die b inst then (m, allOnes)
    else if die < 12 ∧ !m.dieUp die then (m, allOnes)
    else
      let hi := isHigh src
      if die = 13 then
        if !m.on R.PKG_PARTNER_VIEW_VALID then (m, allOnes)
        else if !hi then (m, 0)
        else
          let k := pageOff 13 b inst + off
          (m, if off = 0 then putBits (m.reg k) 12 4 13 else match m.regs.find k with
            | some v => v.toNat
            | none => (Config.unseen k).toNat)
      else if !hi then (m.err ⟨b, 1⟩ sevCorrected inst die, 0)
      else (m, m.pageView die b inst off)

/-! ### Doorbell pages (R358) -/

/-- A register of the doorbell region, by its offset in the region. -/
def doorbellRead (m : Mach) (o : Nat) : Nat :=
  if (m.tenant (o / 0x1000)).kind = 1 then allOnes else m.doorbellGet (o / 0x1000) (o % 0x1000)

end Mach
end Sys2Proof.Machine
end

