-- ==== Sys2Proof/Machine/Control.lean ====
section
/-! DEFINITION. A write to control space (R5–R7, R37–R62, R86, R509, R546): field classes, the page header, and the registers
with an effect of their own, each of which calls what the command of its own row calls. -/
namespace Sys2Proof.Machine

/-- The error bits a page's ERR_STATUS defines, with their severities (R51, R204, R233, R274, R302, R344, R346, R377, R449,
R453, R487, R499, R510, R537). SLOT_UNCORRECTABLE stands at the severity it has when no slot of 0 to 15 is named. -/
def errBits (b : Block) : List (Nat × Nat) :=
  [(0, 0), (1, 0), (2, 0), (3, 2)] ++ match b with
  | .home => [(16, 0), (17, 3), (18, 3), (19, 3)]
  | .ddr => [(16, 2), (17, 2), (18, 2), (19, 3)]
  | .tier => [(16, 2), (17, 2), (18, 2), (19, 1)]
  | .codec => [(16, 2), (17, 2), (18, 2)]
  | .seed => [(16, 2), (17, 2), (18, 0)]
  | .ciph => [(16, 2), (17, 2)]
  | .ten => [(16, 2), (17, 0), (18, 2)]
  | .bulk => [(16, 2)]
  | .hyl => [(16, 3), (17, 0)]
  | .guy => [(16, 2), (17, 2)]
  | .pg => [(16, 2), (17, 2), (18, 2), (19, 2)]
  | .ep => [(16, 2), (17, 0)]
  | .fab => [(16, 0), (17, 1), (18, 3), (19, 2)]
  | .rake => [(16, 0), (17, 0), (18, 0)]
  | .lant => [(16, 2)]
  | .pkg => [(16, 3), (17, 2), (18, 2), (19, 0), (20, 3)]
  | _ => []

/-- Whether a row's register array has a member at an offset. -/
def FSpec.here (e : FSpec) (off : Nat) : Bool :=
  decide (e.f.off ≤ off) && (off == e.f.off ||
    (e.f.stride != 0 && (off - e.f.off) % e.f.stride == 0 && decide ((off - e.f.off) / e.f.stride < e.count)))

/-- What a store makes of a register: its new value, and whether it tried a Locked field or a reserved encoding. -/
structure NewReg where
  val : Nat
  locked : Bool
  reserved : Bool

namespace Mach

/-- Encodings a field reserves (R7, R10). -/
def reservedEnc (m : Mach) (die : Nat) (f : Fld) (v : Nat) : Bool :=
  if f = R.LANT_RING_SIZE_LOG2 then decide (v < 8) || decide (20 < v)
  else if f = R.TIER_LAYOUT_MAP_TIB then v == 0 || decide (64 < v)
  else if f = R.TIER_CMD_OP then decide (8 < v)
  else if f = R.TIER_CMD_TO_TIER then v == 3
  else if f = R.SEED_CMD_OP then decide (5 < v)
  else if f = R.SEED_CMD_ATTR_ALG then decide (4 < v)
  else if f = R.TEN_TCMD_OP then decide (6 < v)
  else if f = R.TEN_TCFG_KIND then v == 3
  else if f = R.TEN_QCFG_SIZE_LOG2 then decide (v < 6) || decide (16 < v)
  else if f = R.TEN_QCFG_NOTIFY then v == 3
  else if f = R.PG_CFG_MAX_RATE then decide (4 < v) || (v == 4 && m.fuses.code == 2)
  else if f = R.DDR_CONFIG_SPEED then v == 3 || (v == 2 && m.fuses.code == 2)
  else if f = R.DDR_MAP_WAYS then v == 0 || v == 3
  else if f = R.GUY_WIDTH_REQ then !([16, 12, 8, 4].contains v)
  else if f = R.FAB_PCFG_POINT then v == 3
  else if f = R.PMU_USEL_EVENT then v == 0 || decide ((if die < 12 then 8 else 12) < v)
  else false

/-- Bits of CLK's performance states that a package of 16 cores a die reserves (R11, R27). -/
def coreBits (m : Mach) (f : Fld) (v : Nat) : Nat := if f = R.CLK_PSTATE_REQ ∧ m.fuses.coresPerDie < 20 then v % 2 ^ 32 else v

/-- The new value of a register holding `old`, when bits [lo + w - 1 : lo] of v are stored (R5–R7, R54, R59). -/
def newReg (m : Mach) (die : Nat) (b : Block) (inst off old lo w v : Nat) : NewReg :=
  let merged := putBits old lo w (bitsOf v lo w)
  let wv := bitsOf v lo w * 2 ^ lo
  let enabled := m.enabledBlk die b inst
  ((fieldsOf b).filter (fun e => e.here off)).foldl (fun (r : NewReg) e =>
    let was := bitsOf old e.f.lo e.f.w
    let new := m.coreBits e.f (bitsOf merged e.f.lo e.f.w)
    match e.acc with
    | .rw =>
      if new = was then r
      else if m.reservedEnc die e.f new then { r with reserved := true }
      else if e.cls = .locked ∧ enabled = true then { r with locked := true }
      else { r with val := putBits r.val e.f.lo e.f.w new }
    | .w1c => { r with val := putBits r.val e.f.lo e.f.w (was - Nat.land was (bitsOf wv e.f.lo e.f.w)) }
    | _ => r) ⟨old, false, false⟩

/-! ### The page header -/

/-- A page's LOCKED_WRITE, ACCESS and RESERVED_ENC (R51): 0, 1, 2. -/
def hdrErr (m : Mach) (die : Nat) (b : Block) (inst cause : Nat) : Mach := m.err ⟨b, cause⟩ sevCorrected inst die

/-- The half of a pair whose other channel has failed, which is kept disabled (R229). -/
def keptOff (m : Mach) (b : Block) (inst : Nat) : Bool := b == .ddr && m.chanFailed (inst / 4 * 4 + (inst % 4 + 2) % 4)

/-- CONTROL.ENABLE (R48, R49, R62): a struck block cannot be enabled, nor the survivor of a failed pair; a Guyline port trains (R427), and the ring takes up its
replay (R508). -/
def setEnable (m : Mach) (b : Block) (inst : Nat) (on : Bool) : Mach :=
  if !hasEnable b || m.hon R.HDR_CONTROL_ENABLE b inst == on then m
  else if on then
    if m.hon R.HDR_STATUS_STRUCK b inst || m.keptOff b inst then m
    else
      let m := (m.hset R.HDR_CONTROL_ENABLE b 1 inst).hset R.HDR_STATUS_BUSY b 0 inst
      match b with
      | .guy => if m.on R.GUY_STATUS_UP inst then m else m.set R.GUY_STATUS_TRAINING 1 inst
      | .lant =>
        ({ m with lant := { m.lant with ringStopped := false, replaying := m.on R.LANT_STORE_STAT_UNREPLAYED } } : Mach).replay
      | _ => m
  else
    let m := m.hset R.HDR_CONTROL_ENABLE b 0 inst
    if m.hon R.HDR_STATUS_ENABLED b inst then m.hset R.HDR_STATUS_BUSY b 1 inst else m

/-- CONTROL.QUIESCE (R48). A Guyline port that takes new work again sends the records that waited for it. -/
def setQuiesce (m : Mach) (b : Block) (inst : Nat) (on : Bool) : Mach :=
  if hasEnable b then
    let m := m.hset R.HDR_CONTROL_QUIESCE b on.toNat inst
    if b = .guy ∧ on = false then m.sendStreams else m
  else m

/-- The block has started (R49). -/
def started (m : Mach) (b : Block) (inst : Nat) : Mach :=
  if !hasEnable b || !m.hon R.HDR_CONTROL_ENABLE b inst || m.hon R.HDR_STATUS_ENABLED b inst || m.hon R.HDR_STATUS_STRUCK b inst ||
      m.keptOff b inst || decide (m.mode < 2) then m
  else
    let m := (m.hset R.HDR_STATUS_ENABLED b 1 inst).hset R.HDR_STATUS_BUSY b 0 inst
    if b = .guy then m.hset R.HDR_STATUS_READY b 1 inst else m

/-- The ports of a disabled group or Guyline port go down. -/
def portsDown (m : Mach) (b : Block) (inst : Nat) : Mach :=
  match b with
  | .pg =>
    (List.range 4).foldl (fun m i =>
      let p := 4 * inst + i
      if !m.portUp p then m
      else if m.isUpstream inst then m.upstreamDown p
      else m.portDisable p) m
  | .guy =>
    let was := m.on R.GUY_STATUS_UP inst
    let old := m
    let m := ((m.set R.GUY_STATUS_UP 0 inst).set R.GUY_STATUS_ACTIVE 0 inst).set R.GUY_STATUS_TRAINING 0 inst
    let m := m.hset R.HDR_STATUS_READY .guy 0 inst
    if was then
      let m := (m.linkEvent .guy inst false 0 0).viewDown
      m.portChanged old true
    else m
  | _ => m

/-- The block has stopped (R49). -/
def stopped (m : Mach) (b : Block) (inst : Nat) : Mach :=
  if !hasEnable b || m.hon R.HDR_CONTROL_ENABLE b inst || !m.hon R.HDR_STATUS_ENABLED b inst || !m.workDone b inst then m
  else ((m.hset R.HDR_STATUS_ENABLED b 0 inst).hset R.HDR_STATUS_BUSY b 0 inst).portsDown b inst

/-- Offsets of a block's Shadowed registers. -/
def shadowedAt (b : Block) (off : Nat) : Bool := (fieldsOf b).any (fun e => decide (e.cls = .shadowed) && e.here off)

/-- COMMIT.GO (R56, R57). -/
def commitGo (m : Mach) (die : Nat) (b : Block) (inst : Nat) : Mach :=
  let page := pageOff die b inst
  let offs := (List.range 512).filter (fun i => shadowedAt b (8 * i))
  let m := offs.foldl (fun m i => { m with staged := m.staged.ins (page + 8 * i) (BitVec.ofNat 64 (m.reg (page + 8 * i))) }) m
  m.hset R.HDR_STATUS_COMMIT_PENDING b 1 inst die

/-- Whether R86 honours a block reset. -/
def resetHonoured (m : Mach) (die : Nat) (b : Block) (inst : Nat) : Bool :=
  if die = 12 ∧ (b = .pkg ∨ b = .mgmt ∨ b = .clk) then false
  else if hasEnable b then !m.hon R.HDR_STATUS_ENABLED b inst
  else m.mode == 11

/-- What a block reset keeps: as a cold reset does (R60), and on the MSC page the counts of the lines it goes on holding and what shows
the boot window, which WINDOW_RELEASE alone gives back (R176). -/
def keepReset (b : Block) (off : Nat) : Bool := keepCold b off || (b == .msc && (off == 0x108 || off == 0x130))

/-- A block reset (R60, R83, R86): every field of the page returns to its reset value. What describes the incident store and
DOMAIN stay (R83, R206), and a struck block stays struck (R62). A range set goes with TEN's page, the tenant contexts and their queues
stay (R83, log 13). -/
def blockReset (m : Mach) (die : Nat) (b : Block) (inst : Nat) : Mach :=
  if !m.resetHonoured die b inst then m.hdrErr die b inst 0
  else
    let page := pageOff die b inst
    let struck := m.hget R.HDR_STATUS_STRUCK b inst die
    let gone (k : Nat) : Bool := inPage page k && !keepReset b (k % 0x1000)
    let m : Mach := { m with
      regs := m.regs.keep (fun k _ => !gone k)
      active := m.active.keep (fun k _ => !inPage page k)
      staged := m.staged.keep (fun k _ => !inPage page k)
      err64 := m.err64.filter (· != page) }
    let m : Mach := match b with
      | .guy => { m with guys := m.guys.erase inst }
      | .pg => { m with pgDevs := m.pgDevs.keep (fun p _ => p / 4 != inst) }
      | .ep => { m with lds := m.lds.keep (fun k _ => k / 64 != inst) }
      | .l3 => { m with pruning := m.pruning.erase (die * 64 + inst) }
      | .msc => { m with mscQuota := m.mscQuota.keep (fun k _ => k / 2048 != inst) }
      | .lant => { m with lant := { m.lant with trings := [] } }
      | .ten => { m with rblocks := [], rstale := [], rfaults := [], rinv := [] }
      | .fab => { m with trace := m.trace.keep (fun i _ => i / 2048 != die * 4 + inst) }
      | _ => m
    m.hset R.HDR_STATUS_STRUCK b struck inst die

/-- Mark the errors raised since `old` as injected, at INJECT_ADDR (R509). -/
def markInjected (m : Mach) (old : Nat) : Mach :=
  let n := m.errs.length - old
  let addr := m.get R.LANT_INJECT_ADDR_ADDR
  { m with errs := (m.errs.take n).map (fun (e : ErrRec) => { e with injected := true, addr := some addr }) ++ m.errs.drop n }

/-- The lowest port of a group whose link is up. -/
def upPort (m : Mach) (g : Nat) : Option Nat := ((List.range 4).map (4 * g + ·)).find? (fun p => m.portExists p && m.portUp p)

/-- The started descriptor of a quadrant that an error falls on: the first of its queues that answers a description. -/
def hitDesc (m : Mach) (q : Nat) (p : Nat → Desc → Bool) : Option (Nat × Desc) :=
  m.queues.findSome? (fun x =>
    if x.2.quad = q then (x.2.run.find? (fun d => d.logged && !d.cancelled && p x.1 d)).map (fun d => (x.1, d)) else none)

/-- A codec buffer held unreadable data (R302): a promotion from an encoded source fails as R289 does, else a running stream descriptor
ends MALFORMED with REASON 15 (R303). -/
def bufferLost (m : Mach) (q : Nat) : Mach :=
  match m.moves.find? (fun x => x.1 / 64 == q && x.2.promote && x.2.phase == 1 && x.2.dstTier == tierBed && (x.2.srcTier == tierFrame || x.2.srcCmp)) with
  | some (k, v) => ((m.restoreDone v).dropPromotion k v stStable).markFailed v.page
  | none =>
    match m.hitDesc q (fun _ d => opsStream.contains d.op && d.status == 0) with
    | none => m
    | some (n, d) =>
      let m := m.streamErr q ((m.queueOwner n).getD 0) d 15 0
      m.modRun n d.seq (fun d => { d with status := 7, info := infoWord 0 0 0 0 0 15 })

/-- Pipe state or a verify buffer cannot be read: the first message that runs in a pipe ends as a tag failure (R306, R307, R346). -/
def pipeLost (m : Mach) (q : Nat) : Mach :=
  match (List.range 6).findSome? (fun p => (m.pipe q p).run) with
  | none => m.add R.CIPH_AUTH_FAIL_PRIVILEGED 1 q
  | some c => (m.modRun c.queue c.seq (fun d => { d with status := 0x0C, untrusted := true, info := 0 })).add R.CIPH_AUTH_FAIL_ORDINARY 1 q

/-- One injected error, with what its chapter does on it beyond the error paths; the object it falls on is the one INJECT_ADDR or the
block names, else the first that such an error could fall on, and no data changes (R53, R509, log 14). -/
def injectOne (m : Mach) (die : Nat) (b : Block) (inst bit sev : Nat) : Mach :=
  let n := m.errs.length
  let plain (m : Mach) : Mach := m.err ⟨b, bit⟩ sev inst die
  let sev := if b = .ddr ∧ bit = 17 ∧ m.mode = 2 ∧ 3 ≤ m.get R.PKG_RESET_CAUSE_LAST then sevFatal else sev
  let m := match b, bit with
    | .guy, 16 => if m.guyUp inst then m.guyDown inst else m.err ⟨.guy, 16⟩ sev inst
    | .seed, 16 => ((m.set R.SEED_DRBG_HEALTHY 0).addSat R.SEED_DRBG_FAILS 1).err ⟨.seed, 16⟩ sev
    | .hyl, 16 => if die = 12 ∧ m.on R.HYL_LINK_STATUS_UP inst then m.hylDown inst 0 else m.err ⟨.hyl, 16⟩ sev inst die
    | .lant, 16 => ({ m with lant := { m.lant with ringStopped := true } } : Mach).err ⟨.lant, 16⟩ sev
    | .pg, 18 =>
      match m.upPort inst with
      | some p => if m.isUpstream inst then plain m else m.portLost p true
      | none => plain m
    | .pg, 17 =>
      match m.devq.findSome? (fun (d : DevMsg) => if d.k = 2 then none else d.port.bind (fun p => if p / 4 = inst ∧ p < 64 then some p else none)) with
      | some p => m.timedOut (.device (Fin.ofNat 64 p))
      | none => plain m
    | .ep, 16 =>
      match m.upPort inst with
      | some p => (plain (m.add R.EP_RESETS_SURPRISE 1 inst)).upstreamDown p
      | none => plain m
    | .ddr, 17 => if sev = sevFatal then plain m else m.trainFail inst (m.get R.DDR_TRAIN_FAIL_RANKS inst)
    | .codec, 18 => (plain m).bufferLost inst
    | .ciph, 16 => (plain m).pipeLost inst
    | .ten, 18 =>
      let t := m.get R.LANT_INJECT_ADDR_ADDR % 2 ^ 11
      if (m.tenant t).state = 1 then (plain m).beginReset t false else plain m
    | .bulk, 16 =>
      match m.hitDesc inst (fun _ d => d.status == 0) with
      | some (q, d) => (plain m).modRun q d.seq (fun d => { d with status := 0x10, info := 0 })
      | none => plain m
    | .pkg, 16 => ({ m with pins := { m.pins with thermtripN := false } } : Mach).err ⟨.pkg, 16⟩ sev
    | _, _ => plain m
  m.markInjected n

/-- ERR_INJECT (R53, R509). -/
def inject (m : Mach) (die : Nat) (b : Block) (inst v : Nat) : Mach :=
  let en := m.on R.LANT_INJECT_EN
  let ok (sev : Nat) : Bool := m.mode == 11 || (en && (sev != 3 || m.on R.LANT_INJECT_FATAL_OK))
  let hit := (errBits b).filter (fun e => bitsOf v e.1 1 == 1)
  if m.mode ≠ 11 ∧ !en then m.hdrErr die b inst 1
  else
    let m' := (hit.filter (fun e => ok e.2)).foldl (fun m e => m.injectOne die b inst e.1 e.2) m
    if hit.all (fun e => ok e.2) then m' else m'.hdrErr die b inst 1

/-- A store to a header register (R43). `v` holds the stored bits in place. -/
def headerWrite (m : Mach) (die : Nat) (b : Block) (inst off lo w v : Nat) : Mach :=
  let page := pageOff die b inst
  let wv := bitsOf v lo w * 2 ^ lo
  match off with
  | 0x18 =>
    if lo ≠ 0 then m
    else
      let m := if die = 12 then (m.setEnable b inst (bitsOf wv 0 1 == 1)).setQuiesce b inst (bitsOf wv 1 1 == 1) else m
      if bitsOf wv 2 1 = 1 then m.blockReset die b inst else m
  | 0x20 => if bitsOf wv 1 1 = 1 then m.commitCancel die b inst else if bitsOf wv 0 1 = 1 then m.commitGo die b inst else m
  | 0x28 => m.setReg (page + 0x28) (m.reg (page + 0x28) - Nat.land (m.reg (page + 0x28)) wv)
  | 0x30 =>
    let all := (errBits b).foldl (fun a e => a + 2 ^ e.1) 0
    m.setReg (page + 0x30) (Nat.land all (putBits (m.reg (page + 0x30)) lo w (bitsOf v lo w)))
  | 0x38 => m.inject die b inst wv
  | _ => m

/-! ### Registers held elsewhere, and registers with an effect -/

/-- Registers whose value the state holds elsewhere and that software writes. -/
def isWindow (b : Block) (off : Nat) : Bool :=
  match b with
  | .ten => (decide (0x408 ≤ off) && decide (off ≤ 0x428)) || (decide (0x900 ≤ off) && decide (off < 0xA00))
  | .lant => off == 0x130
  | .seed => off == 0x118
  | .msc => off == 0x118
  | _ => false

/-- Write a range block through its window (R151, R153). -/
def rangeWrite (m : Mach) (off v : Nat) : Mach :=
  let set := m.get R.TEN_RSET_SEL_SET
  let n := (off - 0x900) / 32
  let b := m.rblock set n
  let b : RBlock := match off % 32 with
    | 0 => { b with v := bitsOf v 0 1 == 1, r := bitsOf v 1 1 == 1, w := bitsOf v 2 1 == 1, base := bitsOf v 21 27 * 2 ^ 21 }
    | 8 => { b with target := bitsOf v 21 27 * 2 ^ 21 }
    | 0x10 => { b with unitsM1 := bitsOf v 0 25 }
    | _ => b
  (m.putBlock set n b).mirrorRange set n

/-- Write a register of the queue window (R359): ignored with QUEUE_BUSY while the queue is not Off. -/
def queueWrite (m : Mach) (off v : Nat) : Mach :=
  let n := m.get R.TEN_QSEL_QUEUE
  let q := m.queue n
  if q.state ≠ 0 then m.err E.TEN_QUEUE_BUSY sevCorrected
  else
    let q : Queue := match off with
      | 0x408 => { q with cfg := v }
      | 0x410 => { q with sq := v }
      | 0x418 => { q with cq := v }
      | 0x420 => { q with acc := v }
      | _ => { q with log := v }
    (m.setQueue n q).mirrorQueue n

/-- Put a register's new value where it is held. -/
def storeReg (m : Mach) (die : Nat) (b : Block) (inst off v : Nat) : Mach :=
  if isWindow b off then
    match b with
    | .ten => if off < 0x900 then m.queueWrite off v else m.rangeWrite off v
    | .lant =>
      let t := m.get R.LANT_TRING_SEL_TENANT
      { m with lant := { m.lant with trings := m.lant.trings.ins t { m.tring t with en := bitsOf v 0 1 == 1, base := bitsOf v 12 36 * 4096 } } }
    | .seed =>
      let n := m.get R.SEED_SLOT_SEL_SLOT
      if (m.slot n).state = 4 then m else m.setSlot n { m.slot n with limit := v }
    | _ => { m with mscQuota := m.mscQuota.put (inst * 2048 + m.get R.MSC_QSEL_TENANT inst) v 0x40000 }
  else m.setReg (pageOff die b inst + off) v

/-- WINDOW_RELEASE (R93, R176): the window is emptied and its ways return to the cache. -/
def windowRelease (m : Mach) : Mach :=
  let m : Mach := { m with wr := ((m.base ++ m.wr).filter (fun c => decide (2 ^ 48 ≤ c.1) && c.2 != 0)).map (fun c => (c.1, 0)) ++ m.wr }
  (m.set R.PKG_BOOT_WINDOW_VALID 0).set R.MSC_WINDOW_BOOTWAYS 0

/-- Clear FIRST, LATEST and OVERFLOW of a page (R491). -/
def clearRecords (m : Mach) (die : Nat) (b : Block) (inst : Nat) : Mach :=
  let page := pageOff die b inst
  let m := forN 9 (fun i m => m.setReg (page + recBase b + 8 * i) 0) m
  { m with err64 := m.err64.filter (· != page) }

/-- Ports a new SPLIT creates start from reset values (R440). -/
def newPorts (m : Mach) (inst oldSplit : Nat) : Mach :=
  let old := m.set R.PG_CFG_SPLIT oldSplit inst
  (List.range 4).foldl (fun m i =>
    let p := 4 * inst + i
    if m.portExists p && !old.portExists p then
      let page := pageOff 12 .pg inst
      let gone (k : Nat) : Bool := k == page + 0x110 + 8 * i || k == page + 0x130 + 8 * i
      { m with
        regs := m.regs.keep (fun k _ => !gone k)
        active := m.active.keep (fun k _ => !gone k)
        staged := m.staged.keep (fun k _ => !gone k)
        pgDevs := m.pgDevs.erase p }
    else m) m

/-- Actions of PKG's registers. -/
def pkgAction (m : Mach) (off lo wv old new : Nat) : Mach :=
  let bit (i : Nat) : Bool := bitsOf wv i 1 == 1
  match off with
  | 0x108 => if lo = 0 then m.modeReq (bitsOf wv 0 4) else m
  | 0x118 => (m.set R.PKG_DIE_CTL_PARK (bitsOf old 24 12)).dieCtl (bitsOf wv 0 12) (bitsOf wv 12 12) (bitsOf new 24 12)
  | 0x138 => if bit 7 then m.windowRelease else m
  | 0x300 =>
    let m := if bit 1 then m.formStart else m
    let m := if bit 2 then m.unpairStart else m
    let m := if bit 3 then m.decide_ else m
    if bit 4 then m.handbackStart else m
  | _ => m

/-- Actions of TEN's registers. -/
def tenAction (m : Mach) (off lo wv : Nat) : Mach :=
  match off with
  | 0x100 => if lo = 0 then m.showTenant (m.get R.TEN_TSEL_TENANT) else m
  | 0x108 => if bitsOf wv 4 1 = 1 then m.tenGo.settle else m
  | 0x430 =>
    let n := m.get R.TEN_QSEL_QUEUE
    match bitsOf wv 0 2 with
    | 1 => m.queueStart n
    | 2 => m.queueStop n
    | 3 => m.hdrErr 12 .ten 0 2
    | _ => m
  | 0x808 => if bitsOf wv 0 1 = 1 then m.rangeInv else m
  | 0x818 => if bitsOf wv 0 1 = 1 then { m with rfaults := m.rfaults.erase (m.get R.TEN_RSET_SEL_SET) } else m
  | _ => m

/-- What a store to a register does beyond its fields, where it reaches the field that acts (log 84); `wv` holds the stored bits in place, the others 0. -/
def regAction (m : Mach) (die : Nat) (b : Block) (inst off lo wv old new : Nat) : Mach :=
  let bit (i : Nat) : Bool := bitsOf wv i 1 == 1
  if off = recBase b ∧ bit 0 then m.clearRecords die b inst
  else match b with
  | .pkg => m.pkgAction off lo wv old new
  | .ten => m.tenAction off lo wv
  | .lant => match off with
    | 0x110 => m.replay
    | 0x168 => if bit 0 then m.alertClear else m
    | 0x1A8 =>
      let m := if bit 0 then m.emptyBank 0 else m
      let m := if bit 1 then m.emptyBank 1 else m
      if bit 2 then m.clearGeneral else m
    | _ => m
  | .core => match off with
    | 0x100 => if bit 0 then m.releaseCore (32 * die + inst) (m.get R.CORE_ENTRY_ADDR inst die * 4) else m
    | 0x118 => m.setIpend (32 * die + inst) wv true
    | _ => m
  | .l3 => if off = 0x108 ∧ lo = 0 then m.pruneReq die inst new else m
  | .fab =>
    if 0x140 ≤ off ∧ off < 0x1C0 ∧ off % 32 = 0 ∧ bitsOf old 7 1 = 0 ∧ bitsOf new 7 1 = 1 then
      m.set (R.FAB_PCOUNT_COUNT.at ((off - 0x140) / 32)) 0 inst die
    else if off = 0x1C0 ∧ bit 2 then m.traceClear die inst
    else m
  | .home => if off = 0x118 ∧ bit 11 then m.sweepGo inst (m.get R.HOME_SWEEP_TENANT inst) else m
  | .ddr => if off = 0x138 then m.eraseReq inst wv else m
  | .tier =>
    if off = 0x1D0 ∧ bit 4 then (m.tierGo inst).settle
    else if 0x800 ≤ off ∧ off < 0xC00 ∧ off % 16 = 0 ∧ inst = 0 then
      let n := (off - 0x800) / 16
      let m := if bit 16 then (m.strike n true).settle else m
      let m := if bit 17 then (m.strike n false).settle else m
      if bit 18 then m.shelfRelease n else m
    else m
  | .codec => if off = 0x198 ∧ bit 0 then m.setReg (pageOff 12 .codec inst + 0x198) 0 else m
  | .seed => match off with
    | 0x130 => if bit 4 then m.seedGo.settle else m
    | 0x150 => if bit 0 then m.memrotStart true else m
    | 0x1C0 => if bit 0 then (m.shedrotStart true).settle else m
    | _ => m
  | .guy =>
    if off = 0x110 ∧ lo = 0 then
      let m := m.widthWanted inst (bitsOf new 0 5)
      if bit 5 then m.retrainWanted inst else m
    else m
  | .pg =>
    if off = 0x100 then m.newPorts inst (bitsOf old 1 2)
    else if 0x130 ≤ off ∧ off < 0x150 then
      let p := 4 * inst + (off - 0x130) / 8
      let m := if bit 17 then m.portSet R.PG_PORT_STATUS_CONTAINED p 0 else m
      let m := if bitsOf new 18 1 = 1 then m.portDisable p else m
      if bit 19 && m.portUp p then m.setPg p { m.pgPort p with retrain := true } else m
    else if off = 0x280 ∧ bit 7 then
      (if m.on R.PG_SHELF_PITCH_BUSY inst then m else m.pitchStart inst (m.get R.PG_SHELF_PITCH_SHELF inst) (m.on R.PG_SHELF_PITCH_FORMAT inst))
    else m
  | .ep =>
    if 0x100 ≤ off ∧ off < 0x300 then
      if bit 31 then m.ldRelease (ldKey inst ((off - 0x100) / 8)) else m
    else m
  | _ => m

/-- Registers a page does not have or ignores writes to now: those of the other kind of die (R24–R27, R540), the shelf table on
instances 1 to 3 (R259), ports a SPLIT does not create (R440). -/
def noReg (m : Mach) (die : Nat) (b : Block) (inst off : Nat) : Bool :=
  match b with
  | .clk => decide (off ≠ 0x100 ∧ die = 12 ∨ off = 0x100 ∧ die < 12) && decide (off < recBase b)
  | .tap => decide (die < 12) && decide (off < recBase b)
  | .tier => decide (inst ≠ 0) && decide (0x800 ≤ off) && decide (off < 0xC00)
  | .pg => decide (0x110 ≤ off) && decide (off < 0x150) && !m.portExists (4 * inst + (off - 0x110) % 0x20 / 8)
  | _ => false

/-- A store to a block-specific register. -/
def blockWrite (m : Mach) (die : Nat) (b : Block) (inst off lo w v : Nat) : Mach :=
  if m.noReg die b inst off then m
  else if b = .pkg ∧ 0x318 ≤ off ∧ off ≤ 0x328 ∧ m.pairState ≠ 0 then m.hdrErr die b inst 0
  else
    let old := if isWindow b off then m.blockView die b inst off else m.reg (pageOff die b inst + off)
    let r := m.newReg die b inst off old lo w v
    let m := if r.val = old ∧ !(isWindow b off) then m else m.storeReg die b inst off r.val
    let m := m.regAction die b inst off lo (bitsOf v lo w * 2 ^ lo) old r.val
    let m := if r.locked then m.hdrErr die b inst 0 else m
    if r.reserved then m.hdrErr die b inst 2 else m

/-- A store of bits [lo + w - 1 : lo] of v to the register at an offset of the control region (R36–R41, R61, R62). -/
def ctlWrite (m : Mach) (src : Src) (k lo w v : Nat) : Mach :=
  let die := k / 0x1000000 % 16
  let inst := k / 0x1000 % 0x40
  let off := k % 0x1000 / 8 * 8
  match blockOfCode (k / 0x40000 % 0x40) with
  | none => m
  | some b =>
    match m.writable src ⟨Fin.ofNat 16 die, b, Fin.ofNat 64 inst⟩ (decide (off < 0x100)) with
    | (m, false) => m
    | (m, true) => if off < 0x100 then m.headerWrite die b inst off lo w v else m.blockWrite die b inst off lo w v

/-- A write to a header register with a row of its own. -/
def headed (m : Mach) (src : Src) (p : PageId) (f : Mach → Mach) : Mach :=
  match m.writable src p true with
  | (m, true) => f m
  | (m, false) => m

/-- A page of the I/O die that is populated. -/
def iodPage (m : Mach) (p : PageId) (f : Mach → Mach) : Mach :=
  if p.die.val = 12 ∧ populated m.fuses 12 p.blk p.inst.val = true ∧ m.mode ≠ 0 then f m else m

end Mach

open Mach

/-- R54, R126: a write to a control-space register, or to a system register of a core. -/
def execRegisterWrite (src : Src) (target : RegTarget) (half : Half) (value : Word) (s : State) : Out :=
  s.cmd (fun m => match target with
    | .control addr =>
      let (lo, w) := match half with
        | .whole => (0, 64)
        | .low => (0, 32)
        | .high => (32, 32)
      if addr.toNat % 8 = 0 then m.ctlWrite src addr.toNat lo w value.toNat else m
    | .system cid sreg => m.issue cid (fun c m =>
      let n := sreg.toNat
      if sregKnown n && decide (writeLevel n ≤ (m.core c).pl) then m.writeSreg c n value.toNat else m))

/-- R48, R49: CONTROL.ENABLE is written 1. -/
def execBlockEnable (src : Src) (page : PageId) (s : State) : Out :=
  s.cmd (fun m => m.headed src page (fun m => if page.die.val = 12 then m.setEnable page.blk page.inst.val true else m))

/-- R48, R49: CONTROL.ENABLE is written 0. -/
def execBlockDisable (src : Src) (page : PageId) (s : State) : Out :=
  s.cmd (fun m => m.headed src page (fun m => if page.die.val = 12 then m.setEnable page.blk page.inst.val false else m))

/-- R48: CONTROL.QUIESCE. -/
def execQuiesce (src : Src) (page : PageId) (value : Bool) (s : State) : Out :=
  s.cmd (fun m => m.headed src page (fun m => if page.die.val = 12 then m.setQuiesce page.blk page.inst.val value else m))

/-- R49: the block has started. -/
def execBlockStarted (page : PageId) (s : State) : Out := s.cmd (fun m => m.iodPage page (fun m => m.started page.blk page.inst.val))

/-- R49: the block has stopped. -/
def execBlockStopped (page : PageId) (s : State) : Out := s.cmd (fun m => m.iodPage page (fun m => m.stopped page.blk page.inst.val))

/-- R60, R86: CONTROL.RESET. -/
def execBlockReset (src : Src) (page : PageId) (s : State) : Out :=
  s.cmd (fun m => m.headed src page (fun m => m.blockReset page.die.val page.blk page.inst.val))

/-- R56: COMMIT.GO. -/
def execCommitGo (src : Src) (page : PageId) (s : State) : Out :=
  s.cmd (fun m => m.headed src page (fun m => m.commitGo page.die.val page.blk page.inst.val))

/-- R57: COMMIT.CANCEL. -/
def execCommitCancel (src : Src) (page : PageId) (s : State) : Out :=
  s.cmd (fun m => m.headed src page (fun m => m.commitCancel page.die.val page.blk page.inst.val))

/-- R56, R58: a page reaches its safe point. An enabled CORE, GUY, PG or EP page has none of its own: its safe points are exception
entries and returns (R58), the ends of its windows (R433) and the retrains of its group's links. -/
def execSafePointApply (page : PageId) (s : State) : Out :=
  s.cmd (fun m =>
    let die := page.die.val
    if populated m.fuses die page.blk page.inst.val = true ∧ m.mode ≠ 0 ∧ (die = 12 ∨ m.dieUp die = true) ∧
        ¬(m.enabledBlk die page.blk page.inst.val = true ∧ page.blk ∈ [Block.core, .guy, .pg, .ep]) then
      m.safePoint die page.blk page.inst.val
    else m)

/-- R53, R509: ERR_INJECT. -/
def execErrorInject (src : Src) (page : PageId) (value : Word) (s : State) : Out :=
  s.cmd (fun m => m.headed src page (fun m => m.inject page.die.val page.blk page.inst.val value.toNat))

end Sys2Proof.Machine
end

