-- ==== Sys2Proof/Machine/Bringup.lean ====
section
/-! DEFINITION. The root clock (R20–R29, R547), performance states, resets and mode requests (R69–R95), dies pitched, parked and
restarted (R78–R82), and the steps of bring-up (R91–R94, R228, R231, R309, R349, R416, R549). -/
namespace Sys2Proof.Machine
namespace Mach

/-! ### The root clock -/

/-- REFCLK or the root PLL's lock is lost (R23, R24). The monitor is armed from BRINGUP on; a REFCLK already lost, and a PLL without
lock, are not lost again. The error's CAUSE has no number in the spec, so it is a free one among those without an ERR_STATUS bit. -/
def refclkLoss (m : Mach) (noEdge : Bool) : Mach :=
  if m.mode < 2 ∨ (noEdge = true ∧ m.on R.CLK_ROOT_STATUS_HOLDOVER = true ∧ m.on R.CLK_ROOT_STATUS_REFCLK_OK = false) ∨
      (noEdge = false ∧ m.on R.CLK_ROOT_STATUS_LOCKED = false) then m
  else
    let m := (m.set R.CLK_ROOT_STATUS_HOLDOVER 1).set R.CLK_ROOT_STATUS_LOCKED 0
    let m := if noEdge then (m.set R.CLK_ROOT_STATUS_REFCLK_OK 0).addSat R.CLK_ROOT_STATUS_LOSS_COUNT 1 else m
    let (m, v) := m.selfRefresh.fresh
    ({ m with fcause := 3 } : Mach).errCause .clk (64 + v.toNat % 192) sevFatal 0 12 none 0

/-- The root PLL is locked to REFCLK, and the management controller runs on PCLK (R22). -/
def locked (m : Mach) : Mach :=
  let m := ((m.set R.CLK_ROOT_STATUS_LOCKED 1).set R.CLK_ROOT_STATUS_REFCLK_OK 1).set R.CLK_ROOT_STATUS_HOLDOVER 0
  { m with onPclk := true }

/-- READY of the I/O die's blocks that run from PCLK alone. The management controller's own waits for its firmware (R89). -/
def pclkReady (m : Mach) : Mach :=
  let m := [Block.pkg, .clk, .tap, .lant].foldl (fun m b => m.hset R.HDR_STATUS_READY b 1) m
  (List.range 4).foldl (fun m i => (m.hset R.HDR_STATUS_READY .pmu 1 i).hset R.HDR_STATUS_READY .fab 1 i) m

/-- ENABLE and STATUS.ENABLED and READY of a block the management controller releases (R91, R546). -/
def release (m : Mach) (b : Block) (inst : Nat) : Mach :=
  ((m.hset R.HDR_CONTROL_ENABLE b 1 inst).hset R.HDR_STATUS_ENABLED b 1 inst).hset R.HDR_STATUS_READY b 1 inst

/-- Step 1 of R91 ends. -/
def pllLock (m : Mach) : Mach :=
  if m.mode = 2 ∧ m.bring = 1 then { m.locked.pclkReady with bring := 2 } else m

/-! ### Bring-up, steps 2 to 5 of R91 -/

/-- BRINGUP begins (R73): both pins are high, and the monitor of R23 is armed. -/
def bringupStart (m : Mach) : Mach :=
  if m.mode ≠ 1 ∨ (m.pins.pwrgood ∧ m.pins.pkgResetN) then m
  else
    let m : Mach := { m with pins := { m.pins with pwrgood := true, pkgResetN := true, pairFenceOut := false } }
    let m : Mach := { m.enterMode 2 with bring := 1, railsLost := [] }
    m.replaySideband

/-- WARMRESET's re-initialisation ends (R73, R547): bring-up goes on at step 5 of R91. PAIR_FENCE_OUT is
deasserted in BRINGUP and FENCE_OUT follows it (R95, R390), but for a Winner's, which stays low (R408, log 87). -/
def warmReinit (m : Mach) : Mach :=
  if m.mode ≠ 10 ∨ m.on R.CLK_ROOT_STATUS_HOLDOVER then m
  else
    let m : Mach := { m.enterMode 2 with bring := 5, onPclk := true }
    let m : Mach := if m.pairState = 5 then m else { m.set R.PKG_PAIR_STATE_FENCE_OUT 0 with pins := { m.pins with pairFenceOut := false } }
    (m.pclkReady.release .ciph 0).loseShelves.replaySideband

/-- Step 2 of R91 (R309); step 3 starts, which takes back a former failure (R92). The DRBG has passed its tests; after a failed one
the store does not become READY (R330). -/
def seedStart (m : Mach) : Mach :=
  if m.mode ≠ 2 ∨ m.bring ≠ 2 ∨ m.get R.SEED_DRBG_FAILS ≠ 0 then m
  else
    let m := (m.set R.SEED_DRBG_HEALTHY 1).loadFused.seedInit.hset R.HDR_STATUS_READY .seed 1
    let m := ((m.release .ciph 0).set R.PKG_BOOT_FW_FAIL 0).set R.PKG_BOOT_BOOT_FAIL 0
    let m : Mach := { m with bring := 3, pins := { m.pins with fatalN := true } }
    m.set R.LANT_ALARM_FATAL 0

/-- Both copies of an image have failed (R92): nothing further is released, FATAL_N is asserted, and a record on the sideband reports
it, whose type, source and detail the spec does not give (log 89). -/
def imageFail (m : Mach) (f : Fld) : Mach :=
  let m := m.set f 1
  let m : Mach := { m with bring := 0, pins := { m.pins with fatalN := false } }
  let (m, seq) := (m.set R.LANT_ALARM_FATAL 1).takeSeq
  let (m, t) := m.fresh
  let (m, v) := m.fresh
  m.toSideband ⟨t.toNat % 2 ^ 16, 0, 3, false, false, false, false, t.toNat / 2 ^ 16 % 2 ^ 8, seq, m.time, t.toNat / 2 ^ 24 % 2 ^ 16, none, 1,
    t.toNat / 2 ^ 40, v.toNat⟩

/-- A chunk opened under the fused verification key: its bytes, none where the tag fails (R92). Which bytes of a copy are its IV, and what
else the tag covers, the spec does not give: the IV comes with the chunk and nothing else is covered (log 70). -/
def fwOpen (m : Mach) (c : Chunk) : Option (List Byte) :=
  let key := Crypto.ofB (m.slot 0).key
  let iv := Crypto.leBytes 12 c.iv.toNat
  let ct := Crypto.ofB c.cipher
  if Crypto.toBytes (Crypto.gcmTag key iv [] ct) ≠ c.tag then none else some (Crypto.toBytes (Crypto.gcmCrypt key iv ct))

/-- The chunks of a copy go through the FWVERIFY channel of Q0 in turn, up to the first whose tag fails, which rejects the copy
(R92, R305, R333, R345); one over 64 KiB is refused before any of it is processed (R306). The bytes of all of them, none for a
rejected copy. -/
def fwVerify (m : Mach) : List Chunk → Mach × Option (List Byte)
  | [] => (m, some [])
  | c :: r =>
    if 65536 < c.cipher.length then (m.err E.CIPH_PRIV_TOO_LONG sevContained 0, none)
    else
      let n := (m.useSlot 0 1).privDone 0 1 c.cipher.length
      match m.fwOpen c with
      | none => (n.add R.CIPH_AUTH_FAIL_PRIVILEGED 1, none)
      | some b => match fwVerify n r with
        | (n, some x) => (n, some (b ++ x))
        | (n, none) => (n, none)

/-- A copy whose header names a major version other than 1 is refused before its chunks are verified (R30, R92). -/
def fwCopy (m : Mach) (major : Byte) (chunks : List Chunk) : Mach × Option (List Byte) :=
  if major = 1 then m.fwVerify chunks else (m, none)

/-- A write of the configuration record to a page's CONTROL: an enable, which takes effect at step 6 (R427). -/
def isControl (k : BitVec 28) : Bool := k.toNat % 0x1000 == 0x18

/-- Apply writes of the configuration record. -/
def applyConfig (m : Mach) (c : List (BitVec 28 × Word)) : Mach :=
  c.foldl (fun m e => m.ctlWrite .mc (e.1.toNat / 8 * 8) 0 64 e.2.toNat) m

/-- Steps 3 and 4 of R91: a copy of the management controller's image is verified (R92). -/
def mcImage (m : Mach) (copyB : Bool) (major : Byte) (chunks : List Chunk) (version : Nat) (config : List (BitVec 28 × Word)) : Mach :=
  if m.mode ≠ 2 ∨ m.bring ≠ (if copyB then 13 else 3) then m
  else match m.fwCopy major chunks with
    | (m, some _) =>
      let m := (m.set R.PKG_BOOT_FW_SLOT copyB.toNat).set R.PKG_BOOT_FW_VERSION version
      let m : Mach := { m.hset R.HDR_STATUS_READY .mgmt 1 with config := config, bring := 5 }
      m.applyConfig (config.filter (fun e => !isControl e.1))
    | (m, none) => if copyB then m.imageFail R.PKG_BOOT_FW_FAIL else { m with bring := 13 }

/-! ### Step 6 of R91 -/

/-- All blocks are released together: the coherence version is selected (R31), the modules train, and each block reports
READY on its own. A warm start skips step 4, so of the record only the enables are written again (R427, R546). -/
def releaseAll (m : Mach) : Mach :=
  let warm := decide (3 ≤ m.get R.PKG_RESET_CAUSE_LAST)
  let ver := if m.fuses.iodRev = 2 ∧ m.on R.PKG_COMPAT_FORCE_H1 = false then 2 else 1
  let m := m.set R.PKG_COMPAT_COH_VER ver
  let m := (List.range 4).foldl (fun m q =>
    let m := (m.hset R.HDR_STATUS_READY .home 1 q).hset R.HDR_STATUS_READY .msc 1 q
    [Block.tier, .codec, .bulk, .ciph].foldl (fun m b => m.setEnable b q true) (m.release .rake q)) m
  let m := (List.range 16).foldl (fun m g => (m.setEnable .pg g true).setEnable .ddr g true) m
  let m := (List.range 12).foldl (fun m k => m.hset R.HDR_STATUS_READY .hyl 1 k) m
  let m := (List.range 12).foldl (fun m k => if warm && m.on (R.PKG_STRUCK_MASK_DIES.bit k) then m else m.trainDie k) m
  ({ m with bring := 6 } : Mach).applyConfig (m.config.filter (fun e => isControl e.1))

/-- Step 5 of R91: a copy of the boot firmware image is verified and placed in the boot window (R93). -/
def bootImage (m : Mach) (copyB : Bool) (major : Byte) (chunks : List Chunk) : Mach :=
  if m.mode ≠ 2 ∨ m.bring ≠ (if copyB then 15 else 5) then m
  else match m.fwCopy major chunks with
    | (m, some image) =>
      let m := m.windowRelease.setBytes (2 ^ 48) (image.take (2 ^ 22))
      let m := ((m.set R.PKG_BOOT_WINDOW_VALID 1).set R.PKG_BOOT_BOOT_SLOT copyB.toNat).set R.MSC_WINDOW_BOOTWAYS 1
      m.releaseAll
    | (m, none) => if copyB then m.imageFail R.PKG_BOOT_BOOT_FAIL else { m with bring := 15 }

/-! ### Compute dies -/

/-- A module's training fails, or R31 refuses its die: the die stays struck, with the cause on its HYL page, and a LINK event
names it (R80, R416, R420, R421, R501, log 46). The module itself is not struck on its own (log 83). -/
def trainRefused (m : Mach) (k cause : Nat) : Mach :=
  let m := ((m.set R.HYL_LINK_STATUS_TRAINING 0 k).set R.HYL_LINK_STATUS_FAIL_CAUSE cause k).setDieOp k 0
  (m.set (R.PKG_STRUCK_MASK_DIES.bit k) 1).linkEvent .hyl k false cause 0

/-- A module has trained. More than four repaired lanes in a direction are beyond repair (R415). -/
def hylTrained (m : Mach) (k : Nat) : TrainResult → Mach
  | .failed .noModule => m.trainRefused k 1
  | .failed .repair => m.trainRefused k 2
  | .failed .fwdClock => m.trainRefused k 4
  | .trained rev h1 h2 tx rx =>
    if 4 < tx.val ∨ 4 < rx.val then m.trainRefused k 2
    else
      let m := m.set R.PKG_DIEREV_CDREV (putBits (m.get R.PKG_DIEREV_CDREV) (4 * k) 4 rev.toNat)
      let ver := m.get R.PKG_COMPAT_COH_VER
      if (if ver = 2 then h2 else h1) then
        let m := ((m.set R.HYL_LINK_STATUS_TRAINING 0 k).set R.HYL_LINK_STATUS_UP 1 k).set R.HYL_LINK_STATUS_VERSION ver k
        let m := ((m.set R.HYL_LINK_STATUS_FAIL_CAUSE 0 k).set R.HYL_LINK_STATUS_SPARES_TX tx.val k).set R.HYL_LINK_STATUS_SPARES_RX rx.val k
        let m := if tx.val + rx.val = 0 then m else m.err E.HYL_REPAIRED sevCorrected k
        m.linkEvent .hyl k true 0 0
      else m.trainRefused k 3

/-- A die's own pages as its start leaves them: its end of the module is up and its clocks are deskewed (R25, R421). -/
def dieStart (m : Mach) (k : Nat) : Mach :=
  let m := (m.set R.CLK_FWD_STATUS_FWD_OK 1 0 k).set R.CLK_FWD_STATUS_DESKEW_DONE 1 0 k
  let m := (m.set R.HYL_LINK_STATUS_UP 1 0 k).set R.HYL_LINK_STATUS_VERSION (m.get R.PKG_COMPAT_COH_VER) 0 k
  let m := m.set R.HYL_LINK_STATUS_SPARES_TX (m.get R.HYL_LINK_STATUS_SPARES_RX k) 0 k
  m.set R.HYL_LINK_STATUS_SPARES_RX (m.get R.HYL_LINK_STATUS_SPARES_TX k) 0 k

/-- A die reports READY (R80, R81, R94): struck no longer. With its PARK bit set it goes on to be parked (crossing 7). -/
def dieIsReady (m : Mach) (k : Nat) : Mach :=
  if !m.on R.HYL_LINK_STATUS_UP k || m.on (R.PKG_READY_CD.bit k) then m
  else
    let m := (m.set (R.PKG_STRUCK_MASK_DIES.bit k) 0).setDieOp k 0
    if m.on (R.PKG_DIE_CTL_PARK.bit k) then (m.set (R.PKG_DIE_STATE_PARKED.bit k) 1).set R.HYL_LINK_STATUS_UP 0 k
    else
      let m := (m.set (R.PKG_READY_CD.bit k) 1).dieStart k
      if m.mode = 2 ∧ m.on R.PKG_BOOT_WINDOW_VALID = true ∧ m.get R.PKG_BOOT_BOOT_DIE = 15 then
        (m.set R.PKG_BOOT_BOOT_DIE k).releaseCore (32 * k) 0xFF0010000000
      else m

/-- A strike's or park's outstanding requests are complete: the fence step (R80). Until then the drain goes on. -/
def fenceStep (m : Mach) (k : Nat) : Mach :=
  if m.dieOpOf k = 1 ∨ m.dieOpOf k = 2 then
    if !m.dieUp k || m.dieQuiet k then m.dieFence k else (m.dieDrain k).settle
  else m

/-! ### The other blocks -/

/-- The blocks have been released (step 6 of R91), and the package is not FROZEN. -/
def released (m : Mach) : Bool := m.get R.PKG_COMPAT_COH_VER != 0 && m.mode != 9

/-- A channel that takes part in its quadrant's interleave (R216, R229). -/
def chanUsed (m : Mach) (c : Nat) : Bool :=
  (m.get R.DDR_MAP_WAYS c == 2 || (m.get R.DDR_MAP_WAYS c == 1 && m.get R.DDR_MAP_PAIR c == c % 2)) &&
    !m.chanFailed c && !m.chanFailed (c / 4 * 4 + (c % 4 + 2) % 4)

/-- DIMMs the controller accepts (R211). -/
def dimmOk (d : Dimm) : Bool :=
  d.registered && d.x4 && d.devices == 10 && [32, 64, 128, 256].contains d.gib.toNat && (d.ranks == 1 || d.ranks == 2)

/-- A channel has trained and initialised, or has left self-refresh (R228, R231); it runs unless it has been disabled meanwhile. One
whose SPD shows any other DIMM is not made READY (R211). -/
def channelStart (m : Mach) (c : Nat) (d : Dimm) : Mach :=
  if !m.released ∨ !m.chanUsed c ∨ !m.hon R.HDR_STATUS_READY .seed ∨ m.hon R.HDR_STATUS_READY .ddr c then m
  else if !dimmOk d then m.err E.DDR_UNSUPPORTED_DIMM sevContained c
  else
    let m := ((m.set R.DDR_TRAIN_TRAINED 1 c).set R.DDR_TRAIN_INIT_DONE 1 c).set R.DDR_TRAIN_SELF_REFRESH 0 c
    let m := m.hset R.HDR_STATUS_READY .ddr 1 c
    if m.hon R.HDR_CONTROL_ENABLE .ddr c then m.hset R.HDR_STATUS_ENABLED .ddr 1 c else m

/-- A port group has initialised; an upstream group's endpoint becomes READY with it (R453). -/
def groupReady (m : Mach) (g : Nat) : Mach :=
  if !m.released ∨ !m.hon R.HDR_CONTROL_ENABLE .pg g then m else (m.release .pg g).hset R.HDR_STATUS_READY .ep 1 g

/-- A Guyline port's PHY has initialised (R549). -/
def guyReady (m : Mach) (n : Nat) : Mach := if m.released then m.started .guy n else m

/-- The channels a quadrant's interleave uses are READY, and there are some. -/
def quadReady (m : Mach) (q : Nat) : Bool :=
  let cs := (quadChans q).filter (fun c => m.chanUsed c)
  !cs.isEmpty && cs.all (fun c => m.hon R.HDR_STATUS_READY .ddr c)

/-- A quadrant's instances have finished their initialisation, and after a warm reset their recoveries (R90, R236, R271, R375). The
queue logs lie anywhere in Bed, so their replay needs every trained channel. -/
def barkaiReady (m : Mach) (q : Nat) : Mach :=
  let warm := decide (3 ≤ m.get R.PKG_RESET_CAUSE_LAST)
  let mine := m.queues.filter (fun x => x.2.quad == q)
  let ready (b : Block) : Bool := m.hon R.HDR_STATUS_READY b q
  let logs := !warm || ready .bulk || mine.isEmpty || (List.range 16).all (fun c => !m.on R.DDR_TRAIN_TRAINED c || !m.chanUsed c || m.hon R.HDR_STATUS_READY .ddr c)
  if !m.released ∨ !m.quadReady q ∨ m.poolHi q ≤ m.poolLo q ∨ !logs then m
  else
    let m := if warm && !ready .tier then m.recoverTier q else m
    let m := if warm && !ready .bulk then mine.foldl (fun m x => m.replayQueue x.1) m else m
    let m := [Block.tier, .codec, .bulk, .ciph].foldl (fun m b => if !ready b && m.hon R.HDR_CONTROL_ENABLE b q then m.release b q else m) m
    (m.syncFree q).settle

/-- TEN is READY, and tenant 0 exists (R349). -/
def tenStart (m : Mach) : Mach :=
  if !m.released then m
  else
    let m := m.hset R.HDR_STATUS_READY .ten 1
    if (m.tenant 0).state = 0 then m.setTenant 0 { m.tenant 0 with state := 1 } else m

/-- A MODE_REQ of one code, as a row of its own. -/
def modeRow (m : Mach) (src : Src) (code : Nat) : Mach := m.guarded src 12 .pkg 0 (fun m => m.modeReq code)

/-- A store of DIE_CTL. -/
def dieRow (m : Mach) (src : Src) (f : Mach → Mach) : Mach := m.guarded src 12 .pkg 0 f

def parkNow (m : Mach) : Nat := m.get R.PKG_DIE_CTL_PARK

end Mach

open Mach

/-- R23: REFCLK is lost, or the root PLL's lock. -/
def execRefclkLoss (noEdge : Bool) (s : State) : Out := s.cmd (fun m => m.refclkLoss noEdge)

/-- R22, R91: the root PLL locks. -/
def execRootPllLock (s : State) : Out := s.cmd (fun m => m.pllLock)

/-- R547: REFCLK is back and the root PLL has relocked. -/
def execHoldoverRelock (s : State) : Out :=
  s.cmd (fun m => if m.mode = 10 ∧ m.on R.CLK_ROOT_STATUS_HOLDOVER = true then m.locked else m)

/-- R28: PSTATE_REQ is written. -/
def execPstateReqWrite (src : Src) (die : Fin 12) (value : Word) (s : State) : Out :=
  s.cmd (fun m => m.guarded src die.val .clk 0 (fun m =>
    m.set R.CLK_PSTATE_REQ (m.coreBits R.CLK_PSTATE_REQ (value.toNat % 2 ^ 40)) 0 die.val))

/-- R28, R29: the clock unit drives PSTATE_ACT of a core, parked or not, to the larger of its request and its cap (log 82). -/
def execPstateSwitch (die : Fin 12) (core : Fin 20) (s : State) : Out :=
  s.cmd (fun m =>
    let cid := 32 * die.val + core.val
    if m.dieUp die.val ∧ core.val < m.fuses.coresPerDie then m.takePstate cid else m)

/-- R73: standby power. -/
def execStandbyPowerOn (s : State) : Out := s.cmd (fun m => m.powerOn)

/-- R73: standby power is lost. -/
def execStandbyPowerLost (s : State) : Out := s.cmd (fun m => if m.mode = 0 then m else m.powerOff)

/-- R83: a cold reset. -/
def execColdReset (pin : ResetPin) (s : State) : Out := s.cmd (fun m => m.coldReset pin)

/-- R73: both PWRGOOD and PKG_RESET_N are high. -/
def execBringupStart (s : State) : Out := s.cmd (fun m => m.bringupStart)

/-- R73: MODE_REQ of SOLO. -/
def execModeReqSolo (src : Src) (s : State) : Out := s.cmd (fun m => m.modeRow src 3)

/-- R76: MODE_REQ of MAINTENANCE. -/
def execModeReqMaintenance (src : Src) (s : State) : Out := s.cmd (fun m => m.modeRow src 11)

/-- R75: MODE_REQ of APPLIANCE. -/
def execModeReqAppliance (src : Src) (s : State) : Out := s.cmd (fun m => m.modeRow src 7)

/-- R74: MODE_REQ of DRAIN. -/
def execModeReqDrain (src : Src) (s : State) : Out := s.cmd (fun m => m.modeRow src 8)

/-- R73: MODE_REQ of the mode DRAIN was entered from. -/
def execModeReqReturn (src : Src) (code : BitVec 4) (s : State) : Out := s.cmd (fun m => m.modeRow src code.toNat)

/-- R83: MODE_REQ of WARMRESET. -/
def execModeReqWarmreset (src : Src) (s : State) : Out := s.cmd (fun m => m.modeRow src 10)

/-- R87: MODE_REQ of AUX. -/
def execModeReqPowerdown (src : Src) (s : State) : Out := s.cmd (fun m => m.modeRow src 1)

/-- R74: what began before DRAIN has reached its acceptance point. -/
def execDrainComplete (s : State) : Out :=
  s.cmd (fun m => if m.mode = 8 ∧ m.drained = true then m.set R.PKG_MODE_DRAINED 1 else m)

/-- R73, R547: WARMRESET's re-initialisation is complete. -/
def execWarmReinitDone (s : State) : Out := s.cmd (fun m => m.warmReinit)

/-- R80, R82: STRIKE bits are written. -/
def execDieStrike (src : Src) (dies : BitVec 12) (s : State) : Out :=
  s.cmd (fun m => m.dieRow src (fun m => m.dieCtl dies.toNat 0 m.parkNow))

/-- R80, R82: PITCH bits are written. -/
def execDiePitch (src : Src) (dies : BitVec 12) (s : State) : Out :=
  s.cmd (fun m => m.dieRow src (fun m => m.dieCtl 0 dies.toNat m.parkNow))

/-- R81, R82: PARK bits are set. -/
def execDiePark (src : Src) (dies : BitVec 12) (s : State) : Out :=
  s.cmd (fun m => m.dieRow src (fun m => m.dieCtl 0 0 (Nat.lor m.parkNow dies.toNat)))

/-- R81, R82: PARK bits are cleared. -/
def execDieRestart (src : Src) (dies : BitVec 12) (s : State) : Out :=
  s.cmd (fun m => m.dieRow src (fun m => m.dieCtl 0 0 (m.parkNow - Nat.land m.parkNow dies.toNat)))

/-- R80, R81: a struck or parked die's requests are complete. -/
def execDieFence (die : Fin 12) (s : State) : Out := s.cmd (fun m => m.fenceStep die.val)

/-- R91, R309: the seed store is READY. -/
def execSeedStoreReady (s : State) : Out := s.cmd (fun m => m.seedStart)

/-- R92: a copy of the management controller's image is verified. Its firmware version and the configuration record it holds, whose
layout in the image the spec does not give, come with it. -/
def execMcImageVerified (copyB : Bool) (major : Byte) (chunks : List Chunk) (version : BitVec 16) (config : List (BitVec 28 × Word)) (s : State) : Out :=
  s.cmd (fun m => m.mcImage copyB major chunks version.toNat config)

/-- R92, R93: a copy of the boot firmware image is verified. A minor version of its header that the firmware does not know is ignored (R30). -/
def execBootImageVerified (copyB : Bool) (major _minor : Byte) (chunks : List Chunk) (s : State) : Out :=
  s.cmd (fun m => m.bootImage copyB major chunks)

/-- R416: a Hylar module's training ends. -/
def execHylarTrained (die : Fin 12) (result : TrainResult) (s : State) : Out :=
  s.cmd (fun m =>
    if m.released && m.on R.HYL_LINK_STATUS_TRAINING die.val && !m.on R.HYL_LINK_STATUS_UP die.val then m.hylTrained die.val result else m)

/-- R94: a compute die reports READY. -/
def execDieReady (die : Fin 12) (s : State) : Out := s.cmd (fun m => if m.released then m.dieIsReady die.val else m)

/-- R228, R231, R211: a DDR channel with given DIMMs is READY. -/
def execDdrChannelReady (ch : DdrChan) (s : State) : Out := s.cmd (fun m => m.channelStart ch.n.val ch.dimm)

/-- R90: a port group is READY. -/
def execPgReady (pg : Fin 16) (s : State) : Out := s.cmd (fun m => m.groupReady pg.val)

/-- R549: a Guyline port is READY. -/
def execGlPortReady (port : Fin 2) (s : State) : Out := s.cmd (fun m => m.guyReady port.val)

/-- R90: a Barkai quadrant is READY. -/
def execBarkaiReady (q : Fin 4) (s : State) : Out := s.cmd (fun m => m.barkaiReady q.val)

/-- R349: TEN is READY. -/
def execTenReady (s : State) : Out := s.cmd (fun m => m.tenStart)

/-- R93, R176: WINDOW_RELEASE. -/
def execWindowRelease (src : Src) (s : State) : Out := s.cmd (fun m => m.guarded src 12 .pkg 0 (fun m => m.windowRelease))

end Sys2Proof.Machine
end

