-- ==== Sys2Proof/Machine/Device.lean ====
section
/-! DEFINITION. Device accesses of cores on their way (R38, R39, R108–R111, R358, R437, R482): control space, doorbells, the boot
window and the root ports. A core's accesses move in program order; which port an address belongs to is no part of the spec's
map, so the command names it. -/
namespace Sys2Proof.Machine
namespace Mach

/-- A source of a core's access. -/
def srcOf (pl : Nat) : Src := .core (Fin.ofNat 3 pl)

/-- R108: an active entry of the region table covers an address. -/
def regionForbids (m : Mach) (spa : Nat) : Bool :=
  (List.range 64).any (fun n =>
    m.act (R.PKG_REGION_BASE_VALID.at n) == 1 && decide (m.act (R.PKG_REGION_BASE_BASE_PAGE.at n) ≤ spa / 4096) &&
      decide (spa / 4096 ≤ m.act (R.PKG_REGION_LIMIT_LIMIT_PAGE.at n)))

/-- The core's oldest access that has not reached its target. -/
def devNext (m : Mach) (cid : Nat) : Option DevMsg := m.devq.find? (fun d => d.cid == cid && d.k != 2 && d.port.isNone)

/-- Replace the first element equal to a. -/
def swapFirst (a b : DevMsg) : List DevMsg → List DevMsg
  | [] => []
  | x :: r => if x = a then b :: r else x :: swapFirst a b r

def devSwap (m : Mach) (a b : DevMsg) : Mach := { m with devq := swapFirst a b m.devq }

/-- The accessed bytes of the 64-bit register around an address. -/
def devPart (spa lg v : Nat) : Nat := bitsOf v (8 * (spa % 8)) (8 * 2 ^ lg)

/-- A response that waits to be delivered. -/
def devAnswer (m : Mach) (d : DevMsg) (data err : Nat) : Mach := m.devSwap d { d with k := 2, data := data, err := err }

/-- A load's answer from the I/O die itself: control space, the doorbell region or the boot window. -/
def devLocalRead (m : Mach) (d : DevMsg) : Option (Mach × Nat) :=
  if inControl d.spa then
    let r := m.ctlRead (srcOf d.pl) (d.spa - 0xFF0000000000)
    some (r.1, devPart d.spa d.lg r.2)
  else if inDoorbells d.spa then some (m, devPart d.spa d.lg (m.doorbellRead (d.spa - 0xFF0020000000)))
  else if inWindow d.spa then some (m, ofBytes ((List.range (2 ^ d.lg)).map (fun i => m.windowByte (d.spa + i))))
  else none

/-- A store to the doorbell region (R358), where a foreign tenant has no page. -/
def doorbellWrite (m : Mach) (o lg v : Nat) : Mach :=
  if (m.tenant (o / 0x1000)).kind = 1 then m else m.doorbellPut (o / 0x1000) (o % 0x1000) lg v

/-- A store the I/O die completes itself (R39, R93, R358): none where the address is a device's. -/
def devLocalWrite (m : Mach) (d : DevMsg) : Option Mach :=
  if inControl d.spa then
    some (m.ctlWrite (srcOf d.pl) (d.spa - 0xFF0000000000) (8 * (d.spa % 8)) (8 * 2 ^ d.lg) (d.data * 2 ^ (8 * (d.spa % 8))))
  else if inDoorbells d.spa then some (m.doorbellWrite (d.spa - 0xFF0020000000) d.lg d.data)
  else if inWindow d.spa then some m
  else none

/-- A port that takes no request: down, contained, or not there (R437). -/
def portShut (m : Mach) (p : Nat) : Bool := !m.portUp p || m.portContained p || !m.portExists p

/-- A port group that takes no request now: it is quiesced or stopping (R48), or FROZEN holds the links (R77, R95). -/
def portWaits (m : Mach) (p : Nat) : Bool := m.mode == 9 || m.pgHeld (p / 4)

/-- A device load reaches its target (R111, R437, R482). -/
def devRead (m : Mach) (d : DevMsg) (port : Option Nat) : Mach :=
  match m.devLocalRead d with
  | some (m, v) => m.devAnswer d v 0
  | none =>
    match port with
    | none => (m.noRoute (dieOf d.cid) 0).devAnswer d allOnes 0
    | some p =>
      if m.portWaits p then m
      else
        let e := { d with port := some p }
        m.devSwap d (if m.portShut p then { e with k := 2, data := 0, err := 2 } else e)

/-- A Device-EA store that R108 turns into a Device-NE store is tracked from then on (R120). -/
def devTrack (m : Mach) (d : DevMsg) : Mach := m.modCore d.cid (fun c => { c with trk := c.trk ++ [⟨d.spa, d.lg, d.pl⟩] })

/-- A device store reaches the I/O die (R39, R108–R110, R358). One that no route takes is lost; a Device-NE store is answered with
NO_RESPONSE. -/
def devWrite (m : Mach) (d : DevMsg) (port : Option Nat) : Mach :=
  match m.devLocalWrite d with
  | some m => m.devAnswer d 0 0
  | none =>
    let strict := !d.ne && m.regionForbids d.spa
    match port with
    | none =>
      if strict && decide (16 ≤ (m.core d.cid).trk.length) then m
      else
        let e := { d with ne := d.ne || strict }
        let m := (if strict then m.devTrack d else m).noRoute (dieOf d.cid) 0
        if e.ne then m.devSwap d { e with k := 2, data := 0, err := 1 } else { m with devq := m.devq.erase d }
    | some p =>
      if m.portWaits p || (strict && decide (16 ≤ (m.core d.cid).trk.length)) then m
      else
        let e := { d with port := some p, ne := d.ne || strict }
        let m := if strict then m.devTrack d else m
        m.devSwap d (if m.portShut p then { e with k := 2, data := 0, err := 2 } else e)

/-- The response of an access (R111, R128): what the I/O die answered, or what the port's device answers. -/
def devRespond (m : Mach) (cid spa data err : Nat) : Mach :=
  match m.devq.find? (fun d => d.cid == cid && d.spa == spa && (d.k == 2 || d.port.isSome)) with
  | none => m
  | some d =>
    let m : Mach := { m with devq := m.devq.erase d }
    if d.k = 2 then m.devEnd d d.data d.err else m.devEnd d data err

end Mach

open Mach

/-- R111: a device load reaches its target port or control stop; in FROZEN it stays outstanding (R77, R208, log 73). -/
def execDevRd (cid : Cid) (port : Option (Fin 64)) (s : State) : Out :=
  s.cmd (fun m => match m.devNext (cidOf cid) with
    | some d => if d.k = 0 ∧ m.mode ≠ 9 then m.devRead d (port.map (·.val)) else m
    | none => m)

/-- R109: a device store reaches the I/O die; in FROZEN it stays outstanding (R77, R208, log 73). -/
def execDevWr (cid : Cid) (port : Option (Fin 64)) (s : State) : Out :=
  s.cmd (fun m => match m.devNext (cidOf cid) with
    | some d => if d.k = 1 ∧ m.mode ≠ 9 then m.devWrite d (port.map (·.val)) else m
    | none => m)

/-- R111, R128: the response to a device access. -/
def execDevRsp (cid : Cid) (spa : BitVec 48) (data : Word) (err : Fin 3) (s : State) : Out :=
  s.cmd (fun m => m.devRespond (cidOf cid) spa.toNat data.toNat err.val)

end Sys2Proof.Machine
end

