-- ==== Sys2Proof/Machine/Pmu.lean ====
section
/-! DEFINITION. The commands of performance monitoring (R515, R518–R520, R522, R524): overflows, tagged instructions and
snapshots. -/
namespace Sys2Proof.Machine
namespace Mach

/-- The interval ends (R518): an instruction is tagged and a new interval drawn, its jitter a free value. -/
def tagNext (m : Mach) (cid : Nat) : Mach :=
  let ctl := m.sreg cid 0x140
  let n := bitsOf ctl 1 5
  let (m, i) : Mach × Nat :=
    if bitsOf ctl 6 1 = 1 then
      let (m, v) := m.fresh
      (m, 2 ^ n - 2 ^ (n - 4) + v.toNat % 2 ^ (n - 3))
    else (m, 2 ^ n)
  let x := m.core cid
  m.setCore cid { x with tag := { x.tag with flight := some (x.pl, m.sreg cid 0x104), wait := false, interval := i } }

/-- TAG_CTL lets the core tag an instruction of its current level (R518, R520). -/
def tagOn (m : Mach) (cid : Nat) : Bool :=
  let ctl := m.sreg cid 0x140
  bitsOf ctl 0 1 == 1 && bitsOf ctl (7 + (m.core cid).pl) 1 == 1

/-- The KIND field of a record (R519). -/
def tagKind (r : TagRec) : Nat :=
  r.load.toNat + r.store.toNat * 2 + r.branch.toNat * 4 + r.mispredicted.toNat * 8 + r.dtlbMiss.toNat * 16 + r.walk.toNat * 32
    + r.vaddr.isSome.toNat * 64 + r.paddr.isSome.toNat * 128 + r.source.val * 256 + r.far.toNat * 2048

/-- The record's bytes 8 to 63 (R519). -/
def tagBody (r : TagRec) (cycles : Nat) : List Byte :=
  bytesOf 8 r.pc.toNat ++ bytesOf 8 (r.vaddr.elim 0 (·.toNat)) ++ bytesOf 8 (r.paddr.elim 0 (·.toNat)) ++ bytesOf 2 (tagKind r)
    ++ bytesOf 2 (min r.decIss 0xFFFF) ++ bytesOf 2 (min r.issCmp 0xFFFF) ++ bytesOf 2 (min r.cmpRet 0xFFFF)
    ++ bytesOf 8 cycles ++ bytesOf 16 0

/-- The record's bytes 0 to 7 (R519). -/
def tagHead (r : TagRec) (seq phase tenant pl : Nat) : List Byte :=
  bytesOf 4 seq ++ bytesOf 1 (phase + r.retired.toNat * 2 + r.exc.isSome.toNat * 4) ++ bytesOf 1 (r.exc.elim 0 (·.val))
    ++ bytesOf 2 (tenant + pl * 2 ^ 11)

/-- Write a tagged instruction's record to the ring, or drop it (R519, R520). -/
def tagWrite (m : Mach) (cid : Nat) (r : TagRec) (pl tenant : Nat) : Mach :=
  let ring := m.sreg cid 0x141
  let size := 2 ^ bitsOf ring 0 5
  let tail := m.sreg cid 0x143 % 2 ^ 16
  let phase := bitsOf (m.sreg cid 0x143) 16 1
  let head := m.sreg cid 0x142
  if (tail + 1 + size - head % size) % size = 0 then
    let d := m.sreg cid 0x144
    m.setSreg cid 0x144 (putBits d 0 32 (d % 2 ^ 32 + 1))
  else
    let rec_ := tagHead r (m.core cid).tag.seq phase tenant pl ++ tagBody r (m.sreg cid 0x100)
    match m.cohPut (bitsOf ring 12 36 * 4096 + 64 * tail) rec_ false (dieOf cid) with
    | (m, .refuse _) =>
      let ctl := m.sreg cid 0x140
      m.setSreg cid 0x140 (putBits (putBits ctl 0 1 0) 10 1 1)
    | (m, _) => m.setSreg cid 0x143 (if tail + 1 = size then (1 - phase) * 2 ^ 16 else tail + 1 + phase * 2 ^ 16)

end Mach

open Mach

/-- R515: a core counter passes 2^48 − 1. -/
def execPmCounterOverflow (c : Cid) (n : Fin 8) (rest : BitVec 6) (s : State) : Out :=
  s.cmd (fun m =>
    let cid := cidOf c
    if m.dieUp (dieOf cid) && bitsOf (m.sreg cid 0x101) n.val 1 == 1 then m.pmWrap cid n.val rest.toNat else m)

/-- R522: an uncore counter passes 2^48 − 1. -/
def execUncoreOverflow (die : Fin 13) (inst : Fin 4) (n : Fin 4) (rest : BitVec 9) (s : State) : Out :=
  s.cmd (fun m =>
    if populated m.fuses die.val .pmu inst.val && (die.val == 12 || m.dieUp die.val) &&
        bitsOf (m.get R.PMU_UGLOBAL_EN inst.val die.val) n.val 1 == 1 then m.uWrap n.val rest.toNat inst.val die.val
    else m)

/-- R518: the count of decoded instructions reaches the interval; while a tagged instruction is in flight the interval is
postponed and counted. -/
def execTagSelect (c : Cid) (s : State) : Out :=
  s.cmd (fun m =>
    let cid := cidOf c
    if !m.issuing cid || !decide (c.core.val < m.fuses.coresPerDie) || !m.tagOn cid then m
    else
      let x := m.core cid
      match x.tag.flight with
      | none => m.tagNext cid
      | some _ =>
        if x.tag.wait then m
        else
          let d := m.sreg cid 0x144
          (m.setSreg cid 0x144 (putBits d 32 32 (bitsOf d 32 32 + 1))).modCore cid
            (fun x => { x with tag := { x.tag with wait := true } }))

/-- R519: the tagged instruction ends; its record is written or dropped, and a postponed interval then tags the next. -/
def execTagRecord (c : Cid) (r : TagRec) (s : State) : Out :=
  s.cmd (fun m =>
    let cid := cidOf c
    match (m.core cid).tag.flight with
    | none => m
    | some (pl, tenant) =>
      let m := m.tagWrite cid r pl tenant
      let m := m.modCore cid (fun x => { x with tag := { x.tag with flight := none, seq := (x.tag.seq + 1) % 2 ^ 32 } })
      if (m.core cid).tag.wait && m.tagOn cid then m.tagNext cid
      else m.modCore cid (fun x => { x with tag := { x.tag with wait := false } }))

/-- R524: the snapshot of a PMU page. -/
def execPmuSnapshot (die : Fin 13) (inst : Fin 4) (s : State) : Out :=
  s.cmd (fun m =>
    let i := inst.val
    let d := die.val
    let at_ := m.get R.PMU_SNAP_AT_TIME i d
    if populated m.fuses d .pmu i && (d == 12 || m.dieUp d) && m.on R.PMU_SNAP_AT_ARM i d &&
        decide ((m.time + 2 ^ 48 - at_) % 2 ^ 48 < 2 ^ 47) then
      let m := forN 4 (fun n m => m.set (R.PMU_USNAP_COUNT.at n) (m.get (R.PMU_UCNT_COUNT.at n) i d) i d) m
      let late := m.time != at_
      let m := ((m.set R.PMU_SNAP_TIME_TIME m.time i d).set R.PMU_SNAP_STAT_DONE 1 i d).set R.PMU_SNAP_AT_ARM 0 i d
      if late then m.set R.PMU_SNAP_STAT_LATE 1 i d else m
    else m)

end Sys2Proof.Machine
end

