-- ==== Sys2Proof/Machine/Dispatch.lean ====
section
/-! DEFINITION. The dispatch: one arm per command, each one direct call of its meaning. -/
namespace Sys2Proof.Machine

/-- The effect of one command on everything but the queue. -/
def exec (i : Instr) (s : State) : Host.Outcome State Fault Refusal :=
  match i with
  | .refclkLoss noEdge => Sys2Proof.Machine.execRefclkLoss noEdge s
  | .rootPllLock => Sys2Proof.Machine.execRootPllLock s
  | .holdoverRelock => Sys2Proof.Machine.execHoldoverRelock s
  | .pstateReqWrite src die value => Sys2Proof.Machine.execPstateReqWrite src die value s
  | .pstateSwitch die core => Sys2Proof.Machine.execPstateSwitch die core s
  | .registerWrite src target half value => Sys2Proof.Machine.execRegisterWrite src target half value s
  | .blockEnable src page => Sys2Proof.Machine.execBlockEnable src page s
  | .blockDisable src page => Sys2Proof.Machine.execBlockDisable src page s
  | .quiesce src page value => Sys2Proof.Machine.execQuiesce src page value s
  | .blockStarted page => Sys2Proof.Machine.execBlockStarted page s
  | .blockStopped page => Sys2Proof.Machine.execBlockStopped page s
  | .blockReset src page => Sys2Proof.Machine.execBlockReset src page s
  | .commitGo src page => Sys2Proof.Machine.execCommitGo src page s
  | .commitCancel src page => Sys2Proof.Machine.execCommitCancel src page s
  | .safePointApply page => Sys2Proof.Machine.execSafePointApply page s
  | .errorInject src page value => Sys2Proof.Machine.execErrorInject src page value s
  | .standbyPowerOn => Sys2Proof.Machine.execStandbyPowerOn s
  | .standbyPowerLost => Sys2Proof.Machine.execStandbyPowerLost s
  | .coldReset pin => Sys2Proof.Machine.execColdReset pin s
  | .bringupStart => Sys2Proof.Machine.execBringupStart s
  | .modeReqSolo src => Sys2Proof.Machine.execModeReqSolo src s
  | .modeReqMaintenance src => Sys2Proof.Machine.execModeReqMaintenance src s
  | .modeReqAppliance src => Sys2Proof.Machine.execModeReqAppliance src s
  | .modeReqDrain src => Sys2Proof.Machine.execModeReqDrain src s
  | .modeReqReturn src code => Sys2Proof.Machine.execModeReqReturn src code s
  | .modeReqWarmreset src => Sys2Proof.Machine.execModeReqWarmreset src s
  | .modeReqPowerdown src => Sys2Proof.Machine.execModeReqPowerdown src s
  | .drainComplete => Sys2Proof.Machine.execDrainComplete s
  | .warmReinitDone => Sys2Proof.Machine.execWarmReinitDone s
  | .dieStrike src dies => Sys2Proof.Machine.execDieStrike src dies s
  | .diePitch src dies => Sys2Proof.Machine.execDiePitch src dies s
  | .diePark src dies => Sys2Proof.Machine.execDiePark src dies s
  | .dieRestart src dies => Sys2Proof.Machine.execDieRestart src dies s
  | .dieFence die => Sys2Proof.Machine.execDieFence die s
  | .seedStoreReady => Sys2Proof.Machine.execSeedStoreReady s
  | .mcImageVerified copyB major chunks version config => Sys2Proof.Machine.execMcImageVerified copyB major chunks version config s
  | .bootImageVerified copyB major minor chunks => Sys2Proof.Machine.execBootImageVerified copyB major minor chunks s
  | .hylarTrained die result => Sys2Proof.Machine.execHylarTrained die result s
  | .dieReady die => Sys2Proof.Machine.execDieReady die s
  | .ddrChannelReady ch => Sys2Proof.Machine.execDdrChannelReady ch s
  | .pgReady pg => Sys2Proof.Machine.execPgReady pg s
  | .glPortReady port => Sys2Proof.Machine.execGlPortReady port s
  | .barkaiReady q => Sys2Proof.Machine.execBarkaiReady q s
  | .tenReady => Sys2Proof.Machine.execTenReady s
  | .windowRelease src => Sys2Proof.Machine.execWindowRelease src s
  | .load cid rd va lg kind ilen => Sys2Proof.Machine.execLoad cid rd va lg kind ilen s
  | .store cid rs va lg ilen => Sys2Proof.Machine.execStore cid rs va lg ilen s
  | .storeDrain cid index => Sys2Proof.Machine.execStoreDrain cid index s
  | .fenceAll cid => Sys2Proof.Machine.execFenceAll cid s
  | .fenceLd cid => Sys2Proof.Machine.execFenceLd cid s
  | .fenceSt cid => Sys2Proof.Machine.execFenceSt cid s
  | .fenceIo cid => Sys2Proof.Machine.execFenceIo cid s
  | .dursync cid d => Sys2Proof.Machine.execDursync cid d s
  | .dursyncComplete cid => Sys2Proof.Machine.execDursyncComplete cid s
  | .clnL cid a => Sys2Proof.Machine.execClnL cid a s
  | .invL cid a => Sys2Proof.Machine.execInvL cid a s
  | .clninvL cid a => Sys2Proof.Machine.execClninvL cid a s
  | .tlbiVa cid a b => Sys2Proof.Machine.execTlbiVa cid a b s
  | .tlbiTag cid a => Sys2Proof.Machine.execTlbiTag cid a s
  | .tlbiAll cid => Sys2Proof.Machine.execTlbiAll cid s
  | .ldAcq cid a d x => Sys2Proof.Machine.execLdAcq cid a d x s
  | .stRel cid a b x => Sys2Proof.Machine.execStRel cid a b x s
  | .srr cid sreg d => Sys2Proof.Machine.execSrr cid sreg d s
  | .srw cid sreg d => Sys2Proof.Machine.execSrw cid sreg d s
  | .eret cid => Sys2Proof.Machine.execEret cid s
  | .callInsn cid x => Sys2Proof.Machine.execCallInsn cid x s
  | .waitInsn cid => Sys2Proof.Machine.execWaitInsn cid s
  | .undefInsn cid word => Sys2Proof.Machine.execUndefInsn cid word s
  | .interrupt cid => Sys2Proof.Machine.execInterrupt cid s
  | .coreRelease src cid => Sys2Proof.Machine.execCoreRelease src cid s
  | .coreDoorbell src cid bits => Sys2Proof.Machine.execCoreDoorbell src cid bits s
  | .nonspecResend cid => Sys2Proof.Machine.execNonspecResend cid s
  | .tlbiReq die => Sys2Proof.Machine.execTlbiReq die s
  | .tlbiAck die => Sys2Proof.Machine.execTlbiAck die s
  | .rangeInv src => Sys2Proof.Machine.execRangeInv src s
  | .rangeInvDone set => Sys2Proof.Machine.execRangeInvDone set s
  | .evictionOffer die line offer => Sys2Proof.Machine.execEvictionOffer die line offer s
  | .pruneReqWrite src die slice value => Sys2Proof.Machine.execPruneReqWrite src die slice value s
  | .pruneGroupDone die slice => Sys2Proof.Machine.execPruneGroupDone die slice s
  | .rdShared p => Sys2Proof.Machine.execRdShared p s
  | .rdOwn p => Sys2Proof.Machine.execRdOwn p s
  | .upgrade p => Sys2Proof.Machine.execUpgrade p s
  | .flush op p => Sys2Proof.Machine.execFlush op p s
  | .evict p => Sys2Proof.Machine.execEvict p s
  | .wbDirty p => Sys2Proof.Machine.execWbDirty p s
  | .rdCur p => Sys2Proof.Machine.execRdCur p s
  | .wrLine p => Sys2Proof.Machine.execWrLine p s
  | .wrPart p => Sys2Proof.Machine.execWrPart p s
  | .durWb p => Sys2Proof.Machine.execDurWb p s
  | .durSync p => Sys2Proof.Machine.execDurSync p s
  | .snpFwdShared p => Sys2Proof.Machine.execSnpFwdShared p s
  | .snpFwdOwn p => Sys2Proof.Machine.execSnpFwdOwn p s
  | .snpShared p => Sys2Proof.Machine.execSnpShared p s
  | .snpOwn p => Sys2Proof.Machine.execSnpOwn p s
  | .snpInv p => Sys2Proof.Machine.execSnpInv p s
  | .snpInvData p => Sys2Proof.Machine.execSnpInvData p s
  | .snpCur p => Sys2Proof.Machine.execSnpCur p s
  | .snpClean p => Sys2Proof.Machine.execSnpClean p s
  | .dataMsg p => Sys2Proof.Machine.execDataMsg p s
  | .grant p => Sys2Proof.Machine.execGrant p s
  | .dataCur p => Sys2Proof.Machine.execDataCur p s
  | .snpData p => Sys2Proof.Machine.execSnpData p s
  | .invAck p => Sys2Proof.Machine.execInvAck p s
  | .wbAck p => Sys2Proof.Machine.execWbAck p s
  | .cmpAck p => Sys2Proof.Machine.execCmpAck p s
  | .cmp p => Sys2Proof.Machine.execCmp p s
  | .refuse p => Sys2Proof.Machine.execRefuse p s
  | .memRd spa lda errs => Sys2Proof.Machine.execMemRd spa lda errs s
  | .memWr spa lda data poison => Sys2Proof.Machine.execMemWr spa lda data poison s
  | .memData spa lda => Sys2Proof.Machine.execMemData spa lda s
  | .devRd cid port => Sys2Proof.Machine.execDevRd cid port s
  | .devWr cid port => Sys2Proof.Machine.execDevWr cid port s
  | .devRsp cid spa data err => Sys2Proof.Machine.execDevRsp cid spa data err s
  | .snoopTimeout die line => Sys2Proof.Machine.execSnoopTimeout die line s
  | .sweepGo src q tenant => Sys2Proof.Machine.execSweepGo src q tenant s
  | .sweepDone q => Sys2Proof.Machine.execSweepDone q s
  | .ddrTrainFail ch ranks => Sys2Proof.Machine.execDdrTrainFail ch ranks s
  | .eraseReq src ch value => Sys2Proof.Machine.execEraseReq src ch value s
  | .channelLost ch => Sys2Proof.Machine.execChannelLost ch s
  | .tierRead src q page => Sys2Proof.Machine.execTierRead src q page s
  | .tierSetAttr src q page a => Sys2Proof.Machine.execTierSetAttr src q page a s
  | .tierAlloc src q page a => Sys2Proof.Machine.execTierAlloc src q page a s
  | .tierFree src q page => Sys2Proof.Machine.execTierFree src q page s
  | .tierZero src q page => Sys2Proof.Machine.execTierZero src q page s
  | .tierPromote src q page => Sys2Proof.Machine.execTierPromote src q page s
  | .tierDemote src q page toTier => Sys2Proof.Machine.execTierDemote src q page toTier s
  | .tierClearPoison src q page => Sys2Proof.Machine.execTierClearPoison src q page s
  | .promotionCommit q slot => Sys2Proof.Machine.execPromotionCommit q slot s
  | .demotionStart q cause => Sys2Proof.Machine.execDemotionStart q cause s
  | .demotionCommit q slot => Sys2Proof.Machine.execDemotionCommit q slot s
  | .ageingSweep q => Sys2Proof.Machine.execAgeingSweep q s
  | .strikeEvac src shelf => Sys2Proof.Machine.execStrikeEvac src shelf s
  | .strikeSleep src shelf => Sys2Proof.Machine.execStrikeSleep src shelf s
  | .shelfStrikeDone shelf released => Sys2Proof.Machine.execShelfStrikeDone shelf released s
  | .shelfRelease src shelf => Sys2Proof.Machine.execShelfRelease src shelf s
  | .shelfLost shelf => Sys2Proof.Machine.execShelfLost shelf s
  | .wakeRetryExpire shelf => Sys2Proof.Machine.execWakeRetryExpire shelf s
  | .shelfWriteComplete q seq => Sys2Proof.Machine.execShelfWriteComplete q seq s
  | .seedGenerate src slot attr fixed => Sys2Proof.Machine.execSeedGenerate src slot attr fixed s
  | .seedImport src slot kek addr attr => Sys2Proof.Machine.execSeedImport src slot kek addr attr s
  | .seedExport src slot kek addr => Sys2Proof.Machine.execSeedExport src slot kek addr s
  | .seedRetire src slot => Sys2Proof.Machine.execSeedRetire src slot s
  | .seedDestroy src slot => Sys2Proof.Machine.execSeedDestroy src slot s
  | .drbgHealthFail => Sys2Proof.Machine.execDrbgHealthFail s
  | .slotUncorrectable slot => Sys2Proof.Machine.execSlotUncorrectable slot s
  | .memrotGo src => Sys2Proof.Machine.execMemrotGo src s
  | .memrotAuto => Sys2Proof.Machine.execMemrotAuto s
  | .memrotRekey q => Sys2Proof.Machine.execMemrotRekey q s
  | .shedrotGo src => Sys2Proof.Machine.execShedrotGo src s
  | .shedrotAuto => Sys2Proof.Machine.execShedrotAuto s
  | .messageResume q pipe => Sys2Proof.Machine.execMessageResume q pipe s
  | .suspendTimeout q pipe => Sys2Proof.Machine.execSuspendTimeout q pipe s
  | .tenCreate src tenant cfg => Sys2Proof.Machine.execTenCreate src tenant cfg s
  | .tenResize src tenant cfg => Sys2Proof.Machine.execTenResize src tenant cfg s
  | .tenReset src tenant => Sys2Proof.Machine.execTenReset src tenant s
  | .tenantDestroy src tenant => Sys2Proof.Machine.execTenantDestroy src tenant s
  | .tenantWorkDrained tenant => Sys2Proof.Machine.execTenantWorkDrained tenant s
  | .tenAttach src tenant => Sys2Proof.Machine.execTenAttach src tenant s
  | .tenDetach src tenant => Sys2Proof.Machine.execTenDetach src tenant s
  | .sqDoorbell tenant index tail => Sys2Proof.Machine.execSqDoorbell tenant index tail s
  | .cqDoorbell tenant index head => Sys2Proof.Machine.execCqDoorbell tenant index head s
  | .queueStart src queue => Sys2Proof.Machine.execQueueStart src queue s
  | .queueStop src queue => Sys2Proof.Machine.execQueueStop src queue s
  | .descriptorFetch queue => Sys2Proof.Machine.execDescriptorFetch queue s
  | .copy queue => Sys2Proof.Machine.execCopy queue s
  | .fill queue => Sys2Proof.Machine.execFill queue s
  | .compress queue => Sys2Proof.Machine.execCompress queue s
  | .decompress queue => Sys2Proof.Machine.execDecompress queue s
  | .encrypt queue => Sys2Proof.Machine.execEncrypt queue s
  | .decrypt queue => Sys2Proof.Machine.execDecrypt queue s
  | .hash queue => Sys2Proof.Machine.execHash queue s
  | .mac queue => Sys2Proof.Machine.execMac queue s
  | .pack queue => Sys2Proof.Machine.execPack queue s
  | .unpack queue => Sys2Proof.Machine.execUnpack queue s
  | .promoteHint queue => Sys2Proof.Machine.execPromoteHint queue s
  | .demoteHint queue => Sys2Proof.Machine.execDemoteHint queue s
  | .persist queue => Sys2Proof.Machine.execPersist queue s
  | .bulkFence queue => Sys2Proof.Machine.execBulkFence queue s
  | .completionWrite queue index => Sys2Proof.Machine.execCompletionWrite queue index s
  | .pairForm src => Sys2Proof.Machine.execPairForm src s
  | .hello h => Sys2Proof.Machine.execHello h s
  | .unpair src => Sys2Proof.Machine.execUnpair src s
  | .takeover src => Sys2Proof.Machine.execTakeover src s
  | .handback src => Sys2Proof.Machine.execHandback src s
  | .mirrorBatch stream b => Sys2Proof.Machine.execMirrorBatch stream b s
  | .lineRecord stream => Sys2Proof.Machine.execLineRecord stream s
  | .pageRecord stream => Sys2Proof.Machine.execPageRecord stream s
  | .mapRecord stream => Sys2Proof.Machine.execMapRecord stream s
  | .acceptRecord stream => Sys2Proof.Machine.execAcceptRecord stream s
  | .completeRecord stream => Sys2Proof.Machine.execCompleteRecord stream s
  | .contextRecord stream => Sys2Proof.Machine.execContextRecord stream s
  | .queueRecord stream => Sys2Proof.Machine.execQueueRecord stream s
  | .rangeRecord stream => Sys2Proof.Machine.execRangeRecord stream s
  | .keyRecord stream => Sys2Proof.Machine.execKeyRecord stream s
  | .syncRecord stream => Sys2Proof.Machine.execSyncRecord stream s
  | .mirrorAck stream seq => Sys2Proof.Machine.execMirrorAck stream seq s
  | .fenceTokenIn token => Sys2Proof.Machine.execFenceTokenIn token s
  | .fenceWaitExpire => Sys2Proof.Machine.execFenceWaitExpire s
  | .autoTakeoverExpire => Sys2Proof.Machine.execAutoTakeoverExpire s
  | .handbackReleased => Sys2Proof.Machine.execHandbackReleased s
  | .hylarFlit die atDie flit ctl crc => Sys2Proof.Machine.execHylarFlit die atDie flit ctl crc s
  | .hylarRetrainDone die ok => Sys2Proof.Machine.execHylarRetrainDone die ok s
  | .fwdClockLoss die => Sys2Proof.Machine.execFwdClockLoss die s
  | .codewordPair port lane h => Sys2Proof.Machine.execCodewordPair port lane h s
  | .dataFrame port h stream payload => Sys2Proof.Machine.execDataFrame port h stream payload s
  | .ackFrame port h entries => Sys2Proof.Machine.execAckFrame port h entries s
  | .statusFrame port h page offset mode data => Sys2Proof.Machine.execStatusFrame port h page offset mode data s
  | .retrainReq port h => Sys2Proof.Machine.execRetrainReq port h s
  | .widthReq port h lanes => Sys2Proof.Machine.execWidthReq port h lanes s
  | .widthGrant port h lanes pseq => Sys2Proof.Machine.execWidthGrant port h lanes pseq s
  | .trainFrame port crc serial majors minor lanes peerPort mode => Sys2Proof.Machine.execTrainFrame port crc serial majors minor lanes peerPort mode s
  | .guyTrainDone port lanes => Sys2Proof.Machine.execGuyTrainDone port lanes s
  | .guyRetrain src port => Sys2Proof.Machine.execGuyRetrain src port s
  | .widthReqWrite src port lanes => Sys2Proof.Machine.execWidthReqWrite src port lanes s
  | .guyRetrainTimeout port => Sys2Proof.Machine.execGuyRetrainTimeout port s
  | .downWindowEnd port => Sys2Proof.Machine.execDownWindowEnd port s
  | .statusRoundTimer => Sys2Proof.Machine.execStatusRoundTimer s
  | .partnerStatusTimeout => Sys2Proof.Machine.execPartnerStatusTimeout s
  | .beaconTimer => Sys2Proof.Machine.execBeaconTimer s
  | .sidebandBeacon port serial mode => Sys2Proof.Machine.execSidebandBeacon port serial mode s
  | .sbPresentTimeout port => Sys2Proof.Machine.execSbPresentTimeout port s
  | .portLinkUp port rate width flit cxlmem => Sys2Proof.Machine.execPortLinkUp port rate width flit cxlmem s
  | .portLinkDown port dropped => Sys2Proof.Machine.execPortLinkDown port dropped s
  | .deviceRequest port rid req => Sys2Proof.Machine.execDeviceRequest port rid req s
  | .completionTimeout what => Sys2Proof.Machine.execCompletionTimeout what s
  | .releaseDpc src port => Sys2Proof.Machine.execReleaseDpc src port s
  | .portRetrain src port => Sys2Proof.Machine.execPortRetrain src port s
  | .shelfPitch src group shelf format => Sys2Proof.Machine.execShelfPitch src group shelf format s
  | .autopitch shelf => Sys2Proof.Machine.execAutopitch shelf s
  | .shelfPitchDone shelf found => Sys2Proof.Machine.execShelfPitchDone shelf found s
  | .hostMemRequest group ld write dpa data mask => Sys2Proof.Machine.execHostMemRequest group ld write dpa data mask s
  | .fundamentalReset group => Sys2Proof.Machine.execFundamentalReset group s
  | .hotReset group ld => Sys2Proof.Machine.execHotReset group ld s
  | .flr group ld => Sys2Proof.Machine.execFlr group ld s
  | .upstreamSurpriseDown port => Sys2Proof.Machine.execUpstreamSurpriseDown port s
  | .upstreamLinkUp port rate width flit mld => Sys2Proof.Machine.execUpstreamLinkUp port rate width flit mld s
  | .hostRelease group ld => Sys2Proof.Machine.execHostRelease group ld s
  | .forceRelease src group ld => Sys2Proof.Machine.execForceRelease src group ld s
  | .identifyMemoryDevice group ld => Sys2Proof.Machine.execIdentifyMemoryDevice group ld s
  | .getHealthInfo group ld => Sys2Proof.Machine.execGetHealthInfo group ld s
  | .getEventRecords group ld log => Sys2Proof.Machine.execGetEventRecords group ld log s
  | .clearEventRecords group ld log handles => Sys2Proof.Machine.execClearEventRecords group ld log handles s
  | .getEventInterruptPolicy group ld => Sys2Proof.Machine.execGetEventInterruptPolicy group ld s
  | .setEventInterruptPolicy group ld policy => Sys2Proof.Machine.execSetEventInterruptPolicy group ld policy s
  | .getSupportedLogs group ld => Sys2Proof.Machine.execGetSupportedLogs group ld s
  | .getLog group ld => Sys2Proof.Machine.execGetLog group ld s
  | .getTimestamp group ld => Sys2Proof.Machine.execGetTimestamp group ld s
  | .setTimestamp group ld ns => Sys2Proof.Machine.execSetTimestamp group ld ns s
  | .getLdInfo port => Sys2Proof.Machine.execGetLdInfo port s
  | .getLdAllocations port => Sys2Proof.Machine.execGetLdAllocations port s
  | .setLdAllocations port => Sys2Proof.Machine.execSetLdAllocations port s
  | .unsupportedCommand group ld opcode => Sys2Proof.Machine.execUnsupportedCommand group ld opcode s
  | .ltrSend group ld => Sys2Proof.Machine.execLtrSend group ld s
  | .meshHeaderError die inst => Sys2Proof.Machine.execMeshHeaderError die inst s
  | .traceClear src die inst => Sys2Proof.Machine.execTraceClear src die inst s
  | .coalesceWindowEnd => Sys2Proof.Machine.execCoalesceWindowEnd s
  | .getEvents => Sys2Proof.Machine.execGetEvents s
  | .ackEvents seq => Sys2Proof.Machine.execAckEvents seq s
  | .getStatus => Sys2Proof.Machine.execGetStatus s
  | .getStore slot => Sys2Proof.Machine.execGetStore slot s
  | .ackAlarm => Sys2Proof.Machine.execAckAlarm s
  | .alertPendClear src => Sys2Proof.Machine.execAlertPendClear src s
  | .clearBank0 src => Sys2Proof.Machine.execClearBank0 src s
  | .clearBank1 src => Sys2Proof.Machine.execClearBank1 src s
  | .clearGeneral src => Sys2Proof.Machine.execClearGeneral src s
  | .ringHeadWrite src head => Sys2Proof.Machine.execRingHeadWrite src head s
  | .rakeRead q errs ecs late => Sys2Proof.Machine.execRakeRead q errs ecs late s
  | .pmCounterOverflow c n rest => Sys2Proof.Machine.execPmCounterOverflow c n rest s
  | .uncoreOverflow die inst n rest => Sys2Proof.Machine.execUncoreOverflow die inst n rest s
  | .tagSelect c => Sys2Proof.Machine.execTagSelect c s
  | .tagRecord c r => Sys2Proof.Machine.execTagRecord c r s
  | .pmuSnapshot die inst => Sys2Proof.Machine.execPmuSnapshot die inst s
  | .thermalControlTick temps => Sys2Proof.Machine.execThermalControlTick temps s
  | .powerControlTick power => Sys2Proof.Machine.execPowerControlTick power s
  | .thermtrip => Sys2Proof.Machine.execThermtrip s
  | .avsFault => Sys2Proof.Machine.execAvsFault s
  | .railLost rail => Sys2Proof.Machine.execRailLost rail s
  | .lifeAccrual => Sys2Proof.Machine.execLifeAccrual s
  | .lifeSave => Sys2Proof.Machine.execLifeSave s
  | .tapReset => Sys2Proof.Machine.execTapReset s
  | .tapIdcode => Sys2Proof.Machine.execTapIdcode s
  | .tapSamplePreload => Sys2Proof.Machine.execTapSamplePreload s
  | .tapExtest => Sys2Proof.Machine.execTapExtest s
  | .tapClamp => Sys2Proof.Machine.execTapClamp s
  | .tapHighz => Sys2Proof.Machine.execTapHighz s
  | .tapIjtag => Sys2Proof.Machine.execTapIjtag s
  | .tapBypass code => Sys2Proof.Machine.execTapBypass code s
  | .pairFenceInHigh => Sys2Proof.Machine.execPairFenceInHigh s
  | .shelfReadComplete shelf page unit intact => Sys2Proof.Machine.execShelfReadComplete shelf page unit intact s
  | .hostConfigWrite group ld w => Sys2Proof.Machine.execHostConfigWrite group ld w s
  | .eraseWindowExpiry ch n old => Sys2Proof.Machine.execEraseWindowExpiry ch n old s
  | .captureDr data => Sys2Proof.Machine.execCaptureDr data s

end Sys2Proof.Machine
end

