-- ==== Sys2Proof/Safety.lean ====
section
/-! DEFINITION. The terms claims are made in: what a command leaves, what it leaves alone, who may write a page, and the invariant
every step keeps. -/
namespace Sys2Proof.Machine

/-- The command's own effect leaves machine m: the next state is m once the errors and events it raised (`m.errs`, `m.evs`)
have gone through the Lantern paths and the catalogue copies show it. -/
def Leaves (c : Instr) (s : State) (m : Mach) : Prop := exec c s = .next (s.close m.leave)

/-- The command's own effect leaves a machine of which P holds. -/
def Does (c : Instr) (s : State) (P : Mach → Prop) : Prop := ∃ m, Leaves c s m ∧ P m

/-- No bit of a control-space register has changed but those listed: the offset of a register in the control region and a mask
of its bits. -/
def RegsBut (s : State) (ks : List (Nat × Nat)) (m : Mach) : Prop :=
  ∀ k, ∀ i < 64, (∀ e ∈ ks, e.1 = k → e.2.testBit i = false) → (m.reg k).testBit i = (s.mach.reg k).testBit i

/-- No control-space register has changed outside the pages listed, by their offset in the control region. -/
def PagesBut (s : State) (ps : List Nat) (m : Mach) : Prop := ∀ k, k / 4096 * 4096 ∉ ps → m.reg k = s.mach.reg k

/-- Nothing but bits of control-space registers differs from the state before, and of those only the ones listed: no storage, no
pin, no queue, no core, and nothing raised. -/
def OnlyRegs (s : State) (ks : List (Nat × Nat)) (m : Mach) : Prop := RegsBut s ks m ∧ m = { s.mach with regs := m.regs }

/-- Offset of the register a field lies in. -/
def Fld.key (f : Fld) (inst : Nat := 0) (die : Nat := 12) : Nat := pageOff die f.blk inst + f.off

/-- Offset of a register of a page's header. -/
def hkey (f : Fld) (b : Block) (inst : Nat := 0) (die : Nat := 12) : Nat := pageOff die b inst + f.off

/-- A field's register and bits, as a frame lists them. -/
def Fld.bits (f : Fld) (inst : Nat := 0) (die : Nat := 12) : Nat × Nat := (f.key inst die, (2 ^ f.w - 1) * 2 ^ f.lo)

/-- Register and bits of a field of a page's header. -/
def hbits (f : Fld) (b : Block) (inst : Nat := 0) (die : Nat := 12) : Nat × Nat := (hkey f b inst die, (2 ^ f.w - 1) * 2 ^ f.lo)

/-- A whole register, as a frame lists it. -/
def whole (k : Nat) : Nat × Nat := (k, 2 ^ 64 - 1)

/-- What the FWVERIFY channel leaves of the chunks it has processed, with or without a tag failure at the last (R305, R333, R345): the use of
the fused key, the counts of Q0's CIPH instance. -/
def FwUsed (s : State) (chunks : List Chunk) (fails : Nat) (m : Mach) : Prop :=
  m.slot 0 = { s.mach.slot 0 with use := min (2 ^ 48 - 1) ((s.mach.slot 0).use + chunks.length) } ∧ (∀ n, n ≠ 0 → m.slot n = s.mach.slot n) ∧
  m.get R.CIPH_MESSAGES_COUNT = (s.mach.get R.CIPH_MESSAGES_COUNT + chunks.length) % 2 ^ R.CIPH_MESSAGES_COUNT.w ∧
  m.get R.CIPH_BYTES_COUNT = (s.mach.get R.CIPH_BYTES_COUNT + (chunks.map (fun c => c.cipher.length)).foldl (· + ·) 0) % 2 ^ R.CIPH_BYTES_COUNT.w ∧
  m.get R.CIPH_AUTH_FAIL_PRIVILEGED = (s.mach.get R.CIPH_AUTH_FAIL_PRIVILEGED + fails) % 2 ^ R.CIPH_AUTH_FAIL_PRIVILEGED.w

/-- The registers `FwUsed` is about. -/
def fwRegs : List (Nat × Nat) := [R.CIPH_MESSAGES_COUNT.bits, R.CIPH_BYTES_COUNT.bits, R.CIPH_AUTH_FAIL_PRIVILEGED.bits]

/-- A copy verifies: its header names major 1 and the tag of every chunk is right (R92). -/
abbrev FwGood (s : State) (chunks : List Chunk) : Prop :=
  (s.mach.slot 0).limit = 0 ∧ ∀ c ∈ chunks, c.cipher.length ≤ 65536 ∧ (s.mach.fwOpen c).isSome = true

/-- A copy is rejected after n of its chunks: by its header, or by the tag of the last of them (R30, R92). -/
abbrev FwBad (s : State) (major : Byte) (chunks : List Chunk) (n fails : Nat) : Prop :=
  (s.mach.slot 0).limit = 0 ∧ ((major ≠ 1 ∧ n = 0 ∧ fails = 0) ∨
    (major = 1 ∧ 0 < n ∧ n ≤ chunks.length ∧ fails = 1 ∧ (∀ c ∈ chunks.take n, c.cipher.length ≤ 65536) ∧
      (∀ c ∈ chunks.take (n - 1), (s.mach.fwOpen c).isSome = true) ∧ (chunks[n - 1]?.bind s.mach.fwOpen) = none))

/-- Two tables agree but at the keys listed. -/
def TblBut {α : Type} (t : Tbl α) (ks : List Nat) (u : Tbl α) : Prop := ∀ k, k ∉ ks → u.find k = t.find k

/-- The page map agrees but for the pages listed, and so do the lines of the map cache that are dirty but for theirs (R237, R241). -/
def MapBut (s : State) (ps : List Nat) (m : Mach) : Prop :=
  TblBut s.dev.pmap (ps.map (· / 4096)) m.pmap ∧
    ∀ l, l ∉ ps.map (fun p => s.mach.entryLda p / 64) → m.mapDirty.contains l = s.dev.mapDirty.contains l

/-- A page that has been given a new place has no failed encoding any more, and nothing else of the tier engines has changed (R289). -/
def Unfailed (s : State) (p : Nat) (m : Mach) : Prop :=
  ∀ j, m.tq j = { s.mach.tq j with
    failed := if j = homeOf p then (s.mach.tq j).failed.filter (· != p) else (s.mach.tq j).failed }

/-- The command writes no byte of storage but those of which P holds. -/
def WritesOnly (s : State) (P : Nat → Prop) (m : Mach) : Prop := ∀ a, ¬ P a → m.byte a = s.mach.byte a

/-- A source may write a page's block-specific registers: the package is past AUX, the page is populated and its die up, the
source is privileged enough, and the block is not struck (R36, R40, R41, R61, R62). -/
abbrev MayWrite (s : State) (src : Src) (die : Nat) (b : Block) (inst : Nat) : Prop :=
  2 ≤ s.mach.mode ∧ inst < instances s.fuses die b ∧ die < 13 ∧ (die < 12 → s.mach.dieUp die = true) ∧
    Mach.isHigh src = true ∧ (b = .mgmt ∨ b = .tap → Mach.isMc src = true) ∧ s.mach.hon R.HDR_STATUS_STRUCK b inst die = false

/-- A source may write a page's header: as for its other registers, but a struck block's header too (R62), and the management controller's
in AUX too. -/
abbrev MayHead (s : State) (src : Src) (die : Nat) (b : Block) (inst : Nat) : Prop :=
  (2 ≤ s.mach.mode ∨ s.mach.mode = 1 ∧ Mach.isMc src = true) ∧ inst < instances s.fuses die b ∧ die < 13 ∧ (die < 12 → s.mach.dieUp die = true) ∧
    Mach.isHigh src = true ∧ (b = .mgmt ∨ b = .tap → Mach.isMc src = true)

/-- Offsets of registers of a page that a store gives an effect beyond their fields, or whose value is held elsewhere. -/
def acting (b : Block) (off : Nat) : Bool :=
  let among (l : List (Nat × Nat)) : Bool := l.any (fun e => decide (e.1 ≤ off) && decide (off < e.2))
  decide (off < 0x100) || off == recBase b || match b with
  | .pkg => among [(0x108, 0x110), (0x118, 0x120), (0x138, 0x140), (0x300, 0x308), (0x318, 0x330)]
  | .lant => among [(0x110, 0x118), (0x130, 0x138), (0x168, 0x170), (0x1A8, 0x1B0)]
  | .core => among [(0x100, 0x108), (0x118, 0x120)]
  | .l3 => off == 0x108
  | .fab => among [(0x140, 0x1C8)]
  | .home => off == 0x118
  | .msc => off == 0x118
  | .ddr => off == 0x138
  | .tier => among [(0x1D0, 0x1D8), (0x800, 0xC00)]
  | .codec => off == 0x198
  | .ten => among [(0x100, 0x110), (0x408, 0x438), (0x808, 0x820), (0x900, 0xA00)]
  | .seed => among [(0x118, 0x120), (0x130, 0x138), (0x150, 0x158), (0x1C0, 0x1C8)]
  | .guy => off == 0x110
  | .pg => among [(0x100, 0x108), (0x110, 0x150), (0x280, 0x288)]
  | .ep => among [(0x100, 0x300)]
  | _ => false

/-- The instruction stream of a core goes on: its die is up and not being struck or parked, the core runs and waits for no
device load, DURSYNC or TLBI (R80, R81, R101, R111, R123, R149). -/
abbrev Ready (s : State) (c : Cid) : Prop :=
  s.mach.issuing (Mach.cidOf c) = true ∧ s.mach.devLoading (Mach.cidOf c) = false ∧ s.mach.waitsAt (Mach.cidOf c) = false ∧
    c.core.val < s.fuses.coresPerDie

/-- A core takes its next instruction, every older one retired (R114, R117). -/
abbrev Runs (s : State) (c : Cid) : Prop := Ready s c ∧ (s.mach.core (Mach.cidOf c)).flight = []

/-- The package enters a mode: MODE, PREV_MODE, TRANSITIONS and DRAINED, and one MODE event (R69, R501). -/
def Enters (s : State) (new : Nat) (m : Mach) : Prop :=
  m.mode = new ∧ m.get R.PKG_MODE_PREV_MODE = s.mach.mode ∧
    m.get R.PKG_MODE_TRANSITIONS = (s.mach.get R.PKG_MODE_TRANSITIONS + 1) % 2 ^ 16 ∧ m.get R.PKG_MODE_DRAINED = 0 ∧
    m.evs = [⟨2, 1, 12, .pkg, 0, none, new + 16 * s.mach.mode, 0⟩]

/-- Nothing waits for the tier engines or for a durable write: no strike, TIER command, promotion or held request is under way,
no dormant record is in a journal, and no DURSYNC waits at a home. -/
abbrev Quiet (s : State) : Prop :=
  (∀ e ∈ s.dev.shelves, e.2.phase = 0) ∧
    (∀ q < 4, (s.mach.tq q).cmd = none ∧ (s.mach.tq q).want = [] ∧ (s.mach.tq q).held = []) ∧
    (∀ r ∈ s.dev.journal, r.kind ≠ 1) ∧ (∀ t ∈ s.dev.htx, t.fill ≠ 2 ∧ t.fill ≠ 5) ∧ s.dev.hq = [] ∧ s.dev.durWaits = []

/-- Quiet, and no rotation of keys is under way (R335, R341). -/
abbrev Idle (s : State) : Prop := Quiet s ∧ s.mach.on R.SEED_SHEDROT_ACTIVE = false ∧ s.mach.on R.SEED_MEMROT_ACTIVE = false

/-- No performance counter of a core is enabled, so that nothing it does is counted (R513, R514). -/
abbrev NoCount (s : State) (c : Cid) : Prop := bitsOf (s.mach.sreg (Mach.cidOf c) 0x101) 0 8 = 0

/-- The machine as an access of a core finds it that is issued with none before it. -/
def Alone (s : State) (c : Cid) (a : Access) : Mach := s.mach.setFlight (Mach.cidOf c) [⟨a, .waiting []⟩]

/-- An address is translated at once, the tables' entries or the translation being at hand: to a system-physical address and a memory
type (R130, R143, R146). -/
abbrev Reaches (m : Mach) (c : Cid) (k : Mach.AKind) (va spa mt : Nat) : Prop :=
  (m.translateVa (Mach.cidOf c) va k).1 = m ∧ (m.translateVa (Mach.cidOf c) va k).2.toOption = some (spa, mt)

/-- The n bytes of an access are translated at once: the address of each, and their memory type. -/
abbrev ReachesAll (m : Mach) (c : Cid) (k : Mach.AKind) (va n : Nat) (bs : List Nat) (mt : Nat) : Prop :=
  (m.translateBytes (Mach.cidOf c) va n k).1 = m ∧ (m.translateBytes (Mach.cidOf c) va n k).2.toOption = some (bs, mt)

/-- A core of the die may read the line: the die holds it with good data, and no other core's durable write of it waits to be sent
(R190, R386). -/
abbrev Holds (s : State) (c : Cid) (l : Nat) : Prop :=
  Mach.readableLine (s.mach.dl c.die.val l) = true ∧ Mach.dwElsewhere (s.mach.dl c.die.val l) (Mach.cidOf c) = false ∧ (s.mach.dl c.die.val l).poison = false

/-- A core of the die may write the line: the die owns it, and no other core's durable write of it waits to be sent (R181, R386). -/
abbrev Owns (s : State) (c : Cid) (l : Nat) : Prop :=
  Mach.owned (s.mach.dl c.die.val l).st = true ∧ Mach.dwElsewhere (s.mach.dl c.die.val l) (Mach.cidOf c) = false

/-- A core's L2 and its L1D alone hold the line, which the die's L3 does not hold (R159): an access by va fills no cache. -/
abbrev InL1 (s : State) (c : Cid) (l va : Nat) : Prop :=
  (s.mach.dl c.die.val l).l2 = [c.core.val] ∧ (s.mach.dl c.die.val l).l3 = none ∧ (c.core.val, false, va / 4096 % 2) ∈ (s.mach.dl c.die.val l).l1

/-- A byte as a core's load finds it: in its store buffer, else in its die's line (R112). -/
def loadByte (s : State) (c : Cid) (a : Nat) : Byte :=
  (s.mach.sbByte (Mach.cidOf c) a).getD (BitVec.ofNat 8 (bitsOf (s.mach.dl c.die.val (a / 64)).data.toNat (8 * (a % 64)) 8))

/-- Nothing but one core differs from the state before, and nothing was raised. -/
def OnlyCore (s : State) (c : Cid) (m : Mach) : Prop :=
  (∀ k, k ≠ Mach.cidOf c → m.core k = s.mach.core k) ∧ m = { s.mach with cores := m.cores }

/-- A core takes an exception of class cls to level lvl (R127, R129): ESAVE, EPC, ESYND, PL, IE and the vector; EADDR alone is not
said here. Its waiting accesses are given up, it waits at no DURSYNC or TLBI any more, and nothing else changes. -/
def Excepts (s : State) (c : Cid) (lvl cls syn epc : Nat) (m : Mach) : Prop :=
  let k := Mach.cidOf c
  let old := s.mach.core k
  m.core k = { old with
    pl := lvl, ie := false, run := .running, pc := (m.core k).pc, sr := (m.core k).sr, sb := [], flight := []
    sync := old.sync.map (fun y => { y with here := false }) } ∧
    m.pcOf k = (s.mach.sreg k (0x10 * lvl) + cls * 2 ^ 7) % 2 ^ 64 ∧
    m.sreg k (0x10 * lvl + 4) = (old.pl + old.ie.toNat * 4) % 2 ^ 64 ∧ m.sreg k (0x10 * lvl + 1) = epc ∧ m.sreg k (0x10 * lvl + 2) = syn ∧
    (∀ n, n ∉ [0x10 * lvl + 1, 0x10 * lvl + 2, 0x10 * lvl + 3, 0x10 * lvl + 4] → m.sreg k n = s.mach.sreg k n) ∧
    (∀ j, j ≠ k → m.core j = s.mach.core j) ∧
    (∀ d l, m.dl d l = { s.mach.dl d l with wait := (s.mach.dl d l).wait.filter (fun w => w.1 != k || w.2 == .drain) }) ∧
    m = { s.mach with
      cores := m.cores, lines := m.lines, free := m.free
      tlbis := s.dev.tlbis.map (fun t => if t.cid = k then { t with here := false } else t) }

/-- No uncore counter is enabled, so that nothing a block does is counted (R522). -/
abbrev NoUncore (s : State) : Prop := ∀ page < 4, ∀ die < 13, s.mach.get R.PMU_UGLOBAL_EN page die = 0

/-- A home takes what arrives for a line at once: the domain is up, nothing waits, no transaction of the line is open, its tenant
is not one of the attached foreign ones (R193, R200), and no counter is enabled. -/
abbrev AtHome (s : State) (l : Nat) : Prop :=
  s.mach.homeUp = true ∧ Idle s ∧ NoUncore s ∧ (∀ t ∈ s.dev.htx, t.req.line ≠ l) ∧ s.mach.isForeign l = false

/-- The line lies in a managed page that no write has reached: TIER Bed, STATE Zero (R240), no copy in the MSC. -/
abbrev ZeroPage (s : State) (l : Nat) : Prop :=
  s.mach.managed (l * 64) = true ∧ s.mach.tierReady (homeOf (l * 64)) = true ∧ s.mach.mapUnreadable (pageOf (l * 64)) = false ∧
    eTier (s.mach.entry (pageOf (l * 64))) = tierBed ∧ eState (s.mach.entry (pageOf (l * 64))) = stZero ∧ s.mach.mscLine l = none

/-- The line lies in a page of the Bed that no move concerns, its channel READY, no copy of it in the MSC (R197, R237). -/
abbrev BedPage (s : State) (l : Nat) : Prop :=
  s.mach.managed (l * 64) = true ∧ s.mach.tierReady (homeOf (l * 64)) = true ∧ s.mach.mapUnreadable (pageOf (l * 64)) = false ∧
    eState (s.mach.entry (pageOf (l * 64))) = stStable ∧ eTier (s.mach.entry (pageOf (l * 64))) = tierBed ∧
    s.mach.moveOf (pageOf (l * 64)) = none ∧ s.mach.mscLine l = none ∧
    s.mach.chanReady (Mach.bedLda (eLoc (s.mach.entry (pageOf (l * 64)))) (l * 64)) = true

/-- No compute die holds a durable write of the line that its home has not had (R385, R386). -/
abbrev NoDw (s : State) (l : Nat) : Prop := ∀ d < 12, (s.mach.dl d l).writers = []

/-- A line that a non-caching agent may write at once (R195): in a page of Bed that is not durable, held by a compute die with the
value old, nothing open for it and no durable write of it waiting there. a is where it lies in storage. -/
abbrev Target (s : State) (l a : Nat) (old : Line) : Prop :=
  BedPage s l ∧ s.mach.lineBusy l = false ∧ eDur (s.mach.entry (pageOf (l * 64))) = false ∧ s.mach.ownerLine l = some (old, false) ∧ NoDw s l ∧
    a = Mach.bedLda (eLoc (s.mach.entry (pageOf (l * 64)))) (l * 64)

/-- Lines have taken values (line, where it lies, value), and nothing else of storage has changed: no die and no filter holds such a
line any more. -/
def Stored (s : State) (ws : List (Nat × Nat × Line)) (m : Mach) : Prop :=
  (∀ w ∈ ws, m.lineAt w.2.1 = w.2.2 ∧ m.metaOf w.2.1 = ⟨false, [], some (s.mach.bedEnc (w.1 * 64))⟩ ∧ m.filter.find w.1 = none) ∧
    WritesOnly s (fun x => ∃ w ∈ ws, w.2.1 ≤ x ∧ x < w.2.1 + 64) m ∧ TblBut s.dev.lineMeta (ws.map (fun w => w.2.1 / 64)) m.lineMeta ∧
    (∀ k, m.lines.find k = if k % 2 ^ 42 ∈ ws.map (fun w => w.1) then none else s.dev.lines.find k) ∧
    TblBut s.dev.filter (ws.map (fun w => w.1)) m.filter

/-- Key slots of the memory pair that count the writes of lines. -/
def memSlots (s : State) (ws : List (Nat × Nat × Line)) : List Nat := ws.map (fun w => s.mach.memSlot (pageOf (w.1 * 64)) (w.1 % 64))

/-- The word of a system instruction: MAJOR 0x3D, MINOR, A, B, D and X (R121). -/
def sysWord (minor a b d x : Nat) : BitVec 32 := BitVec.ofNat 32 (0x3D * 2 ^ 26 + minor * 2 ^ 20 + a * 2 ^ 15 + b * 2 ^ 10 + d * 2 ^ 5 + x)

/-- The bytes of n lines' worth of memory from an address up, as the compute dies hold them. -/
def ownedBytes (s : State) (a n : Nat) : List Byte :=
  ((((List.range (linesIn a n)).flatMap (fun i => (s.mach.ownerLine (a / 64 + i)).elim [] (fun l => bytesOf 64 l.1.toNat))).drop (a % 64)).take n)

/-- The part of n bytes of a tenant's memory that lies in the i-th line they meet, where a compute die holds that line. -/
def partOf (s : State) (t a n i : Nat) : Option (List Byte) :=
  let lo := max a ((a / 64 + i) * 64)
  match (s.mach.lookup (s.mach.tenant t).rset (lo % 2 ^ 64) false).2 with
  | .ok spa =>
    match s.mach.ownerLine (spa / 64) with
    | some (l, false) => some (((bytesOf 64 l.toNat).drop (spa % 64)).take (min (a + n) ((a / 64 + i + 1) * 64) - lo))
    | _ => none
  | .error _ => none

/-- What a tenant's address is mapped to, where it is open to a read or a write (R154). -/
def viewed (s : State) (t a : Nat) (write : Bool) : Option Nat := (s.mach.lookup (s.mach.tenant t).rset (a % 2 ^ 64) write).2.toOption

/-- A descriptor of tenant t reads bs at n bytes from a up: every address is mapped and readable, and compute dies hold the lines. -/
abbrev Source (s : State) (t a n : Nat) (bs : List Byte) : Prop :=
  s.dev.rstale = [] ∧ (∀ i < linesIn a n, (partOf s t a n i).isSome = true) ∧
    bs = (List.range (linesIn a n)).flatMap (fun i => (partOf s t a n i).getD [])

/-- A descriptor of tenant t writes n bytes from a up: they lie in one line, mapped and writable, that a compute die holds. -/
abbrev Dest (s : State) (t a n spa la : Nat) (old : Line) : Prop :=
  s.dev.rstale = [] ∧ 0 < n ∧ a % 64 + n ≤ 64 ∧ viewed s t a true = some spa ∧ Target s (spa / 64) la old

/-- A line after bytes were written at an address in it. -/
def putIn (old : Line) (spa : Nat) (b : List Byte) : Line :=
  Mach.mergeLine old (BitVec.ofNat 512 (ofBytes b * 2 ^ (8 * (spa % 64)))) ((2 ^ b.length - 1) * 2 ^ (spa % 64))

/-- Queue n starts its next descriptor, d of tenant t with this opcode, on pipe p where it has a message for one (R368): all its
fields are allowed, and the pipe is idle. -/
abbrev Starts (s : State) (n op t : Nat) (d : Desc) (p : Option Nat) : Prop :=
  s.mach.canStart n = some (t, d, p) ∧ d.op = op ∧
    (d.urgent = true ∨ s.mach.urgentElsewhere n = false ∧ s.mach.turnOf (s.mach.queue n).quad = some n) ∧
    Mach.badParam (s.mach.queue n) d = false ∧ Idle s ∧ NoUncore s ∧ (∀ k ∈ p, (s.mach.pipe (s.mach.queue n).quad k).run = none)

/-- A descriptor that places no message has none. -/
def noText : MsgText := ⟨[], [], []⟩

/-- The descriptor has run: it stands last among the started ones with its status and BYTES_OUT, its message on its pipe with the key
slot and GEN, the queue has had its turn where it is not urgent (R368), and the instance has counted it, the bytes it read and those it
wrote. -/
def Ran (s : State) (n t : Nat) (d d' : Desc) (p : Option Nat) (key : Option (Nat × Nat)) (x : MsgText) (input : Nat) (m : Mach) : Prop :=
  let q := s.mach.queue n
  m.queue n = { q with live := q.live.drop 1, run := q.run ++ [{ d' with pipe := p }] } ∧ (∀ k, k ≠ n → m.queue k = s.mach.queue k) ∧
    m.arb = (if d.urgent then s.dev.arb else (s.mach.tookTurn q.quad t n).arb) ∧
    m.turns = (if d.urgent then s.dev.turns else (s.mach.tookTurn q.quad t n).turns) ∧
    (match p with
      | none => m.pipes = s.dev.pipes
      | some k => m.pipe q.quad k = { s.mach.pipe q.quad k with run := some ⟨n, d.seq, key, d.urgent, false, Mach.cmode d, x.iv, x.aad, x.text, x.text.length, 0, ⟨0, 0, 0, 0⟩⟩ } ∧
          TblBut s.dev.pipes [q.quad * 8 + k] m.pipes) ∧
    m.get R.BULK_STARTED_COUNT q.quad = (s.mach.get R.BULK_STARTED_COUNT q.quad + 1) % 2 ^ R.BULK_STARTED_COUNT.w ∧
    m.get R.BULK_BYTES_IN_COUNT q.quad = (s.mach.get R.BULK_BYTES_IN_COUNT q.quad + input) % 2 ^ R.BULK_BYTES_IN_COUNT.w ∧
    m.get R.BULK_BYTES_OUT_COUNT q.quad = (s.mach.get R.BULK_BYTES_OUT_COUNT q.quad + min d'.out (Mach.outLen d)) % 2 ^ R.BULK_BYTES_OUT_COUNT.w

/-- A home has met a request for a page of Bed (R246): its AGE may go to 0, and the sampler has counted. -/
def Touched (s : State) (l : Nat) (m : Mach) : Prop :=
  MapBut s [pageOf (l * 64)] m ∧
    (m.entry (pageOf (l * 64)) = s.mach.entry (pageOf (l * 64)) ∨ m.entry (pageOf (l * 64)) = eSetAge (s.mach.entry (pageOf (l * 64))) 0) ∧
    ∀ q, m.tq q = { s.mach.tq q with sample := (m.tq q).sample }

/-- Homes have met requests for pages (R246): an AGE may have gone to 0 and the samplers have counted, and nothing else of the map or of the
tier engines has changed. -/
def Aged (s : State) (m : Mach) : Prop :=
  (∀ p, m.entry p = s.mach.entry p ∨ m.entry p = eSetAge (s.mach.entry p) 0) ∧ ∀ q, m.tq q = { s.mach.tq q with sample := (m.tq q).sample }

/-- The message in flight that an arriving packet stands for. -/
abbrev Flies (s : State) (k : MsgK) (p : Packet) (g : Msg) : Prop :=
  s.dev.net.find? (fun g => g.k == k && g.src == p.src.val && g.dst == p.dst.val && g.line == p.line.toNat) = some g

/-- A numbered frame of the next FSEQ reaches a Guyline port that is up, its CRC over its bytes (R424, R426); it asks for no replay. -/
abbrev Arrives (s : State) (n kind : Nat) (h : FrameHdr) (stream : Nat) (payload : List Byte) : Prop :=
  s.mach.guyUp n = true ∧ h.nak = false ∧ Wire.crc32 (Mach.frameBytes kind h stream payload) = h.crc.toNat ∧ h.fseq.toNat = (s.mach.guy n).expect

/-- A Guyline port that has taken a frame: the frame's ACKSEQ and credits, the next FSEQ, no NAK. -/
def tookFrame (g : GuyPort) (h : FrameHdr) : GuyPort :=
  { g with acked := h.ackseq.toNat, credits := min 1024 (g.credits + h.credits.toNat), expect := (g.expect + 1) % 2 ^ 16, nak := false }

/-- A function whose state has been reset (R463): its HDM decoder and the response on its link are as given; the LTR values, the
DROPS counts, its part in a handback, an FLR under way and its catalogue stay. -/
def Wiped (x : LdFn) (hdm : Option (Nat × Nat)) (resp : Option HostResp) : LdFn :=
  { Mach.ldReset with
    hdm := hdm, resp := resp, lastMsg := x.lastMsg, msgs := x.msgs, ltrLast := x.ltrLast, ltrSent := x.ltrSent, ltrAt := x.ltrAt
    dropsN := x.dropsN, dropsM := x.dropsM, draining := x.draining, released := x.released, flr := x.flr, change := x.change, cat := x.cat }

/-- The fields of an error are within their widths, and its page exists (R35, R491). -/
abbrev RealErr (e : ErrRec) : Prop := e.sev < 4 ∧ e.cause < 256 ∧ e.inst < 64 ∧ ∀ t ∈ e.tenant, t < 2 ^ 11

/-- The registers of one error record from offset k up hold an error, with its SEQ and the time of its detection (R491). -/
def RecordAt (m : Mach) (k : Nat) (e : ErrRec) (seq time : Nat) : Prop :=
  let st := m.reg k
  st % 2 = 1 ∧ bitsOf st 1 2 = e.sev ∧ bitsOf st 3 8 = e.cause ∧ bitsOf st 11 1 = e.addr.isSome.toNat ∧
    bitsOf st 12 1 = e.injected.toNat ∧ bitsOf st 13 11 = e.tenant.getD 0 ∧ bitsOf st 24 1 = e.tenant.isSome.toNat ∧
    bitsOf st 25 7 = 0 ∧ bitsOf st 32 32 = seq ∧ m.reg (k + 8) = e.addr.getD 0 % 2 ^ 64 ∧ m.reg (k + 0x10) = e.info % 2 ^ 64 ∧
    m.reg (k + 0x18) = time % 2 ^ 64

/-- A valid range block covers a tenant-visible address (R154). -/
abbrev Covers (b : RBlock) (a : Nat) : Prop := b.v = true ∧ b.base ≤ a ∧ a < b.base + (b.unitsM1 + 1) * 2 ^ 21

/-- What every step keeps: storage in its canonical form, and the fused values. -/
abbrev Inv (fu : Fuses) (s : State) : Prop := s.mem.wf = true ∧ s.fuses = fu

end Sys2Proof.Machine
end

