-- ==== Sys2Proof/WellFormed.lean ====
section
/-! DEFINITION. Which commands are well formed: the sizes of what a command carries, which the spec fixes and the types do not. -/
namespace Sys2Proof

def nodup {α : Type} [DecidableEq α] : List α → Bool
  | [] => true
  | x :: r => !r.contains x && nodup r

/-- Registers of a configuration record lie on multiples of 8 (R37). -/
def configWf (c : List (BitVec 28 × Word)) : Bool := c.all (fun e => e.1.toNat % 8 == 0)

/-- Symbol errors of a line: one a position, none of them zero (R219). -/
def errsWf (e : List (Fin 80 × Byte)) : Bool := nodup (e.map (·.1)) && e.all (fun x => x.2 != 0)

/-- A chunk of a firmware image has a tag of 16 bytes (R92). -/
def Chunk.wf (c : Chunk) : Bool := c.tag.length == 16

/-- A device's request moves at least one byte and at most 4 KiB. -/
def DevReq.wf : DevReq → Bool
  | .read _ len => len.val != 0
  | .write _ d => d.length != 0 && decide (d.length ≤ 4096)

/-- A well-formed command. The others have no operand that a type does not bound. -/
def Instr.wf : Instr → Bool
  | .mcImageVerified _ _ chunks _ config => chunks.all Chunk.wf && configWf config
  | .bootImageVerified _ _ _ chunks => chunks.all Chunk.wf
  | .load _ _ _ _ kind ilen => decide (kind = .fetch) || ilen.val != 0
  | .store _ _ _ _ ilen => ilen.val != 0
  | .memRd _ _ errs => errsWf errs
  | .tenCreate _ _ cfg => cfg.keys.length == 8
  | .tenResize _ _ cfg => cfg.keys.length == 8
  | .hello h => h.keyToPeer.length == h.keyFromPeer.length
  | .mirrorBatch _ b => b.tag.length == 16
  | .hylarFlit _ _ flit _ _ => flit.length == 88
  | .dataFrame _ _ _ payload => payload.length == 244
  | .ackFrame _ _ entries => decide (entries.length ≤ 14)
  | .statusFrame _ _ _ _ _ data => data.length == 128
  | .deviceRequest _ _ req => req.wf
  | .shelfPitchDone _ found => found.label.length == 64
  | .rakeRead _ errs _ _ => errsWf errs
  | .thermalControlTick temps => nodup (temps.map (·.1))
  | .refclkLoss .. | .rootPllLock .. | .holdoverRelock .. | .pstateReqWrite .. | .pstateSwitch .. | .registerWrite ..
  | .blockEnable .. | .blockDisable .. | .quiesce .. | .blockStarted .. | .blockStopped .. | .blockReset ..
  | .commitGo .. | .commitCancel .. | .safePointApply .. | .errorInject .. | .standbyPowerOn .. | .standbyPowerLost ..
  | .coldReset .. | .bringupStart .. | .modeReqSolo .. | .modeReqMaintenance .. | .modeReqAppliance ..
  | .modeReqDrain .. | .modeReqReturn .. | .modeReqWarmreset .. | .modeReqPowerdown .. | .drainComplete ..
  | .warmReinitDone .. | .dieStrike .. | .diePitch .. | .diePark .. | .dieRestart .. | .dieFence ..
  | .seedStoreReady .. | .hylarTrained .. | .dieReady .. | .ddrChannelReady .. | .pgReady .. | .glPortReady ..
  | .barkaiReady .. | .tenReady .. | .windowRelease .. | .storeDrain .. | .fenceAll .. | .fenceLd .. | .fenceSt ..
  | .fenceIo .. | .dursync .. | .dursyncComplete .. | .clnL .. | .invL .. | .clninvL .. | .tlbiVa .. | .tlbiTag ..
  | .tlbiAll .. | .ldAcq .. | .stRel .. | .srr .. | .srw .. | .eret .. | .callInsn .. | .waitInsn .. | .undefInsn ..
  | .interrupt .. | .coreRelease .. | .coreDoorbell .. | .nonspecResend .. | .tlbiReq .. | .tlbiAck .. | .rangeInv ..
  | .rangeInvDone .. | .evictionOffer .. | .pruneReqWrite .. | .pruneGroupDone .. | .rdShared .. | .rdOwn ..
  | .upgrade .. | .flush .. | .evict .. | .wbDirty .. | .rdCur .. | .wrLine .. | .wrPart .. | .durWb .. | .durSync ..
  | .snpFwdShared .. | .snpFwdOwn .. | .snpShared .. | .snpOwn .. | .snpInv .. | .snpInvData .. | .snpCur ..
  | .snpClean .. | .dataMsg .. | .grant .. | .dataCur .. | .snpData .. | .invAck .. | .wbAck .. | .cmpAck .. | .cmp ..
  | .refuse .. | .memWr .. | .memData .. | .devRd .. | .devWr .. | .devRsp .. | .snoopTimeout .. | .sweepGo ..
  | .sweepDone .. | .ddrTrainFail .. | .eraseReq .. | .channelLost .. | .tierRead .. | .tierSetAttr .. | .tierAlloc ..
  | .tierFree .. | .tierZero .. | .tierPromote .. | .tierDemote .. | .tierClearPoison .. | .promotionCommit ..
  | .demotionStart .. | .demotionCommit .. | .ageingSweep .. | .strikeEvac .. | .strikeSleep .. | .shelfStrikeDone ..
  | .shelfRelease .. | .shelfLost .. | .wakeRetryExpire .. | .shelfWriteComplete .. | .seedGenerate .. | .seedImport ..
  | .seedExport .. | .seedRetire .. | .seedDestroy .. | .drbgHealthFail .. | .slotUncorrectable .. | .memrotGo ..
  | .memrotAuto .. | .memrotRekey .. | .shedrotGo .. | .shedrotAuto .. | .messageResume .. | .suspendTimeout ..
  | .tenReset .. | .tenantDestroy .. | .tenantWorkDrained .. | .tenAttach .. | .tenDetach .. | .sqDoorbell ..
  | .cqDoorbell .. | .queueStart .. | .queueStop .. | .descriptorFetch .. | .copy .. | .fill .. | .compress ..
  | .decompress .. | .encrypt .. | .decrypt .. | .hash .. | .mac .. | .pack .. | .unpack .. | .promoteHint ..
  | .demoteHint .. | .persist .. | .bulkFence .. | .completionWrite .. | .pairForm .. | .unpair .. | .takeover ..
  | .handback .. | .lineRecord .. | .pageRecord .. | .mapRecord .. | .acceptRecord .. | .completeRecord ..
  | .contextRecord .. | .queueRecord .. | .rangeRecord .. | .keyRecord .. | .syncRecord .. | .mirrorAck ..
  | .fenceTokenIn .. | .fenceWaitExpire .. | .autoTakeoverExpire .. | .handbackReleased .. | .hylarRetrainDone ..
  | .fwdClockLoss .. | .codewordPair .. | .retrainReq .. | .widthReq .. | .widthGrant .. | .trainFrame ..
  | .guyTrainDone .. | .guyRetrain .. | .widthReqWrite .. | .guyRetrainTimeout .. | .downWindowEnd ..
  | .statusRoundTimer .. | .partnerStatusTimeout .. | .beaconTimer .. | .sidebandBeacon .. | .sbPresentTimeout ..
  | .portLinkUp .. | .portLinkDown .. | .completionTimeout .. | .releaseDpc .. | .portRetrain .. | .shelfPitch ..
  | .autopitch .. | .hostMemRequest .. | .fundamentalReset .. | .hotReset .. | .flr .. | .upstreamSurpriseDown ..
  | .upstreamLinkUp .. | .hostRelease .. | .forceRelease .. | .identifyMemoryDevice .. | .getHealthInfo ..
  | .getEventRecords .. | .clearEventRecords .. | .getEventInterruptPolicy .. | .setEventInterruptPolicy ..
  | .getSupportedLogs .. | .getLog .. | .getTimestamp .. | .setTimestamp .. | .getLdInfo .. | .getLdAllocations ..
  | .setLdAllocations .. | .unsupportedCommand .. | .ltrSend .. | .meshHeaderError .. | .traceClear ..
  | .coalesceWindowEnd .. | .getEvents .. | .ackEvents .. | .getStatus .. | .getStore .. | .ackAlarm ..
  | .alertPendClear .. | .clearBank0 .. | .clearBank1 .. | .clearGeneral .. | .ringHeadWrite .. | .pmCounterOverflow ..
  | .uncoreOverflow .. | .tagSelect .. | .tagRecord .. | .pmuSnapshot .. | .powerControlTick .. | .thermtrip ..
  | .avsFault .. | .railLost .. | .lifeAccrual .. | .lifeSave .. | .tapReset .. | .tapIdcode .. | .tapSamplePreload ..
  | .tapExtest .. | .tapClamp .. | .tapHighz .. | .tapIjtag .. | .tapBypass .. | .pairFenceInHigh ..
  | .shelfReadComplete .. | .hostConfigWrite .. | .eraseWindowExpiry .. | .captureDr .. => true

end Sys2Proof
end

