-- ==== Sys2Proof/Certificates/Slice0/Obligations.lean ====
section
/-! DEFINITION. The statements for the provers, taken from the numbered rules of the spec. -/

open Sys2Proof Sys2Proof.Machine Sys2Proof.Machine.Mach


/-- R23, R22, R547, R28, R29: the commands of the clock unit complete. A loss of REFCLK or of lock puts the root PLL into holdover
and every trained channel into self-refresh, raises one Fatal error on the CLK page, and makes FROZEN's cause 3. A lock ends
step 1 of R91. A core takes the larger of REQ and CAP, and no other core's state moves. -/
def Obligations.ClockCommandsComplete : Prop :=
  (∀ (s : State) (noEdge : Bool), 2 ≤ s.mach.mode →
      (noEdge = true → (s.mach.on R.CLK_ROOT_STATUS_HOLDOVER && !s.mach.on R.CLK_ROOT_STATUS_REFCLK_OK) = false) →
      (noEdge = false → s.mach.on R.CLK_ROOT_STATUS_LOCKED = true) →
      Does (.refclkLoss noEdge) s (fun m =>
        m.on R.CLK_ROOT_STATUS_HOLDOVER = true ∧ m.on R.CLK_ROOT_STATUS_LOCKED = false ∧ m.fcause = 3 ∧ m.wr = [] ∧
        (∃ c, 64 ≤ c ∧ m.errs = [⟨12, .clk, 0, c, sevFatal, none, 0, none, false⟩]) ∧
        m.get R.CLK_ROOT_STATUS_LOSS_COUNT =
          (if noEdge then satAdd 8 (s.mach.get R.CLK_ROOT_STATUS_LOSS_COUNT) 1 else s.mach.get R.CLK_ROOT_STATUS_LOSS_COUNT) ∧
        (noEdge = true → m.on R.CLK_ROOT_STATUS_REFCLK_OK = false) ∧
        (∀ c < 16, s.mach.on R.DDR_TRAIN_TRAINED c = true → m.on R.DDR_TRAIN_SELF_REFRESH c = true))) ∧
  (∀ s : State, s.mach.mode = 2 → s.dev.bring = 1 →
      Does .rootPllLock s (fun m =>
        m.on R.CLK_ROOT_STATUS_LOCKED = true ∧ m.on R.CLK_ROOT_STATUS_REFCLK_OK = true ∧ m.on R.CLK_ROOT_STATUS_HOLDOVER = false ∧
        (∀ b ∈ [Block.pkg, .clk, .tap, .lant], m.hon R.HDR_STATUS_READY b = true) ∧
        m.hon R.HDR_STATUS_READY .mgmt = s.mach.hon R.HDR_STATUS_READY .mgmt ∧
        (∀ i < 4, m.hon R.HDR_STATUS_READY .pmu i = true ∧ m.hon R.HDR_STATUS_READY .fab i = true) ∧
        m = { s.mach with regs := m.regs, onPclk := true, bring := 2 })) ∧
  (∀ s : State, s.mach.mode = 10 → s.mach.on R.CLK_ROOT_STATUS_HOLDOVER = true →
      Does .holdoverRelock s (fun m =>
        m.on R.CLK_ROOT_STATUS_LOCKED = true ∧ m.on R.CLK_ROOT_STATUS_REFCLK_OK = true ∧ m.on R.CLK_ROOT_STATUS_HOLDOVER = false ∧
        RegsBut s [whole R.CLK_ROOT_STATUS_LOCKED.key] m ∧ m = { s.mach with regs := m.regs, onPclk := true })) ∧
  (∀ (s : State) (src : Src) (die : Fin 12) (v : Word), MayWrite s src die.val .clk 0 →
      Does (.pstateReqWrite src die v) s (fun m =>
        m.get R.CLK_PSTATE_REQ 0 die.val = (if s.fuses.coresPerDie < 20 then v.toNat % 2 ^ 32 else v.toNat % 2 ^ 40) ∧
        OnlyRegs s [R.CLK_PSTATE_REQ.bits 0 die.val] m)) ∧
  (∀ (s : State) (die : Fin 12) (core : Fin 20), s.mach.dieUp die.val = true → core.val < s.fuses.coresPerDie →
      Does (.pstateSwitch die core) s (fun m =>
        m.get (pstate R.CLK_PSTATE_ACT core.val) 0 die.val =
          max (s.mach.get (pstate R.CLK_PSTATE_REQ core.val) 0 die.val) (s.mach.get (pstate R.CLK_PSTATE_CAP core.val) 0 die.val) ∧
        (∀ n < 20, n ≠ core.val → m.get (pstate R.CLK_PSTATE_ACT n) 0 die.val = s.mach.get (pstate R.CLK_PSTATE_ACT n) 0 die.val) ∧
        OnlyRegs s [R.CLK_PSTATE_ACT.bits 0 die.val] m))

/-- R48, R49, R62, R546: ENABLE, QUIESCE and the block's answers to them, for every block: one without a software enable, a struck one and
one kept disabled takes no ENABLE. A Guyline port trains besides, and sends what waited when QUIESCE is cleared; the ring takes up a replay; the links of a group
or port that stops go down. Nothing else in the package changes. The clauses say too where such a command changes nothing. -/
def Obligations.EnableBitsComplete : Prop :=
  (∀ (s : State) (src : Src) (p : PageId), MayHead s src p.die.val p.blk p.inst.val → p.die.val = 12 → hasEnable p.blk = true →
      p.blk ≠ .guy → p.blk ≠ .lant → s.mach.hon R.HDR_CONTROL_ENABLE p.blk p.inst.val = false → s.mach.hon R.HDR_STATUS_STRUCK p.blk p.inst.val = false → s.mach.keptOff p.blk p.inst.val = false →
      Does (.blockEnable src p) s (fun m =>
        m.hon R.HDR_CONTROL_ENABLE p.blk p.inst.val = true ∧ m.hon R.HDR_STATUS_BUSY p.blk p.inst.val = false ∧ m.hon R.HDR_STATUS_ENABLED p.blk p.inst.val = s.mach.hon R.HDR_STATUS_ENABLED p.blk p.inst.val ∧
        OnlyRegs s [hbits R.HDR_CONTROL_ENABLE p.blk p.inst.val, hbits R.HDR_STATUS_BUSY p.blk p.inst.val] m)) ∧
  (∀ (s : State) (src : Src) (p : PageId), MayHead s src p.die.val p.blk p.inst.val →
      p.die.val ≠ 12 ∨ hasEnable p.blk = false ∨ s.mach.hon R.HDR_CONTROL_ENABLE p.blk p.inst.val = true ∨ s.mach.hon R.HDR_STATUS_STRUCK p.blk p.inst.val = true ∨ s.mach.keptOff p.blk p.inst.val = true →
      Leaves (.blockEnable src p) s s.mach) ∧
  (∀ (s : State) (src : Src) (p : PageId), MayHead s src p.die.val p.blk p.inst.val → p.die.val = 12 → hasEnable p.blk = true → s.mach.hon R.HDR_CONTROL_ENABLE p.blk p.inst.val = true →
      Does (.blockDisable src p) s (fun m =>
        m.hon R.HDR_CONTROL_ENABLE p.blk p.inst.val = false ∧ m.hon R.HDR_STATUS_BUSY p.blk p.inst.val = (s.mach.hon R.HDR_STATUS_ENABLED p.blk p.inst.val || s.mach.hon R.HDR_STATUS_BUSY p.blk p.inst.val) ∧ m.hon R.HDR_STATUS_ENABLED p.blk p.inst.val = s.mach.hon R.HDR_STATUS_ENABLED p.blk p.inst.val ∧
        OnlyRegs s [hbits R.HDR_CONTROL_ENABLE p.blk p.inst.val, hbits R.HDR_STATUS_BUSY p.blk p.inst.val] m)) ∧
  (∀ (s : State) (src : Src) (p : PageId), MayHead s src p.die.val p.blk p.inst.val → p.die.val ≠ 12 ∨ hasEnable p.blk = false ∨ s.mach.hon R.HDR_CONTROL_ENABLE p.blk p.inst.val = false →
      Leaves (.blockDisable src p) s s.mach) ∧
  (∀ (s : State) (src : Src) (p : PageId) (v : Bool), MayHead s src p.die.val p.blk p.inst.val → p.die.val = 12 → hasEnable p.blk = true →
      (p.blk = .guy → v = true ∨ s.mach.mirrorSends = false) →
      Does (.quiesce src p v) s (fun m =>
        m.hon R.HDR_CONTROL_QUIESCE p.blk p.inst.val = v ∧ m.hon R.HDR_CONTROL_ENABLE p.blk p.inst.val = s.mach.hon R.HDR_CONTROL_ENABLE p.blk p.inst.val ∧
        OnlyRegs s [hbits R.HDR_CONTROL_QUIESCE p.blk p.inst.val] m)) ∧
  (∀ (s : State) (src : Src) (p : PageId), MayHead s src p.die.val p.blk p.inst.val → p.die.val = 12 → p.blk = .guy →
      Does (.quiesce src p false) s (fun m =>
        m.hon R.HDR_CONTROL_QUIESCE p.blk p.inst.val = false ∧ m.hon R.HDR_CONTROL_ENABLE p.blk p.inst.val = s.mach.hon R.HDR_CONTROL_ENABLE p.blk p.inst.val ∧ (∀ q < 4, m.outRing q = s.mach.outRing q) ∧
        m = { s.mach with regs := m.regs, pair := m.pair, slots := m.slots, ivBlocks := m.ivBlocks, errs := m.errs })) ∧
  (∀ (s : State) (src : Src) (p : PageId) (v : Bool), MayHead s src p.die.val p.blk p.inst.val → p.die.val ≠ 12 ∨ hasEnable p.blk = false → Leaves (.quiesce src p v) s s.mach) ∧
  (∀ (s : State) (p : PageId), p.die.val = 12 → p.inst.val < instances s.fuses 12 p.blk → 2 ≤ s.mach.mode → hasEnable p.blk = true →
      s.mach.hon R.HDR_CONTROL_ENABLE p.blk p.inst.val = true → s.mach.hon R.HDR_STATUS_ENABLED p.blk p.inst.val = false → s.mach.hon R.HDR_STATUS_STRUCK p.blk p.inst.val = false → s.mach.keptOff p.blk p.inst.val = false →
      Does (.blockStarted p) s (fun m =>
        m.hon R.HDR_STATUS_ENABLED p.blk p.inst.val = true ∧ m.hon R.HDR_STATUS_BUSY p.blk p.inst.val = false ∧ (p.blk = .guy → m.hon R.HDR_STATUS_READY p.blk p.inst.val = true) ∧
        OnlyRegs s ([hbits R.HDR_STATUS_ENABLED p.blk p.inst.val, hbits R.HDR_STATUS_BUSY p.blk p.inst.val] ++ if p.blk = .guy then [hbits R.HDR_STATUS_READY p.blk p.inst.val] else []) m)) ∧
  (∀ (s : State) (p : PageId), p.die.val = 12 → p.inst.val < instances s.fuses 12 p.blk → s.mach.mode ≠ 0 → hasEnable p.blk = true →
      p.blk ≠ .guy → p.blk ≠ .pg → s.mach.hon R.HDR_CONTROL_ENABLE p.blk p.inst.val = false → s.mach.hon R.HDR_STATUS_ENABLED p.blk p.inst.val = true → s.mach.workDone p.blk p.inst.val = true →
      Does (.blockStopped p) s (fun m => m.hon R.HDR_STATUS_ENABLED p.blk p.inst.val = false ∧ m.hon R.HDR_STATUS_BUSY p.blk p.inst.val = false ∧ OnlyRegs s [hbits R.HDR_STATUS_ENABLED p.blk p.inst.val, hbits R.HDR_STATUS_BUSY p.blk p.inst.val] m)) ∧
  (∀ (s : State) (src : Src) (p : PageId), MayHead s src p.die.val p.blk p.inst.val → p.die.val = 12 → p.blk = .guy → s.mach.hon R.HDR_CONTROL_ENABLE p.blk p.inst.val = false → s.mach.hon R.HDR_STATUS_STRUCK p.blk p.inst.val = false →
      Does (.blockEnable src p) s (fun m =>
        m.hon R.HDR_CONTROL_ENABLE p.blk p.inst.val = true ∧ m.hon R.HDR_STATUS_BUSY p.blk p.inst.val = false ∧
        m.on R.GUY_STATUS_TRAINING p.inst.val = (!s.mach.on R.GUY_STATUS_UP p.inst.val || s.mach.on R.GUY_STATUS_TRAINING p.inst.val) ∧
        OnlyRegs s [hbits R.HDR_CONTROL_ENABLE p.blk p.inst.val, hbits R.HDR_STATUS_BUSY p.blk p.inst.val, R.GUY_STATUS_TRAINING.bits p.inst.val] m)) ∧
  (∀ (s : State) (src : Src) (p : PageId) (go : Bool), MayHead s src p.die.val p.blk p.inst.val → p.die.val = 12 → p.blk = .lant → s.mach.hon R.HDR_CONTROL_ENABLE p.blk p.inst.val = false → s.mach.hon R.HDR_STATUS_STRUCK p.blk p.inst.val = false →
      go = s.mach.on R.LANT_STORE_STAT_UNREPLAYED →
      (go = true → s.mach.ringTakes 0 = false ∧ s.dev.lant.replayed < s.mach.bankCount (s.mach.get R.LANT_STORE_STAT_CUR)) →
      Does (.blockEnable src p) s (fun m =>
        m.hon R.HDR_CONTROL_ENABLE p.blk p.inst.val = true ∧ m.hon R.HDR_STATUS_BUSY p.blk p.inst.val = false ∧ RegsBut s [hbits R.HDR_CONTROL_ENABLE p.blk p.inst.val, hbits R.HDR_STATUS_BUSY p.blk p.inst.val] m ∧
        m = { s.mach with regs := m.regs, lant := { s.dev.lant with ringStopped := false, replaying := go } })) ∧
  (∀ (s : State) (p : PageId), p.die.val = 12 → p.inst.val < instances s.fuses 12 p.blk → s.mach.mode ≠ 0 → (p.blk = .guy ∨ p.blk = .pg) →
      s.mach.hon R.HDR_CONTROL_ENABLE p.blk p.inst.val = false → s.mach.hon R.HDR_STATUS_ENABLED p.blk p.inst.val = true →
      s.mach.workDone p.blk p.inst.val = true → (p.blk = .guy → s.mach.on R.GUY_STATUS_UP p.inst.val = false) →
      (p.blk = .pg → ∀ i < 4, s.mach.portUp (4 * p.inst.val + i) = false) →
      Does (.blockStopped p) s (fun m =>
        m.hon R.HDR_STATUS_ENABLED p.blk p.inst.val = false ∧ m.hon R.HDR_STATUS_BUSY p.blk p.inst.val = false ∧
        (p.blk = .guy → m.hon R.HDR_STATUS_READY p.blk p.inst.val = false ∧ m.on R.GUY_STATUS_TRAINING p.inst.val = false ∧
          m.on R.GUY_STATUS_UP p.inst.val = false) ∧
        PagesBut s [pageOff 12 p.blk p.inst.val] m ∧ m = { s.mach with regs := m.regs })) ∧
  (∀ (s : State) (p : PageId), p.die.val = 12 → p.inst.val < instances s.fuses 12 .guy → s.mach.mode ≠ 0 → p.blk = .guy →
      s.mach.hon R.HDR_CONTROL_ENABLE p.blk p.inst.val = false → s.mach.hon R.HDR_STATUS_ENABLED p.blk p.inst.val = true → s.mach.workDone .guy p.inst.val = true → s.mach.on R.GUY_STATUS_UP p.inst.val = true →
      (s.mach.pairState = 0 ∨ s.mach.pairState = 5 ∨ s.mach.pairState = 6) →
      Does (.blockStopped p) s (fun m =>
        m.hon R.HDR_STATUS_ENABLED p.blk p.inst.val = false ∧ m.hon R.HDR_STATUS_BUSY p.blk p.inst.val = false ∧ m.hon R.HDR_STATUS_READY p.blk p.inst.val = false ∧
        m.on R.GUY_STATUS_TRAINING p.inst.val = false ∧ m.on R.GUY_STATUS_UP p.inst.val = false ∧ m.get R.GUY_STATUS_ACTIVE p.inst.val = 0 ∧
        m.evs = [⟨9, 2, 12, .guy, p.inst.val, none, 0, 0⟩] ∧ (∀ q < 4, (m.outRing q).length = (s.mach.outRing q).length) ∧
        PagesBut s [pageOff 12 .guy p.inst.val, pageOff 12 .pkg 0] m ∧ m = { s.mach with regs := m.regs, pair := m.pair, evs := m.evs })) ∧
  (∀ (s : State) (p : PageId) (g : Nat), g = p.inst.val → p.die.val = 12 → g < instances s.fuses 12 .pg → s.mach.mode ≠ 0 → p.blk = .pg →
      s.mach.hon R.HDR_CONTROL_ENABLE p.blk p.inst.val = false → s.mach.hon R.HDR_STATUS_ENABLED p.blk p.inst.val = true → s.mach.workDone .pg g = true →
      s.mach.isUpstream g = true ∨ (∀ i < 4, s.mach.shelvesAt (4 * g + i) = []) →
      Does (.blockStopped p) s (fun m =>
        m.hon R.HDR_STATUS_ENABLED p.blk p.inst.val = false ∧ m.hon R.HDR_STATUS_BUSY p.blk p.inst.val = false ∧ (∀ i < 4, m.portUp (4 * g + i) = false ∧
          (s.mach.portUp (4 * g + i) = true → ⟨9, 2, 12, .pg, g, none, i * 2 ^ 8, 0⟩ ∈ m.evs)) ∧
        PagesBut s [pageOff 12 .pg g] m ∧
        m = { s.mach with regs := m.regs, pair := m.pair, tierq := m.tierq, devq := m.devq, evs := m.evs }))

/-- R57: GO while a commit is pending replaces the staged set and the commit is still counted once, at the safe point; CANCEL
discards it, does nothing where none is pending, and wins over GO in one store. -/
def Obligations.CommitGoAndCancel : Prop :=
  (∀ (s : State) (src : Src) (p : PageId), MayHead s src p.die.val p.blk p.inst.val →
      Does (.commitGo src p) s (fun m =>
        m.hon R.HDR_STATUS_COMMIT_PENDING p.blk p.inst.val p.die.val = true ∧
        (∀ i < 512, shadowedAt p.blk (8 * i) = true → m.staged.find (pageOff p.die.val p.blk p.inst.val + 8 * i) =
          some (BitVec.ofNat 64 (s.mach.reg (pageOff p.die.val p.blk p.inst.val + 8 * i)))) ∧
        m.hget R.HDR_STATUS_COMMIT_COUNT p.blk p.inst.val p.die.val = s.mach.hget R.HDR_STATUS_COMMIT_COUNT p.blk p.inst.val p.die.val ∧
        RegsBut s [hbits R.HDR_STATUS_COMMIT_PENDING p.blk p.inst.val p.die.val] m ∧
        m = { s.mach with regs := m.regs, staged := m.staged })) ∧
  (∀ (s : State) (p : PageId) (g : Nat), g = pageOff p.die.val p.blk p.inst.val → (p.die.val = 12 ∨ s.mach.dieUp p.die.val = true) →
      p.inst.val < instances s.fuses p.die.val p.blk → s.mach.mode ≠ 0 → s.mach.hon R.HDR_STATUS_COMMIT_PENDING p.blk p.inst.val p.die.val = true →
      ¬(s.mach.enabledBlk p.die.val p.blk p.inst.val = true ∧ p.blk ∈ [Block.core, .guy, .pg, .ep]) →
      Does (.safePointApply p) s (fun m =>
        m.hon R.HDR_STATUS_COMMIT_PENDING p.blk p.inst.val p.die.val = false ∧
        m.hget R.HDR_STATUS_COMMIT_COUNT p.blk p.inst.val p.die.val = (s.mach.hget R.HDR_STATUS_COMMIT_COUNT p.blk p.inst.val p.die.val + 1) % 2 ^ 16 ∧
        (∀ k, inPage g k = true → m.staged.find k = none) ∧ (∀ k, inPage g k = false → m.staged.find k = s.dev.staged.find k) ∧
        (∀ k, (∃ v, (k, v) ∈ s.dev.staged ∧ inPage g k = true ∧ m.active.find k = some v) ∨ m.active.find k = s.dev.active.find k) ∧
        (∀ k v, (k, v) ∈ s.dev.staged → inPage g k = true → ∃ w, (k, w) ∈ s.dev.staged ∧ m.active.find k = some w) ∧
        RegsBut s [hbits R.HDR_STATUS_COMMIT_PENDING p.blk p.inst.val p.die.val, hbits R.HDR_STATUS_COMMIT_COUNT p.blk p.inst.val p.die.val] m ∧
        m = { s.mach with regs := m.regs, active := m.active, staged := m.staged })) ∧
  (∀ (s : State) (src : Src) (p : PageId), MayHead s src p.die.val p.blk p.inst.val →
      s.mach.hon R.HDR_STATUS_COMMIT_PENDING p.blk p.inst.val p.die.val = true →
      Does (.commitCancel src p) s (fun m =>
        m.hon R.HDR_STATUS_COMMIT_PENDING p.blk p.inst.val p.die.val = false ∧
        (∀ k, m.staged.find k = if inPage (pageOff p.die.val p.blk p.inst.val) k then none else s.dev.staged.find k) ∧
        RegsBut s [hbits R.HDR_STATUS_COMMIT_PENDING p.blk p.inst.val p.die.val] m ∧
        m = { s.mach with regs := m.regs, staged := m.staged })) ∧
  (∀ (s : State) (src : Src) (p : PageId), MayHead s src p.die.val p.blk p.inst.val →
      s.mach.hon R.HDR_STATUS_COMMIT_PENDING p.blk p.inst.val p.die.val = false → Leaves (.commitCancel src p) s s.mach) ∧
  (∀ (s : State) (src : Src) (p : PageId) (v : Word), MayHead s src p.die.val p.blk p.inst.val → v.toNat % 4 = 3 →
      exec (.registerWrite src (.control (BitVec.ofNat 28 (hkey R.HDR_COMMIT_GO p.blk p.inst.val p.die.val))) .whole v) s =
        exec (.commitCancel src p) s)

/-- R54, R60, R86, R126, R509: a write to a control-space register whose fields are all it changes, to a
system register of the core itself, a block reset that is honoured,
and an injected error. A write stores its fields that are RW, clears the W1C bits it names, and leaves the rest. A block reset returns every field of its page and its active copies, discards a staged commit, and leaves
every other page alone; what R83, R206 and R62 keep stays. An injected error is recorded at INJECT_ADDR with INJECTED set, and
changes no data. -/
def Obligations.RegisterCommandsComplete : Prop :=
  (∀ (s : State) (src : Src) (v : Word), MayWrite s src 12 .lant 0 →
      Does (.registerWrite src (.control (BitVec.ofNat 28 R.LANT_INJECT_ADDR_ADDR.key)) .whole v) s (fun m =>
        m.get R.LANT_INJECT_ADDR_ADDR = v.toNat ∧ OnlyRegs s [R.LANT_INJECT_ADDR_ADDR.bits] m)) ∧
  (∀ (s : State) (src : Src) (die : Fin 13) (b : Block) (inst : Fin 64) (off k : Nat) (v : Word), MayWrite s src die.val b inst.val →
      off < 0x1000 → off % 8 = 0 → acting b off = false → s.mach.noReg die.val b inst.val off = false → k = pageOff die.val b inst.val + off →
      (∀ e ∈ fieldsOf b, e.here off = true → e.acc = .rw →
        s.mach.reservedEnc die.val e.f (s.mach.coreBits e.f (bitsOf v.toNat e.f.lo e.f.w)) = false ∧
        (e.cls = .locked → s.mach.enabledBlk die.val b inst.val = false)) →
      Does (.registerWrite src (.control (BitVec.ofNat 28 k)) .whole v) s (fun m =>
        (∀ e ∈ fieldsOf b, e.here off = true → bitsOf (m.reg k) e.f.lo e.f.w =
          if e.acc = .rw then s.mach.coreBits e.f (bitsOf v.toNat e.f.lo e.f.w)
          else if e.acc = .w1c then bitsOf (s.mach.reg k) e.f.lo e.f.w - Nat.land (bitsOf (s.mach.reg k) e.f.lo e.f.w) (bitsOf v.toNat e.f.lo e.f.w)
          else bitsOf (s.mach.reg k) e.f.lo e.f.w) ∧
        (∀ i < 64, (∀ e ∈ fieldsOf b, e.here off = true → i < e.f.lo ∨ e.f.lo + e.f.w ≤ i) → (m.reg k).testBit i = (s.mach.reg k).testBit i) ∧
        OnlyRegs s [whole k] m)) ∧
  (∀ (s : State) (src : Src) (c : Cid) (h : Half) (v : Word), Runs s c → 1 ≤ (s.mach.core (cidOf c)).pl →
      Does (.registerWrite src (.system c 0x031) h v) s (fun m =>
        m.sreg (cidOf c) 0x031 = v.toNat ∧ (∀ n, n ≠ 0x031 → m.sreg (cidOf c) n = s.mach.sreg (cidOf c) n) ∧
        (∀ k, k ≠ cidOf c → m.core k = s.mach.core k) ∧ m = { s.mach with cores := m.cores })) ∧
  (∀ (s : State) (src : Src) (c : Cid) (n : BitVec 10) (h : Half) (v : Word), Runs s c → sregKnown n.toNat = true →
      writeLevel n.toNat ≤ (s.mach.core (cidOf c)).pl →
      Does (.registerWrite src (.system c n) h v) s (fun m =>
        m = s.mach.writeSreg (cidOf c) n.toNat v.toNat ∧ (∀ k, k ≠ cidOf c → m.core k = s.mach.core k) ∧
        (∀ i, i ≠ n.toNat → m.sreg (cidOf c) i = s.mach.sreg (cidOf c) i) ∧
        (n ∈ [0x010#10, 0x020#10] → m.sreg (cidOf c) n.toNat = v.toNat / 4096 * 4096) ∧
        (n ∈ [0x011#10, 0x013#10, 0x021#10, 0x023#10, 0x030#10, 0x031#10] → m.sreg (cidOf c) n.toNat = v.toNat) ∧
        (n ∈ [0x014#10, 0x024#10] → m.sreg (cidOf c) n.toNat = v.toNat % 8) ∧
        (n ∈ [0x000#10, 0x050#10, 0x143#10, 0x144#10] → m = s.mach))) ∧
  (∀ (s : State) (src : Src) (p : PageId), MayHead s src p.die.val p.blk p.inst.val →
      s.mach.resetHonoured p.die.val p.blk p.inst.val = true →
      Does (.blockReset src p) s (fun m =>
        (∀ off < 0x1000, off ≠ 0x10 → keepReset p.blk off = false →
          m.reg (pageOff p.die.val p.blk p.inst.val + off) = regReset s.fuses (pageOff p.die.val p.blk p.inst.val + off) ∧
          m.active.find (pageOff p.die.val p.blk p.inst.val + off) = none ∧ m.staged.find (pageOff p.die.val p.blk p.inst.val + off) = none) ∧
        m.hon R.HDR_STATUS_COMMIT_PENDING p.blk p.inst.val p.die.val = false ∧
        m.hon R.HDR_STATUS_STRUCK p.blk p.inst.val p.die.val = s.mach.hon R.HDR_STATUS_STRUCK p.blk p.inst.val p.die.val ∧
        (∀ k, inPage (pageOff p.die.val p.blk p.inst.val) k = false →
          m.reg k = s.mach.reg k ∧ m.active.find k = s.dev.active.find k ∧ m.staged.find k = s.dev.staged.find k) ∧
        (p.blk = .guy → m.guys.find p.inst.val = none) ∧ (p.blk = .pg → ∀ i < 4, m.pgDevs.find (4 * p.inst.val + i) = none) ∧
        (p.blk = .ep → ∀ n < 64, m.lds.find (64 * p.inst.val + n) = none) ∧ (p.blk = .lant → m.lant = { s.dev.lant with trings := [] }) ∧
        (p.blk = .ten → m.rblocks = [] ∧ m.rstale = [] ∧ m.rfaults = [] ∧ m.rinv = []) ∧
        (p.blk = .msc → ∀ t < 2048, m.mscQuota.find (2048 * p.inst.val + t) = none) ∧
        m = { s.mach with
          regs := m.regs, active := m.active, staged := m.staged, err64 := m.err64
          guys := if p.blk = .guy then m.guys else s.dev.guys
          pgDevs := if p.blk = .pg then m.pgDevs else s.dev.pgDevs
          lds := if p.blk = .ep then m.lds else s.dev.lds
          pruning := if p.blk = .l3 then m.pruning else s.dev.pruning
          mscQuota := if p.blk = .msc then m.mscQuota else s.dev.mscQuota
          lant := if p.blk = .lant then m.lant else s.dev.lant
          rblocks := if p.blk = .ten then m.rblocks else s.dev.rblocks
          rstale := if p.blk = .ten then m.rstale else s.dev.rstale
          rfaults := if p.blk = .ten then m.rfaults else s.dev.rfaults
          rinv := if p.blk = .ten then m.rinv else s.dev.rinv
          trace := if p.blk = .fab then m.trace else s.dev.trace })) ∧
  (∀ (s : State) (src : Src) (p : PageId), MayHead s src p.die.val p.blk p.inst.val →
      s.mach.resetHonoured p.die.val p.blk p.inst.val = false →
      Does (.blockReset src p) s (fun m =>
        m = { s.mach with errs := [⟨p.die.val, p.blk, p.inst.val, 0, sevCorrected, none, 0, none, false⟩] })) ∧
  (∀ (s : State) (src : Src) (p : PageId) (n bit sev : Nat), MayHead s src p.die.val p.blk p.inst.val → n = p.inst.val →
      (s.mach.mode = 11 ∨ s.mach.on R.LANT_INJECT_EN = true ∧ (sev ≠ sevFatal ∨ s.mach.on R.LANT_INJECT_FATAL_OK = true)) →
      (bit, sev) ∈ errBits p.blk → (p.blk, bit) ∉ [(Block.seed, 16), (.lant, 16), (.pkg, 16), (.ddr, 17), (.ciph, 16)] →
      ((p.blk, bit) = (Block.guy, 16) → s.mach.guyUp n = false) → ((p.blk, bit) = (Block.hyl, 16) → p.die.val ≠ 12 ∨ s.mach.on R.HYL_LINK_STATUS_UP n = false) →
      ((p.blk, bit) = (Block.pg, 18) → s.mach.isUpstream n = true ∨ s.mach.upPort n = none) → ((p.blk, bit) = (Block.pg, 17) → s.dev.devq = []) →
      ((p.blk, bit) = (Block.ep, 16) → s.mach.upPort n = none) → ((p.blk, bit) = (Block.codec, 18) → s.dev.moves = [] ∧ s.dev.queues = []) →
      ((p.blk, bit) = (Block.ten, 18) → (s.mach.tenant (s.mach.get R.LANT_INJECT_ADDR_ADDR % 2 ^ 11)).state ≠ 1) →
      ((p.blk, bit) = (Block.bulk, 16) → s.dev.queues = []) →
      Does (.errorInject src p (BitVec.ofNat 64 (2 ^ bit))) s (fun m =>
        m = { s.mach with errs := [⟨p.die.val, p.blk, p.inst.val, bit, sev, some (s.mach.get R.LANT_INJECT_ADDR_ADDR), 0, none, true⟩] })) ∧
  (∀ (s : State) (src : Src) (p : PageId) (bit sev : Nat), MayHead s src p.die.val p.blk p.inst.val → p.die.val = 12 →
      (s.mach.mode = 11 ∨ s.mach.on R.LANT_INJECT_EN = true ∧ (sev ≠ sevFatal ∨ s.mach.on R.LANT_INJECT_FATAL_OK = true)) →
      (bit, sev) ∈ errBits p.blk → (p.blk, bit) ∈ [(Block.seed, 16), (.lant, 16), (.pkg, 16)] →
      Does (.errorInject src p (BitVec.ofNat 64 (2 ^ bit))) s (fun m =>
        m.errs = [⟨12, p.blk, p.inst.val, bit, sev, some (s.mach.get R.LANT_INJECT_ADDR_ADDR), 0, none, true⟩] ∧
        (p.blk = .seed → m.on R.SEED_DRBG_HEALTHY = false ∧
          m.get R.SEED_DRBG_FAILS = satAdd R.SEED_DRBG_FAILS.w (s.mach.get R.SEED_DRBG_FAILS) 1) ∧
        (p.blk = .lant → m.lant.ringStopped = true) ∧ (p.blk = .pkg → m.pins.thermtripN = false) ∧
        RegsBut s (if p.blk = .seed then [whole R.SEED_DRBG_HEALTHY.key, whole R.SEED_DRBG_FAILS.key] else []) m ∧
        m = { s.mach with
          regs := m.regs, errs := m.errs
          lant := if p.blk = .lant then { s.dev.lant with ringStopped := true } else s.dev.lant
          pins := if p.blk = .pkg then { s.dev.pins with thermtripN := false } else s.dev.pins })) ∧
  (∀ (s : State) (src : Src) (p : PageId) (c q mate : Nat) (warm : Bool), MayHead s src 12 p.blk p.inst.val → p.die.val = 12 → p.blk = .ddr → c = p.inst.val → q = c / 4 →
      mate = 4 * q + (c % 4 + 2) % 4 → (s.mach.mode = 11 ∨ s.mach.on R.LANT_INJECT_EN = true ∧ s.mach.on R.LANT_INJECT_FATAL_OK = true) →
      warm = (decide (s.mach.mode = 2) && decide (3 ≤ s.mach.get R.PKG_RESET_CAUSE_LAST)) →
      Does (.errorInject src p (BitVec.ofNat 64 (2 ^ 17))) s (fun m =>
        m.errs = [⟨12, .ddr, c, 17, if warm then sevFatal else sevContained, some (s.mach.get R.LANT_INJECT_ADDR_ADDR), 0, none, true⟩] ∧
        (warm = false → m.get R.DDR_TRAIN_FAILED c = 1 ∧ m.hget R.HDR_STATUS_STRUCK .ddr c = 1 ∧
          (∀ x ∈ [c, mate], m.hget R.HDR_STATUS_READY .ddr x = 0 ∧ m.hget R.HDR_STATUS_ENABLED .ddr x = 0)) ∧
        PagesBut s (if warm then [] else [0, 1, 2, 3].map (fun i => pageOff 12 .ddr (4 * q + i)) ++ [pageOff 12 .tier q]) m ∧
        m = { s.mach with regs := m.regs, errs := m.errs })) ∧
  (∀ (s : State) (src : Src) (p : PageId), MayHead s src 12 p.blk p.inst.val → p.die.val = 12 → p.blk = .ciph →
      (s.mach.mode = 11 ∨ s.mach.on R.LANT_INJECT_EN = true) → s.dev.pipes = [] →
      Does (.errorInject src p (BitVec.ofNat 64 (2 ^ 16))) s (fun m =>
        m.errs = [⟨12, .ciph, p.inst.val, 16, 2, some (s.mach.get R.LANT_INJECT_ADDR_ADDR), 0, none, true⟩] ∧
        m.get R.CIPH_AUTH_FAIL_PRIVILEGED p.inst.val = (s.mach.get R.CIPH_AUTH_FAIL_PRIVILEGED p.inst.val + 1) % 2 ^ R.CIPH_AUTH_FAIL_PRIVILEGED.w ∧
        RegsBut s [R.CIPH_AUTH_FAIL_PRIVILEGED.bits p.inst.val] m ∧ m = { s.mach with regs := m.regs, errs := m.errs }))

/-- R36: an address of the control region that is no populated page reads as all ones, a store to it is discarded, and neither
raises anything: the state is unchanged. -/
def Obligations.UnpopulatedPagesReadOnes : Prop :=
  (∀ (s : State) (src : Src) (a : BitVec 28),
      (∀ b ∈ blockOfCode (a.toNat / 0x40000 % 0x40), instances s.fuses (a.toNat / 0x1000000) b ≤ a.toNat / 0x1000 % 0x40) →
      s.mach.ctlRead src a.toNat = (s.mach, allOnes)) ∧
  (∀ (s : State) (src : Src) (a : BitVec 28) (h : Half) (v : Word),
      (∀ b ∈ blockOfCode (a.toNat / 0x40000 % 0x40), instances s.fuses (a.toNat / 0x1000000) b ≤ a.toNat / 0x1000 % 0x40) →
      Leaves (.registerWrite src (.control a) h v) s s.mach)

/-- R61: every page of a compute die that is struck, parked or not READY reads as all ones at every offset, ID included, and
stores to it are discarded. The I/O die answers: a core's load of it that has reached the I/O die gets its answer from there. -/
def Obligations.AbsentDiesReadOnes : Prop :=
  (∀ (s : State) (src : Src) (a : BitVec 28), a.toNat / 0x1000000 < 12 → s.mach.dieUp (a.toNat / 0x1000000) = false →
      s.mach.ctlRead src a.toNat = (s.mach, allOnes)) ∧
  (∀ (s : State) (src : Src) (a : BitVec 28) (h : Half) (v : Word), a.toNat / 0x1000000 < 12 →
      s.mach.dieUp (a.toNat / 0x1000000) = false → Leaves (.registerWrite src (.control a) h v) s s.mach) ∧
  (∀ (s : State) (c : Cid) (port : Option (Fin 64)) (d : DevMsg), s.mach.devNext (cidOf c) = some d → d.k = 0 →
      0xFF0000000000 ≤ d.spa → d.spa < 0xFF000C000000 → s.mach.dieUp ((d.spa - 0xFF0000000000) / 0x1000000) = false →
      Does (.devRd c port) s (fun m =>
        m = s.mach.devSwap d { d with k := 2, data := devPart d.spa d.lg allOnes, err := 0 }))

/-- R69, R73, R83, R87, R88, R95, R206, R507, R536, R544: standby power leaves the package in AUX with every register at its reset value but LIFE_USED,
which SPI flash holds; losing it leaves OFF; a cold reset leaves AUX with LAST 1 or 2, WARM_COUNT and FROZEN_CAUSE 0, both pins of
the pair and of alarms released, every slot but the Fused ones Empty with GEN counted (R328), the incident store and the registers R88 and R206 keep, and everything else at reset. DRAM and
the boot window lose their bytes, the shelves' media keep theirs. That DRAM's lost bytes read as 0 is the model's choice (log 1). -/
def Obligations.PowerAndColdReset : Prop :=
  (∀ (s : State), s.mach.mode = 0 →
    Does .standbyPowerOn s (fun m =>
      m.mode = 1 ∧ m.get R.PKG_LIFE_USED_EQ = s.dev.lifeSaved % 2 ^ 48 ∧
      (∀ k, k ≠ R.PKG_LIFE_USED_EQ.key → m.reg k = regReset s.fuses k) ∧
      m = { s.mach with toDev := { Dev.reset with
        regs := m.regs
        free := s.dev.free
        lifeSaved := s.dev.lifeSaved
        pins := { Dev.reset.pins with pwrgood := s.dev.pins.pwrgood, pkgResetN := s.dev.pins.pkgResetN, pairFenceIn := s.dev.pins.pairFenceIn } } })) ∧
  (∀ (s : State), s.mach.mode ≠ 0 →
    Does .standbyPowerLost s (fun m =>
      m.mode = 0 ∧ (∀ k, k ≠ R.PKG_MODE_MODE.key → m.reg k = regReset s.fuses k) ∧
      (∀ a, (a < 2 ^ 47 ∨ 2 ^ 48 ≤ a) → m.byte a = 0) ∧
      (∀ a, (2 ^ 47 ≤ a ∧ a < 2 ^ 48) → m.byte a = s.mach.byte a) ∧
      m = { s.mach with
        toDev := { Dev.reset with
          regs := m.regs
          free := s.dev.free
          lifeSaved := s.dev.lifeSaved
          pins := { Dev.reset.pins with
            standby := false, pwrgood := s.dev.pins.pwrgood, pkgResetN := s.dev.pins.pkgResetN, pairFenceIn := s.dev.pins.pairFenceIn } }
        wr := m.wr })) ∧
  (∀ (s : State) (pin : ResetPin), s.mach.mode ≠ 0 →
    Does (.coldReset pin) s (fun m =>
      m.mode = 1 ∧ m.get R.PKG_RESET_CAUSE_LAST = (if pin = .pkgResetN then 1 else 2) ∧
      m.get R.PKG_RESET_CAUSE_FROZEN_CAUSE = 0 ∧ m.get R.PKG_RESET_CAUSE_WARM_COUNT = 0 ∧ m.get R.PKG_MODE_REQ_ERR = 0 ∧
      m.on R.CLK_ROOT_STATUS_LOCKED = false ∧ m.on R.CLK_ROOT_STATUS_REFCLK_OK = false ∧ m.on R.CLK_ROOT_STATUS_HOLDOVER = false ∧
      m.get R.CLK_ROOT_STATUS_LOSS_COUNT = s.mach.get R.CLK_ROOT_STATUS_LOSS_COUNT ∧
      m.on R.PKG_BOOT_FW_FAIL = s.mach.on R.PKG_BOOT_FW_FAIL ∧ m.on R.PKG_BOOT_BOOT_FAIL = s.mach.on R.PKG_BOOT_BOOT_FAIL ∧
      m.on R.LANT_ALARM_FATAL = (s.mach.on R.PKG_BOOT_FW_FAIL || s.mach.on R.PKG_BOOT_BOOT_FAIL) ∧
      m.get R.LANT_SB_DROPS_ALERT = 0 ∧ m.get R.PKG_LIFE_USED_EQ = s.dev.lifeSaved % 2 ^ 48 ∧
      (s.mach.mode ≠ 1 → m.get R.PKG_MODE_PREV_MODE = s.mach.mode ∧
        m.get R.PKG_MODE_TRANSITIONS = (s.mach.get R.PKG_MODE_TRANSITIONS + 1) % 2 ^ 16 ∧
        m.evs = [⟨2, 1, 12, .pkg, 0, none, 1 + 16 * s.mach.mode, 0⟩]) ∧
      (∀ k, keptAt keepCold k = true → k ∉ [R.PKG_MODE_MODE.key, R.PKG_RESET_CAUSE_LAST.key, R.CLK_ROOT_STATUS_LOCKED.key] → m.reg k = s.mach.reg k) ∧
      (∀ k, keptAt keepCold k = false → k ∉ [R.PKG_BOOT_FW_FAIL.key, R.LANT_ALARM_FATAL.key, R.PKG_LIFE_USED_EQ.key] →
        m.reg k = regReset s.fuses k) ∧
      (∀ a, (a < 2 ^ 47 ∨ 2 ^ 48 ≤ a) → m.byte a = 0) ∧
      (∀ a, (2 ^ 47 ≤ a ∧ a < 2 ^ 48) → m.byte a = s.mach.byte a) ∧
      (∀ e ∈ s.dev.slots, e.2.state = 4 → e ∈ m.slots) ∧
      (∀ e ∈ m.slots, (e.2.state = 4 ∧ e ∈ s.dev.slots) ∨
        ∃ f ∈ s.dev.slots, f.1 = e.1 ∧ f.2.state ≠ 4 ∧
          e.2 = ⟨0, 0, 0, 0, false, if f.2.state = 0 then f.2.gen else (f.2.gen + 1) % 2 ^ 16, 0, 0, 0, 0, []⟩) ∧
      m.pins.pairFenceOut = false ∧ m.pins.alertN = true ∧
      (pin = .pkgResetN → m.pins.pkgResetN = false ∧ m.pins.thermtripN = true ∧ m.pins.pwrgood = s.dev.pins.pwrgood) ∧
      (pin = .pwrgood → m.pins.pwrgood = false ∧ m.pins.thermtripN = s.dev.pins.thermtripN ∧ m.pins.pkgResetN = s.dev.pins.pkgResetN) ∧
      m = { s.mach with
        toDev := { Dev.reset with
          regs := m.regs
          time := s.dev.time
          free := s.dev.free
          pins := m.pins
          lant := { Dev.reset.lant with store := s.dev.lant.store, incident := s.dev.lant.incident }
          slots := m.slots
          tap := s.dev.tap
          lifeSaved := s.dev.lifeSaved
          railsLost := s.dev.railsLost }
        wr := m.wr
        evs := m.evs }))

/-- R69, R71, R73, R75, R76, R328: with both pins high the package enters BRINGUP; SOLO is entered once the management controller, a compute
die and TEN are ready, or the state the pair was left in is resumed (R405 to R408); APPLIANCE and SOLO lead to one another, the
former parking CD1 to CD11; MAINTENANCE empties every slot that is not fused. A request that cannot be met sets REQ_ERR, and one
naming the present mode does nothing. The clauses say too where such a command changes nothing. -/
def Obligations.BringupAndServe : Prop :=
  (∀ (s : State), s.mach.mode = 1 → (s.dev.pins.pwrgood && s.dev.pins.pkgResetN) = false → s.mach.on R.LANT_STORE_STAT_UNREPLAYED = false →
    Does .bringupStart s (fun m =>
      Enters s 2 m ∧ m.bring = 1 ∧ m.pins.pwrgood = true ∧ m.pins.pkgResetN = true ∧ m.pins.pairFenceOut = false ∧
      RegsBut s [whole R.PKG_MODE_MODE.key, R.LANT_ALARM_FATAL.bits] m ∧
      m = { s.mach with
        regs := m.regs
        pins := { s.dev.pins with pwrgood := true, pkgResetN := true, pairFenceOut := false, fatalN := m.pins.fatalN }
        bring := 1
        railsLost := []
        evs := m.evs })) ∧
  (∀ (s : State) (src : Src), MayWrite s src 12 .pkg 0 → s.mach.mode = 2 → s.mach.hon R.HDR_STATUS_READY .mgmt = true →
    s.mach.get R.PKG_READY_CD ≠ 0 → s.mach.hon R.HDR_STATUS_READY .ten = true →
    s.dev.durWaits = [] →
    (s.mach.pairState = 4 → s.dev.pair.step ≠ 0 ∨ s.mach.guyAny = false) →
    Does (.modeReqSolo src) s (fun m =>
      Enters s (if s.mach.get R.PKG_PAIR_STATE_STATE = 5 then 5
        else if s.mach.get R.PKG_PAIR_STATE_STATE = 4 ∨ s.mach.get R.PKG_PAIR_STATE_STATE = 6 then 6 else 3) m ∧
      RegsBut s [whole R.PKG_MODE_MODE.key, R.LANT_ALARM_FATAL.bits] m ∧
      m = { s.mach with
        regs := m.regs, pins := { s.dev.pins with fatalN := m.pins.fatalN }, lant := { s.dev.lant with incident := false }, evs := m.evs })) ∧
  (∀ (s : State) (src : Src), MayWrite s src 12 .pkg 0 → s.mach.mode = 2 →
    (s.mach.hon R.HDR_STATUS_READY .mgmt = false ∨ s.mach.get R.PKG_READY_CD = 0 ∨ s.mach.hon R.HDR_STATUS_READY .ten = false) →
    Does (.modeReqSolo src) s (fun m => m.on R.PKG_MODE_REQ_ERR = true ∧ m.mode = 2 ∧ OnlyRegs s [R.PKG_MODE_REQ_ERR.bits] m)) ∧
  (∀ (s : State) (src : Src), MayWrite s src 12 .pkg 0 → s.mach.mode = 7 →
    Does (.modeReqSolo src) s (fun m =>
      Enters s 3 m ∧ RegsBut s [whole R.PKG_MODE_MODE.key, R.LANT_ALARM_FATAL.bits] m ∧
      m = { s.mach with regs := m.regs, pins := { s.dev.pins with fatalN := m.pins.fatalN }, evs := m.evs })) ∧
  (∀ (s : State) (src : Src), MayWrite s src 12 .pkg 0 → s.mach.mode = 3 → Leaves (.modeReqSolo src) s s.mach) ∧
  (∀ (s : State) (src : Src), MayWrite s src 12 .pkg 0 → s.mach.mode = 2 → s.dev.bring ≠ 0 →
    Does (.modeReqMaintenance src) s (fun m =>
      Enters s 11 m ∧
      (∀ n, (s.mach.slot n).state = 0 ∨ (s.mach.slot n).state = 4 → m.slot n = s.mach.slot n) ∧
      (∀ n, 1 ≤ (s.mach.slot n).state ∧ (s.mach.slot n).state ≤ 3 →
        m.slot n = ⟨0, 0, 0, 0, false, ((s.mach.slot n).gen + 1) % 2 ^ 16, 0, 0, 0, 0, []⟩) ∧
      RegsBut s [whole R.PKG_MODE_MODE.key, R.LANT_ALARM_FATAL.bits] m ∧
      m = { s.mach with
        regs := m.regs, pins := { s.dev.pins with fatalN := m.pins.fatalN }, lant := { s.dev.lant with incident := false }
        slots := m.slots, ivBlocks := m.ivBlocks, evs := m.evs })) ∧
  (∀ (s : State) (src : Src), MayWrite s src 12 .pkg 0 → s.mach.mode = 3 → s.mach.get R.PKG_DIE_CTL_PARK = 0 → s.dev.dieOp = [] →
    s.dev.lines = [] → (∀ e ∈ s.dev.cores, e.2.sb = [] ∧ e.2.dwl = []) →
    Does (.modeReqAppliance src) s (fun m =>
      Enters s 7 m ∧ m.get R.PKG_DIE_CTL_PARK = 0xFFE ∧
      (∀ k < 12, m.on (R.PKG_DIE_STATE_BUSY.bit k) = if k ≠ 0 ∧ s.mach.dieUp k = true then true else s.mach.on (R.PKG_DIE_STATE_BUSY.bit k)) ∧
      (∀ k < 12, m.dieOpOf k = if k ≠ 0 ∧ s.mach.dieUp k = true then 2 else 0) ∧ (∀ c, m.core c = s.mach.core c) ∧
      RegsBut s [whole R.PKG_MODE_MODE.key, R.LANT_ALARM_FATAL.bits, R.PKG_DIE_CTL_PARK.bits, R.PKG_DIE_STATE_BUSY.bits] m ∧
      m = { s.mach with
        regs := m.regs, pins := { s.dev.pins with fatalN := m.pins.fatalN }, dieOp := m.dieOp, cores := m.cores, evs := m.evs }))

/-- R71, R73, R74, R83, R85, R87, R88, R408, R544, R547: DRAIN is entered from every serving mode and DRAINED set once what began before is done;
MODE_REQ of the mode it came from returns there, or to the mode the pair's state meanwhile asks for; a warm reset keeps storage,
the key slots, the tenants with GEN advanced, the page map, the shelves and what R85 names, and counts itself; power-down leaves AUX
with LIFE_USED saved, DRAM in self-refresh and PAIR_FENCE_OUT as it was; re-initialisation leads back to BRINGUP at the boot image, with PAIR_FENCE_OUT
deasserted but for a Winner's (R95, R390). A return to APPLIANCE parks CD1 to CD11 as every entry to it does (R75). -/
def Obligations.DrainAndReturn : Prop :=
  (∀ (s : State) (src : Src), MayWrite s src 12 .pkg 0 → 3 ≤ s.mach.mode → s.mach.mode ≤ 7 →
    Does (.modeReqDrain src) s (fun m =>
      Enters s 8 m ∧ RegsBut s [whole R.PKG_MODE_MODE.key, R.LANT_ALARM_FATAL.bits] m ∧
      m = { s.mach with regs := m.regs, pins := { s.dev.pins with fatalN := m.pins.fatalN }, evs := m.evs })) ∧
  (∀ (s : State), s.mach.mode = 8 → s.mach.drained = true →
    Does .drainComplete s (fun m => m.on R.PKG_MODE_DRAINED = true ∧ m.mode = 8 ∧ OnlyRegs s [R.PKG_MODE_DRAINED.bits] m)) ∧
  (∀ (s : State) (src : Src) (code : BitVec 4), MayWrite s src 12 .pkg 0 → s.mach.mode = 8 → code.toNat = s.mach.get R.PKG_MODE_PREV_MODE →
    (3 ≤ code.toNat ∧ code.toNat ≤ 7) → (code = 7 → s.mach.get R.PKG_DIE_CTL_PARK = 0xFFE) → ¬(code = 4 ∧ (s.mach.get R.PKG_PAIR_STATE_STATE = 4 ∨ s.mach.get R.PKG_PAIR_STATE_STATE = 0)) →
    ¬(code ∈ [3#4, 5, 6] ∧ s.mach.get R.PKG_PAIR_STATE_STATE = 3) →
    ¬(code = 6 ∧ s.mach.get R.PKG_PAIR_STATE_STATE = 4 ∧ s.mach.on R.PKG_PAIR_STATE_FENCE_OUT = true ∧ s.dev.pair.deciding = false) → (code = 6 → s.mach.pairState = 4 → s.dev.pair.step ≠ 0 ∨ s.mach.guyAny = false) → s.dev.pair.owed = [] → Idle s →
    Does (.modeReqReturn src code) s (fun m =>
      Enters s code.toNat m ∧ RegsBut s [whole R.PKG_MODE_MODE.key, R.LANT_ALARM_FATAL.bits] m ∧
      m = { s.mach with regs := m.regs, pins := { s.dev.pins with fatalN := m.pins.fatalN }, evs := m.evs })) ∧
  (∀ (s : State) (src : Src) (code : BitVec 4), MayWrite s src 12 .pkg 0 → s.mach.mode = 8 → code.toNat = s.mach.get R.PKG_MODE_PREV_MODE →
    (code = 4 ∧ (s.mach.get R.PKG_PAIR_STATE_STATE = 4 ∨ s.mach.get R.PKG_PAIR_STATE_STATE = 0) ∨
      code ∈ [3#4, 5, 6] ∧ s.mach.get R.PKG_PAIR_STATE_STATE = 3) →
    (s.mach.pairState = 4 → s.dev.pair.step ≠ 0 ∨ s.mach.guyAny = false) → s.dev.pair.owed = [] → Idle s →
    Does (.modeReqReturn src code) s (fun m =>
      m.mode = (if code ≠ 4 then 4 else if s.mach.get R.PKG_PAIR_STATE_STATE = 4 then 6 else 3) ∧ m.get R.PKG_MODE_PREV_MODE = code.toNat ∧
      m.get R.PKG_MODE_TRANSITIONS = (s.mach.get R.PKG_MODE_TRANSITIONS + 2) % 2 ^ 16 ∧
      RegsBut s [whole R.PKG_MODE_MODE.key, R.LANT_ALARM_FATAL.bits] m ∧
      m = { s.mach with regs := m.regs, pins := { s.dev.pins with fatalN := m.pins.fatalN }, evs := m.evs })) ∧
  (∀ (s : State) (src : Src), MayWrite s src 12 .pkg 0 →
    (s.mach.mode = 8 ∧ s.mach.on R.PKG_MODE_DRAINED = true ∨ s.mach.mode = 9 ∧ s.mach.get R.PKG_MODE_PREV_MODE ≠ 11) →
    s.dev.filter = [] → s.dev.msc = [] → s.dev.mapDirty = [] →
    s.dev.tenCmd.map (·.1) ≠ some 5 →
    Does (.modeReqWarmreset src) s (fun m =>
      Enters s 10 m ∧ m.get R.PKG_RESET_CAUSE_LAST = (if s.mach.mode = 8 then 3 else 4) ∧
      m.get R.PKG_RESET_CAUSE_FROZEN_CAUSE = (if s.mach.mode = 8 then 0 else s.dev.frozenCause % 2 ^ 8) ∧
      m.get R.PKG_RESET_CAUSE_WARM_COUNT = (s.mach.get R.PKG_RESET_CAUSE_WARM_COUNT + 1) % 2 ^ 16 ∧
      m.get R.PKG_STRUCK_MASK_DIES = s.mach.get R.PKG_STRUCK_MASK_DIES ∧ m.get R.PKG_READY_CD = 0 ∧
      m.hon R.HDR_STATUS_READY .mgmt = s.mach.hon R.HDR_STATUS_READY .mgmt ∧ m.get R.PKG_COMPAT_FORCE_H1 = s.mach.get R.PKG_COMPAT_FORCE_H1 ∧
      m.get R.PKG_LIFE_USED_EQ = s.dev.lifeSaved % 2 ^ 48 ∧
      (∀ c < 16, m.on R.DDR_TRAIN_SELF_REFRESH c =
        (s.mach.on R.DDR_TRAIN_SELF_REFRESH c || (s.mach.mode == 8 && s.mach.on R.DDR_TRAIN_TRAINED c))) ∧
      (∀ k, keptAt keepWarm k = true → k ∉ [R.PKG_MODE_MODE.key, R.PKG_RESET_CAUSE_LAST.key, R.PKG_PAIR_STATE_STATE.key] →
        (∀ c < 16, k ≠ R.DDR_TRAIN_SELF_REFRESH.key c) → ¬(pageOff 12 .pkg 0 + 0x340 ≤ k ∧ k < pageOff 12 .pkg 0 + 0x388) → m.reg k = s.mach.reg k) ∧
      m.get R.PKG_PAIR_STATE_STATE =
        (if (s.mach.pairState = 5 ∨ s.mach.pairState = 7) ∧ s.mach.on R.PKG_PAIR_STATE_FENCE_OUT = true then 5
         else if s.mach.on R.PKG_PAIR_STATE_FENCE_IN = true then 6
         else if s.mach.pairState = 1 ∨ s.mach.pairState = 2 then 0
         else if s.mach.pairState = 3 ∨ s.mach.pairState = 4 ∨ s.mach.pairState = 7 then 4 else s.mach.pairState) ∧
      (∀ t, m.tenant t = { s.mach.tenant t with gen := ((s.mach.tenant t).gen + 1) % 2 ^ 16 }) ∧ m.tenGen = (s.dev.tenGen + 1) % 2 ^ 16 ∧
      m.get R.TEN_TCMD_BUSY = s.dev.tenCmd.isSome.toNat ∧
      m = { s.mach with
        toDev := { Dev.reset with
          regs := m.regs
          active := m.active
          time := s.dev.time
          free := s.dev.free
          pins := { s.dev.pins with alertN := true, fatalN := m.pins.fatalN }
          lant := { Dev.reset.lant with store := s.dev.lant.store, incident := s.dev.lant.incident }
          lineMeta := s.dev.lineMeta
          slots := s.dev.slots
          tags := s.dev.tags
          attached := s.dev.attached
          pmap := s.dev.pmap
          mapBad := s.dev.mapBad
          frames := s.dev.frames
          moves := s.dev.moves
          journal := m.journal
          smap := s.dev.smap
          shelves := s.dev.shelves
          tierq := m.tierq
          tenants := m.tenants
          tenGen := m.tenGen
          pair := m.pair
          rblocks := s.dev.rblocks
          rfaults := s.dev.rfaults
          frozenCause := s.dev.frozenCause
          queues := s.dev.queues.mapV (fun _ q => { q with count := 0 })
          taken := s.dev.taken
          tenCmd := s.dev.tenCmd
          tap := s.dev.tap
          lifeSaved := s.dev.lifeSaved
          railsLost := s.dev.railsLost
          onPclk := m.onPclk
          config := s.dev.config }
        evs := m.evs })) ∧
  (∀ (s : State) (src : Src), MayWrite s src 12 .pkg 0 → s.mach.mode = 8 → s.mach.get R.PKG_MODE_PREV_MODE = 7 →
    s.mach.on (R.PKG_DIE_CTL_PARK.bit 0) = false → (∀ k < 12, 0 < k → s.mach.dieUp k = false ∧ s.mach.dieOpOf k = 0) → s.dev.pair.owed = [] → Idle s →
    Does (.modeReqReturn src 7) s (fun m =>
      Enters s 7 m ∧ m.get R.PKG_DIE_CTL_PARK = 0xFFE ∧ RegsBut s [whole R.PKG_MODE_MODE.key, R.LANT_ALARM_FATAL.bits, R.PKG_DIE_CTL_PARK.bits] m ∧
      m = { s.mach with regs := m.regs, pins := { s.dev.pins with fatalN := m.pins.fatalN }, evs := m.evs })) ∧
  (∀ (s : State) (src : Src), MayWrite s src 12 .pkg 0 → s.mach.mode = 8 → s.mach.on R.PKG_MODE_DRAINED = true →
    s.dev.filter = [] → s.dev.msc = [] → s.dev.journal = [] → s.dev.mapDirty = [] → (∀ e ∈ s.dev.cores, e.2.sb = []) →
    Does (.modeReqPowerdown src) s (fun m =>
      m.mode = 1 ∧ m.get R.PKG_MODE_PREV_MODE = 8 ∧ m.get R.PKG_MODE_TRANSITIONS = (s.mach.get R.PKG_MODE_TRANSITIONS + 1) % 2 ^ 16 ∧
      m.lifeSaved = s.mach.get R.PKG_LIFE_USED_EQ ∧ m.get R.PKG_LIFE_USED_EQ = s.mach.get R.PKG_LIFE_USED_EQ ∧
      m.evs = [⟨2, 1, 12, .pkg, 0, none, 1 + 16 * 8, 0⟩] ∧
      m.on R.PKG_PAIR_STATE_FENCE_OUT = s.dev.pins.pairFenceOut ∧ (∀ e ∈ m.slots, e.2.state = 4 ∨ e.2 = ⟨0, 0, 0, 0, false, e.2.gen, 0, 0, 0, 0, []⟩) ∧ m.tenants = [] ∧
      (∀ k, keptAt keepCold k = false → k ∉ [R.PKG_BOOT_FW_FAIL.key, R.LANT_ALARM_FATAL.key, R.PKG_LIFE_USED_EQ.key, R.PKG_PAIR_STATE_FENCE_OUT.key] →
        (∀ c < 16, k ≠ R.DDR_TRAIN_SELF_REFRESH.key c) → m.reg k = regReset s.fuses k) ∧
      (∀ c < 16, m.on R.DDR_TRAIN_SELF_REFRESH c = (s.mach.on R.DDR_TRAIN_SELF_REFRESH c || s.mach.on R.DDR_TRAIN_TRAINED c)) ∧
      m = { s.mach with
        toDev := { Dev.reset with
          regs := m.regs
          time := s.dev.time
          free := s.dev.free
          pins := { s.dev.pins with alertN := true, fatalN := m.pins.fatalN }
          lant := { Dev.reset.lant with store := s.dev.lant.store, incident := s.dev.lant.incident }
          slots := coldSlots s.dev.slots
          tap := s.dev.tap
          lifeSaved := m.lifeSaved
          railsLost := s.dev.railsLost
          lineMeta := s.dev.lineMeta }
        evs := m.evs })) ∧
  (∀ (s : State), s.mach.mode = 10 → s.mach.on R.CLK_ROOT_STATUS_HOLDOVER = false → s.mach.on R.LANT_STORE_STAT_UNREPLAYED = false →
    (∀ n < 64, s.mach.shelfState n ∉ [1, 2, 3]) →
    Does .warmReinitDone s (fun m =>
      Enters s 2 m ∧ m.bring = 5 ∧ m.onPclk = true ∧ m.hon R.HDR_STATUS_READY .pkg = true ∧ m.hon R.HDR_STATUS_ENABLED .ciph = true ∧
      m.repitch = (List.range 64).filter (fun n => s.mach.shelfState n == 5) ∧
      (s.mach.pairState ≠ 5 → m.get R.PKG_PAIR_STATE_FENCE_OUT = 0 ∧ m.pins.pairFenceOut = false) ∧
      (s.mach.pairState = 5 → m.get R.PKG_PAIR_STATE_FENCE_OUT = s.mach.get R.PKG_PAIR_STATE_FENCE_OUT ∧ m.pins.pairFenceOut = s.dev.pins.pairFenceOut) ∧
      m.hon R.HDR_STATUS_READY .mgmt = s.mach.hon R.HDR_STATUS_READY .mgmt ∧
      m = { s.mach with
        regs := m.regs, pins := { s.dev.pins with fatalN := m.pins.fatalN, pairFenceOut := m.pins.pairFenceOut }, bring := 5, onPclk := true, repitch := m.repitch
        evs := m.evs }))

/-- R78 to R82, R94: a strike or park of an idle die starts and sets BUSY, a pitch of a struck die and a restart of a parked one start
training; bits for dies they do not apply to change nothing, and the other dies are untouched. At the fence step the die's registers,
cores and lines are gone, READY and the module's UP are 0, and the die is STRUCK or PARKED; a BOOT_DIE struck in BRINGUP takes the
package to FROZEN. The dies here hold no line and no waiting store or durable write, which a strike would drain first. -/
def Obligations.DieControlComplete : Prop :=
  (∀ (s : State) (src : Src) (dies : BitVec 12), MayWrite s src 12 .pkg 0 → s.dev.lines = [] → (∀ e ∈ s.dev.cores, e.2.sb = [] ∧ e.2.dwl = []) →
    Does (.dieStrike src dies) s (fun m =>
      (∀ k < 12, m.dieOpOf k =
        if dies.getLsbD k = true ∧ s.mach.dieOpOf k = 0 ∧ s.mach.on (R.PKG_STRUCK_MASK_DIES.bit k) = false then 1 else s.mach.dieOpOf k) ∧
      (∀ k < 12, m.on (R.PKG_DIE_STATE_BUSY.bit k) =
        if dies.getLsbD k = true ∧ s.mach.dieOpOf k = 0 ∧ s.mach.on (R.PKG_STRUCK_MASK_DIES.bit k) = false then true
        else s.mach.on (R.PKG_DIE_STATE_BUSY.bit k)) ∧
      (∀ c, m.core c = s.mach.core c) ∧ RegsBut s [R.PKG_DIE_STATE_BUSY.bits] m ∧
      m = { s.mach with regs := m.regs, dieOp := m.dieOp, cores := m.cores })) ∧
  (∀ (s : State) (src : Src) (dies : BitVec 12), MayWrite s src 12 .pkg 0 → s.mach.get R.PKG_COMPAT_COH_VER ≠ 0 →
    Does (.diePitch src dies) s (fun m =>
      (∀ k < 12, m.dieOpOf k =
        if dies.getLsbD k = true ∧ s.mach.dieOpOf k = 0 ∧ s.mach.on (R.PKG_STRUCK_MASK_DIES.bit k) = true then 3 else s.mach.dieOpOf k) ∧
      (∀ k < 12, m.on R.HYL_LINK_STATUS_TRAINING k =
        if dies.getLsbD k = true ∧ s.mach.dieOpOf k = 0 ∧ s.mach.on (R.PKG_STRUCK_MASK_DIES.bit k) = true then true
        else s.mach.on R.HYL_LINK_STATUS_TRAINING k) ∧
      (∀ x, x ≠ R.PKG_DIE_STATE_BUSY.key → (∀ k < 12, x ≠ R.HYL_LINK_STATUS_TRAINING.key k) → m.reg x = s.mach.reg x) ∧
      m = { s.mach with regs := m.regs, dieOp := m.dieOp })) ∧
  (∀ (s : State) (src : Src) (dies : BitVec 12), MayWrite s src 12 .pkg 0 → s.dev.dieOp = [] → s.dev.lines = [] →
    (∀ e ∈ s.dev.cores, e.2.sb = [] ∧ e.2.dwl = []) →
    Does (.diePark src dies) s (fun m =>
      m.get R.PKG_DIE_CTL_PARK = Nat.lor (s.mach.get R.PKG_DIE_CTL_PARK) dies.toNat ∧
      (∀ k < 12, m.dieOpOf k =
        if dies.getLsbD k = true ∧ s.mach.on (R.PKG_DIE_CTL_PARK.bit k) = false ∧ s.mach.dieUp k = true then 2 else 0) ∧
      (∀ k < 12, m.on (R.PKG_DIE_STATE_BUSY.bit k) =
        if dies.getLsbD k = true ∧ s.mach.on (R.PKG_DIE_CTL_PARK.bit k) = false ∧ s.mach.dieUp k = true then true
        else s.mach.on (R.PKG_DIE_STATE_BUSY.bit k)) ∧
      (∀ c, m.core c = s.mach.core c) ∧ RegsBut s [R.PKG_DIE_CTL_PARK.bits, R.PKG_DIE_STATE_BUSY.bits] m ∧
      m = { s.mach with regs := m.regs, dieOp := m.dieOp, cores := m.cores })) ∧
  (∀ (s : State) (src : Src) (dies : BitVec 12), MayWrite s src 12 .pkg 0 → s.dev.dieOp = [] → s.mach.mode ≠ 7 →
    Does (.dieRestart src dies) s (fun m =>
      (∀ k < 12, m.on (R.PKG_DIE_CTL_PARK.bit k) = (s.mach.on (R.PKG_DIE_CTL_PARK.bit k) && !dies.getLsbD k)) ∧
      (∀ k < 12, m.on (R.PKG_DIE_STATE_PARKED.bit k) =
        if dies.getLsbD k = true ∧ s.mach.on (R.PKG_DIE_CTL_PARK.bit k) = true then false else s.mach.on (R.PKG_DIE_STATE_PARKED.bit k)) ∧
      (∀ k < 12, m.dieOpOf k =
        if dies.getLsbD k = true ∧ s.mach.on (R.PKG_DIE_CTL_PARK.bit k) = true ∧ s.mach.on (R.PKG_DIE_STATE_PARKED.bit k) = true ∧
          s.mach.on (R.PKG_STRUCK_MASK_DIES.bit k) = false then 4 else 0) ∧
      (∀ k < 12, m.on R.HYL_LINK_STATUS_TRAINING k = (s.mach.on R.HYL_LINK_STATUS_TRAINING k || m.dieOpOf k == 4)) ∧
      (∀ x, x ∉ [R.PKG_DIE_CTL_PARK.key, R.PKG_DIE_STATE_PARKED.key] → (∀ k < 12, x ≠ R.HYL_LINK_STATUS_TRAINING.key k) → m.reg x = s.mach.reg x) ∧
      m = { s.mach with regs := m.regs, dieOp := m.dieOp })) ∧
  (∀ (s : State) (die : Fin 12), (s.mach.dieOpOf die.val = 1 ∨ s.mach.dieOpOf die.val = 2) →
    (s.mach.dieUp die.val = false ∨ s.mach.dieQuiet die.val = true) → (∀ e ∈ s.dev.filter, die.val ∉ e.2.pres) →
    ¬(s.mach.dieOpOf die.val = 1 ∧ s.mach.mode = 2 ∧ s.mach.get R.PKG_BOOT_BOOT_DIE = die.val) →
    Does (.dieFence die) s (fun m =>
      m.dieOpOf die.val = 0 ∧ m.on (R.PKG_DIE_STATE_BUSY.bit die.val) = false ∧ m.on (R.PKG_READY_CD.bit die.val) = false ∧
      m.on R.HYL_LINK_STATUS_UP die.val = false ∧ m.on R.HYL_LINK_STATUS_TRAINING die.val = false ∧
      (s.mach.dieOpOf die.val = 1 → m.on (R.PKG_STRUCK_MASK_DIES.bit die.val) = true) ∧
      (s.mach.dieOpOf die.val = 2 → m.on (R.PKG_DIE_STATE_PARKED.bit die.val) = true) ∧
      (∀ x, x / 0x1000000 = die.val → m.reg x = regReset s.fuses x) ∧
      (∀ c, m.core c = if dieOf c = die.val then coreReset else s.mach.core c) ∧
      (∀ l < 2 ^ 42, (m.dl die.val l).st = .i) ∧
      (∀ x, x / 0x1000000 ≠ die.val → x ∉ [R.PKG_READY_CD.key, R.PKG_DIE_STATE_BUSY.key, R.PKG_STRUCK_MASK_DIES.key, R.HYL_LINK_STATUS_UP.key die.val] →
        m.reg x = s.mach.reg x) ∧
      m = { s.mach with
        regs := m.regs, active := m.active, staged := m.staged, err64 := m.err64, cores := m.cores, lines := m.lines, trace := m.trace
        pruning := m.pruning, tcap := m.tcap, pcap := m.pcap, hylEnds := m.hylEnds, dieOp := m.dieOp })) ∧
  (∀ (s : State) (die : Fin 12), s.mach.dieOpOf die.val = 1 → (s.mach.dieUp die.val = false ∨ s.mach.dieQuiet die.val = true) →
    (∀ e ∈ s.dev.filter, die.val ∉ e.2.pres) → s.mach.mode = 2 → s.mach.get R.PKG_BOOT_BOOT_DIE = die.val →
    Does (.dieFence die) s (fun m => m.mode = 9 ∧ m.on (R.PKG_STRUCK_MASK_DIES.bit die.val) = true ∧ m.frozenCause = 0))

/-- R91 to R93, R176, R308, R309, R31: the seed store loads the fused keys and generates M0, S0 and SYS; an image whose copy A fails is
tried from copy B, a second failure sets FW_FAIL or BOOT_FAIL, asserts FATAL_N and queues a record on the sideband (log 89), and a verified one goes on: the management controller
runs with its configuration record, or the boot image lies in the boot window and all blocks are released. WINDOW_RELEASE empties
the window. -/
def Obligations.BringupStepsComplete : Prop :=
  (∀ (s : State), s.mach.mode = 2 → s.dev.bring = 2 → s.mach.get R.SEED_DRBG_FAILS = 0 →
    Does .seedStoreReady s (fun m =>
      m.bring = 3 ∧ m.hon R.HDR_STATUS_READY .seed = true ∧ m.hon R.HDR_STATUS_ENABLED .ciph = true ∧
      m.hon R.HDR_CONTROL_ENABLE .ciph = true ∧ m.hon R.HDR_STATUS_READY .ciph = true ∧
      m.on R.SEED_DRBG_HEALTHY = true ∧ m.on R.PKG_BOOT_FW_FAIL = false ∧ m.on R.PKG_BOOT_BOOT_FAIL = false ∧ m.on R.LANT_ALARM_FATAL = false ∧ m.pins.fatalN = true ∧
      (∀ n < 2, m.slot n = ⟨4, 1, if n = 0 then 2 ^ useFw else 2 ^ useWrap + 2 ^ useUnwrap, 0, true, 0, 0, 0, 0, 0, Config.fuseKey n⟩) ∧
      (∀ n ∈ [8, 9, 12, 14, 15], (m.slot n).state = 1 ∧ (m.slot n).pkgOwned = true ∧ (m.slot n).use = 0 ∧ (m.slot n).ivctr = 0 ∧
        (m.slot n).gen = ((s.mach.slot n).gen + 1) % 2 ^ 16 ∧ (m.slot n).limit = (s.mach.slot n).limit) ∧
      (∀ n, n ∉ [0, 1, 8, 9, 12, 14, 15] → m.slot n = s.mach.slot n) ∧
      m.get R.SEED_MEMROT_CUR = 0 ∧ m.get R.SEED_SHEDROT_CUR = 0 ∧
      m = { s.mach with regs := m.regs, slots := m.slots, ivBlocks := m.ivBlocks, free := m.free, bring := 3, pins := { s.dev.pins with fatalN := true } })) ∧
  (∀ (s : State) (copyB : Bool) (chunks : List Chunk) (version : BitVec 16) (config : List (BitVec 28 × Word)), s.mach.mode = 2 →
    s.dev.bring = (if copyB then 13 else 3) → FwGood s chunks → config.all (fun e => e.1.toNat % 0x1000 == 0x18) = true →
    Does (.mcImageVerified copyB 1 chunks version config) s (fun m =>
      m.get R.PKG_BOOT_FW_SLOT = copyB.toNat ∧ m.get R.PKG_BOOT_FW_VERSION = version.toNat ∧ m.hon R.HDR_STATUS_READY .mgmt = true ∧
      FwUsed s chunks 0 m ∧ RegsBut s ([whole R.PKG_BOOT_FW_SLOT.key, hbits R.HDR_STATUS_READY .mgmt] ++ fwRegs) m ∧
      m = { s.mach with regs := m.regs, slots := m.slots, bring := 5, config := config })) ∧
  (∀ (s : State) (copyB : Bool) (version : BitVec 16) (config : List (BitVec 28 × Word)), s.mach.mode = 2 →
    s.dev.bring = (if copyB then 13 else 3) →
    Does (.mcImageVerified copyB 1 [] version config) s (fun m =>
      m = applyConfig { ((s.mach.set R.PKG_BOOT_FW_SLOT copyB.toNat).set R.PKG_BOOT_FW_VERSION version.toNat).hset R.HDR_STATUS_READY .mgmt 1 with
        config := config, bring := 5 } (config.filter (fun e => e.1.toNat % 0x1000 != 0x18)))) ∧
  (∀ (s : State) (major : Byte) (chunks : List Chunk) (version : BitVec 16) (config : List (BitVec 28 × Word)) (n fails : Nat), s.mach.mode = 2 →
    FwBad s major chunks n fails → s.dev.bring = 3 →
    Does (.mcImageVerified false major chunks version config) s (fun m =>
      FwUsed s (chunks.take n) fails m ∧ RegsBut s fwRegs m ∧ m = { s.mach with regs := m.regs, slots := m.slots, bring := 13 })) ∧
  (∀ (s : State) (major : Byte) (chunks : List Chunk) (version : BitVec 16) (config : List (BitVec 28 × Word)) (n fails : Nat), s.mach.mode = 2 →
    FwBad s major chunks n fails → s.dev.bring = 13 → s.dev.lant.sbq.length < 256 →
    Does (.mcImageVerified true major chunks version config) s (fun m =>
      m.on R.PKG_BOOT_FW_FAIL = true ∧ m.on R.LANT_ALARM_FATAL = true ∧ FwUsed s (chunks.take n) fails m ∧
      m.lant = { s.dev.lant with sbq := m.lant.sbq } ∧ m.lant.sbq.dropLast = s.dev.lant.sbq ∧
      (∀ r ∈ m.lant.sbq.getLast?, r.cls = 0 ∧ r.sev = 3 ∧ r.seq = s.mach.get R.LANT_SEQ_NEXT ∧ r.time = s.dev.time) ∧
      m.get R.LANT_SEQ_NEXT = (s.mach.get R.LANT_SEQ_NEXT + 1) % 2 ^ R.LANT_SEQ_NEXT.w ∧
      RegsBut s ([R.PKG_BOOT_FW_FAIL.bits, R.LANT_ALARM_FATAL.bits, R.LANT_SEQ_NEXT.bits] ++ fwRegs) m ∧
      m = { s.mach with regs := m.regs, slots := m.slots, bring := 0, lant := m.lant, free := m.free, pins := { s.dev.pins with fatalN := false } })) ∧
  (∀ (s : State) (copyB : Bool) (minor : Byte) (chunks : List Chunk) (image : List Byte), s.mach.mode = 2 → s.dev.bring = (if copyB then 15 else 5) → s.dev.config = [] →
    s.mach.get R.PKG_RESET_CAUSE_LAST < 3 → FwGood s chunks →
    image = (chunks.flatMap (fun c => (s.mach.fwOpen c).getD [])).take (2 ^ 22) →
    Does (.bootImageVerified copyB 1 minor chunks) s (fun m =>
      m.bring = 6 ∧ FwUsed s chunks 0 m ∧ m.on R.PKG_BOOT_WINDOW_VALID = true ∧ m.get R.PKG_BOOT_BOOT_SLOT = copyB.toNat ∧ m.get R.MSC_WINDOW_BOOTWAYS = 1 ∧
      m.get R.PKG_COMPAT_COH_VER = (if s.fuses.iodRev = 2 ∧ s.mach.on R.PKG_COMPAT_FORCE_H1 = false then 2 else 1) ∧
      (∀ q < 4, m.hon R.HDR_STATUS_READY .home q = true ∧ m.hon R.HDR_STATUS_READY .msc q = true ∧ m.hon R.HDR_STATUS_READY .rake q = true ∧
        m.hon R.HDR_CONTROL_ENABLE .tier q = true ∧ m.hon R.HDR_CONTROL_ENABLE .codec q = true ∧
        m.hon R.HDR_CONTROL_ENABLE .bulk q = true ∧ m.hon R.HDR_CONTROL_ENABLE .ciph q = true) ∧
      (∀ g < 16, m.hon R.HDR_CONTROL_ENABLE .pg g = true) ∧
      (∀ k < 12, m.on R.HYL_LINK_STATUS_TRAINING k = true ∧ m.hon R.HDR_STATUS_READY .hyl k = true) ∧
      (∀ i < image.length, m.byte (2 ^ 48 + i) = image.getD i 0) ∧ (∀ a, 2 ^ 48 + image.length ≤ a → m.byte a = 0) ∧
      (∀ a, a < 2 ^ 48 → m.byte a = s.mach.byte a) ∧
      m = { s.mach with regs := m.regs, slots := m.slots, wr := m.wr, bring := 6 })) ∧
  (∀ (s : State) (copyB : Bool) (major minor : Byte) (chunks : List Chunk) (n fails : Nat), s.mach.mode = 2 → FwBad s major chunks n fails →
    s.dev.bring = (if copyB then 15 else 5) → s.dev.lant.sbq.length < 256 →
    Does (.bootImageVerified copyB major minor chunks) s (fun m =>
      FwUsed s (chunks.take n) fails m ∧
      (copyB = false → RegsBut s fwRegs m ∧ m = { s.mach with regs := m.regs, slots := m.slots, bring := 15 }) ∧
      (copyB = true → m.on R.PKG_BOOT_BOOT_FAIL = true ∧ m.on R.LANT_ALARM_FATAL = true ∧
        m.lant = { s.dev.lant with sbq := m.lant.sbq } ∧ m.lant.sbq.dropLast = s.dev.lant.sbq ∧
        (∀ r ∈ m.lant.sbq.getLast?, r.cls = 0 ∧ r.sev = 3 ∧ r.seq = s.mach.get R.LANT_SEQ_NEXT ∧ r.time = s.dev.time) ∧
        m.get R.LANT_SEQ_NEXT = (s.mach.get R.LANT_SEQ_NEXT + 1) % 2 ^ R.LANT_SEQ_NEXT.w ∧
        RegsBut s ([R.PKG_BOOT_BOOT_FAIL.bits, R.LANT_ALARM_FATAL.bits, R.LANT_SEQ_NEXT.bits] ++ fwRegs) m ∧
        m = { s.mach with regs := m.regs, slots := m.slots, bring := 0, lant := m.lant, free := m.free, pins := { s.dev.pins with fatalN := false } }))) ∧
  (∀ (s : State) (src : Src), MayWrite s src 12 .pkg 0 →
    Does (.windowRelease src) s (fun m =>
      m.on R.PKG_BOOT_WINDOW_VALID = false ∧ m.get R.MSC_WINDOW_BOOTWAYS = 0 ∧ (∀ a, 2 ^ 48 ≤ a → m.byte a = 0) ∧
      (∀ a, a < 2 ^ 48 → m.byte a = s.mach.byte a) ∧ RegsBut s [R.PKG_BOOT_WINDOW_VALID.bits, R.MSC_WINDOW_BOOTWAYS.bits] m ∧
      m = { s.mach with regs := m.regs, wr := m.wr }))

/-- R25, R31, R80, R90, R94, R228, R231, R349, R415, R416, R421, R549: a module that trained with a coherence version both ends have is UP, and one
that failed, or whose die lacks the version, leaves its die struck with the cause, which a LINK event names (log 46); a die that reports READY is struck no longer
and is parked where its PARK bit is set, and the first one in BRINGUP is BOOT_DIE and its core 0 starts at the boot window; a DDR channel of DIMMs that R211 accepts (of others it raises
UNSUPPORTED_DIMM), a port group, a Guyline
port, a Barkai quadrant and TEN become READY. -/
def Obligations.ReadyCommandsComplete : Prop :=
  (∀ (s : State) (die : Fin 12) (rev : BitVec 4) (h1 h2 : Bool) (tx rx : Fin 8), s.mach.get R.PKG_COMPAT_COH_VER ≠ 0 → s.mach.mode ≠ 9 →
    s.mach.on R.HYL_LINK_STATUS_TRAINING die.val = true → s.mach.on R.HYL_LINK_STATUS_UP die.val = false → tx.val ≤ 4 → rx.val ≤ 4 →
    (if s.mach.get R.PKG_COMPAT_COH_VER = 2 then h2 else h1) = true →
    Does (.hylarTrained die (.trained rev h1 h2 tx rx)) s (fun m =>
      m.on R.HYL_LINK_STATUS_UP die.val = true ∧ m.on R.HYL_LINK_STATUS_TRAINING die.val = false ∧
      m.get R.HYL_LINK_STATUS_VERSION die.val = s.mach.get R.PKG_COMPAT_COH_VER ∧ m.get R.HYL_LINK_STATUS_FAIL_CAUSE die.val = 0 ∧
      m.get R.HYL_LINK_STATUS_SPARES_TX die.val = tx.val ∧ m.get R.HYL_LINK_STATUS_SPARES_RX die.val = rx.val ∧
      bitsOf (m.get R.PKG_DIEREV_CDREV) (4 * die.val) 4 = rev.toNat ∧
      m.errs = (if tx.val + rx.val = 0 then [] else [⟨12, .hyl, die.val, E.HYL_REPAIRED.bit, sevCorrected, none, 0, none, false⟩]) ∧
      m.evs = [⟨9, 2, 12, .hyl, die.val, none, 1, 0⟩] ∧
      RegsBut s [R.PKG_DIEREV_CDREV.bits, whole (R.HYL_LINK_STATUS_UP.key die.val)] m ∧
      m = { s.mach with regs := m.regs, errs := m.errs, evs := m.evs })) ∧
  (∀ (s : State) (die : Fin 12) (r : TrainResult), s.mach.get R.PKG_COMPAT_COH_VER ≠ 0 → s.mach.mode ≠ 9 →
    s.mach.on R.HYL_LINK_STATUS_TRAINING die.val = true → s.mach.on R.HYL_LINK_STATUS_UP die.val = false →
    r ∈ [TrainResult.failed .noModule, .failed .repair, .failed .fwdClock] →
    Does (.hylarTrained die r) s (fun m =>
      m.get R.HYL_LINK_STATUS_FAIL_CAUSE die.val = (if r = .failed .noModule then 1 else if r = .failed .repair then 2 else 4) ∧
      m.on R.HYL_LINK_STATUS_TRAINING die.val = false ∧ m.on (R.PKG_STRUCK_MASK_DIES.bit die.val) = true ∧ m.dieOpOf die.val = 0 ∧
      m.on (R.PKG_DIE_STATE_BUSY.bit die.val) = false ∧
      RegsBut s [whole (R.HYL_LINK_STATUS_UP.key die.val), R.PKG_STRUCK_MASK_DIES.bits, R.PKG_DIE_STATE_BUSY.bits] m ∧
      m = { s.mach with
        regs := m.regs, dieOp := m.dieOp
        evs := [⟨9, 2, 12, .hyl, die.val, none, 16 * m.get R.HYL_LINK_STATUS_FAIL_CAUSE die.val, 0⟩] })) ∧
  (∀ (s : State) (die : Fin 12) (rev : BitVec 4) (h1 h2 : Bool) (tx rx : Fin 8), s.mach.get R.PKG_COMPAT_COH_VER ≠ 0 → s.mach.mode ≠ 9 →
    s.mach.on R.HYL_LINK_STATUS_TRAINING die.val = true → s.mach.on R.HYL_LINK_STATUS_UP die.val = false →
    (4 < tx.val ∨ 4 < rx.val ∨ (if s.mach.get R.PKG_COMPAT_COH_VER = 2 then h2 else h1) = false) →
    Does (.hylarTrained die (.trained rev h1 h2 tx rx)) s (fun m =>
      m.get R.HYL_LINK_STATUS_FAIL_CAUSE die.val = (if 4 < tx.val ∨ 4 < rx.val then 2 else 3) ∧
      (tx.val ≤ 4 ∧ rx.val ≤ 4 → bitsOf (m.get R.PKG_DIEREV_CDREV) (4 * die.val) 4 = rev.toNat) ∧
      m.on R.HYL_LINK_STATUS_TRAINING die.val = false ∧ m.on R.HYL_LINK_STATUS_UP die.val = false ∧
      m.on (R.PKG_STRUCK_MASK_DIES.bit die.val) = true ∧ m.dieOpOf die.val = 0 ∧ m.on (R.PKG_DIE_STATE_BUSY.bit die.val) = false ∧
      RegsBut s [whole (R.HYL_LINK_STATUS_UP.key die.val), R.PKG_STRUCK_MASK_DIES.bits, R.PKG_DIE_STATE_BUSY.bits, R.PKG_DIEREV_CDREV.bits] m ∧
      m = { s.mach with
        regs := m.regs, dieOp := m.dieOp
        evs := [⟨9, 2, 12, .hyl, die.val, none, 16 * m.get R.HYL_LINK_STATUS_FAIL_CAUSE die.val, 0⟩] })) ∧
  (∀ (s : State) (die : Fin 12), s.mach.get R.PKG_COMPAT_COH_VER ≠ 0 → s.mach.mode ≠ 9 →
    ¬(s.mach.mode = 2 ∧ s.mach.on R.PKG_BOOT_WINDOW_VALID = true ∧ s.mach.get R.PKG_BOOT_BOOT_DIE = 15) → s.mach.on R.HYL_LINK_STATUS_UP die.val = true →
    s.mach.on (R.PKG_READY_CD.bit die.val) = false → s.mach.on (R.PKG_DIE_CTL_PARK.bit die.val) = false →
    Does (.dieReady die) s (fun m =>
      m.on (R.PKG_READY_CD.bit die.val) = true ∧ m.on (R.PKG_STRUCK_MASK_DIES.bit die.val) = false ∧ m.dieOpOf die.val = 0 ∧
      m.on R.CLK_FWD_STATUS_FWD_OK 0 die.val = true ∧ m.on R.CLK_FWD_STATUS_DESKEW_DONE 0 die.val = true ∧
      m.on R.HYL_LINK_STATUS_UP 0 die.val = true ∧
      m.get R.HYL_LINK_STATUS_VERSION 0 die.val = s.mach.get R.PKG_COMPAT_COH_VER ∧
      m.get R.HYL_LINK_STATUS_SPARES_TX 0 die.val = s.mach.get R.HYL_LINK_STATUS_SPARES_RX die.val ∧
      m.get R.HYL_LINK_STATUS_SPARES_RX 0 die.val = s.mach.get R.HYL_LINK_STATUS_SPARES_TX die.val ∧
      RegsBut s [R.PKG_READY_CD.bits, R.PKG_STRUCK_MASK_DIES.bits, R.PKG_DIE_STATE_BUSY.bits, whole (R.CLK_FWD_STATUS_FWD_OK.key 0 die.val),
        whole (R.HYL_LINK_STATUS_UP.key 0 die.val)] m ∧
      m = { s.mach with regs := m.regs, dieOp := m.dieOp })) ∧
  (∀ (s : State) (die : Fin 12), s.mach.get R.PKG_COMPAT_COH_VER ≠ 0 → s.mach.mode = 2 → s.mach.on R.HYL_LINK_STATUS_UP die.val = true →
    s.mach.on (R.PKG_READY_CD.bit die.val) = false → s.mach.on (R.PKG_DIE_CTL_PARK.bit die.val) = false →
    s.mach.on R.PKG_BOOT_WINDOW_VALID = true → s.mach.get R.PKG_BOOT_BOOT_DIE = 15 → (s.mach.core (32 * die.val)).run = .parked →
    Does (.dieReady die) s (fun m =>
      m.get R.PKG_BOOT_BOOT_DIE = die.val ∧ m.on (R.PKG_READY_CD.bit die.val) = true ∧ m.on (R.PKG_STRUCK_MASK_DIES.bit die.val) = false ∧
      (m.core (32 * die.val)).run = .running ∧ (m.core (32 * die.val)).pc = BitVec.ofNat 64 0xFF0010000000 ∧
      (∀ c, c ≠ 32 * die.val → m.core c = s.mach.core c) ∧
      (∀ k, k / 4 ≠ 32 * die.val → m.durGot.find k = s.dev.durGot.find k ∧ m.durAcc.find k = s.dev.durAcc.find k) ∧
      m = { s.mach with
        regs := m.regs, dieOp := m.dieOp, cores := m.cores, durGot := m.durGot, durAcc := m.durAcc, durWaits := m.durWaits, pair := m.pair })) ∧
  (∀ (s : State) (die : Fin 12), s.mach.get R.PKG_COMPAT_COH_VER ≠ 0 → s.mach.mode ≠ 9 → s.mach.on R.HYL_LINK_STATUS_UP die.val = true →
    s.mach.on (R.PKG_READY_CD.bit die.val) = false → s.mach.on (R.PKG_DIE_CTL_PARK.bit die.val) = true →
    Does (.dieReady die) s (fun m =>
      m.on (R.PKG_DIE_STATE_PARKED.bit die.val) = true ∧ m.on (R.PKG_STRUCK_MASK_DIES.bit die.val) = false ∧ m.dieOpOf die.val = 0 ∧
      m.on R.HYL_LINK_STATUS_UP die.val = false ∧ m.on (R.PKG_READY_CD.bit die.val) = false ∧
      RegsBut s [R.PKG_STRUCK_MASK_DIES.bits, R.PKG_DIE_STATE_BUSY.bits, R.PKG_DIE_STATE_PARKED.bits, R.HYL_LINK_STATUS_UP.bits die.val] m ∧
      m = { s.mach with regs := m.regs, dieOp := m.dieOp })) ∧
  (∀ (s : State) (ch : DdrChan), s.mach.get R.PKG_COMPAT_COH_VER ≠ 0 → s.mach.mode ≠ 9 → s.mach.chanUsed ch.n.val = true →
    s.mach.hon R.HDR_STATUS_READY .seed = true → s.mach.hon R.HDR_STATUS_READY .ddr ch.n.val = false → dimmOk ch.dimm = true →
    Does (.ddrChannelReady ch) s (fun m =>
      m.on R.DDR_TRAIN_TRAINED ch.n.val = true ∧ m.on R.DDR_TRAIN_INIT_DONE ch.n.val = true ∧ m.on R.DDR_TRAIN_SELF_REFRESH ch.n.val = false ∧
      m.hon R.HDR_STATUS_READY .ddr ch.n.val = true ∧
      (s.mach.hon R.HDR_CONTROL_ENABLE .ddr ch.n.val = true → m.hon R.HDR_STATUS_ENABLED .ddr ch.n.val = true) ∧
      (s.mach.hon R.HDR_CONTROL_ENABLE .ddr ch.n.val = false →
        m.hon R.HDR_STATUS_ENABLED .ddr ch.n.val = s.mach.hon R.HDR_STATUS_ENABLED .ddr ch.n.val) ∧
      OnlyRegs s [R.DDR_TRAIN_TRAINED.bits ch.n.val, R.DDR_TRAIN_INIT_DONE.bits ch.n.val, R.DDR_TRAIN_SELF_REFRESH.bits ch.n.val,
        hbits R.HDR_STATUS_READY .ddr ch.n.val, hbits R.HDR_STATUS_ENABLED .ddr ch.n.val] m)) ∧
  (∀ (s : State) (ch : DdrChan), s.mach.get R.PKG_COMPAT_COH_VER ≠ 0 → s.mach.mode ≠ 9 → s.mach.chanUsed ch.n.val = true →
    s.mach.hon R.HDR_STATUS_READY .seed = true → s.mach.hon R.HDR_STATUS_READY .ddr ch.n.val = false →
    (ch.dimm.registered = false ∨ ch.dimm.x4 = false ∨ ch.dimm.devices ≠ 10 ∨ ch.dimm.gib ∉ [32#16, 64, 128, 256] ∨ ch.dimm.ranks ∉ [1#4, 2]) →
    Does (.ddrChannelReady ch) s (fun m =>
      m = { s.mach with errs := [⟨12, .ddr, ch.n.val, E.DDR_UNSUPPORTED_DIMM.bit, sevContained, none, 0, none, false⟩] })) ∧
  (∀ (s : State) (g : Fin 16), s.mach.get R.PKG_COMPAT_COH_VER ≠ 0 → s.mach.mode ≠ 9 → s.mach.hon R.HDR_CONTROL_ENABLE .pg g.val = true →
    Does (.pgReady g) s (fun m =>
      m.hon R.HDR_STATUS_READY .pg g.val = true ∧ m.hon R.HDR_STATUS_ENABLED .pg g.val = true ∧ m.hon R.HDR_STATUS_READY .ep g.val = true ∧
      OnlyRegs s [whole (hkey R.HDR_STATUS_READY .pg g.val), whole (hkey R.HDR_STATUS_READY .ep g.val), hbits R.HDR_CONTROL_ENABLE .pg g.val] m)) ∧
  (∀ (s : State) (port : Fin 2), s.mach.get R.PKG_COMPAT_COH_VER ≠ 0 → 2 ≤ s.mach.mode → s.mach.mode ≠ 9 → s.mach.hon R.HDR_CONTROL_ENABLE .guy port.val = true →
    s.mach.hon R.HDR_STATUS_ENABLED .guy port.val = false → s.mach.hon R.HDR_STATUS_STRUCK .guy port.val = false →
    Does (.glPortReady port) s (fun m =>
      m.hon R.HDR_STATUS_READY .guy port.val = true ∧ m.hon R.HDR_STATUS_ENABLED .guy port.val = true ∧
      m.hon R.HDR_STATUS_BUSY .guy port.val = false ∧ OnlyRegs s [hbits R.HDR_STATUS_READY .guy port.val, hbits R.HDR_STATUS_ENABLED .guy port.val, hbits R.HDR_STATUS_BUSY .guy port.val] m)) ∧
  (∀ (s : State) (q : Fin 4), s.mach.get R.PKG_COMPAT_COH_VER ≠ 0 → s.mach.mode ≠ 9 → (s.mach.get R.PKG_RESET_CAUSE_LAST < 3 ∨ s.dev.moves = [] ∧ s.dev.queues = [] ∧ s.mach.on (R.SEED_REKEY_PAGE_VALID.at q.val) = false ∧
      (s.mach.tq q.val).poisonLater = [] ∧ s.mach.on (R.LANT_STORE_STAT_PARTIAL.bit q.val) = false) →
    s.mach.quadReady q.val = true → s.mach.poolLo q.val < s.mach.poolHi q.val → Idle s →
    Does (.barkaiReady q) s (fun m =>
      (∀ b ∈ [Block.tier, .codec, .bulk, .ciph], s.mach.hon R.HDR_CONTROL_ENABLE b q.val = true → m.hon R.HDR_STATUS_READY b q.val = true ∧
        (s.mach.hon R.HDR_STATUS_READY b q.val = false → m.hon R.HDR_STATUS_ENABLED b q.val = true)) ∧
      m.get R.TIER_FREE_FREE_FRAMES q.val = (s.mach.poolHi q.val - s.mach.poolLo q.val - (s.mach.quadFrames q.val).length) % 2 ^ R.TIER_FREE_FREE_FRAMES.w ∧
      (∀ x, x ≠ R.TIER_FREE_FREE_FRAMES.key q.val → (∀ b ∈ [Block.tier, .codec, .bulk, .ciph], x ≠ hkey R.HDR_STATUS_READY b q.val ∧
        x ≠ hkey R.HDR_CONTROL_ENABLE b q.val) → m.reg x = s.mach.reg x) ∧
      m = { s.mach with regs := m.regs, tierq := m.tierq } ∧ (∀ k, m.tq k = s.mach.tq k))) ∧
  (∀ (s : State), s.mach.get R.PKG_COMPAT_COH_VER ≠ 0 → s.mach.mode ≠ 9 →
    Does .tenReady s (fun m =>
      m.hon R.HDR_STATUS_READY .ten = true ∧
      m.tenant 0 = (if (s.mach.tenant 0).state = 0 then { s.mach.tenant 0 with state := 1 } else s.mach.tenant 0) ∧
      (∀ t, t ≠ 0 → m.tenant t = s.mach.tenant t) ∧ RegsBut s [whole (hkey R.HDR_STATUS_READY .ten)] m ∧
      m = { s.mach with regs := m.regs, tenants := m.tenants }))

/-- R93, R111, R112, R117, R138, R146, R159, R182, R198: a load of memory whose lines the die holds returns its bytes, the core's own
buffered stores first, and moves the pc on; an atomic instruction's read needs the lines owned; a fetch changes no register and
fills the L1I; a load of a line the die lacks sends RdShared and waits; a load of control space, a doorbell page or a device joins the
core's device accesses; one of the boot window returns the image's bytes; LD.ACQ loads as a load does, and so does an access sent again
without SPEC. That a load shorter than 8 bytes is zero-extended is the model's reading (log 40), and so is what a load wider than 8
bytes writes (log 91). -/
def Obligations.LoadsComplete : Prop :=
  (∀ (s : State) (c : Cid) (rd : Fin 32) (va : Word) (lg : Fin 7) (kind : LoadKind) (ilen : Fin 17) (spa : Nat), Runs s c → NoCount s c →
    lg.val ≤ 3 → kind ∈ [LoadKind.data, .speculative] →
    Reaches (Alone s c (.load rd.val lg.val va.toNat kind ilen.val false)) c .load va.toNat spa 0 → va.toNat % 4096 + 2 ^ lg.val ≤ 4096 → spa % 64 + 2 ^ lg.val ≤ 64 →
    Holds s c (spa / 64) →
    c.core.val ∈ (s.mach.dl c.die.val (spa / 64)).l2 → (c.core.val, false, va.toNat / 4096 % 2) ∈ (s.mach.dl c.die.val (spa / 64)).l1 →
    Does (.load c rd va lg kind ilen) s (fun m =>
      m.gpr (cidOf c) rd.val = ofBytes ((List.range (2 ^ lg.val)).map (fun i => loadByte s c (spa + i))) ∧
      (∀ r, r ≠ rd.val → m.gpr (cidOf c) r = s.mach.gpr (cidOf c) r) ∧
      m.core (cidOf c) = { s.mach.core (cidOf c) with g := (m.core (cidOf c)).g, pc := (s.mach.core (cidOf c)).pc + BitVec.ofNat 64 ilen.val } ∧
      OnlyCore s c m)) ∧
  (∀ (s : State) (c : Cid) (rd : Fin 32) (va : Word) (lg : Fin 7) (kind : LoadKind) (ilen : Fin 17) (bs : List Nat), Runs s c →
    kind ∈ [LoadKind.data, .speculative, .atomic] →
    ReachesAll (Alone s c (.load rd.val lg.val va.toNat kind ilen.val false)) c (if kind = .atomic then .atomic else .load) va.toNat (2 ^ lg.val) bs 0 →
    (∀ a ∈ bs, Holds s c (a / 64) ∧ (kind = .atomic → Owns s c (a / 64))) →
    Does (.load c rd va lg kind ilen) s (fun m =>
      (∀ r, m.gpr (cidOf c) r = if r = rd.val ∧ lg.val ≤ 3 then ofBytes (bs.map (loadByte s c)) else s.mach.gpr (cidOf c) r) ∧
      (m.core (cidOf c)).pc = (s.mach.core (cidOf c)).pc + BitVec.ofNat 64 ilen.val ∧ (m.core (cidOf c)).flight = [] ∧
      (m.core (cidOf c)).sb = (s.mach.core (cidOf c)).sb)) ∧
  (∀ (s : State) (c : Cid) (va : Word) (lg : Fin 7) (ilen : Fin 17) (rd : Fin 32) (spa : Nat), Runs s c →
    Reaches s.mach c .fetch va.toNat spa 0 → va.toNat % 4096 + 2 ^ lg.val ≤ 4096 → spa % 64 + 2 ^ lg.val ≤ 64 →
    Holds s c (spa / 64) →
    c.core.val ∈ (s.mach.dl c.die.val (spa / 64)).l2 → (c.core.val, true, va.toNat / 4096 % 2) ∈ (s.mach.dl c.die.val (spa / 64)).l1 →
    Does (.load c rd va lg .fetch ilen) s (fun m => m = s.mach)) ∧
  (∀ (s : State) (c : Cid) (va : Word) (lg : Fin 7) (ilen : Fin 17) (rd : Fin 32) (spa : Nat), Runs s c →
    Reaches s.mach c .fetch va.toNat spa 0 → va.toNat % 4096 + 2 ^ lg.val ≤ 4096 → spa % 64 + 2 ^ lg.val ≤ 64 →
    Holds s c (spa / 64) →
    Does (.load c rd va lg .fetch ilen) s (fun m =>
      (c.core.val ∈ (s.mach.dl c.die.val (spa / 64)).l2 → (c.core.val, true, va.toNat / 4096 % 2) ∈ (m.dl c.die.val (spa / 64)).l1) ∧ (m.core (cidOf c)).g = (s.mach.core (cidOf c)).g ∧
      (m.core (cidOf c)).pc = (s.mach.core (cidOf c)).pc ∧ (m.core (cidOf c)).sb = (s.mach.core (cidOf c)).sb)) ∧
  (∀ (s : State) (c : Cid) (rd : Fin 32) (va : Word) (lg : Fin 7) (ilen : Fin 17) (spa : Nat) (a : Access), Runs s c → NoCount s c → NoUncore s →
    a = .load rd.val lg.val va.toNat .data ilen.val false → Reaches (Alone s c a) c .load va.toNat spa 0 →
    va.toNat % 4096 + 2 ^ lg.val ≤ 4096 → spa % 64 + 2 ^ lg.val ≤ 64 → s.mach.dl c.die.val (spa / 64) = noLine → spa / 64 % 64 = 63 →
    s.mach.flushing c.die.val (spa / 64) = false →
    Does (.load c rd va lg .data ilen) s (fun m =>
      m.dl c.die.val (spa / 64) = { noLine with st := .isd, wait := [(cidOf c, a)] } ∧
      (∀ d l, l < 2 ^ 42 → ¬(d = c.die.val ∧ l = spa / 64) → m.dl d l = s.mach.dl d l) ∧
      m.core (cidOf c) = { s.mach.core (cidOf c) with flight := [⟨a, .waiting [spa / 64]⟩] } ∧ (∀ k, k ≠ cidOf c → m.core k = s.mach.core k) ∧
      m = { s.mach with
        cores := m.cores
        lines := m.lines
        net := s.dev.net ++ [{ k := .rdShared, src := c.die.val, dst := agentHome (homeOf (spa / 64 * 64)), line := spa / 64 }] })) ∧
  (∀ (s : State) (c : Cid) (rd : Fin 32) (va : Word) (lg : Fin 7) (kind : LoadKind) (ilen : Fin 17) (spa : Nat) (a : Access), Runs s c →
    a = .load rd.val lg.val va.toNat kind ilen.val false → kind ∈ [LoadKind.data, .speculative, .atomic] →
    Reaches (Alone s c a) c (if kind = .atomic then .atomic else .load) va.toNat spa 0 → va.toNat % 4096 + 2 ^ lg.val ≤ 4096 → spa % 64 + 2 ^ lg.val ≤ 64 →
    (s.mach.dl c.die.val (spa / 64)).st = .i → s.mach.flushing c.die.val (spa / 64) = false →
    Does (.load c rd va lg kind ilen) s (fun m =>
      (m.core (cidOf c)).flight = [⟨a, .waiting [spa / 64]⟩] ∧ (m.core (cidOf c)).pc = (s.mach.core (cidOf c)).pc ∧ (m.core (cidOf c)).g = (s.mach.core (cidOf c)).g ∧
      (cidOf c, a) ∈ (m.dl c.die.val (spa / 64)).wait ∧ (m.dl c.die.val (spa / 64)).st = (if kind = .atomic then .imd else .isd) ∧
      { k := if kind = .atomic then .rdOwn else .rdShared, src := c.die.val, dst := agentHome (homeOf (spa / 64 * 64)), line := spa / 64, flag := isSpec kind } ∈ m.net)) ∧
  (∀ (s : State) (c : Cid) (rd : Fin 32) (va : Word) (lg : Fin 7) (ilen : Fin 17) (spa mt : Nat), Runs s c → (s.mach.core (cidOf c)).sb = [] →
    Reaches (Alone s c (.load rd.val lg.val va.toNat .data ilen.val false)) c .load va.toNat spa mt → va.toNat % 4096 + 2 ^ lg.val ≤ 4096 → 2 ≤ mt →
    alignFault spa va.toNat lg.val mt false = none →
    Does (.load c rd va lg .data ilen) s (fun m =>
      (∀ k, m.core k = s.mach.core k) ∧
      m = { s.mach with
        cores := m.cores
        devq := s.dev.devq ++ [⟨0, cidOf c, spa, lg.val, 0, some rd.val, ilen.val, true, 0, (s.mach.core (cidOf c)).pl, none⟩] })) ∧
  (∀ (s : State) (c : Cid) (rd : Fin 32) (va : Word) (lg : Fin 7) (ilen : Fin 17) (spa : Nat), Runs s c → NoCount s c → (s.mach.core (cidOf c)).sb = [] → lg.val ≤ 3 →
    Reaches (Alone s c (.load rd.val lg.val va.toNat .data ilen.val false)) c .load va.toNat spa 1 → va.toNat % 4096 + 2 ^ lg.val ≤ 4096 →
    (0xFF0010000000 ≤ spa ∧ spa + 2 ^ lg.val ≤ 0xFF0010400000) →
    Does (.load c rd va lg .data ilen) s (fun m =>
      m.gpr (cidOf c) rd.val = ofBytes ((List.range (2 ^ lg.val)).map (fun i =>
        if s.mach.on R.PKG_BOOT_WINDOW_VALID = true then s.mach.byte (2 ^ 48 + (spa + i - 0xFF0010000000)) else 0xFF)) ∧
      (∀ r, r ≠ rd.val → m.gpr (cidOf c) r = s.mach.gpr (cidOf c) r) ∧
      m.core (cidOf c) = { s.mach.core (cidOf c) with g := (m.core (cidOf c)).g, pc := (s.mach.core (cidOf c)).pc + BitVec.ofNat 64 ilen.val } ∧
      OnlyCore s c m)) ∧
  (∀ (s : State) (c : Cid) (a d : Fin 32) (x : Fin 4) (va spa : Nat), Runs s c → NoCount s c → va = s.mach.gpr (cidOf c) a.val → va % 2 ^ x.val = 0 →
    Reaches (Alone s c (.load d.val x.val va .data 4 true)) c .load va spa 0 → spa % 64 + 2 ^ x.val ≤ 64 →
    Holds s c (spa / 64) →
    c.core.val ∈ (s.mach.dl c.die.val (spa / 64)).l2 → (c.core.val, false, va / 4096 % 2) ∈ (s.mach.dl c.die.val (spa / 64)).l1 →
    Does (.ldAcq c a d x) s (fun m =>
      m.gpr (cidOf c) d.val = ofBytes ((List.range (2 ^ x.val)).map (fun i => loadByte s c (spa + i))) ∧
      (∀ r, r ≠ d.val → m.gpr (cidOf c) r = s.mach.gpr (cidOf c) r) ∧
      m.core (cidOf c) = { s.mach.core (cidOf c) with g := (m.core (cidOf c)).g, pc := (s.mach.core (cidOf c)).pc + 4 } ∧ OnlyCore s c m)) ∧
  (∀ (s : State) (c : Cid) (a d : Fin 32) (x : Fin 4) (va spa : Nat), Runs s c → va = s.mach.gpr (cidOf c) a.val → va % 2 ^ x.val = 0 →
    Reaches (Alone s c (.load d.val x.val va .data 4 true)) c .load va spa 0 → spa % 64 + 2 ^ x.val ≤ 64 →
    Holds s c (spa / 64) →
    Does (.ldAcq c a d x) s (fun m =>
      m.gpr (cidOf c) d.val = ofBytes ((List.range (2 ^ x.val)).map (fun i => loadByte s c (spa + i))) ∧
      (∀ r, r ≠ d.val → m.gpr (cidOf c) r = s.mach.gpr (cidOf c) r) ∧ (m.core (cidOf c)).flight = [] ∧
      (m.core (cidOf c)).pc = (s.mach.core (cidOf c)).pc + 4 ∧ (m.core (cidOf c)).sb = (s.mach.core (cidOf c)).sb)) ∧
  (∀ (s : State) (c : Cid) (rd lg va ilen spa : Nat) (kind : LoadKind) (acq : Bool), Ready s c → lg ≤ 3 → kind ≠ .fetch →
    (s.mach.core (cidOf c)).flight = [⟨.load rd lg va kind ilen acq, .dropped⟩] → va % 2 ^ lg = 0 →
    Reaches (Alone s c (.load rd lg va .data ilen acq)) c .load va spa 0 → spa % 64 + 2 ^ lg ≤ 64 →
    Holds s c (spa / 64) →
    Does (.nonspecResend c) s (fun m =>
      m.gpr (cidOf c) rd = ofBytes ((List.range (2 ^ lg)).map (fun i => loadByte s c (spa + i))) ∧
      (∀ r, r ≠ rd → m.gpr (cidOf c) r = s.mach.gpr (cidOf c) r) ∧ (m.core (cidOf c)).flight = [] ∧
      (m.core (cidOf c)).pc = (s.mach.core (cidOf c)).pc + BitVec.ofNat 64 ilen ∧ (m.core (cidOf c)).sb = (s.mach.core (cidOf c)).sb)) ∧
  (∀ (s : State) (c : Cid) (rd lg va ilen spa : Nat) (kind : LoadKind) (acq : Bool), Ready s c → kind ≠ .fetch →
    (s.mach.core (cidOf c)).flight = [⟨.load rd lg va kind ilen acq, .dropped⟩] →
    Reaches (Alone s c (.load rd lg va .data ilen acq)) c .load va spa 0 → va % 2 ^ lg = 0 → va % 4096 + 2 ^ lg ≤ 4096 → spa % 64 + 2 ^ lg ≤ 64 →
    (s.mach.dl c.die.val (spa / 64)).st = .i → s.mach.flushing c.die.val (spa / 64) = false →
    Does (.nonspecResend c) s (fun m =>
      (m.core (cidOf c)).flight = [⟨.load rd lg va .data ilen acq, .waiting [spa / 64]⟩] ∧ (m.core (cidOf c)).pc = (s.mach.core (cidOf c)).pc ∧
      { k := .rdShared, src := c.die.val, dst := agentHome (homeOf (spa / 64 * 64)), line := spa / 64, flag := false } ∈ m.net)) ∧
  (∀ (s : State) (c : Cid) (rd : Fin 32) (va : Word) (lg : Fin 7) (ilen : Fin 17), Runs s c → NoCount s c → (s.mach.core (cidOf c)).sb = [] → lg.val ≤ 3 →
    s.mach.hon R.HDR_STATUS_COMMIT_PENDING .core c.core.val c.die.val = false → s.mach.sreg (cidOf c) 0x041 % 2 = 1 → 2 ^ 56 ≤ va.toNat →
    Does (.load c rd va lg .data ilen) s (fun m => m.sreg (cidOf c) (0x10 * s.mach.excLevel (cidOf c) 8 + 3) = va.toNat ∧
      Excepts s c (s.mach.excLevel (cidOf c) 8) 8 (syndrome (fWalk 2 0xF) true (some ⟨va.toNat, false, lg.val, false, false⟩) (s.mach.core (cidOf c)).pl % 2 ^ 64)
        (s.mach.pcOf (cidOf c)) m))

/-- R109, R117 to R120, R182: a store of memory whose lines the die owns retires into the store buffer with the pc past it; one it does not own
asks for ownership and waits; a device store joins the core's device accesses, a Device-NE one with a tracker entry; ST.REL makes
earlier stores and itself visible; a store that leaves the buffer merges its bytes into the die's line, which becomes M, or asks for the
line again where the die has lost it. -/
def Obligations.StoresComplete : Prop :=
  (∀ (s : State) (c : Cid) (rs : Fin 32) (va : Word) (lg : Fin 7) (ilen : Fin 17) (spa : Nat), Runs s c → NoCount s c → lg.val ≤ 3 →
    (s.mach.core (cidOf c)).sb.length < 64 → Reaches (s.mach.setFlight (cidOf c) []) c .store va.toNat spa 0 → va.toNat % 4096 + 2 ^ lg.val ≤ 4096 → spa % 64 + 2 ^ lg.val ≤ 64 →
    Owns s c (spa / 64) → InL1 s c (spa / 64) va.toNat →
    Does (.store c rs va lg ilen) s (fun m =>
      m.core (cidOf c) = { s.mach.core (cidOf c) with
        pc := (s.mach.core (cidOf c)).pc + BitVec.ofNat 64 ilen.val
        sb := (s.mach.core (cidOf c)).sb ++ [⟨spa, 2 ^ lg.val, BitVec.ofNat 64 (s.mach.gpr (cidOf c) rs.val % 2 ^ (8 * 2 ^ lg.val)), 0, (s.mach.core (cidOf c)).pl⟩] } ∧
      OnlyCore s c m)) ∧
  (∀ (s : State) (c : Cid) (rs : Fin 32) (va : Word) (lg : Fin 7) (ilen : Fin 17) (bs : List Nat), Runs s c → lg.val ≤ 3 →
    (s.mach.core (cidOf c)).sb.length + 8 ≤ 64 → ReachesAll (s.mach.setFlight (cidOf c) []) c .store va.toNat (2 ^ lg.val) bs 0 →
    (∀ a ∈ bs, Owns s c (a / 64)) →
    Does (.store c rs va lg ilen) s (fun m =>
      (m.core (cidOf c)).sb = (s.mach.core (cidOf c)).sb ++ sbEntries bs (s.mach.gpr (cidOf c) rs.val % 2 ^ (8 * 2 ^ lg.val)) 0 (s.mach.core (cidOf c)).pl ∧
      (m.core (cidOf c)).pc = (s.mach.core (cidOf c)).pc + BitVec.ofNat 64 ilen.val ∧ (m.core (cidOf c)).g = (s.mach.core (cidOf c)).g ∧
      (m.core (cidOf c)).flight = [])) ∧
  (∀ (s : State) (c : Cid) (rs : Fin 32) (va : Word) (lg : Fin 7) (ilen : Fin 17) (spa : Nat) (st : LSt), Runs s c → NoCount s c → NoUncore s →
    Reaches (s.mach.setFlight (cidOf c) []) c .store va.toNat spa 0 → va.toNat % 4096 + 2 ^ lg.val ≤ 4096 → spa % 64 + 2 ^ lg.val ≤ 64 → spa / 64 % 64 = 63 →
    (s.mach.dl c.die.val (spa / 64)).st = st → st ∈ [LSt.i, .s, .o] → (s.mach.dl c.die.val (spa / 64)).wait = [] → s.mach.flushing c.die.val (spa / 64) = false →
    Does (.store c rs va lg ilen) s (fun m =>
      (m.dl c.die.val (spa / 64)).st = (if st = .i then .imd else .smd) ∧
      (m.dl c.die.val (spa / 64)).wait = [(cidOf c, .store rs.val lg.val va.toNat ilen.val false)] ∧
      (∀ d l, l < 2 ^ 42 → ¬(d = c.die.val ∧ l = spa / 64) → m.dl d l = s.mach.dl d l) ∧
      m.core (cidOf c) = { s.mach.core (cidOf c) with flight := [⟨.store rs.val lg.val va.toNat ilen.val false, .waiting []⟩] } ∧
      (∀ k, k ≠ cidOf c → m.core k = s.mach.core k) ∧
      m = { s.mach with
        cores := m.cores
        lines := m.lines
        net := s.dev.net ++ [{ k := if st = .i then .rdOwn else .upgrade, src := c.die.val, dst := agentHome (homeOf (spa / 64 * 64)), line := spa / 64 }] })) ∧
  (∀ (s : State) (c : Cid) (rs : Fin 32) (va : Word) (lg : Fin 7) (ilen : Fin 17) (spa : Nat) (st : LSt), Runs s c →
    Reaches (s.mach.setFlight (cidOf c) []) c .store va.toNat spa 0 → va.toNat % 4096 + 2 ^ lg.val ≤ 4096 → spa % 64 + 2 ^ lg.val ≤ 64 →
    (s.mach.dl c.die.val (spa / 64)).st = st → st ∈ [LSt.i, .s, .o] → s.mach.flushing c.die.val (spa / 64) = false →
    Does (.store c rs va lg ilen) s (fun m =>
      (m.dl c.die.val (spa / 64)).st = (if st = .i then .imd else .smd) ∧
      (cidOf c, .store rs.val lg.val va.toNat ilen.val false) ∈ (m.dl c.die.val (spa / 64)).wait ∧
      (m.core (cidOf c)).pc = (s.mach.core (cidOf c)).pc ∧ (m.core (cidOf c)).sb = (s.mach.core (cidOf c)).sb ∧
      { k := if st = .i then .rdOwn else .upgrade, src := c.die.val, dst := agentHome (homeOf (spa / 64 * 64)), line := spa / 64 } ∈ m.net)) ∧
  (∀ (s : State) (c : Cid) (rs : Fin 32) (va : Word) (lg : Fin 7) (ilen : Fin 17) (spa mt : Nat), Runs s c → NoCount s c →
    (s.mach.core (cidOf c)).sb = [] → (s.mach.core (cidOf c)).trk.length < 16 →
    Reaches (s.mach.setFlight (cidOf c) []) c .store va.toNat spa mt → va.toNat % 4096 + 2 ^ lg.val ≤ 4096 → mt ∈ [2, 3] → alignFault spa va.toNat lg.val mt false = none →
    Does (.store c rs va lg ilen) s (fun m =>
      m.core (cidOf c) = { s.mach.core (cidOf c) with
        pc := (s.mach.core (cidOf c)).pc + BitVec.ofNat 64 ilen.val
        trk := (s.mach.core (cidOf c)).trk ++ (if mt = 3 then [⟨spa, lg.val, (s.mach.core (cidOf c)).pl⟩] else []) } ∧
      (∀ k, k ≠ cidOf c → m.core k = s.mach.core k) ∧
      m = { s.mach with
        cores := m.cores
        devq := s.dev.devq ++ [⟨1, cidOf c, spa, lg.val, s.mach.gpr (cidOf c) rs.val % 2 ^ (8 * 2 ^ lg.val), none, ilen.val, mt == 3, 0,
          (s.mach.core (cidOf c)).pl, none⟩] })) ∧
  (∀ (s : State) (c : Cid) (rs : Fin 32) (va : Word) (lg : Fin 7) (ilen : Fin 17) (spa mt : Nat), Runs s c → 16 ≤ (s.mach.core (cidOf c)).trk.length →
    Reaches (s.mach.setFlight (cidOf c) []) c .store va.toNat spa mt → va.toNat % 4096 + 2 ^ lg.val ≤ 4096 → mt ∈ [2, 3] → alignFault spa va.toNat lg.val mt false = none →
    Does (.store c rs va lg ilen) s (fun m => (∀ k, m.core k = s.mach.core k) ∧ m = { s.mach with cores := m.cores })) ∧
  (∀ (s : State) (c : Cid) (a b : Fin 32) (x : Fin 4) (va spa : Nat), Runs s c → NoCount s c →
    (s.mach.core (cidOf c)).sb = [] → va = s.mach.gpr (cidOf c) a.val → va % 2 ^ x.val = 0 → Reaches (s.mach.setFlight (cidOf c) []) c .store va spa 0 →
    spa % 64 + 2 ^ x.val ≤ 64 → s.mach.canStore (cidOf c) (spa / 64) = true → InL1 s c (spa / 64) va →
    (s.mach.dl c.die.val (spa / 64)).poison = false → (s.mach.dl c.die.val (spa / 64)).dur = false →
    Does (.stRel c a b x) s (fun m =>
      m.core (cidOf c) = { s.mach.core (cidOf c) with pc := (s.mach.core (cidOf c)).pc + 4 } ∧
      (m.dl c.die.val (spa / 64)).st = .m ∧
      (∀ i < 64, bitsOf (m.dl c.die.val (spa / 64)).data.toNat (8 * i) 8 =
        if spa % 64 ≤ i ∧ i < spa % 64 + 2 ^ x.val then bitsOf (s.mach.gpr (cidOf c) b.val) (8 * (i - spa % 64)) 8
        else bitsOf (s.mach.dl c.die.val (spa / 64)).data.toNat (8 * i) 8) ∧
      (∀ k, k ≠ cidOf c → m.core k = s.mach.core k) ∧
      (∀ d l, l < 2 ^ 42 → ¬(d = c.die.val ∧ l = spa / 64) → m.dl d l = s.mach.dl d l) ∧
      m = { s.mach with cores := m.cores, lines := m.lines })) ∧
  (∀ (s : State) (c : Cid) (a b : Fin 32) (x : Fin 4) (va spa : Nat), Runs s c →
    (s.mach.core (cidOf c)).sb = [] → va = s.mach.gpr (cidOf c) a.val → va % 2 ^ x.val = 0 → Reaches (s.mach.setFlight (cidOf c) []) c .store va spa 0 →
    spa % 64 + 2 ^ x.val ≤ 64 → Owns s c (spa / 64) →
    Does (.stRel c a b x) s (fun m => (m.core (cidOf c)).pc = (s.mach.core (cidOf c)).pc + 4 ∧ (m.core (cidOf c)).sb = [] ∧
      (m.core (cidOf c)).g = (s.mach.core (cidOf c)).g ∧ (m.core (cidOf c)).flight = [])) ∧
  (∀ (s : State) (c : Cid) (index : Fin 64) (e : SbEntry), s.mach.dieUp c.die.val = true → (s.mach.core (cidOf c)).sb[index.val]? = some e →
    (∀ x ∈ (s.mach.core (cidOf c)).sb.take index.val, x.spa / 64 ≠ e.spa / 64) → e.mtype = 0 → s.mach.canStore (cidOf c) (e.spa / 64) = true →
    e.spa % 64 + e.n ≤ 64 → (1 ≤ e.n ∧ e.n ≤ 8) → c.core.val ∈ (s.mach.dl c.die.val (e.spa / 64)).l2 →
    (s.mach.dl c.die.val (e.spa / 64)).poison = false → (s.mach.dl c.die.val (e.spa / 64)).dur = false →
    Does (.storeDrain c index) s (fun m =>
      m.core (cidOf c) = { s.mach.core (cidOf c) with sb := (s.mach.core (cidOf c)).sb.eraseIdx index.val } ∧
      (m.dl c.die.val (e.spa / 64)).st = .m ∧
      (∀ i < 64, bitsOf (m.dl c.die.val (e.spa / 64)).data.toNat (8 * i) 8 =
        if e.spa % 64 ≤ i ∧ i < e.spa % 64 + e.n then bitsOf e.data.toNat (8 * (i - e.spa % 64)) 8
        else bitsOf (s.mach.dl c.die.val (e.spa / 64)).data.toNat (8 * i) 8) ∧
      (∀ k, k ≠ cidOf c → m.core k = s.mach.core k) ∧
      (∀ d l, l < 2 ^ 42 → ¬(d = c.die.val ∧ l = e.spa / 64) → m.dl d l = s.mach.dl d l) ∧
      m = { s.mach with cores := m.cores, lines := m.lines })) ∧
  (∀ (s : State) (c : Cid) (index : Fin 64) (e : SbEntry), s.mach.dieUp c.die.val = true → (s.mach.core (cidOf c)).sb[index.val]? = some e →
    (∀ x ∈ (s.mach.core (cidOf c)).sb.take index.val, x.spa / 64 ≠ e.spa / 64) → e.mtype = 0 → s.mach.canStore (cidOf c) (e.spa / 64) = true →
    e.spa % 64 + e.n ≤ 64 → (1 ≤ e.n ∧ e.n ≤ 8) →
    Does (.storeDrain c index) s (fun m =>
      (m.core (cidOf c)).sb = (s.mach.core (cidOf c)).sb.eraseIdx index.val ∧ (m.core (cidOf c)).pc = (s.mach.core (cidOf c)).pc ∧
      (m.dl c.die.val (e.spa / 64)).st = .m ∧
      (∀ i < 64, bitsOf (m.dl c.die.val (e.spa / 64)).data.toNat (8 * i) 8 =
        if e.spa % 64 ≤ i ∧ i < e.spa % 64 + e.n then bitsOf e.data.toNat (8 * (i - e.spa % 64)) 8
        else bitsOf (s.mach.dl c.die.val (e.spa / 64)).data.toNat (8 * i) 8))) ∧
  (∀ (s : State) (c : Cid) (index : Fin 64) (e : SbEntry) (st : LSt), s.mach.dieUp c.die.val = true → (s.mach.core (cidOf c)).sb[index.val]? = some e →
    (∀ x ∈ (s.mach.core (cidOf c)).sb.take index.val, x.spa / 64 ≠ e.spa / 64) → e.mtype = 0 →
    (s.mach.dl c.die.val (e.spa / 64)).st = st → st ∈ [LSt.i, .s, .o] → s.mach.flushing c.die.val (e.spa / 64) = false → s.mach.asleep (pageOf e.spa) = false →
    Does (.storeDrain c index) s (fun m =>
      m.dl c.die.val (e.spa / 64) = { s.mach.dl c.die.val (e.spa / 64) with
        st := if st = .i then .imd else .smd, wait := (m.dl c.die.val (e.spa / 64)).wait, got := false, granted := if st = .i then .i else st, need := 0, acks := 0 } ∧
      (cidOf c, .drain) ∈ (m.dl c.die.val (e.spa / 64)).wait ∧ (∀ d l, l < 2 ^ 42 → ¬(d = c.die.val ∧ l = e.spa / 64) → m.dl d l = s.mach.dl d l) ∧
      m = { s.mach with
        lines := m.lines
        net := s.dev.net ++ [{ k := if st = .i then .rdOwn else .upgrade, src := c.die.val, dst := agentHome (homeOf (e.spa / 64 * 64)), line := e.spa / 64 }] }))

/-- R117, R123, R128, R387: a fence whose conditions hold moves the pc on and one whose conditions do not hold waits; FENCE.IO raises DEVWRITE for the first failed
store; DURSYNC sends the durable writes and a DurSync to each home and waits, one begun before an exception goes on, and once all have answered it writes whether a durable line was lost, and the
line to DSYNC_ADDR. The clauses say too where such a command changes nothing. -/
def Obligations.FencesAndDursyncComplete : Prop :=
  (∀ (s : State) (c : Cid), Runs s c → NoCount s c → (s.mach.core (cidOf c)).sb = [] → s.mach.fenceDone (cidOf c) = true →
    Does (.fenceAll c) s (fun m =>
      m.core (cidOf c) = { s.mach.core (cidOf c) with pc := (s.mach.core (cidOf c)).pc + 4 } ∧ OnlyCore s c m)) ∧
  (∀ (s : State) (c : Cid), Runs s c → NoCount s c → (s.mach.core (cidOf c)).sb = [] → s.mach.fenceDone (cidOf c) = false →
    Does (.fenceAll c) s (fun m => m.core (cidOf c) = s.mach.core (cidOf c) ∧ OnlyCore s c m)) ∧
  (∀ (s : State) (c : Cid) , Runs s c → (s.mach.drainAll (cidOf c)).fenceDone (cidOf c) = true →
    Does (.fenceAll c) s (fun m => (m.core (cidOf c)).pc = (s.mach.core (cidOf c)).pc + 4 ∧ (m.core (cidOf c)).sb = [] ∧
      (m.core (cidOf c)).g = (s.mach.core (cidOf c)).g)) ∧
  (∀ (s : State) (c : Cid), Runs s c → NoCount s c →
    Does (.fenceLd c) s (fun m =>
      m.core (cidOf c) = { s.mach.core (cidOf c) with pc := (s.mach.core (cidOf c)).pc + 4 } ∧ OnlyCore s c m)) ∧
  (∀ (s : State) (c : Cid) (e : SbEntry), Runs s c → NoCount s c → (s.mach.core (cidOf c)).sb = [e] → e.mtype = 0 →
    s.mach.canStore (cidOf c) (e.spa / 64) = true → e.spa % 64 + e.n ≤ 64 → (1 ≤ e.n ∧ e.n ≤ 8) → c.core.val ∈ (s.mach.dl c.die.val (e.spa / 64)).l2 →
    (s.mach.dl c.die.val (e.spa / 64)).poison = false → (s.mach.dl c.die.val (e.spa / 64)).dur = false →
    Does (.fenceSt c) s (fun m =>
      m.core (cidOf c) = { s.mach.core (cidOf c) with pc := (s.mach.core (cidOf c)).pc + 4, sb := [] } ∧
      (m.dl c.die.val (e.spa / 64)).st = .m ∧
      (∀ i < 64, bitsOf (m.dl c.die.val (e.spa / 64)).data.toNat (8 * i) 8 =
        if e.spa % 64 ≤ i ∧ i < e.spa % 64 + e.n then bitsOf e.data.toNat (8 * (i - e.spa % 64)) 8
        else bitsOf (s.mach.dl c.die.val (e.spa / 64)).data.toNat (8 * i) 8) ∧
      (∀ k, k ≠ cidOf c → m.core k = s.mach.core k) ∧
      (∀ d l, l < 2 ^ 42 → ¬(d = c.die.val ∧ l = e.spa / 64) → m.dl d l = s.mach.dl d l) ∧
      m = { s.mach with cores := m.cores, lines := m.lines })) ∧
  (∀ (s : State) (c : Cid) , Runs s c →
    Does (.fenceSt c) s (fun m => (m.core (cidOf c)).pc = (s.mach.core (cidOf c)).pc + 4 ∧ (m.core (cidOf c)).sb = [] ∧
      (m.core (cidOf c)).g = (s.mach.core (cidOf c)).g)) ∧
  (∀ (s : State) (c : Cid), Runs s c → NoCount s c → (s.mach.core (cidOf c)).sb = [] → s.mach.fenceDone (cidOf c) = true →
    (s.mach.core (cidOf c)).trk = [] → (∀ d ∈ s.dev.devq, d.cid = cidOf c → d.k = 1 → d.port ≠ none) → (s.mach.core (cidOf c)).dfail = none →
    Does (.fenceIo c) s (fun m =>
      m.core (cidOf c) = { s.mach.core (cidOf c) with pc := (s.mach.core (cidOf c)).pc + 4 } ∧ OnlyCore s c m)) ∧
  (∀ (s : State) (c : Cid) (f : DevFail), Runs s c → NoCount s c → (s.mach.core (cidOf c)).sb = [] → s.mach.fenceDone (cidOf c) = true →
    (s.mach.core (cidOf c)).trk = [] → (∀ d ∈ s.dev.devq, d.cid = cidOf c → d.k = 1 → d.port ≠ none) → (s.mach.core (cidOf c)).dfail = some f →
    (s.mach.core (cidOf c)).pl = 2 → s.mach.hon R.HDR_STATUS_COMMIT_PENDING .core c.core.val c.die.val = false →
    Does (.fenceIo c) s (fun m =>
      (m.core (cidOf c)).dfail = none ∧ m.pcOf (cidOf c) = (s.mach.sreg (cidOf c) 0x020 + 0x0D * 2 ^ 7) % 2 ^ 64 ∧
      m.sreg (cidOf c) 0x021 = (s.mach.pcOf (cidOf c) + 4) % 2 ^ 64 ∧ m.sreg (cidOf c) 0x023 = f.spa % 2 ^ 64 ∧
      m.sreg (cidOf c) 0x022 = syndrome ⟨0x0D, f.sub, f.more⟩ false (some ⟨f.spa, true, f.lg, true, false⟩) f.pl % 2 ^ 64 ∧
      (m.core (cidOf c)).pl = 2 ∧ (m.core (cidOf c)).ie = false ∧ (∀ k, k ≠ cidOf c → m.core k = s.mach.core k) ∧
      m = { s.mach with cores := m.cores, lines := m.lines, tlbis := m.tlbis })) ∧
  (∀ (s : State) (c : Cid) (d : Fin 32), Runs s c → s.mach.mode ≠ 8 → (s.mach.core (cidOf c)).sb = [] → (s.mach.core (cidOf c)).dwl = [] →
    (s.mach.core (cidOf c)).sync = none →
    Does (.dursync c d) s (fun m =>
      m.core (cidOf c) = { s.mach.core (cidOf c) with
        sync := some ⟨[0, 1, 2, 3], d.val, true⟩, dwCount := [] } ∧
      (∀ k, k ≠ cidOf c → m.core k = s.mach.core k) ∧
      m = { s.mach with
        cores := m.cores
        net := s.dev.net ++ [0, 1, 2, 3].map (fun q =>
          { k := .durSync, src := c.die.val, dst := agentHome q, line := 2 ^ 42, n := (s.mach.core (cidOf c)).dwCount.getD q 0, aux := cidOf c }) })) ∧
  (∀ (s : State) (c : Cid) (d : Fin 32) (l : Nat), Runs s c → NoCount s c → s.mach.mode ≠ 8 → (s.mach.core (cidOf c)).sb = [] → (s.mach.core (cidOf c)).dwl = [l] →
    (s.mach.core (cidOf c)).dwPend = [] → (s.mach.core (cidOf c)).dwCount = [] → (s.mach.core (cidOf c)).sync = none → (s.mach.dl c.die.val l).poison = false →
    Does (.dursync c d) s (fun m =>
      m.core (cidOf c) = { s.mach.core (cidOf c) with sync := some ⟨[0, 1, 2, 3], d.val, true⟩, dwPend := [l] } ∧
      (∀ k, k ≠ cidOf c → m.core k = s.mach.core k) ∧
      m = { s.mach with
        cores := m.cores
        net := s.dev.net ++ [{ k := .durWb, src := c.die.val, dst := agentHome (homeOf (l * 64)), line := l, data := (s.mach.dl c.die.val l).data, aux := cidOf c }] ++
          [0, 1, 2, 3].map (fun q => { k := .durSync, src := c.die.val, dst := agentHome q, line := 2 ^ 42, n := if q = homeOf (l * 64) then 1 else 0, aux := cidOf c }) })) ∧
  (∀ (s : State) (c : Cid) (d : Fin 32), Runs s c → s.mach.mode = 8 → (s.mach.core (cidOf c)).sync = none → Leaves (.dursync c d) s s.mach) ∧
  (∀ (s : State) (c : Cid) (d : Fin 32) (y : SyncSt), Runs s c → s.mach.mode ≠ 8 → (s.mach.core (cidOf c)).sb = [] → (s.mach.core (cidOf c)).dwl = [] →
    (s.mach.core (cidOf c)).dwCount = [] → (s.mach.core (cidOf c)).sync = some y →
    Does (.dursync c d) s (fun m =>
      m.core (cidOf c) = { s.mach.core (cidOf c) with sync := some { y with rd := d.val, here := true } } ∧
      OnlyCore s c m)) ∧
  (∀ (s : State) (c : Cid) (y : SyncSt), NoCount s c → (s.mach.core (cidOf c)).sync = some y → y.homes = [] → y.here = true →
    Does (.dursyncComplete c) s (fun m =>
      m.gpr (cidOf c) y.rd = (if (s.mach.core (cidOf c)).lost.isSome then 1 else 0) ∧ (∀ r, r ≠ y.rd → m.gpr (cidOf c) r = s.mach.gpr (cidOf c) r) ∧
      m.sreg (cidOf c) 0x050 = (match (s.mach.core (cidOf c)).lost with | some l => l * 64 % 2 ^ 64 | none => s.mach.sreg (cidOf c) 0x050) ∧
      (∀ n, n ≠ 0x050 → m.sreg (cidOf c) n = s.mach.sreg (cidOf c) n) ∧
      m.core (cidOf c) = { s.mach.core (cidOf c) with
        pc := (s.mach.core (cidOf c)).pc + 4, g := (m.core (cidOf c)).g, sr := (m.core (cidOf c)).sr, sync := none, lost := none } ∧
      OnlyCore s c m))

/-- R122, R124, R148 to R150, R178: cache maintenance of a line in the die's own caches first writes it back
or gives it up, after a durable write of it has been sent; one the die has nothing to do for sends the Flush to the line's home, and the core waits for the answer; on an address that is not of Normal memory it only moves on, and while the die has a request or
a Flush outstanding for the line it waits. A TLBI sends a request to every die that is up and the core waits; a die drops the matching
entries of its cores' translation caches and acknowledges once its device loads and cache maintenance are done; the last
acknowledgement moves the pc of a core that still waits. At a level below the instruction's own, PERM is taken. -/
def Obligations.CacheMaintenanceAndTlbi : Prop :=
  (∀ (s : State) (c : Cid) (a : Fin 32) (x : DieLine) (spa : Nat), Runs s c → Reaches (s.mach.setFlight (cidOf c) []) c .load (s.mach.gpr (cidOf c) a.val) spa 0 →
    x = s.mach.dl c.die.val (spa / 64) → x.st ∈ [LSt.m, .o] → s.mach.flushing c.die.val (spa / 64) = false → (∀ e ∈ (s.mach.core (cidOf c)).sb, e.spa / 64 ≠ spa / 64) → x.writers = [] →
    Does (.clnL c a) s (fun m =>
      m.dl c.die.val (spa / 64) = { x with st := if x.st = .m then .e else .o } ∧
      (∀ d l, l < 2 ^ 42 → ¬(d = c.die.val ∧ l = spa / 64) → m.dl d l = s.mach.dl d l) ∧
      (∀ k, m.core k = s.mach.core k) ∧
      m = { s.mach with
        cores := m.cores
        lines := m.lines
        net := s.dev.net ++ [{ k := .wbKeep, src := c.die.val, dst := agentHome (homeOf (spa / 64 * 64)), line := spa / 64, data := x.data, poison := x.poison, st := if x.st = .o then .o else .i }] })) ∧
  (∀ (s : State) (c : Cid) (a : Fin 32) (x : DieLine) (spa : Nat), Runs s c → (s.mach.core (cidOf c)).pl = 2 → Reaches (s.mach.setFlight (cidOf c) []) c .inv (s.mach.gpr (cidOf c) a.val) spa 0 →
    x = s.mach.dl c.die.val (spa / 64) → x.st ∈ [LSt.m, .o, .e, .s] → s.mach.flushing c.die.val (spa / 64) = false → (∀ e ∈ (s.mach.core (cidOf c)).sb, e.spa / 64 ≠ spa / 64) →
    Does (.invL c a) s (fun m =>
      m.dl c.die.val (spa / 64) = { x with st := if x.st = .m then .mia else if x.st = .o then .oia else if x.st = .e then .eia else .sia, l1 := [], l2 := [], l3 := none, writers := [] } ∧
      (∀ d l, l < 2 ^ 42 → ¬(d = c.die.val ∧ l = spa / 64) → m.dl d l = s.mach.dl d l) ∧
      (∀ k, m.core k = { s.mach.core k with
        dwl := if k ∈ x.writers then (s.mach.core k).dwl.filter (· != spa / 64) else (s.mach.core k).dwl }) ∧
      m = { s.mach with
        cores := m.cores
        lines := m.lines
        net := s.dev.net ++ [{ k := .evict, src := c.die.val, dst := agentHome (homeOf (spa / 64 * 64)), line := spa / 64 }] })) ∧
  (∀ (s : State) (c : Cid) (a : Fin 32) (x : DieLine) (spa : Nat), Runs s c → Reaches (s.mach.setFlight (cidOf c) []) c .load (s.mach.gpr (cidOf c) a.val) spa 0 →
    x = s.mach.dl c.die.val (spa / 64) → x.st ∈ [LSt.m, .o, .e, .s] → s.mach.flushing c.die.val (spa / 64) = false → (∀ e ∈ (s.mach.core (cidOf c)).sb, e.spa / 64 ≠ spa / 64) → x.writers = [] →
    Does (.clninvL c a) s (fun m =>
      m.dl c.die.val (spa / 64) = { x with st := if x.st = .m then .mia else if x.st = .o then .oia else if x.st = .e then .eia else .sia, l1 := [], l2 := [], l3 := none } ∧
      (∀ d l, l < 2 ^ 42 → ¬(d = c.die.val ∧ l = spa / 64) → m.dl d l = s.mach.dl d l) ∧
      (∀ k, m.core k = s.mach.core k) ∧
      m = { s.mach with
        cores := m.cores
        lines := m.lines
        net := s.dev.net ++ [if x.st = .m ∨ x.st = .o then { k := .wbDirty, src := c.die.val, dst := agentHome (homeOf (spa / 64 * 64)), line := spa / 64, data := x.data, poison := x.poison } else { k := .evict, src := c.die.val, dst := agentHome (homeOf (spa / 64 * 64)), line := spa / 64 }] })) ∧
  (∀ (s : State) (c : Cid) (a : Fin 32) (i : Instr) (op : Nat) (x : DieLine) (spa : Nat), Runs s c →
    (i, op) ∈ [(Instr.clnL c a, 0), (.invL c a, 1), (.clninvL c a, 2)] → (op = 1 → (s.mach.core (cidOf c)).pl = 2) →
    Reaches (s.mach.setFlight (cidOf c) []) c (if op = 1 then .inv else .load) (s.mach.gpr (cidOf c) a.val) spa 0 →
    x = s.mach.dl c.die.val (spa / 64) → isStableSt x.st = true → s.mach.flushing c.die.val (spa / 64) = false →
    (∀ e ∈ (s.mach.core (cidOf c)).sb, e.spa / 64 ≠ spa / 64) → (op ≠ 1 → x.writers = []) → (if op = 0 then x.st ≠ .m ∧ x.st ≠ .o else x.st = .i) →
    Does i s (fun m =>
      m.core (cidOf c) = { s.mach.core (cidOf c) with
        maint := (s.mach.core (cidOf c)).maint ++ [spa / 64], flight := [⟨.cmo op a.val, .waiting [spa / 64]⟩] } ∧
      (∀ k, k ≠ cidOf c → m.core k = s.mach.core k) ∧
      m = { s.mach with
        cores := m.cores
        net := s.dev.net ++ [{ k := if op = 0 then .flushCln else if op = 1 then .flushInv else .flushClnInv, src := c.die.val
                               dst := agentHome (homeOf spa), line := spa / 64, aux := cidOf c }] })) ∧
  (∀ (s : State) (c : Cid) (a : Fin 32) (i : Instr) (op : Nat) (x : DieLine) (spa : Nat), Runs s c → NoCount s c →
    (i, op) ∈ [(Instr.clnL c a, 0), (.clninvL c a, 2)] → Reaches (s.mach.setFlight (cidOf c) []) c .load (s.mach.gpr (cidOf c) a.val) spa 0 →
    x = s.mach.dl c.die.val (spa / 64) → isStableSt x.st = true → s.mach.flushing c.die.val (spa / 64) = false →
    (∀ e ∈ (s.mach.core (cidOf c)).sb, e.spa / 64 ≠ spa / 64) → x.writers = [cidOf c] → x.poison = false → spa / 64 ∉ (s.mach.core (cidOf c)).dwPend →
    Does i s (fun m =>
      m.core (cidOf c) = { s.mach.core (cidOf c) with
        dwPend := (s.mach.core (cidOf c)).dwPend ++ [spa / 64], dwCount := (m.core (cidOf c)).dwCount } ∧
      (m.core (cidOf c)).dwCount.getD (homeOf spa) 0 = (s.mach.core (cidOf c)).dwCount.getD (homeOf spa) 0 + 1 ∧
      (∀ k, k ≠ cidOf c → m.core k = s.mach.core k) ∧
      m = { s.mach with
        cores := m.cores
        net := s.dev.net ++ [{ k := .durWb, src := c.die.val, dst := agentHome (homeOf (spa / 64 * 64)), line := spa / 64, data := x.data, aux := cidOf c }] })) ∧
  (∀ (s : State) (c : Cid) (a : Fin 32) (i : Instr) (op spa mt : Nat), Runs s c → NoCount s c →
    (i, op) ∈ [(Instr.clnL c a, 0), (.invL c a, 1), (.clninvL c a, 2)] → (op = 1 → (s.mach.core (cidOf c)).pl = 2) →
    Reaches (s.mach.setFlight (cidOf c) []) c (if op = 1 then .inv else .load) (s.mach.gpr (cidOf c) a.val) spa mt → mt ≠ 0 →
    Does i s (fun m => m.core (cidOf c) = { s.mach.core (cidOf c) with pc := (s.mach.core (cidOf c)).pc + 4 } ∧ OnlyCore s c m)) ∧
  (∀ (s : State) (c : Cid) (a : Fin 32) (i : Instr) (op spa : Nat), Runs s c →
    (i, op) ∈ [(Instr.clnL c a, 0), (.invL c a, 1), (.clninvL c a, 2)] → (op = 1 → (s.mach.core (cidOf c)).pl = 2) →
    Reaches (s.mach.setFlight (cidOf c) []) c (if op = 1 then .inv else .load) (s.mach.gpr (cidOf c) a.val) spa 0 →
    (isStableSt (s.mach.dl c.die.val (spa / 64)).st = false ∨ s.mach.flushing c.die.val (spa / 64) = true) →
    Does i s (fun m => (∀ k, m.core k = s.mach.core k) ∧ m = { s.mach with cores := m.cores })) ∧
  (∀ (s : State) (c : Cid) (a b : Fin 32) (i : Instr) (op tag off : Nat), Runs s c → (s.mach.core (cidOf c)).pl = 2 →
    (s.mach.core (cidOf c)).sb = [] →
    (i, op, tag, off) ∈ [(Instr.tlbiVa c a b, 0, s.mach.gpr (cidOf c) b.val % 2 ^ 16, s.mach.gpr (cidOf c) a.val % 2 ^ 48),
      (.tlbiTag c a, 1, s.mach.gpr (cidOf c) a.val % 2 ^ 16, 0), (.tlbiAll c, 2, 0, 0)] →
    Does i s (fun m =>
      (∀ k, m.core k = s.mach.core k) ∧
      (∃ id, (∀ t ∈ s.dev.tlbis, t.id < id) ∧
        m = { s.mach with
          cores := m.cores
          tlbis := s.dev.tlbis ++ [⟨id, cidOf c, op, tag, off, (List.range 12).filter (fun d => s.mach.dieUp d), (List.range 12).filter (fun d => s.mach.dieUp d), true⟩]
          net := s.dev.net ++ ((List.range 12).filter (fun d => s.mach.dieUp d)).map (fun d =>
            { k := .tlbiReq, src := c.die.val, dst := d, line := 2 ^ 42, aux := id }) }))) ∧
  (∀ (s : State) (c : Cid) (a b : Fin 32) (w : Nat) (m0 : Mach), Runs s c → (s.mach.core (cidOf c)).pl = 1 → (s.mach.core (cidOf c)).sb = [] → m0 = s.mach.setFlight (cidOf c) [] →
    (m0.walkRead (cidOf c) (bitsOf (s.mach.sreg (cidOf c) 0x040) 12 36 * 4096 + 16 * bitsOf (s.mach.gpr (cidOf c) a.val) 48 8) 0xF 0xF (s.mach.gpr (cidOf c) a.val)).1 = m0 →
    (m0.walkRead (cidOf c) (bitsOf (s.mach.sreg (cidOf c) 0x040) 12 36 * 4096 + 16 * bitsOf (s.mach.gpr (cidOf c) a.val) 48 8) 0xF 0xF (s.mach.gpr (cidOf c) a.val)).2.toOption = some w →
    Does (.tlbiVa c a b) s (fun m =>
      (∀ k, m.core k = s.mach.core k) ∧
      (∃ id, (∀ t ∈ s.dev.tlbis, t.id < id) ∧
        m = { s.mach with
          cores := m.cores
          tlbis := s.dev.tlbis ++ [⟨id, cidOf c, 0, bitsOf w 48 16, s.mach.gpr (cidOf c) a.val % 2 ^ 48, (List.range 12).filter (fun d => s.mach.dieUp d), (List.range 12).filter (fun d => s.mach.dieUp d), true⟩]
          net := s.dev.net ++ ((List.range 12).filter (fun d => s.mach.dieUp d)).map (fun d =>
            { k := .tlbiReq, src := c.die.val, dst := d, line := 2 ^ 42, aux := id }) }))) ∧
  (∀ (s : State) (die : Fin 12) (g : Msg) (t : Tlbi), s.dev.net.find? (fun g => g.k == .tlbiReq && g.dst == die.val) = some g →
    s.dev.tlbis.find? (fun t => t.id == g.aux) = some t → (∀ e ∈ s.dev.cores, e.2.sb = [] ∧ e.2.maint = [] ∧ bitsOf (s.mach.sreg e.1 0x101) 0 8 = 0) →
    (∀ d ∈ s.dev.devq, d.rd = none) →
    Does (.tlbiReq die) s (fun m =>
      (∀ k, m.core k = if k / 32 = die.val ∧ k % 32 < 20 ∧ s.dev.cores.find k ≠ none then
        { s.mach.core k with
          tlb := (s.mach.core k).tlb.filter (fun e => !tlbiHits t e.tag e.vbase e.span)
          walkc := (s.mach.core k).walkc.filter (fun e => !tlbiHits t e.tag e.vbase e.span)
          segc := if t.op = 0 then (s.mach.core k).segc else (s.mach.core k).segc.keep (fun _ d => !tlbiHits t (bitsOf d.1 48 16) 0 0) }
        else s.mach.core k) ∧
      m = { s.mach with
        cores := m.cores
        tlbis := s.dev.tlbis.map (fun y => if y.id = t.id then { y with asked := y.asked.filter (· != die.val) } else y)
        net := s.dev.net.erase g ++ [{ k := .tlbiAck, src := die.val, dst := 12, line := 2 ^ 42, aux := t.id }] })) ∧
  (∀ (s : State) (die : Fin 12) (g : Msg) (t : Tlbi), s.dev.net.find? (fun g => g.k == .tlbiReq && g.dst == die.val) = some g →
    s.dev.tlbis.find? (fun t => t.id == g.aux) = some t →
    (∃ e ∈ s.dev.cores, e.1 / 32 = die.val ∧ e.1 % 32 < 20 ∧ s.dev.cores.find e.1 = some e.2 ∧ (e.2.maint ≠ [] ∨ s.mach.devLoading e.1 = true)) →
    Does (.tlbiReq die) s (fun m => g ∈ m.net ∧ m.tlbis = s.dev.tlbis)) ∧
  (∀ (s : State) (die : Fin 12) (g : Msg) (t : Tlbi), s.dev.net.find? (fun g => g.k == .tlbiAck && g.src == die.val) = some g →
    s.dev.tlbis.find? (fun t => t.id == g.aux) = some t → t.acks.filter (· != die.val) ≠ [] →
    Does (.tlbiAck die) s (fun m =>
      m = { s.mach with
        net := s.dev.net.erase g
        tlbis := s.dev.tlbis.map (fun y => if y.id = t.id then { y with acks := t.acks.filter (· != die.val) } else y) })) ∧
  (∀ (s : State) (die : Fin 12) (g : Msg) (t : Tlbi), s.dev.net.find? (fun g => g.k == .tlbiAck && g.src == die.val) = some g →
    s.dev.tlbis.find? (fun t => t.id == g.aux) = some t → t.acks.filter (· != die.val) = [] → bitsOf (s.mach.sreg t.cid 0x101) 0 8 = 0 →
    Does (.tlbiAck die) s (fun m =>
      m.core t.cid = (if t.here then { s.mach.core t.cid with pc := (s.mach.core t.cid).pc + 4 } else s.mach.core t.cid) ∧ (∀ k, k ≠ t.cid → m.core k = s.mach.core k) ∧
      m = { s.mach with cores := m.cores, net := s.dev.net.erase g, tlbis := s.dev.tlbis.filter (fun y => y.id != t.id) })) ∧
  (∀ (s : State) (c : Cid) (a b : Fin 32) (i : Instr), Runs s c → NoCount s c → (s.mach.core (cidOf c)).sb = [] → s.mach.hon R.HDR_STATUS_COMMIT_PENDING .core c.core.val c.die.val = false →
    (i ∈ [Instr.invL c a, .tlbiTag c a, .tlbiAll c] ∧ (s.mach.core (cidOf c)).pl < 2 ∨ i ∈ [Instr.tlbiVa c a b, .eret c, .waitInsn c] ∧ (s.mach.core (cidOf c)).pl < 1) →
    Does i s (Excepts s c (s.mach.excLevel (cidOf c) 0x09) 0x09 (syndrome (fPerm 4) true none (s.mach.core (cidOf c)).pl % 2 ^ 64) (s.mach.pcOf (cidOf c))))

/-- R97 to R99, R102, R122, R125 to R127, R129: SRR and SRW read and write the system registers at the levels R125 gives and take UNDEF or PERM otherwise; ERET
restores level, IE and pc; CALL, an undefined word and a pending interrupt take their exceptions; WAIT stops issue unless an interrupt could
be taken; a release starts a parked core at ENTRY with the values of R98, IPEND kept, and the homes count no earlier DurWb of it (log 101); a doorbell sets bits of IPEND and wakes a waiting
core. A previous level of 3 acts as PL2 (log 22).
R121: the words of R122's table, with every register and sub-field, encode these instructions, and no other word of that major opcode one. -/
def Obligations.SystemRegistersComplete : Prop :=
  (∀ (s : State) (c : Cid) (sreg : BitVec 10) (d : Fin 32), Runs s c → NoCount s c → sregKnown sreg.toNat = true →
    s.mach.readLevel (cidOf c) sreg.toNat ≤ (s.mach.core (cidOf c)).pl →
    Does (.srr c sreg d) s (fun m =>
      m.gpr (cidOf c) d.val = (if sreg = 0 then cidOf c
        else if sreg = 0x033 then ((s.mach.core (cidOf c)).ie.toNat + (s.mach.core (cidOf c)).pl * 2) % 2 ^ 64 else s.mach.sreg (cidOf c) sreg.toNat) ∧
      (∀ r, r ≠ d.val → m.gpr (cidOf c) r = s.mach.gpr (cidOf c) r) ∧
      m.core (cidOf c) = { s.mach.core (cidOf c) with pc := (s.mach.core (cidOf c)).pc + 4, g := (m.core (cidOf c)).g } ∧ OnlyCore s c m)) ∧
  (∀ (s : State) (c : Cid) (sreg : BitVec 10) (d : Fin 32), Runs s c → NoCount s c →
    sreg.toNat ∈ [0x011, 0x013, 0x021, 0x023, 0x030, 0x031, 0x100, 0x130, 0x131, 0x132, 0x133, 0x134] → writeLevel sreg.toNat ≤ (s.mach.core (cidOf c)).pl →
    Does (.srw c sreg d) s (fun m =>
      m.sreg (cidOf c) sreg.toNat = s.mach.gpr (cidOf c) d.val ∧
      (∀ n, n ≠ sreg.toNat → m.sreg (cidOf c) n = s.mach.sreg (cidOf c) n) ∧
      m.core (cidOf c) = { s.mach.core (cidOf c) with pc := (s.mach.core (cidOf c)).pc + 4, sr := (m.core (cidOf c)).sr } ∧ OnlyCore s c m)) ∧
  (∀ (s : State) (c : Cid) (sreg : BitVec 10) (d : Fin 32) (n v g : Nat), Runs s c → NoCount s c → writeLevel sreg.toNat ≤ (s.mach.core (cidOf c)).pl →
    g = s.mach.gpr (cidOf c) d.val → n = sreg.toNat →
    ((n = 0x010 ∨ n = 0x020) ∧ v = g / 4096 * 4096 ∨ (n = 0x014 ∨ n = 0x024) ∧ v = g % 8 ∨ n = 0x041 ∧ v = g % 2 ∨
      (n = 0x012 ∨ n = 0x022) ∧ v = g % 2 ^ 18 + bitsOf g 19 29 * 2 ^ 19 ∨ n = 0x103 ∧ v = g % 2 ^ 7 ∨ n = 0x104 ∧ v = g % 2 ^ 11 ∨
      n = 0x101 ∧ g % 2 ^ 8 = 0 ∧ bitsOf g 11 2 ≠ 3 ∧ v = g % 2 ^ 16 ∨
      (0x110 ≤ n ∧ n ≤ 0x117) ∧ Mach.coreEvent (g % 2 ^ 12) = true ∧ v = g % 2 ^ 14 + bitsOf g 16 11 * 2 ^ 16 + bitsOf g 32 12 * 2 ^ 32 ∨
      (0x110 ≤ n ∧ n ≤ 0x117) ∧ Mach.coreEvent (g % 2 ^ 12) = false ∧
        v = s.mach.sreg (cidOf c) n % 2 ^ 12 + bitsOf g 12 2 * 2 ^ 12 + bitsOf g 16 11 * 2 ^ 16 + bitsOf g 32 12 * 2 ^ 32 ∨
      (0x120 ≤ n ∧ n ≤ 0x127) ∧ v = g % 2 ^ 48 ∨ n = 0x142 ∧ v = g % 2 ^ 16 ∨
      n = 0x140 ∧ (10 ≤ bitsOf g 1 5 ∧ bitsOf g 1 5 ≤ 24) ∧
        v = g % 2 ^ 10 + (if bitsOf (s.mach.sreg (cidOf c) 0x140) 10 1 = 1 ∧ bitsOf g 10 1 = 0 then 2 ^ 10 else 0) ∨
      n = 0x141 ∧ s.mach.sreg (cidOf c) 0x140 % 2 = 0 ∧ (6 ≤ g % 32 ∧ g % 32 ≤ 16) ∧ v = g % 32 + bitsOf g 12 36 * 4096 ∨
      n = 0x102 ∧ v = s.mach.sreg (cidOf c) 0x102 - Nat.land (s.mach.sreg (cidOf c) 0x102) (Nat.land g 0xFF) ∨
      n = 0x032 ∧ v = s.mach.sreg (cidOf c) 0x032 - Nat.land (s.mach.sreg (cidOf c) 0x032) g) →
    Does (.srw c sreg d) s (fun m =>
      m.sreg (cidOf c) n = v ∧ (∀ k, k ≠ n → m.sreg (cidOf c) k = s.mach.sreg (cidOf c) k) ∧
      m.core (cidOf c) = { s.mach.core (cidOf c) with pc := (s.mach.core (cidOf c)).pc + 4, sr := (m.core (cidOf c)).sr } ∧ OnlyCore s c m)) ∧
  (∀ (s : State) (c : Cid) (sreg : BitVec 10) (d : Fin 32), Runs s c → NoCount s c → sreg = 0x040 → 1 ≤ (s.mach.core (cidOf c)).pl →
    Does (.srw c sreg d) s (fun m =>
      m.sreg (cidOf c) 0x040 = bitsOf (s.mach.gpr (cidOf c) d.val) 12 36 * 4096 ∧ (∀ k, k ≠ 0x040 → m.sreg (cidOf c) k = s.mach.sreg (cidOf c) k) ∧
      m.core (cidOf c) = { s.mach.core (cidOf c) with pc := (s.mach.core (cidOf c)).pc + 4, sr := (m.core (cidOf c)).sr, segc := [] } ∧ OnlyCore s c m)) ∧
  (∀ (s : State) (c : Cid) (sreg : BitVec 10) (d : Fin 32), Runs s c → sreg ∈ [0x101#10, 0x140, 0x141] → (s.mach.core (cidOf c)).pl = 2 →
    Does (.srw c sreg d) s (fun m =>
      (m.core (cidOf c)).pc = (s.mach.core (cidOf c)).pc + 4 ∧ (m.core (cidOf c)).g = (s.mach.core (cidOf c)).g ∧
      (sreg = 0x141 → s.mach.sreg (cidOf c) 0x140 % 2 = 1 → NoCount s c → m.sreg (cidOf c) 0x141 = s.mach.sreg (cidOf c) 0x141) ∧
      (sreg = 0x141 → s.mach.sreg (cidOf c) 0x140 % 2 = 0 → NoCount s c → ¬(6 ≤ s.mach.gpr (cidOf c) d.val % 32 ∧ s.mach.gpr (cidOf c) d.val % 32 ≤ 16) →
        m.sreg (cidOf c) 0x141 = s.mach.sreg (cidOf c) 0x141 % 32 + bitsOf (s.mach.gpr (cidOf c) d.val) 12 36 * 4096))) ∧
  (∀ (s : State) (c : Cid) (sreg : BitVec 10) (d : Fin 32), Runs s c → NoCount s c → sreg.toNat ∈ [0x000, 0x050, 0x143, 0x144] →
    writeLevel sreg.toNat ≤ (s.mach.core (cidOf c)).pl →
    Does (.srw c sreg d) s (fun m =>
      m.core (cidOf c) = { s.mach.core (cidOf c) with pc := (s.mach.core (cidOf c)).pc + 4 } ∧ OnlyCore s c m)) ∧
  (∀ (s : State) (c : Cid) (sreg : BitVec 10) (d : Fin 32), Runs s c → NoCount s c → sreg = 0x033 → 1 ≤ (s.mach.core (cidOf c)).pl →
    Does (.srw c sreg d) s (fun m =>
      m.core (cidOf c) = { s.mach.core (cidOf c) with pc := (s.mach.core (cidOf c)).pc + 4, ie := s.mach.gpr (cidOf c) d.val % 2 == 1 } ∧ OnlyCore s c m)) ∧
  (∀ (s : State) (c : Cid) (sreg : BitVec 10) (d : Fin 32) (i : Instr), Runs s c → NoCount s c → (s.mach.core (cidOf c)).sb = [] → s.mach.hon R.HDR_STATUS_COMMIT_PENDING .core c.core.val c.die.val = false →
    sregKnown sreg.toNat = false → i ∈ [Instr.srr c sreg d, .srw c sreg d] →
    Does i s (Excepts s c (s.mach.excLevel (cidOf c) 0x01) 0x01 (syndrome ⟨0x01, 0, 0⟩ true none (s.mach.core (cidOf c)).pl % 2 ^ 64) (s.mach.pcOf (cidOf c)))) ∧
  (∀ (s : State) (c : Cid) (sreg : BitVec 10) (d : Fin 32) (i : Instr), Runs s c → NoCount s c → (s.mach.core (cidOf c)).sb = [] → s.mach.hon R.HDR_STATUS_COMMIT_PENDING .core c.core.val c.die.val = false →
    sregKnown sreg.toNat = true →
    (i = .srr c sreg d ∧ (s.mach.core (cidOf c)).pl < s.mach.readLevel (cidOf c) sreg.toNat ∨ i = .srw c sreg d ∧ (s.mach.core (cidOf c)).pl < writeLevel sreg.toNat) →
    Does i s (Excepts s c (s.mach.excLevel (cidOf c) 0x09) 0x09 (syndrome (fPerm 4) true none (s.mach.core (cidOf c)).pl % 2 ^ 64) (s.mach.pcOf (cidOf c)))) ∧
  (∀ (s : State) (c : Cid) (b : Nat), Runs s c → NoCount s c → s.mach.hon R.HDR_STATUS_COMMIT_PENDING .core c.core.val c.die.val = false → 1 ≤ (s.mach.core (cidOf c)).pl → b = 0x10 * (s.mach.core (cidOf c)).pl →
    Does (.eret c) s (fun m =>
      m.core (cidOf c) = { s.mach.core (cidOf c) with
        pc := BitVec.ofNat 64 (s.mach.sreg (cidOf c) (b + 1)), pl := min 2 (s.mach.sreg (cidOf c) (b + 4) % 4)
        ie := bitsOf (s.mach.sreg (cidOf c) (b + 4)) 2 1 == 1 } ∧ OnlyCore s c m)) ∧
  (∀ (s : State) (c : Cid) (x : Fin 32), Runs s c → NoCount s c → (s.mach.core (cidOf c)).sb = [] → s.mach.hon R.HDR_STATUS_COMMIT_PENDING .core c.core.val c.die.val = false → (x.val = 1 ∨ x.val = 2) →
    (s.mach.core (cidOf c)).pl < x.val →
    Does (.callInsn c x) s (Excepts s c (if x.val = 2 then 2 else s.mach.excLevel (cidOf c) 0x02) 0x02
      (syndrome ⟨0x02, x.val, 0⟩ true none (s.mach.core (cidOf c)).pl % 2 ^ 64) ((s.mach.pcOf (cidOf c) + 4) % 2 ^ 64))) ∧
  (∀ (s : State) (c : Cid), Runs s c → NoCount s c → 1 ≤ (s.mach.core (cidOf c)).pl →
    Does (.waitInsn c) s (fun m =>
      m.core (cidOf c) = { s.mach.core (cidOf c) with
        pc := (s.mach.core (cidOf c)).pc + 4
        run := if (s.mach.core (cidOf c)).ie = true ∧ Nat.land (s.mach.sreg (cidOf c) 0x032) (s.mach.sreg (cidOf c) 0x031) ≠ 0 then .running else .waiting } ∧
      OnlyCore s c m)) ∧
  (∀ (s : State) (c : Cid) (word : BitVec 32), Runs s c → NoCount s c → (s.mach.core (cidOf c)).sb = [] → s.mach.hon R.HDR_STATUS_COMMIT_PENDING .core c.core.val c.die.val = false → undefWord c word = true →
    Does (.undefInsn c word) s (Excepts s c (s.mach.excLevel (cidOf c) 0x01) 0x01 (syndrome ⟨0x01, 0, 0⟩ true none (s.mach.core (cidOf c)).pl % 2 ^ 64) (s.mach.pcOf (cidOf c)))) ∧
  (∀ (s : State) (c : Cid), s.mach.dieUp c.die.val = true → (s.mach.core (cidOf c)).run ∈ [RunState.running, .waiting] → NoCount s c →
    (s.mach.core (cidOf c)).sb = [] → s.mach.hon R.HDR_STATUS_COMMIT_PENDING .core c.core.val c.die.val = false → (s.mach.core (cidOf c)).ie = true → s.mach.devLoading (cidOf c) = false →
    Nat.land (s.mach.sreg (cidOf c) 0x032) (s.mach.sreg (cidOf c) 0x031) ≠ 0 →
    Does (.interrupt c) s (Excepts s c (s.mach.excLevel (cidOf c) 0x03) 0x03 (syndrome ⟨0x03, 0, 0⟩ false none (s.mach.core (cidOf c)).pl % 2 ^ 64) (s.mach.pcOf (cidOf c)))) ∧
  (∀ (s : State) (src : Src) (c : Cid), MayWrite s src c.die.val .core c.core.val → (s.mach.core (cidOf c)).run = .parked → s.mach.mode ≠ 9 →
    Does (.coreRelease src c) s (fun m =>
      m.core (cidOf c) = { coreReset with
        run := .running, g := (s.mach.core (cidOf c)).g, sr := (m.core (cidOf c)).sr
        pc := BitVec.ofNat 64 (s.mach.get R.CORE_ENTRY_ADDR c.core.val c.die.val * 4) } ∧
      (∀ n, m.sreg (cidOf c) n = if n = 0x032 then s.mach.sreg (cidOf c) 0x032 else sregReset n) ∧
      m.get (pstate R.CLK_PSTATE_ACT c.core.val) 0 c.die.val =
        max (s.mach.get (pstate R.CLK_PSTATE_REQ c.core.val) 0 c.die.val) (s.mach.get (pstate R.CLK_PSTATE_CAP c.core.val) 0 c.die.val) ∧
      (∀ k, k ≠ cidOf c → m.core k = s.mach.core k) ∧ RegsBut s [R.CLK_PSTATE_ACT.bits 0 c.die.val] m ∧
      m = { s.mach with
        regs := m.regs, cores := m.cores, durGot := s.dev.durGot.keep (fun k _ => k / 4 != cidOf c), durAcc := s.dev.durAcc.keep (fun k _ => k / 4 != cidOf c)
        durWaits := s.dev.durWaits.filter (fun w => w.1 != cidOf c)
        pair := { s.dev.pair with
          out := s.dev.pair.out.mapV (fun _ l => l.map (fun r => { r with forDur := r.forDur.filter (fun k => k / 4 != cidOf c) }))
          owed := s.dev.pair.owed.filter (fun o => o.1 != 0 || o.2 / 4 != cidOf c) } })) ∧
  (∀ (s : State) (src : Src) (c : Cid), MayWrite s src c.die.val .core c.core.val → ((s.mach.core (cidOf c)).run ≠ .parked ∨ s.mach.mode = 9) →
    Does (.coreRelease src c) s (fun m => m = s.mach)) ∧
  (∀ (s : State) (src : Src) (c : Cid) (bits : Word), MayWrite s src c.die.val .core c.core.val →
    Does (.coreDoorbell src c bits) s (fun m =>
      m.sreg (cidOf c) 0x032 = Nat.lor (s.mach.sreg (cidOf c) 0x032) bits.toNat ∧ (∀ n, n ≠ 0x032 → m.sreg (cidOf c) n = s.mach.sreg (cidOf c) n) ∧
      m.core (cidOf c) = { s.mach.core (cidOf c) with
        sr := (m.core (cidOf c)).sr
        run := if (s.mach.core (cidOf c)).run = .waiting then .running else (s.mach.core (cidOf c)).run } ∧
      OnlyCore s c m)) ∧
  (∀ (c : Cid) (a b d x : Fin 32) (lg : Fin 4) (k : BitVec 10),
    decodeSystem c (sysWord 0x00 0 0 0 0) = some (.fenceAll c) ∧ decodeSystem c (sysWord 0x01 0 0 0 0) = some (.fenceLd c) ∧
    decodeSystem c (sysWord 0x02 0 0 0 0) = some (.fenceSt c) ∧ decodeSystem c (sysWord 0x03 0 0 0 0) = some (.fenceIo c) ∧
    decodeSystem c (sysWord 0x04 0 0 d.val 0) = some (.dursync c d) ∧ decodeSystem c (sysWord 0x08 a.val 0 0 0) = some (.clnL c a) ∧
    decodeSystem c (sysWord 0x09 a.val 0 0 0) = some (.invL c a) ∧ decodeSystem c (sysWord 0x0A a.val 0 0 0) = some (.clninvL c a) ∧
    decodeSystem c (sysWord 0x10 a.val b.val 0 0) = some (.tlbiVa c a b) ∧ decodeSystem c (sysWord 0x11 a.val 0 0 0) = some (.tlbiTag c a) ∧
    decodeSystem c (sysWord 0x12 0 0 0 0) = some (.tlbiAll c) ∧ decodeSystem c (sysWord 0x18 a.val 0 d.val lg.val) = some (.ldAcq c a d lg) ∧
    decodeSystem c (sysWord 0x19 a.val b.val 0 lg.val) = some (.stRel c a b lg) ∧
    decodeSystem c (sysWord 0x20 (k.toNat / 32) (k.toNat % 32) d.val 0) = some (.srr c k d) ∧
    decodeSystem c (sysWord 0x21 (k.toNat / 32) (k.toNat % 32) d.val 0) = some (.srw c k d) ∧
    decodeSystem c (sysWord 0x28 0 0 0 0) = some (.eret c) ∧ decodeSystem c (sysWord 0x29 0 0 0 x.val) = some (.callInsn c x) ∧
    decodeSystem c (sysWord 0x2C 0 0 0 0) = some (.waitInsn c) ∧
    (∀ minor ∉ [0, 1, 2, 3, 4, 8, 9, 0x0A, 0x10, 0x11, 0x12, 0x18, 0x19, 0x20, 0x21, 0x28, 0x29, 0x2C], minor < 64 →
      decodeSystem c (sysWord minor a.val b.val d.val x.val) = none) ∧
    (a.val ≠ 0 ∨ b.val ≠ 0 ∨ d.val ≠ 0 ∨ x.val ≠ 0 → ∀ minor ∈ [0, 1, 2, 3, 0x12, 0x28, 0x2C], decodeSystem c (sysWord minor a.val b.val d.val x.val) = none) ∧
    (a.val ≠ 0 ∨ b.val ≠ 0 ∨ x.val ≠ 0 → decodeSystem c (sysWord 0x04 a.val b.val d.val x.val) = none) ∧
    (b.val ≠ 0 ∨ d.val ≠ 0 ∨ x.val ≠ 0 → ∀ minor ∈ [8, 9, 0x0A, 0x11], decodeSystem c (sysWord minor a.val b.val d.val x.val) = none) ∧
    (d.val ≠ 0 ∨ x.val ≠ 0 → decodeSystem c (sysWord 0x10 a.val b.val d.val x.val) = none) ∧
    (b.val ≠ 0 ∨ 4 ≤ x.val → decodeSystem c (sysWord 0x18 a.val b.val d.val x.val) = none) ∧
    (d.val ≠ 0 ∨ 4 ≤ x.val → decodeSystem c (sysWord 0x19 a.val b.val d.val x.val) = none) ∧
    (x.val ≠ 0 → ∀ minor ∈ [0x20, 0x21], decodeSystem c (sysWord minor a.val b.val d.val x.val) = none) ∧
    (a.val ≠ 0 ∨ b.val ≠ 0 ∨ d.val ≠ 0 → decodeSystem c (sysWord 0x29 a.val b.val d.val x.val) = none))

/-- R39, R109 to R111, R120, R128, R437, R482: an access of control space is performed at the I/O die and its response made; one of a root port waits there, or is answered
with an error where the port takes no request, or where no route exists is answered with ones; a response writes the load's register
and moves the pc on, frees the tracker entry of a Device-NE store, and keeps the first failed store for DEVWRITE. In FROZEN an access stays outstanding (R77, log 73). The port an
address belongs to is named by the command (log 41). The clauses say too where such a command changes nothing. -/
def Obligations.DeviceAccessesComplete : Prop :=
  (∀ (s : State) (c : Cid) (port : Option (Fin 64)) (d : DevMsg), s.mach.devNext (cidOf c) = some d → d.k = 0 →
    (0xFF0000000000 ≤ d.spa ∧ d.spa < 0xFF0010000000) → d.pl = 2 → d.spa % 8 = 0 → d.lg = 3 → 2 ≤ s.mach.mode → s.mach.mode ≠ 9 →
    (s.mach.ctlRead (.core 2) (d.spa - 0xFF0000000000)).1.errs = [] →
    Does (.devRd c port) s (fun m =>
      m = { s.mach with devq := swapFirst d { d with k := 2, data := (s.mach.ctlRead (.core 2) (d.spa - 0xFF0000000000)).2 % 2 ^ 64, err := 0 } s.dev.devq })) ∧
  (∀ (s : State) (c : Cid) (port : Option (Fin 64)) (d : DevMsg) (v : Nat), s.mach.devNext (cidOf c) = some d → d.k = 0 → s.mach.mode ≠ 9 →
    ((0xFF0020000000 ≤ d.spa ∧ d.spa < 0xFF0020800000) ∧ v = bitsOf (s.mach.doorbellRead (d.spa - 0xFF0020000000)) (8 * (d.spa % 8)) (8 * 2 ^ d.lg) ∨
      (0xFF0010000000 ≤ d.spa ∧ d.spa < 0xFF0010400000) ∧ v = ofBytes ((List.range (2 ^ d.lg)).map (fun i => s.mach.windowByte (d.spa + i)))) →
    Does (.devRd c port) s (fun m => m = { s.mach with devq := swapFirst d { d with k := 2, data := v, err := 0 } s.dev.devq })) ∧
  (∀ (s : State) (c : Cid) (p : Fin 64) (d : DevMsg), s.mach.devNext (cidOf c) = some d → d.k = 0 → 0xFF0020800000 ≤ d.spa → s.mach.portWaits p.val = false →
    Does (.devRd c (some p)) s (fun m =>
      m = { s.mach with devq := swapFirst d (if s.mach.portShut p.val = true then { d with port := some p.val, k := 2, data := 0, err := 2 } else { d with port := some p.val }) s.dev.devq })) ∧
  (∀ (s : State) (c : Cid) (p : Fin 64) (d : DevMsg), s.mach.devNext (cidOf c) = some d → 0xFF0020800000 ≤ d.spa → s.mach.portWaits p.val = true →
    Does (if d.k = 0 then .devRd c (some p) else .devWr c (some p)) s (fun m => m = s.mach)) ∧
  (∀ (s : State) (c : Cid) (d : DevMsg), s.mach.devNext (cidOf c) = some d → d.k = 0 → s.mach.mode ≠ 9 → 0xFF0020800000 ≤ d.spa →
    Does (.devRd c none) s (fun m =>
      m.get R.FAB_DROPS_NOROUTE 0 c.die.val = (s.mach.get R.FAB_DROPS_NOROUTE 0 c.die.val + 1) % 2 ^ R.FAB_DROPS_NOROUTE.w ∧
      m.devq = swapFirst d { d with k := 2, data := allOnes, err := 0 } s.dev.devq ∧ RegsBut s [R.FAB_DROPS_NOROUTE.bits 0 c.die.val] m ∧
      m.errs.map (fun e => (e.blk, e.cause, e.sev, e.die)) = [(Block.fab, E.FAB_NOROUTE.bit, sevContained, c.die.val)] ∧
      m = { s.mach with regs := m.regs, devq := m.devq, errs := m.errs })) ∧
  (∀ (s : State) (c : Cid) (port : Option (Fin 64)) (d : DevMsg) (a : Nat), s.mach.devNext (cidOf c) = some d → d.k = 1 → d.pl = 2 → d.lg = 3 →
    a = R.LANT_INJECT_ADDR_ADDR.key → d.spa = 0xFF0000000000 + a → 2 ≤ s.mach.mode → s.mach.mode ≠ 9 → s.mach.hon R.HDR_STATUS_STRUCK .lant = false →
    Does (.devWr c port) s (fun m =>
      m.get R.LANT_INJECT_ADDR_ADDR = d.data % 2 ^ 64 ∧ RegsBut s [whole a] m ∧
      m = { s.mach with regs := m.regs, devq := swapFirst d { d with k := 2, data := 0, err := 0 } s.dev.devq })) ∧
  (∀ (s : State) (c : Cid) (p : Fin 64) (d : DevMsg), s.mach.devNext (cidOf c) = some d → d.k = 1 → d.ne = true → 0xFF0020800000 ≤ d.spa → s.mach.portWaits p.val = false →
    Does (.devWr c (some p)) s (fun m =>
      m = { s.mach with devq := swapFirst d (if s.mach.portShut p.val = true then { d with port := some p.val, k := 2, data := 0, err := 2 } else { d with port := some p.val }) s.dev.devq })) ∧
  (∀ (s : State) (c : Cid) (p : Fin 64) (d : DevMsg), s.mach.devNext (cidOf c) = some d → d.cid = cidOf c → d.k = 1 → d.ne = false → 0xFF0020800000 ≤ d.spa →
    s.mach.portWaits p.val = false → (s.mach.core (cidOf c)).trk.length < 16 →
    Does (.devWr c (some p)) s (fun m =>
      m.devq = swapFirst d (if s.mach.portShut p.val = true then { d with port := some p.val, ne := s.mach.regionForbids d.spa, k := 2, data := 0, err := 2 }
        else { d with port := some p.val, ne := s.mach.regionForbids d.spa }) s.dev.devq ∧
      m.core (cidOf c) = { s.mach.core (cidOf c) with
        trk := (s.mach.core (cidOf c)).trk ++ (if s.mach.regionForbids d.spa = true then [⟨d.spa, d.lg, d.pl⟩] else []) } ∧
      (∀ k, k ≠ cidOf c → m.core k = s.mach.core k) ∧ m = { s.mach with cores := m.cores, devq := m.devq })) ∧
  (∀ (s : State) (c : Cid) (d : DevMsg), s.mach.devNext (cidOf c) = some d → d.k = 1 → s.mach.mode ≠ 9 → 0xFF0020800000 ≤ d.spa → d.cid = cidOf c →
    (d.ne = true ∨ s.mach.regionForbids d.spa = false) →
    Does (.devWr c none) s (fun m =>
      m.get R.FAB_DROPS_NOROUTE 0 c.die.val = (s.mach.get R.FAB_DROPS_NOROUTE 0 c.die.val + 1) % 2 ^ R.FAB_DROPS_NOROUTE.w ∧
      m.devq = (if d.ne = true then swapFirst d { d with k := 2, data := 0, err := 1 } s.dev.devq else s.dev.devq.erase d) ∧
      RegsBut s [R.FAB_DROPS_NOROUTE.bits 0 c.die.val] m ∧ m = { s.mach with regs := m.regs, devq := m.devq, errs := m.errs })) ∧
  (∀ (s : State) (c : Cid) (port : Option (Fin 64)) (i : Instr), s.mach.mode = 9 → i ∈ [Instr.devRd c port, .devWr c port] → Leaves i s s.mach) ∧
  (∀ (s : State) (c : Cid) (spa : BitVec 48) (data : Word) (err : Fin 3) (d : DevMsg) (rd : Nat), NoCount s c →
    s.dev.devq.find? (fun x => x.cid == cidOf c && x.spa == spa.toNat && (x.k == 2 || x.port.isSome)) = some d → d.cid = cidOf c → d.rd = some rd → d.lg ≤ 3 →
    (if d.k = 2 then d.err else err.val) = 0 → s.mach.dieUp c.die.val = true → (s.mach.core (cidOf c)).run = .running →
    Does (.devRsp c spa data err) s (fun m =>
      m.gpr (cidOf c) rd = (if d.k = 2 then d.data else data.toNat) % 2 ^ (8 * 2 ^ d.lg) % 2 ^ 64 ∧ (∀ r, r ≠ rd → m.gpr (cidOf c) r = s.mach.gpr (cidOf c) r) ∧
      m.core (cidOf c) = { s.mach.core (cidOf c) with g := (m.core (cidOf c)).g, pc := (s.mach.core (cidOf c)).pc + BitVec.ofNat 64 d.ilen } ∧
      (∀ k, k ≠ cidOf c → m.core k = s.mach.core k) ∧ m = { s.mach with cores := m.cores, devq := s.dev.devq.erase d })) ∧
  (∀ (s : State) (c : Cid) (spa : BitVec 48) (data : Word) (err : Fin 3) (d : DevMsg) (e : Nat),
    s.dev.devq.find? (fun x => x.cid == cidOf c && x.spa == spa.toNat && (x.k == 2 || x.port.isSome)) = some d → d.cid = cidOf c → d.rd = none →
    d.ne = true → e = (if d.k = 2 then d.err else err.val) → e = 0 → s.mach.dieUp c.die.val = true → (s.mach.core (cidOf c)).run = .running →
    Does (.devRsp c spa data err) s (fun m =>
      m.core (cidOf c) = { s.mach.core (cidOf c) with trk := (s.mach.core (cidOf c)).trk.erase ⟨d.spa, d.lg, d.pl⟩ } ∧
      (∀ k, k ≠ cidOf c → m.core k = s.mach.core k) ∧ m = { s.mach with cores := m.cores, devq := s.dev.devq.erase d })) ∧
  (∀ (s : State) (c : Cid) (spa : BitVec 48) (data : Word) (err : Fin 3) (d : DevMsg) (rd : Nat), NoCount s c →
    s.dev.devq.find? (fun x => x.cid == cidOf c && x.spa == spa.toNat && (x.k == 2 || x.port.isSome)) = some d → d.cid = cidOf c → d.rd = some rd → d.lg ≤ 3 →
    (if d.k = 2 then d.err else err.val) ≠ 0 → s.mach.dieUp c.die.val = true → (s.mach.core (cidOf c)).run = .running →
    Does (.devRsp c spa data err) s (fun m =>
      m.gpr (cidOf c) rd = 2 ^ (8 * 2 ^ d.lg) - 1 ∧ (∀ r, r ≠ rd → m.gpr (cidOf c) r = s.mach.gpr (cidOf c) r) ∧
      m.core (cidOf c) = { s.mach.core (cidOf c) with g := (m.core (cidOf c)).g, pc := (s.mach.core (cidOf c)).pc + BitVec.ofNat 64 d.ilen } ∧
      (∀ k, k ≠ cidOf c → m.core k = s.mach.core k) ∧ (d.port = none → m.errs = []) ∧
      (∀ p ∈ d.port, m.errs.map (fun e => (e.blk, e.cause, e.sev, e.inst)) = [(Block.pg, 69, sevContained, p / 4)]) ∧
      m = { s.mach with cores := m.cores, errs := m.errs, devq := s.dev.devq.erase d })) ∧
  (∀ (s : State) (c : Cid) (spa : BitVec 48) (data : Word) (err : Fin 3) (d : DevMsg) (e : Nat),
    s.dev.devq.find? (fun x => x.cid == cidOf c && x.spa == spa.toNat && (x.k == 2 || x.port.isSome)) = some d → d.cid = cidOf c → d.rd = none →
    d.ne = true → e = (if d.k = 2 then d.err else err.val) → e ≠ 0 → s.mach.dieUp c.die.val = true → (s.mach.core (cidOf c)).run = .running →
    Does (.devRsp c spa data err) s (fun m =>
      m.core (cidOf c) = { s.mach.core (cidOf c) with
        trk := (s.mach.core (cidOf c)).trk.erase ⟨d.spa, d.lg, d.pl⟩
        dfail := some (match (s.mach.core (cidOf c)).dfail with
          | some f => { f with more := satAdd 16 f.more 1 }
          | none => ⟨d.spa, e, d.lg, d.pl, 0⟩) } ∧
      (∀ k, k ≠ cidOf c → m.core k = s.mach.core k) ∧ m = { s.mach with cores := m.cores, devq := s.dev.devq.erase d })) ∧
  (∀ (s : State) (c : Cid) (spa : BitVec 48) (data : Word) (err : Fin 3) (d : DevMsg),
    s.dev.devq.find? (fun x => x.cid == cidOf c && x.spa == spa.toNat && (x.k == 2 || x.port.isSome)) = some d → d.cid = cidOf c → d.rd = none →
    d.ne = false →
    Does (.devRsp c spa data err) s (fun m => m = { s.mach with errs := m.errs, devq := s.dev.devq.erase d }))

/-- R188: a RdShared of a line nobody holds is answered with E, a RdOwn with M; with sharers RdShared is answered with S and RdOwn invalidates them and is
answered with M and their count; an owner is sent SnpFwdShared or SnpFwdOwn under H2 and SnpShared or SnpOwn under H1, where the home collects the answers (R193); an Upgrade of a holder invalidates the others and is granted.
The filter follows (R183). A line of a foreign tenant is refused FOREIGN_TENANT (R197, R200). Memory answers here for a page no write has
reached, which reads as zeros (R240, R243); for one of the Bed the transaction stays open until its channel has read the line. Nothing else changes. -/
def Obligations.CachingRequestsComplete : Prop :=
  (∀ (s : State) (p : Packet) (g : Msg) (k : MsgK) (i : Instr) (st : LSt), AtHome s p.line.toNat → ZeroPage s p.line.toNat →
    (i, k, st) ∈ [(Instr.rdShared p, MsgK.rdShared, LSt.e), (.rdOwn p, .rdOwn, .m)] → isDie p.src.val = true →
    s.mach.dieUp p.src.val = true → s.dev.net.find? (fun g => g.k == k && g.src == p.src.val && g.line == p.line.toNat) = some g → g.aux % 2 = 0 →
    s.dev.filter.find p.line.toNat = none → (s.mach.sfInSet p.line.toNat).length < 16 →
    Does i s (fun m =>
      (m.filter.find p.line.toNat).map (fun e => (e.st, e.owner, e.pres, e.tenant)) =
        some (.x, p.src.val, [p.src.val], eTenant (s.mach.entry (pageOf (p.line.toNat * 64)))) ∧
      TblBut s.dev.filter [p.line.toNat] m.filter ∧ Touched s p.line.toNat m ∧ RegsBut s [R.HOME_SF_STATUS_OCCUPIED.bits (homeOf (p.line.toNat * 64))] m ∧
      m = { s.mach with
        regs := m.regs
        filter := m.filter, pmap := m.pmap, mapDirty := m.mapDirty, tierq := m.tierq
        htx := s.dev.htx ++ (if s.mach.isH2 = true then [] else
          [⟨{ k := k, src := p.src.val, line := p.line.toNat, spec := g.flag }, [], none, some (0, false), true, 0, st, 0, false⟩])
        net := s.dev.net.erase g ++ [{ k := .data, src := agentHome (homeOf (p.line.toNat * 64)), dst := p.src.val, line := p.line.toNat, st := st,
                                        aux := (eDur (s.mach.entry (pageOf (p.line.toNat * 64)))).toNat + 2 * eTenant (s.mach.entry (pageOf (p.line.toNat * 64))) }] })) ∧
  (∀ (s : State) (p : Packet) (g : Msg) (k : MsgK) (i : Instr) (st : LSt) (t : HTx), AtHome s p.line.toNat → BedPage s p.line.toNat →
    (i, k, st) ∈ [(Instr.rdShared p, MsgK.rdShared, LSt.e), (.rdOwn p, .rdOwn, .m)] → s.mach.isH2 = true → isDie p.src.val = true →
    s.mach.dieUp p.src.val = true → s.dev.net.find? (fun g => g.k == k && g.src == p.src.val && g.line == p.line.toNat) = some g → g.aux % 2 = 0 →
    s.dev.filter.find p.line.toNat = none → (s.mach.sfInSet p.line.toNat).length < 16 →
    s.mach.chanReady (bedLda (eLoc (s.mach.entry (pageOf (p.line.toNat * 64)))) (p.line.toNat * 64)) = true →
    t = ⟨{ k := k, src := p.src.val, line := p.line.toNat, spec := g.flag }, [], none, none, false, 1, st, 0, false⟩ →
    Does i s (fun m =>
      (m.filter.find p.line.toNat).map (fun e => (e.st, e.owner, e.pres, e.tenant)) =
        some (.x, p.src.val, [p.src.val], eTenant (s.mach.entry (pageOf (p.line.toNat * 64)))) ∧
      TblBut s.dev.filter [p.line.toNat] m.filter ∧ Touched s p.line.toNat m ∧ RegsBut s [R.HOME_SF_STATUS_OCCUPIED.bits (homeOf (p.line.toNat * 64))] m ∧
      m = { s.mach with
        regs := m.regs, filter := m.filter, pmap := m.pmap, mapDirty := m.mapDirty, tierq := m.tierq, htx := s.dev.htx ++ [t], net := s.dev.net.erase g })) ∧
  (∀ (s : State) (p : Packet) (g : Msg) (k : MsgK) (i : Instr) (e : FEnt) (others : List Nat), AtHome s p.line.toNat → ZeroPage s p.line.toNat →
    (i, k) ∈ [(Instr.rdShared p, MsgK.rdShared), (.rdOwn p, .rdOwn)] → s.mach.isH2 = true → isDie p.src.val = true →
    s.mach.dieUp p.src.val = true → s.dev.net.find? (fun g => g.k == k && g.src == p.src.val && g.line == p.line.toNat) = some g → g.aux % 2 = 0 →
    s.dev.filter.find p.line.toNat = some e → e.st = .s → others = e.pres.filter (· != p.src.val) →
    Does i s (fun m =>
      (m.filter.find p.line.toNat).map (fun e => (e.st, e.pres, e.tenant)) =
        (if k = .rdShared then some (.s, others ++ [p.src.val], e.tenant) else some (.x, [p.src.val], e.tenant)) ∧
      TblBut s.dev.filter [p.line.toNat] m.filter ∧ Touched s p.line.toNat m ∧ RegsBut s [R.HOME_SF_STATUS_OCCUPIED.bits (homeOf (p.line.toNat * 64))] m ∧
      m = { s.mach with
        regs := m.regs
        filter := m.filter, pmap := m.pmap, mapDirty := m.mapDirty, tierq := m.tierq
        net := s.dev.net.erase g ++
          (if k = .rdShared then [] else others.map (fun d => { k := .snpInv, src := agentHome (homeOf (p.line.toNat * 64)), dst := d, line := p.line.toNat, ackTo := p.src.val })) ++
          [{ k := .data, src := agentHome (homeOf (p.line.toNat * 64)), dst := p.src.val, line := p.line.toNat, st := if k = .rdShared then .s else .m
             n := if k = .rdShared then 0 else others.length
             aux := (eDur (s.mach.entry (pageOf (p.line.toNat * 64)))).toNat + 2 * eTenant (s.mach.entry (pageOf (p.line.toNat * 64))) }] })) ∧
  (∀ (s : State) (p : Packet) (g : Msg) (k : MsgK) (i : Instr) (e : FEnt) (others : List Nat), AtHome s p.line.toNat → ZeroPage s p.line.toNat →
    (i, k) ∈ [(Instr.rdShared p, MsgK.rdShared), (.rdOwn p, .rdOwn)] → s.mach.isH2 = true → isDie p.src.val = true →
    s.mach.dieUp p.src.val = true → s.dev.net.find? (fun g => g.k == k && g.src == p.src.val && g.line == p.line.toNat) = some g → g.aux % 2 = 0 →
    s.dev.filter.find p.line.toNat = some e → (e.st = .x ∨ e.st = .o) → e.owner ≠ p.src.val → others = e.pres.filter (· != p.src.val) →
    Does i s (fun m =>
      (m.filter.find p.line.toNat).map (fun e => (e.st, e.owner, e.pres, e.tenant)) =
        (if k = .rdShared then some (.o, e.owner, others ++ [p.src.val], e.tenant) else some (.x, p.src.val, [p.src.val], e.tenant)) ∧
      TblBut s.dev.filter [p.line.toNat] m.filter ∧ Touched s p.line.toNat m ∧
      m.get R.HOME_FWD_COUNTS_FORWARDS (homeOf (p.line.toNat * 64)) = (s.mach.get R.HOME_FWD_COUNTS_FORWARDS (homeOf (p.line.toNat * 64)) + 1) % 2 ^ 32 ∧
      m.get R.HOME_FWD_COUNTS_REFUSALS (homeOf (p.line.toNat * 64)) = s.mach.get R.HOME_FWD_COUNTS_REFUSALS (homeOf (p.line.toNat * 64)) ∧
      RegsBut s [R.HOME_SF_STATUS_OCCUPIED.bits (homeOf (p.line.toNat * 64)), R.HOME_FWD_COUNTS_FORWARDS.bits (homeOf (p.line.toNat * 64))] m ∧
      m = { s.mach with
        regs := m.regs
        filter := m.filter, pmap := m.pmap, mapDirty := m.mapDirty, tierq := m.tierq
        net := s.dev.net.erase g ++
          [{ k := if k = .rdShared then .snpFwdShared else .snpFwdOwn, src := agentHome (homeOf (p.line.toNat * 64)), dst := e.owner, line := p.line.toNat
             ackTo := p.src.val, n := if k = .rdShared then 0 else (others.filter (· != e.owner)).length }] ++
          (if k = .rdShared then [] else (others.filter (· != e.owner)).map (fun d =>
            { k := .snpInv, src := agentHome (homeOf (p.line.toNat * 64)), dst := d, line := p.line.toNat, ackTo := p.src.val })) })) ∧
  (∀ (s : State) (p : Packet) (g : Msg) (k : MsgK) (i : Instr) (e : FEnt) (others inval : List Nat), AtHome s p.line.toNat → ZeroPage s p.line.toNat →
    (i, k) ∈ [(Instr.rdShared p, MsgK.rdShared), (.rdOwn p, .rdOwn)] → s.mach.isH2 = false → isDie p.src.val = true →
    s.mach.dieUp p.src.val = true → s.dev.net.find? (fun g => g.k == k && g.src == p.src.val && g.line == p.line.toNat) = some g → g.aux % 2 = 0 →
    s.dev.filter.find p.line.toNat = some e → (e.st = .x ∨ e.st = .o) → e.owner ≠ p.src.val → others = e.pres.filter (· != p.src.val) →
    inval = (if k = .rdShared then [] else others.filter (· != e.owner)) →
    Does i s (fun m =>
      (m.filter.find p.line.toNat).map (fun e => (e.st, e.owner, e.pres, e.tenant)) =
        (if k = .rdShared then some (.o, e.owner, others ++ [p.src.val], e.tenant) else some (.x, p.src.val, [p.src.val], e.tenant)) ∧
      TblBut s.dev.filter [p.line.toNat] m.filter ∧ Touched s p.line.toNat m ∧
      m.get R.HOME_FWD_COUNTS_FORWARDS (homeOf (p.line.toNat * 64)) = (s.mach.get R.HOME_FWD_COUNTS_FORWARDS (homeOf (p.line.toNat * 64)) + 1) % 2 ^ 32 ∧
      RegsBut s [R.HOME_SF_STATUS_OCCUPIED.bits (homeOf (p.line.toNat * 64)), R.HOME_FWD_COUNTS_FORWARDS.bits (homeOf (p.line.toNat * 64))] m ∧
      m = { s.mach with
        regs := m.regs
        filter := m.filter, pmap := m.pmap, mapDirty := m.mapDirty, tierq := m.tierq
        htx := s.dev.htx ++ [⟨{ k := k, src := p.src.val, line := p.line.toNat, spec := g.flag }, inval, some e.owner, none, false, 0, if k = .rdShared then .s else .m, 0, false⟩]
        net := s.dev.net.erase g ++
          [{ k := if k = .rdShared then .snpShared else .snpOwn, src := agentHome (homeOf (p.line.toNat * 64)), dst := e.owner, line := p.line.toNat
             ackTo := agentHome (homeOf (p.line.toNat * 64)) }] ++
          inval.map (fun d => { k := .snpInv, src := agentHome (homeOf (p.line.toNat * 64)), dst := d, line := p.line.toNat, ackTo := agentHome (homeOf (p.line.toNat * 64)) }) })) ∧
  (∀ (s : State) (p : Packet) (g : Msg) (e : FEnt) (others : List Nat), AtHome s p.line.toNat → ZeroPage s p.line.toNat → s.mach.isH2 = true →
    isDie p.src.val = true → s.mach.dieUp p.src.val = true →
    s.dev.net.find? (fun g => g.k == .upgrade && g.src == p.src.val && g.line == p.line.toNat) = some g → g.aux % 2 = 0 →
    s.dev.filter.find p.line.toNat = some e → (e.st = .s ∨ e.st = .o) → p.src.val ∈ e.pres → others = e.pres.filter (· != p.src.val) →
    Does (.upgrade p) s (fun m =>
      (m.filter.find p.line.toNat).map (fun e => (e.st, e.owner, e.pres, e.tenant)) = some (.x, p.src.val, [p.src.val], e.tenant) ∧
      TblBut s.dev.filter [p.line.toNat] m.filter ∧ Touched s p.line.toNat m ∧ 
      m.get R.HOME_FWD_COUNTS_FORWARDS (homeOf (p.line.toNat * 64)) =
        (s.mach.get R.HOME_FWD_COUNTS_FORWARDS (homeOf (p.line.toNat * 64)) + (if e.st = .o ∧ e.owner ≠ p.src.val then 1 else 0)) % 2 ^ 32 ∧
      RegsBut s [R.HOME_SF_STATUS_OCCUPIED.bits (homeOf (p.line.toNat * 64)), R.HOME_FWD_COUNTS_FORWARDS.bits (homeOf (p.line.toNat * 64))] m ∧
      m = { s.mach with
        regs := m.regs
        filter := m.filter, pmap := m.pmap, mapDirty := m.mapDirty, tierq := m.tierq
        net := s.dev.net.erase g ++
          others.map (fun d => { k := .snpInv, src := agentHome (homeOf (p.line.toNat * 64)), dst := d, line := p.line.toNat, ackTo := p.src.val }) ++
          [{ k := .grant, src := agentHome (homeOf (p.line.toNat * 64)), dst := p.src.val, line := p.line.toNat, n := others.length
             aux := (eDur (s.mach.entry (pageOf (p.line.toNat * 64)))).toNat + 2 * eTenant (s.mach.entry (pageOf (p.line.toNat * 64))) }] })) ∧
  (∀ (s : State) (p : Packet) (g : Msg) (k : MsgK) (i : Instr), s.mach.homeUp = true → Idle s → NoUncore s → (∀ t ∈ s.dev.htx, t.req.line ≠ p.line.toNat) →
    s.mach.isForeign p.line.toNat = true →
    (i, k) ∈ [(Instr.rdShared p, MsgK.rdShared), (.rdOwn p, .rdOwn), (.upgrade p, .upgrade)] → isDie p.src.val = true →
    s.mach.dieUp p.src.val = true → s.dev.net.find? (fun g => g.k == k && g.src == p.src.val && g.line == p.line.toNat) = some g →
    Does i s (fun m =>
      m.get R.HOME_FWD_COUNTS_REFUSALS (homeOf (p.line.toNat * 64)) = (s.mach.get R.HOME_FWD_COUNTS_REFUSALS (homeOf (p.line.toNat * 64)) + 1) % 2 ^ 32 ∧
      m.get R.HOME_FWD_COUNTS_FORWARDS (homeOf (p.line.toNat * 64)) = s.mach.get R.HOME_FWD_COUNTS_FORWARDS (homeOf (p.line.toNat * 64)) ∧
      RegsBut s [R.HOME_FWD_COUNTS_REFUSALS.bits (homeOf (p.line.toNat * 64))] m ∧
      m = { s.mach with
        regs := m.regs
        net := s.dev.net.erase g ++ [{ k := .refuse, src := agentHome (homeOf (p.line.toNat * 64)), dst := p.src.val, line := p.line.toNat, n := 1, flag := g.flag }] }))

/-- R195: RdCur is served by SnpCur to the owner or with DataCur from memory; a WrLine that nobody caches is written to the page's Bed frame, encrypted and without
poison, and completed with Cmp; a WrPart with an owner collects its copy and invalidates the sharers, open until they answer. R196: Flush CLN asks
another owner to clean, INV invalidates every holder, CLNINV collects the owner's copy; a Flush of a line nobody holds, or CLN of one that only its sender may have dirty, is completed at once.
A write touches the page (R246). -/
def Obligations.NonCachingRequestsAndFlush : Prop :=
  (∀ (s : State) (p : Packet) (g : Msg) (e : FEnt), AtHome s p.line.toNat → ZeroPage s p.line.toNat → s.mach.isH2 = true → 12 ≤ p.src.val → p.src.val < 72 →
    Flies s .rdCur p g → (s.dev.filter.find p.line.toNat).getD ⟨.i, 0, [], 0, 0⟩ = e →
    Does (.rdCur p) s (fun m =>
      Touched s p.line.toNat m ∧
      m = { s.mach with
        pmap := m.pmap, mapDirty := m.mapDirty, tierq := m.tierq
        net := s.dev.net.erase g ++
          [if e.st = .x ∨ e.st = .o then { k := .snpCur, src := agentHome (homeOf (p.line.toNat * 64)), dst := e.owner, line := p.line.toNat, ackTo := g.src }
           else { k := .dataCur, src := agentHome (homeOf (p.line.toNat * 64)), dst := g.src, line := p.line.toNat }] })) ∧
  (∀ (s : State) (p : Packet) (g : Msg) (a : Nat), AtHome s p.line.toNat → BedPage s p.line.toNat → 12 ≤ p.src.val → p.src.val < 72 →
    Flies s .wrLine p g → s.dev.filter.find p.line.toNat = none → eDur (s.mach.entry (pageOf (p.line.toNat * 64))) = false → g.poison = false →
    a = bedLda (eLoc (s.mach.entry (pageOf (p.line.toNat * 64)))) (p.line.toNat * 64) →
    Does (.wrLine p) s (fun m =>
      m.lineAt a = g.data ∧ WritesOnly s (fun x => a ≤ x ∧ x < a + 64) m ∧
      m.metaOf a = ⟨false, [], some (s.mach.bedEnc (p.line.toNat * 64))⟩ ∧ TblBut s.dev.lineMeta [a / 64] m.lineMeta ∧ Touched s p.line.toNat m ∧
      TblBut s.dev.slots [s.mach.memSlot (pageOf (p.line.toNat * 64)) (p.line.toNat % 64)] m.slots ∧ RegsBut s [R.HOME_SF_STATUS_OCCUPIED.bits (homeOf (p.line.toNat * 64))] m ∧
      m = { s.mach with
        regs := m.regs
        pmap := m.pmap, mapDirty := m.mapDirty, tierq := m.tierq, lineMeta := m.lineMeta, slots := m.slots, wr := m.wr, errs := m.errs
        net := s.dev.net.erase g ++ [{ k := .cmp, src := agentHome (homeOf (p.line.toNat * 64)), dst := g.src, line := p.line.toNat }] })) ∧
  (∀ (s : State) (p : Packet) (g : Msg) (e : FEnt) (t : HTx), AtHome s p.line.toNat → ZeroPage s p.line.toNat → 12 ≤ p.src.val → p.src.val < 72 →
    Flies s .wrPart p g → s.dev.filter.find p.line.toNat = some e → (e.st = .x ∨ e.st = .o) → e.owner ∈ e.pres →
    t = ⟨{ k := .wrPart, src := g.src, line := p.line.toNat, data := g.data, mask := g.aux, poison := g.poison }, e.pres.filter (· != e.owner), some e.owner, none, false, 0, .i, 0, false⟩ →
    Does (.wrPart p) s (fun m =>
      Touched s p.line.toNat m ∧
      m = { s.mach with
        pmap := m.pmap, mapDirty := m.mapDirty, tierq := m.tierq
        htx := s.dev.htx ++ [t]
        net := s.dev.net.erase g ++ [{ k := .snpInvData, src := agentHome (homeOf (p.line.toNat * 64)), dst := e.owner, line := p.line.toNat, ackTo := agentHome (homeOf (p.line.toNat * 64)) }] ++
          (e.pres.filter (· != e.owner)).map (fun d =>
            { k := .snpInv, src := agentHome (homeOf (p.line.toNat * 64)), dst := d, line := p.line.toNat, ackTo := agentHome (homeOf (p.line.toNat * 64)) }) })) ∧
  (∀ (s : State) (p : Packet) (g : Msg) (op : FlushOp) (k : MsgK) (e : FEnt) (t : HTx), AtHome s p.line.toNat → ZeroPage s p.line.toNat → isDie p.src.val = true →
    (op, k) ∈ [(FlushOp.cln, MsgK.flushCln), (.inv, .flushInv), (.clninv, .flushClnInv)] → Flies s k p g →
    s.dev.filter.find p.line.toNat = some e → (e.st = .x ∨ e.st = .o) → e.owner ≠ p.src.val → e.owner ∈ e.pres →
    t = (match op with
      | .cln => ⟨{ k := k, src := p.src.val, line := p.line.toNat, cid := g.aux }, [], some e.owner, none, false, 0, .i, 0, false⟩
      | .inv => ⟨{ k := k, src := p.src.val, line := p.line.toNat, cid := g.aux }, e.pres, none, none, false, 0, .i, 0, false⟩
      | .clninv => ⟨{ k := k, src := p.src.val, line := p.line.toNat, cid := g.aux }, e.pres.filter (· != e.owner), some e.owner, none, false, 0, .i, 0, false⟩) →
    Does (.flush op p) s (fun m =>
      Touched s p.line.toNat m ∧
      m.get R.HOME_FWD_COUNTS_FORWARDS (homeOf (p.line.toNat * 64)) = (s.mach.get R.HOME_FWD_COUNTS_FORWARDS (homeOf (p.line.toNat * 64)) + 1) % 2 ^ 32 ∧
      RegsBut s [R.HOME_FWD_COUNTS_FORWARDS.bits (homeOf (p.line.toNat * 64))] m ∧
      m = { s.mach with
        regs := m.regs, pmap := m.pmap, mapDirty := m.mapDirty, tierq := m.tierq
        htx := s.dev.htx ++ [t]
        net := s.dev.net.erase g ++ (match op with
          | .cln => [{ k := .snpClean, src := agentHome (homeOf (p.line.toNat * 64)), dst := e.owner, line := p.line.toNat, ackTo := agentHome (homeOf (p.line.toNat * 64)) }]
          | .inv => e.pres.map (fun d => { k := .snpInv, src := agentHome (homeOf (p.line.toNat * 64)), dst := d, line := p.line.toNat, ackTo := agentHome (homeOf (p.line.toNat * 64)), aux := 1 })
          | .clninv => [{ k := .snpInvData, src := agentHome (homeOf (p.line.toNat * 64)), dst := e.owner, line := p.line.toNat, ackTo := agentHome (homeOf (p.line.toNat * 64)) }] ++
            (e.pres.filter (· != e.owner)).map (fun d =>
              { k := .snpInv, src := agentHome (homeOf (p.line.toNat * 64)), dst := d, line := p.line.toNat, ackTo := agentHome (homeOf (p.line.toNat * 64)) })) })) ∧
  (∀ (s : State) (p : Packet) (g : Msg) (op : FlushOp) (k : MsgK), AtHome s p.line.toNat → ZeroPage s p.line.toNat → isDie p.src.val = true →
    (op, k) ∈ [(FlushOp.cln, MsgK.flushCln), (.inv, .flushInv), (.clninv, .flushClnInv)] → Flies s k p g →
    (s.dev.filter.find p.line.toNat = none ∨ op = .cln ∧ ∀ e ∈ s.dev.filter.find p.line.toNat, e.st = .s ∨ e.owner = p.src.val) →
    Does (.flush op p) s (fun m =>
      RegsBut s [R.HOME_SF_STATUS_OCCUPIED.bits (homeOf (p.line.toNat * 64)), whole (R.MSC_OCC_CLEAN.key (homeOf (p.line.toNat * 64)))] m ∧ Touched s p.line.toNat m ∧
      m = { s.mach with
        regs := m.regs, pmap := m.pmap, mapDirty := m.mapDirty, tierq := m.tierq
        net := s.dev.net.erase g ++ [{ k := .cmp, src := agentHome (homeOf (p.line.toNat * 64)), dst := p.src.val, line := p.line.toNat, n := 1, aux := g.aux }] }))

/-- R192 and R194: an Evict of a holder takes it out of the filter, a WbDirty of the owner is kept dirty in the MSC (R165), and each is answered with WbAck, which
is STALE and counted where the filter does not show the die; WbAck ends the die's transient, and that of a WbDirty with KEEP leaves a line written back from O shared (R196), or dirty again where it is STALE (log 116). R384 and R386: a DurWb writes the durable line
through to its Bed frame, the MSC keeping it clean, and returns Cmp; it counts as received and, in a mode of local acceptance, as accepted.
R387: a DurSync whose count has been received and accepted is answered with Cmp. Cmp ends what it completes at the core: a cache maintenance instruction that waits at its Flush retires with it (R124). -/
def Obligations.EvictionsAndDurableWrites : Prop :=
  (∀ (s : State) (p : Packet) (g : Msg) (e : FEnt), AtHome s p.line.toNat → ZeroPage s p.line.toNat → (s.mach.isH2 = true ∨ s.mach.snoopOut p.src.val p.line.toNat = false) → isDie p.src.val = true →
    Flies s .evict p g → g.flag = false → s.dev.filter.find p.line.toNat = some e → p.src.val ∈ e.pres → e.st ≠ .i →
    Does (.evict p) s (fun m =>
      (m.filter.find p.line.toNat).map (fun x => (x.st, x.owner, x.pres, x.tenant)) =
        (if e.pres.filter (· != p.src.val) = [] then none else some (if e.owner = p.src.val then .s else e.st, e.owner, e.pres.filter (· != p.src.val), e.tenant)) ∧
      TblBut s.dev.filter [p.line.toNat] m.filter ∧ Touched s p.line.toNat m ∧ RegsBut s [R.HOME_SF_STATUS_OCCUPIED.bits (homeOf (p.line.toNat * 64))] m ∧
      m = { s.mach with
        regs := m.regs, filter := m.filter, pmap := m.pmap, mapDirty := m.mapDirty, tierq := m.tierq
        net := s.dev.net.erase g ++ [{ k := .wbAck, src := agentHome (homeOf (p.line.toNat * 64)), dst := p.src.val, line := p.line.toNat, st := g.st }] })) ∧
  (∀ (s : State) (p : Packet) (g : Msg) (e : FEnt), AtHome s p.line.toNat → BedPage s p.line.toNat → (s.mach.isH2 = true ∨ s.mach.snoopOut p.src.val p.line.toNat = false) → isDie p.src.val = true →
    Flies s .evict p g → g.flag = true → s.dev.filter.find p.line.toNat = some e → e.pres = [p.src.val] → e.st ≠ .i →
    s.mach.mscDeclines (homeOf (p.line.toNat * 64)) (eTenant (s.mach.entry (pageOf (p.line.toNat * 64)))) = false →
    (s.mach.mscInSet p.line.toNat).length < s.mach.mscWays (homeOf (p.line.toNat * 64)) →
    Does (.evict p) s (fun m =>
      m.mscLine p.line.toNat = some ⟨g.data, false, g.poison, eTenant (s.mach.entry (pageOf (p.line.toNat * 64)))⟩ ∧ TblBut s.dev.msc [p.line.toNat] m.msc ∧
      m.filter.find p.line.toNat = none ∧ TblBut s.dev.filter [p.line.toNat] m.filter ∧ Touched s p.line.toNat m ∧
      m.get R.MSC_OFFERS_OFFERED (homeOf (p.line.toNat * 64)) = (s.mach.get R.MSC_OFFERS_OFFERED (homeOf (p.line.toNat * 64)) + 1) % 2 ^ 32 ∧
      RegsBut s [R.HOME_SF_STATUS_OCCUPIED.bits (homeOf (p.line.toNat * 64)), R.MSC_OFFERS_OFFERED.bits (homeOf (p.line.toNat * 64)), whole (R.MSC_OCC_CLEAN.key (homeOf (p.line.toNat * 64)))] m ∧
      m = { s.mach with
        regs := m.regs, filter := m.filter, msc := m.msc, pmap := m.pmap, mapDirty := m.mapDirty, tierq := m.tierq
        net := s.dev.net.erase g ++ [{ k := .wbAck, src := agentHome (homeOf (p.line.toNat * 64)), dst := p.src.val, line := p.line.toNat, st := g.st }] })) ∧
  (∀ (s : State) (p : Packet) (g : Msg), AtHome s p.line.toNat → ZeroPage s p.line.toNat → isDie p.src.val = true →
    Flies s .evict p g → (s.dev.filter.find p.line.toNat = none ∨ s.mach.isH2 = false ∧ s.mach.snoopOut p.src.val p.line.toNat = true) →
    Does (.evict p) s (fun m =>
      m.get R.HOME_SF_COUNTS_STALE (homeOf (p.line.toNat * 64)) = (s.mach.get R.HOME_SF_COUNTS_STALE (homeOf (p.line.toNat * 64)) + 1) % 2 ^ 32 ∧
      m.get R.HOME_SF_COUNTS_BACKINV (homeOf (p.line.toNat * 64)) = s.mach.get R.HOME_SF_COUNTS_BACKINV (homeOf (p.line.toNat * 64)) ∧
      RegsBut s [R.HOME_SF_COUNTS_STALE.bits (homeOf (p.line.toNat * 64))] m ∧ Touched s p.line.toNat m ∧
      m = { s.mach with
        regs := m.regs, pmap := m.pmap, mapDirty := m.mapDirty, tierq := m.tierq
        net := s.dev.net.erase g ++ [{ k := .wbAck, src := agentHome (homeOf (p.line.toNat * 64)), dst := p.src.val, line := p.line.toNat, st := g.st, flag := true }] })) ∧
  (∀ (s : State) (p : Packet) (g : Msg) (e : FEnt), AtHome s p.line.toNat → BedPage s p.line.toNat → (s.mach.isH2 = true ∨ s.mach.snoopOut p.src.val p.line.toNat = false) → isDie p.src.val = true →
    p.flag = false → Flies s .wbDirty p g → s.dev.filter.find p.line.toNat = some e → e.st = .x → e.owner = p.src.val → e.pres = [p.src.val] →
    eDur (s.mach.entry (pageOf (p.line.toNat * 64))) = false → (s.mach.mscInSet p.line.toNat).length < s.mach.mscWays (homeOf (p.line.toNat * 64)) →
    Does (.wbDirty p) s (fun m =>
      m.mscLine p.line.toNat = some ⟨g.data, true, g.poison, eTenant (s.mach.entry (pageOf (p.line.toNat * 64)))⟩ ∧ TblBut s.dev.msc [p.line.toNat] m.msc ∧
      m.filter.find p.line.toNat = none ∧ TblBut s.dev.filter [p.line.toNat] m.filter ∧ Touched s p.line.toNat m ∧
      m.get R.MSC_OFFERS_OFFERED (homeOf (p.line.toNat * 64)) = (s.mach.get R.MSC_OFFERS_OFFERED (homeOf (p.line.toNat * 64)) + 1) % 2 ^ 32 ∧
      RegsBut s [R.HOME_SF_STATUS_OCCUPIED.bits (homeOf (p.line.toNat * 64)), R.MSC_OFFERS_OFFERED.bits (homeOf (p.line.toNat * 64)), whole (R.MSC_OCC_CLEAN.key (homeOf (p.line.toNat * 64)))] m ∧
      m = { s.mach with
        regs := m.regs, filter := m.filter, msc := m.msc, pmap := m.pmap, mapDirty := m.mapDirty, tierq := m.tierq
        net := s.dev.net.erase g ++ [{ k := .wbAck, src := agentHome (homeOf (p.line.toNat * 64)), dst := p.src.val, line := p.line.toNat, st := g.st }] })) ∧
  (∀ (s : State) (p : Packet) (g : Msg) (e : FEnt), AtHome s p.line.toNat → BedPage s p.line.toNat → (s.mach.isH2 = true ∨ s.mach.snoopElse p.src.val p.line.toNat = false) → isDie p.src.val = true →
    p.flag = true → Flies s .wbKeep p g → s.dev.filter.find p.line.toNat = some e → (e.st = .x ∨ e.st = .o) → e.owner = p.src.val → p.src.val ∈ e.pres →
    eDur (s.mach.entry (pageOf (p.line.toNat * 64))) = false → (s.mach.mscInSet p.line.toNat).length < s.mach.mscWays (homeOf (p.line.toNat * 64)) →
    Does (.wbDirty p) s (fun m =>
      m.mscLine p.line.toNat = some ⟨g.data, true, g.poison, eTenant (s.mach.entry (pageOf (p.line.toNat * 64)))⟩ ∧ TblBut s.dev.msc [p.line.toNat] m.msc ∧
      (m.filter.find p.line.toNat).map (fun x => (x.st, x.pres, x.tenant)) = some (if e.st = .x then .x else .s, e.pres, e.tenant) ∧
      TblBut s.dev.filter [p.line.toNat] m.filter ∧ Touched s p.line.toNat m ∧
      RegsBut s [R.HOME_SF_STATUS_OCCUPIED.bits (homeOf (p.line.toNat * 64)), whole (R.MSC_OCC_CLEAN.key (homeOf (p.line.toNat * 64)))] m ∧
      m = { s.mach with
        regs := m.regs, filter := m.filter, msc := m.msc, pmap := m.pmap, mapDirty := m.mapDirty, tierq := m.tierq
        net := s.dev.net.erase g ++ [{ k := .wbAck, src := agentHome (homeOf (p.line.toNat * 64)), dst := p.src.val, line := p.line.toNat, st := g.st, aux := 1 }] })) ∧
  (∀ (s : State) (p : Packet) (g : Msg) (k : MsgK) (i : Instr), AtHome s p.line.toNat → BedPage s p.line.toNat → isDie p.src.val = true →
    (i, k) ∈ [(Instr.wbDirty p, if p.flag then MsgK.wbKeep else .wbDirty)] → Flies s k p g → (s.dev.filter.find p.line.toNat = none ∨
      s.mach.isH2 = false ∧ (if p.flag then s.mach.snoopElse p.src.val p.line.toNat else s.mach.snoopOut p.src.val p.line.toNat) = true) →
    Does i s (fun m =>
      m.get R.HOME_SF_COUNTS_STALE (homeOf (p.line.toNat * 64)) = (s.mach.get R.HOME_SF_COUNTS_STALE (homeOf (p.line.toNat * 64)) + 1) % 2 ^ 32 ∧
      RegsBut s [R.HOME_SF_COUNTS_STALE.bits (homeOf (p.line.toNat * 64)), R.MSC_OFFERS_OFFERED.bits (homeOf (p.line.toNat * 64))] m ∧ Touched s p.line.toNat m ∧
      m = { s.mach with
        regs := m.regs, pmap := m.pmap, mapDirty := m.mapDirty, tierq := m.tierq
        net := s.dev.net.erase g ++ [{ k := .wbAck, src := agentHome (homeOf (p.line.toNat * 64)), dst := p.src.val, line := p.line.toNat, st := g.st, flag := true, aux := (k == .wbKeep).toNat }] })) ∧
  (∀ (s : State) (p : Packet) (g : Msg) (x : DieLine), s.mach.homeUp = true → Idle s → isDie p.dst.val = true → s.mach.dieUp p.dst.val = true →
    Flies s .wbAck p g → g.aux = 0 → x = s.mach.dl p.dst.val p.line.toNat → x.st ∈ [LSt.mia, .oia, .eia, .sia] → x.wait = [] → x.snq = [] →
    Does (.wbAck p) s (fun m =>
      m.dl p.dst.val p.line.toNat = noLine ∧ (∀ d l, l < 2 ^ 42 → ¬(d = p.dst.val ∧ l = p.line.toNat) → m.dl d l = s.mach.dl d l) ∧
      m = { s.mach with lines := m.lines, net := s.dev.net.erase g })) ∧
  (∀ (s : State) (p : Packet) (g : Msg) (x : DieLine), s.mach.homeUp = true → Idle s → isDie p.dst.val = true → s.mach.dieUp p.dst.val = true →
    Flies s .wbAck p g → g.aux = 1 → x = s.mach.dl p.dst.val p.line.toNat → x.st ≠ .i → x.wait = [] →
    Does (.wbAck p) s (fun m =>
      m.dl p.dst.val p.line.toNat = { x with st := if g.flag = true ∧ x.st = .e then .m else if g.flag = false ∧ g.st = .o ∧ x.st = .o then .s else x.st } ∧
      (∀ d l, l < 2 ^ 42 → ¬(d = p.dst.val ∧ l = p.line.toNat) → m.dl d l = s.mach.dl d l) ∧
      m = { s.mach with lines := m.lines, net := s.dev.net.erase g })) ∧
  (∀ (s : State) (p : Packet) (g : Msg) (a k : Nat), AtHome s p.line.toNat → BedPage s p.line.toNat → Flies s .durWb p g → g.poison = false → g.aux < 384 →
    eDur (s.mach.entry (pageOf (p.line.toNat * 64))) = true → s.mach.mirrorFed = false → s.mach.acceptMode ∈ [3, 7] → s.mach.mode = s.mach.acceptMode →
    (s.mach.mscInSet p.line.toNat).length < s.mach.mscWays (homeOf (p.line.toNat * 64)) →
    a = bedLda (eLoc (s.mach.entry (pageOf (p.line.toNat * 64)))) (p.line.toNat * 64) → k = g.aux * 4 + homeOf (p.line.toNat * 64) →
    Does (.durWb p) s (fun m =>
      m.lineAt a = g.data ∧ WritesOnly s (fun x => a ≤ x ∧ x < a + 64) m ∧ m.metaOf a = ⟨false, [], some (s.mach.bedEnc (p.line.toNat * 64))⟩ ∧
      TblBut s.dev.lineMeta [a / 64] m.lineMeta ∧
      m.mscLine p.line.toNat = some ⟨g.data, false, false, eTenant (s.mach.entry (pageOf (p.line.toNat * 64)))⟩ ∧ TblBut s.dev.msc [p.line.toNat] m.msc ∧
      m.durGot.getD k 0 = s.dev.durGot.getD k 0 + 1 ∧ TblBut s.dev.durGot [k] m.durGot ∧ m.durAcc.getD k 0 = s.dev.durAcc.getD k 0 + 1 ∧
      TblBut s.dev.durAcc [k] m.durAcc ∧ TblBut s.dev.slots [s.mach.memSlot (pageOf (p.line.toNat * 64)) (p.line.toNat % 64)] m.slots ∧
      RegsBut s [whole (R.MSC_OCC_CLEAN.key (homeOf (p.line.toNat * 64)))] m ∧ Touched s p.line.toNat m ∧
      m = { s.mach with
        pmap := m.pmap, mapDirty := m.mapDirty, tierq := m.tierq
        regs := m.regs, msc := m.msc, wr := m.wr, lineMeta := m.lineMeta, slots := m.slots, errs := m.errs
        durGot := m.durGot, durAcc := m.durAcc
        net := s.dev.net.erase g ++ [{ k := .cmp, src := agentHome (homeOf (p.line.toNat * 64)), dst := g.src, line := p.line.toNat, n := 2, aux := g.aux }] })) ∧
  (∀ (s : State) (p : Packet) (g : Msg) (k : Nat), s.mach.homeUp = true → Idle s → Flies s .durSync p g → k = g.aux * 4 + g.dst % 4 →
    s.dev.durGot.getD k 0 = g.n → s.dev.durAcc.getD k 0 = g.n →
    Does (.durSync p) s (fun m =>
      m = { s.mach with
        durGot := s.dev.durGot.erase k, durAcc := s.dev.durAcc.erase k
        net := s.dev.net.erase g ++ [{ k := .cmp, src := agentHome (g.dst % 4), dst := dieOf g.aux, line := 2 ^ 42, n := 3, aux := g.aux }] })) ∧
  (∀ (s : State) (p : Packet) (g : Msg) (k : Nat), s.mach.homeUp = true → Idle s → Flies s .durSync p g → k = g.aux * 4 + g.dst % 4 →
    (s.dev.durGot.getD k 0 ≠ g.n ∨ s.dev.durAcc.getD k 0 ≠ g.n) →
    Does (.durSync p) s (fun m => m = { s.mach with durWaits := [(g.aux, g.dst % 4, g.n)], net := s.dev.net.erase g })) ∧
  (∀ (s : State) (p : Packet) (g : Msg) (x : DieLine), s.mach.homeUp = true → Idle s → isDie p.dst.val = true → Flies s .cmp p g → g.n ∈ [1, 2, 3] → dieOf g.aux = p.dst.val →
    (g.n = 1 → p.line.toNat ∈ (s.mach.core g.aux).maint) → (g.n = 2 → (s.mach.core g.aux).dwPend.contains p.line.toNat = true) → (g.n = 3 → ∃ y ∈ (s.mach.core g.aux).sync, g.src % 4 ∈ y.homes) →
    x = s.mach.dl p.dst.val p.line.toNat → x.snq = [] → x.wait = [] → x.st ≠ .i → bitsOf (s.mach.sreg g.aux 0x101) 0 8 = 0 →
    Does (.cmp p) s (fun m =>
      m.core g.aux = (if g.n = 1 then (if (s.mach.cmoAt g.aux p.line.toNat).isSome = true then
            { s.mach.core g.aux with maint := (s.mach.core g.aux).maint.erase p.line.toNat, flight := [], pc := (s.mach.core g.aux).pc + 4 }
          else { s.mach.core g.aux with maint := (s.mach.core g.aux).maint.erase p.line.toNat })
        else if g.n = 2 then { s.mach.core g.aux with dwl := (s.mach.core g.aux).dwl.filter (· != p.line.toNat), dwPend := (s.mach.core g.aux).dwPend.filter (· != p.line.toNat) }
        else { s.mach.core g.aux with sync := (s.mach.core g.aux).sync.map (fun y => { y with homes := y.homes.erase (g.src % 4) }) }) ∧
      (∀ k, k ≠ g.aux → m.core k = s.mach.core k) ∧
      m.dl p.dst.val p.line.toNat = { x with writers := if g.n = 2 then x.writers.filter (· != g.aux) else x.writers } ∧
      (∀ d l, l < 2 ^ 42 → ¬(d = p.dst.val ∧ l = p.line.toNat) → m.dl d l = s.mach.dl d l) ∧
      m = { s.mach with cores := m.cores, lines := m.lines, net := s.dev.net.erase g }))

/-- R189: an owner answers SnpFwdShared and SnpFwdOwn to the requester with S or M and the INVCOUNT (H2), SnpShared and SnpOwn and SnpInvData to the home, SnpCur with a
copy; it keeps O after the shared ones and its state after SnpCur and loses the line after the others; SnpInv of a holder is answered with InvAck;
SnpClean of M or O is answered with a writeback and leaves E or S. A die whose own request is under way queues the snoop (R190). A snoop in
flight for SNOOP_TIMEOUT is a Fatal error of the home (R204). -/
def Obligations.SnoopsComplete : Prop :=
  (∀ (s : State) (p : Packet) (g : Msg) (k : MsgK) (i : Instr) (x : DieLine), s.mach.homeUp = true → Idle s → NoUncore s → isDie p.dst.val = true →
    s.mach.dieUp p.dst.val = true →
    (i, k) ∈ [(Instr.snpFwdShared p, MsgK.snpFwdShared), (.snpFwdOwn p, .snpFwdOwn), (.snpShared p, .snpShared), (.snpOwn p, .snpOwn), (.snpInv p, .snpInv),
      (.snpInvData p, .snpInvData), (.snpCur p, .snpCur)] → Flies s k p g → g.aux ≠ 1 → x = s.mach.dl p.dst.val p.line.toNat →
    x.writers = [] → x.wait = [] → x.snq = [] → (x.st ∈ [LSt.m, .o, .e] ∨ (k = .snpInv ∧ x.st = .s)) →
    (k ∈ [MsgK.snpFwdShared, .snpFwdOwn] → s.mach.isH2 = true) → (k ∈ [MsgK.snpShared, .snpOwn] → s.mach.isH2 = false) →
    Does i s (fun m =>
      m.dl p.dst.val p.line.toNat =
        (if k ∈ [MsgK.snpFwdShared, .snpShared] then { x with st := .o } else if k = .snpCur then x else noLine) ∧
      (∀ d l, l < 2 ^ 42 → ¬(d = p.dst.val ∧ l = p.line.toNat) → m.dl d l = s.mach.dl d l) ∧
      m = { s.mach with
        lines := m.lines
        net := s.dev.net.erase g ++ [
          if k = .snpFwdShared then { k := .data, src := p.dst.val, dst := g.ackTo, line := p.line.toNat, st := .s, n := g.n, data := x.data, poison := x.poison, aux := x.dur.toNat + 2 * x.tenant }
          else if k = .snpFwdOwn then { k := .data, src := p.dst.val, dst := g.ackTo, line := p.line.toNat, st := .m, n := g.n, data := x.data, poison := x.poison, aux := x.dur.toNat + 2 * x.tenant }
          else if k = .snpInv then { k := .invAck, src := p.dst.val, dst := g.ackTo, line := p.line.toNat }
          else if k = .snpCur then { k := .dataCur, src := p.dst.val, dst := if s.mach.isH2 = true then g.ackTo else agentHome (homeOf (p.line.toNat * 64)), line := p.line.toNat, data := x.data, poison := x.poison }
          else { k := .snpData, src := p.dst.val, dst := agentHome (homeOf (p.line.toNat * 64)), line := p.line.toNat, data := x.data, poison := x.poison }] })) ∧
  (∀ (s : State) (p : Packet) (g : Msg) (x : DieLine), s.mach.homeUp = true → Idle s → NoUncore s → isDie p.dst.val = true → s.mach.dieUp p.dst.val = true →
    Flies s .snpClean p g → x = s.mach.dl p.dst.val p.line.toNat → (x.st = .m ∨ x.st = .o) →
    Does (.snpClean p) s (fun m =>
      m.dl p.dst.val p.line.toNat = { x with st := if x.st = .m then .e else .s } ∧
      (∀ d l, l < 2 ^ 42 → ¬(d = p.dst.val ∧ l = p.line.toNat) → m.dl d l = s.mach.dl d l) ∧
      m = { s.mach with
        lines := m.lines
        net := s.dev.net.erase g ++ [{ k := .wbKeep, src := p.dst.val, dst := agentHome (homeOf (p.line.toNat * 64)), line := p.line.toNat, data := x.data, poison := x.poison }] })) ∧
  (∀ (s : State) (p : Packet) (g : Msg) (k : MsgK) (i : Instr) (x : DieLine), s.mach.homeUp = true → Idle s → NoUncore s → isDie p.dst.val = true →
    s.mach.dieUp p.dst.val = true →
    (i, k) ∈ [(Instr.snpFwdShared p, MsgK.snpFwdShared), (.snpFwdOwn p, .snpFwdOwn), (.snpShared p, .snpShared), (.snpOwn p, .snpOwn), (.snpInv p, .snpInv),
      (.snpInvData p, .snpInvData), (.snpCur p, .snpCur), (.snpClean p, .snpClean)] → Flies s k p g → x = s.mach.dl p.dst.val p.line.toNat →
    (x.st = .isd ∨ x.st = .imd) →
    Does i s (fun m =>
      m.dl p.dst.val p.line.toNat = { x with snq := x.snq ++ [g] } ∧
      (∀ d l, l < 2 ^ 42 → ¬(d = p.dst.val ∧ l = p.line.toNat) → m.dl d l = s.mach.dl d l) ∧
      m = { s.mach with lines := m.lines, net := s.dev.net.erase g })) ∧
  (∀ (s : State) (die : Fin 12) (line : BitVec 42) (g : Msg), g ∈ s.dev.net → isSnoop g.k = true → g.dst = die.val → g.line = line.toNat →
    Does (.snoopTimeout die line) s (fun m =>
      m = { s.mach with errs := [⟨12, .home, homeOf (line.toNat * 64), E.HOME_SNOOP_TIMEOUT.bit, sevFatal, some (line.toNat * 64), 0, none, false⟩] }))

/-- R191: Data and Grant give the requester its granted state once the counted InvAcks are in, and the one access that waits for the line is performed; an
InvAck is counted at the die or at the home. R189, R195: a copy that reaches the home completes the transaction that asked for it; DataCur
reaches the agent that read. CmpAck ends an H1 transaction (R193). A Refuse of a speculative request drops the access, to be sent again
without SPEC (R198); that of another load takes the exception of its cause (R197), and so does the cache maintenance instruction whose Flush is refused, with its own address and pc (R127, R144). -/
def Obligations.AnswersComplete : Prop :=
  (∀ (s : State) (p : Packet) (g : Msg) (x : DieLine), s.mach.homeUp = true → Idle s → isDie p.dst.val = true → s.mach.dieUp p.dst.val = true →
    Flies s .data p g → x = s.mach.dl p.dst.val p.line.toNat → (x.st = .isd ∨ x.st = .imd) → x.got = false → x.wait = [] → x.snq = [] → x.pf = [] → x.pf3 = false →
    g.st ∈ [LSt.s, .e, .m, .o] → g.n ≤ x.acks →
    Does (.dataMsg p) s (fun m =>
      m.dl p.dst.val p.line.toNat = { x with st := g.st, data := g.data, poison := g.poison, dur := g.aux % 2 == 1, tenant := g.aux / 2 % 2 ^ 11, got := false, granted := .i, need := 0, acks := 0, merged := 0, writers := [] } ∧
      (∀ d l, l < 2 ^ 42 → ¬(d = p.dst.val ∧ l = p.line.toNat) → m.dl d l = s.mach.dl d l) ∧
      m = { s.mach with lines := m.lines, net := s.dev.net.erase g ++ (if s.mach.isH2 = true then [] else [{ k := .cmpAck, src := p.dst.val, dst := agentHome (homeOf (p.line.toNat * 64)), line := p.line.toNat }]) })) ∧
  (∀ (s : State) (p : Packet) (g : Msg) (x : DieLine) (c : Cid) (rd lg va ilen : Nat) (kind : LoadKind) (acq : Bool) (l : List Nat), s.mach.homeUp = true → Idle s → isDie p.dst.val = true →
    s.mach.dieUp p.dst.val = true → Flies s .data p g → x = s.mach.dl p.dst.val p.line.toNat → x.st = .isd → x.got = false → x.snq = [] → c.die.val = p.dst.val →
    kind ∈ [LoadKind.data, .speculative] → x.wait = [(cidOf c, .load rd lg va kind ilen acq)] → g.st ∈ [LSt.s, .e] → g.n ≤ x.acks → g.poison = false →
    (s.mach.core (cidOf c)).flight = [⟨.load rd lg va kind ilen acq, .waiting l⟩] → (l = [] ∨ l = [p.line.toNat]) → s.mach.sreg (cidOf c) 0x041 % 2 = 0 →
    (s.mach.core (cidOf c)).sb = [] → lg ≤ 3 → va < 0xFF0000000000 → va % 2 ^ lg = 0 → s.mach.managed va = true → va / 64 = p.line.toNat →
    s.mach.dirRoom p.dst.val p.line.toNat = true → s.mach.l2Room p.dst.val p.line.toNat c.core.val = true →
    Does (.dataMsg p) s (fun m =>
      m.gpr (cidOf c) rd = bitsOf g.data.toNat (8 * (va % 64)) (8 * 2 ^ lg) ∧ (∀ j, j ≠ rd → m.gpr (cidOf c) j = s.mach.gpr (cidOf c) j) ∧
      (m.core (cidOf c)).pc = (s.mach.core (cidOf c)).pc + BitVec.ofNat 64 ilen ∧ (m.core (cidOf c)).flight = [] ∧ (m.core (cidOf c)).sb = [] ∧
      (m.dl p.dst.val p.line.toNat).st = g.st ∧ (m.dl p.dst.val p.line.toNat).data = g.data ∧ (m.dl p.dst.val p.line.toNat).wait = [] ∧
      c.core.val ∈ (m.dl p.dst.val p.line.toNat).l2)) ∧
  (∀ (s : State) (p : Packet) (g : Msg) (x : DieLine), s.mach.homeUp = true → Idle s → isDie p.dst.val = true → s.mach.dieUp p.dst.val = true →
    Flies s .grant p g → x = s.mach.dl p.dst.val p.line.toNat → x.st = .smd → x.got = false → x.granted ≠ .i → x.wait = [] → x.snq = [] → x.pf = [] → x.pf3 = false →
    Does (.grant p) s (fun m =>
      m.dl p.dst.val p.line.toNat =
        (if g.n ≤ x.acks then { x with st := .m, dur := g.aux % 2 == 1, tenant := g.aux / 2 % 2 ^ 11, got := false, granted := .i, need := 0, acks := 0, merged := 0 }
         else { x with got := true, granted := .m, need := g.n, dur := g.aux % 2 == 1, tenant := g.aux / 2 % 2 ^ 11 }) ∧
      (∀ d l, l < 2 ^ 42 → ¬(d = p.dst.val ∧ l = p.line.toNat) → m.dl d l = s.mach.dl d l) ∧
      m = { s.mach with lines := m.lines, net := s.dev.net.erase g ++ (if s.mach.isH2 = true ∨ x.acks < g.n then [] else
          [{ k := .cmpAck, src := p.dst.val, dst := agentHome (homeOf (p.line.toNat * 64)), line := p.line.toNat }]) })) ∧
  (∀ (s : State) (p : Packet) (g : Msg) (x : DieLine), s.mach.homeUp = true → Idle s → isDie p.dst.val = true → Flies s .invAck p g →
    x = s.mach.dl p.dst.val p.line.toNat → (x.st = .imd ∨ x.st = .smd) → x.got = false →
    Does (.invAck p) s (fun m =>
      m.dl p.dst.val p.line.toNat = { x with acks := x.acks + 1 } ∧ (∀ d l, l < 2 ^ 42 → ¬(d = p.dst.val ∧ l = p.line.toNat) → m.dl d l = s.mach.dl d l) ∧
      m = { s.mach with lines := m.lines, net := s.dev.net.erase g })) ∧
  (∀ (s : State) (p : Packet) (g : Msg) (t : HTx), s.mach.homeUp = true → Idle s → 72 ≤ p.dst.val → Flies s .invAck p g →
    s.dev.hq = [] → s.dev.htx.find? (fun t => t.req.line == p.line.toNat && t.acks.contains p.src.val) = some t → t.acks.erase p.src.val ≠ [] →
    Does (.invAck p) s (fun m =>
      m = { s.mach with htx := s.dev.htx.map (fun x => if x = t then { t with acks := t.acks.erase p.src.val } else x), net := s.dev.net.erase g })) ∧
  (∀ (s : State) (p : Packet) (g : Msg) (t : HTx), s.mach.homeUp = true → Idle s → s.mach.isH2 = false → p.flag = false → 72 ≤ p.dst.val →
    (∀ x ∈ s.dev.net, ¬(x.k = .snpNone ∧ x.src = p.src.val ∧ x.line = p.line.toNat)) → Flies s .snpData p g → s.dev.htx = [t] → t.req.line = p.line.toNat →
    t.want = some p.src.val → t.data = none → t.acks = [] → t.cmpAck = false → t.fill = 0 → t.defer = false → (t.req.k = .rdShared ∨ t.req.k = .rdOwn) → t.req.prefetch = false →
    Does (.snpData p) s (fun m =>
      m = { s.mach with
        htx := [{ t with data := some (g.data, g.poison), cmpAck := true }]
        net := s.dev.net.erase g ++ [{ k := .data, src := agentHome (homeOf (p.line.toNat * 64)), dst := t.req.src, line := p.line.toNat, st := t.grant, n := t.inv, data := g.data
                                       poison := g.poison, aux := (eDur (s.mach.entry (pageOf (p.line.toNat * 64)))).toNat + 2 * eTenant (s.mach.entry (pageOf (p.line.toNat * 64))) }] })) ∧
  (∀ (s : State) (p : Packet) (g : Msg), s.mach.homeUp = true → Idle s → Flies s .dataCur p g → 12 ≤ p.dst.val → p.dst.val < 72 →
    Does (.dataCur p) s (fun m => m = { s.mach with net := s.dev.net.erase g })) ∧
  (∀ (s : State) (p : Packet) (g : Msg) (t : HTx), s.mach.homeUp = true → Idle s → Flies s .dataCur p g → 72 ≤ p.dst.val → s.dev.htx = [t] → t.req.line = p.line.toNat →
    t.want = some p.src.val → t.data = none → t.acks = [] → t.cmpAck = false → t.fill = 0 → t.defer = false → t.req.k = .rdCur →
    Does (.dataCur p) s (fun m =>
      m = { s.mach with
        htx := []
        net := s.dev.net.erase g ++ [{ k := .dataCur, src := agentHome (homeOf (p.line.toNat * 64)), dst := t.req.src, line := p.line.toNat, data := g.data, poison := g.poison }] })) ∧
  (∀ (s : State) (p : Packet) (g : Msg) (t : HTx), s.mach.homeUp = true → Idle s → Flies s .cmpAck p g →
    s.dev.htx.find? (fun t => t.req.line == p.line.toNat && t.cmpAck && t.req.src == p.src.val) = some t →
    Does (.cmpAck p) s (fun m => m = { s.mach with htx := s.dev.htx.erase t, net := s.dev.net.erase g })) ∧
  (∀ (s : State) (p : Packet) (g : Msg) (x : DieLine) (c : Cid) (rd lg va ilen : Nat) (acq : Bool), s.mach.homeUp = true → Idle s → isDie p.dst.val = true → s.mach.dieUp p.dst.val = true →
    Flies s .refuse p g → g.aux = 0 → x = s.mach.dl p.dst.val p.line.toNat → x.st = .isd → x.snq = [] → c.die.val = p.dst.val → x.wait = [(cidOf c, .load rd lg va .speculative ilen acq)] →
    (s.mach.core (cidOf c)).flight = [⟨.load rd lg va .speculative ilen acq, .waiting [p.line.toNat]⟩] → NoCount s c → s.mach.sreg (cidOf c) 0x041 % 2 = 0 → lg ≤ 3 →
    va < 0xFF0000000000 → va % 2 ^ lg = 0 → s.mach.managed va = true → va / 64 = p.line.toNat →
    Does (.refuse p) s (fun m =>
      m.dl p.dst.val p.line.toNat = noLine ∧ (∀ d l, l < 2 ^ 42 → ¬(d = p.dst.val ∧ l = p.line.toNat) → m.dl d l = s.mach.dl d l) ∧
      m.core (cidOf c) = { s.mach.core (cidOf c) with flight := [⟨.load rd lg va .speculative ilen acq, .dropped⟩] } ∧
      (∀ k, k ≠ cidOf c → m.core k = s.mach.core k) ∧
      m = { s.mach with lines := m.lines, cores := m.cores, net := s.dev.net.erase g })) ∧
  (∀ (s : State) (p : Packet) (g : Msg) (x : DieLine) (c : Cid) (rd lg va ilen : Nat) (acq : Bool) (f : Flt), s.mach.homeUp = true → Idle s → isDie p.dst.val = true → s.mach.dieUp p.dst.val = true →
    Flies s .refuse p g → g.aux = 0 → x = s.mach.dl p.dst.val p.line.toNat → x.st = .isd → x.snq = [] → c.die.val = p.dst.val → x.wait = [(cidOf c, .load rd lg va .data ilen acq)] →
    (s.mach.core (cidOf c)).flight = [⟨.load rd lg va .data ilen acq, .waiting [p.line.toNat]⟩] → NoCount s c → s.mach.sreg (cidOf c) 0x041 % 2 = 0 → lg ≤ 3 →
    va < 0xFF0000000000 → va % 2 ^ lg = 0 → s.mach.managed va = true → va / 64 = p.line.toNat → g.flag = false → g.n ∈ [1, 2, 3, 4] →
    f = (if g.n = 1 then fPerm 7 else ⟨0x0C, if g.n = 2 then 4 else if g.n = 3 then 2 else 3, homeOf (p.line.toNat * 64)⟩) → (s.mach.core (cidOf c)).sb = [] →
    s.mach.hon R.HDR_STATUS_COMMIT_PENDING .core c.core.val c.die.val = false →
    Does (.refuse p) s (fun m =>
      m.dl p.dst.val p.line.toNat = noLine ∧ (m.core (cidOf c)).flight = [] ∧ (m.core (cidOf c)).pl = s.mach.excLevel (cidOf c) f.cls ∧
      m.pcOf (cidOf c) = (s.mach.sreg (cidOf c) (0x10 * s.mach.excLevel (cidOf c) f.cls) + f.cls * 2 ^ 7) % 2 ^ 64 ∧
      m.sreg (cidOf c) (0x10 * s.mach.excLevel (cidOf c) f.cls + 1) = s.mach.pcOf (cidOf c) ∧
      m.sreg (cidOf c) (0x10 * s.mach.excLevel (cidOf c) f.cls + 2) = syndrome f true (some ⟨va, true, lg, false, false⟩) (s.mach.core (cidOf c)).pl % 2 ^ 64 ∧
      m.sreg (cidOf c) (0x10 * s.mach.excLevel (cidOf c) f.cls + 3) = va ∧ (m.core (cidOf c)).g = (s.mach.core (cidOf c)).g ∧
      (∀ k, k ≠ cidOf c → m.core k = s.mach.core k) ∧ m = { s.mach with lines := m.lines, cores := m.cores, tlbis := m.tlbis, net := s.dev.net.erase g })) ∧
  (∀ (s : State) (p : Packet) (g : Msg) (x : DieLine) (c : Cid) (op a lvl : Nat) (l : List Nat) (f : Flt), s.mach.homeUp = true → Idle s → isDie p.dst.val = true →
    Flies s .refuse p g → g.aux = cidOf c + 1 → (s.mach.core (cidOf c)).flight = [⟨.cmo op a, .waiting (p.line.toNat :: l)⟩] → p.line.toNat ∈ (s.mach.core (cidOf c)).maint →
    x = s.mach.dl p.dst.val p.line.toNat → x.snq = [] → x.wait = [] → NoCount s c → g.n ∈ [1, 2, 3, 4] →
    f = (if g.n = 1 then fPerm 7 else ⟨0x0C, if g.n = 2 then 4 else if g.n = 3 then 2 else 3, homeOf (p.line.toNat * 64)⟩) → lvl = s.mach.excLevel (cidOf c) f.cls →
    (s.mach.core (cidOf c)).sb = [] → s.mach.hon R.HDR_STATUS_COMMIT_PENDING .core c.core.val c.die.val = false →
    Does (.refuse p) s (fun m =>
      (m.core (cidOf c)).maint = (s.mach.core (cidOf c)).maint.erase p.line.toNat ∧ (m.core (cidOf c)).flight = [] ∧ (m.core (cidOf c)).pl = lvl ∧
      m.pcOf (cidOf c) = (s.mach.sreg (cidOf c) (0x10 * lvl) + f.cls * 2 ^ 7) % 2 ^ 64 ∧ m.sreg (cidOf c) (0x10 * lvl + 1) = s.mach.pcOf (cidOf c) ∧
      m.sreg (cidOf c) (0x10 * lvl + 2) =
        syndrome f true (some ⟨s.mach.gpr (cidOf c) a, s.mach.sreg (cidOf c) 0x041 % 2 == 0, 0, false, false⟩) (s.mach.core (cidOf c)).pl % 2 ^ 64 ∧
      m.sreg (cidOf c) (0x10 * lvl + 3) = s.mach.gpr (cidOf c) a ∧ (m.core (cidOf c)).g = (s.mach.core (cidOf c)).g ∧
      (∀ k, k ≠ cidOf c → m.core k = s.mach.core k) ∧ m = { s.mach with lines := m.lines, cores := m.cores, tlbis := m.tlbis, net := s.dev.net.erase g }))

/-- R164 and R181: a line that leaves a die is offered to the MSC, as a writeback where it is dirty and as an Evict with OFFER where it is clean; a clean line that leaves an L2 and is predicted dead is declined where DEAD_EN is set, leaving the die; one that is not declined goes to a way of the L3 slice. R172 and R173: PRUNE_REQ asks for way groups; the lowest that differs is done next,
counted and reported once no writeback of the slice is open. R201: SWEEP starts a back-invalidation for each filter entry of the tenant, and ends when none is left. R157: RANGE_INV
names the set whose caches are to drop it, which RANGE_INV_DONE ends once no access translated before is held (log 95).
The clauses say too where such a command changes nothing. -/
def Obligations.CachesSweepsAndRangeSets : Prop :=
  (∀ (s : State) (src : Src), MayWrite s src 12 .ten 0 →
    Does (.rangeInv src) s (fun m => m = { s.mach with rinv := s.dev.rinv ++ [s.mach.get R.TEN_RSET_SEL_SET] })) ∧
  (∀ (s : State) (set : BitVec 12), s.dev.rinv.contains set.toNat = true → s.mach.rangeHeld = false →
    Does (.rangeInvDone set) s (fun m =>
      m = { s.mach with rinv := s.dev.rinv.erase set.toNat, rstale := m.rstale } ∧
      (∀ k, m.rstale.find k = if k / 8 = set.toNat ∧ (s.dev.rinv.erase set.toNat).contains set.toNat = false then none else s.dev.rstale.find k))) ∧
  (∀ (s : State) (set : BitVec 12), (s.mach.rangeHeld = true ∨ s.dev.rinv.contains set.toNat = false) →
    Does (.rangeInvDone set) s (fun m => m = s.mach)) ∧
  (∀ (s : State) (die : Fin 12) (line : BitVec 42) (x : DieLine) (st : LSt) (g : Msg), s.mach.homeUp = true → s.mach.dieUp die.val = true →
    x = s.mach.dl die.val line.toNat → x.l3 ≠ none → x.l2 = [] → x.writers = [] → s.mach.flushing die.val line.toNat = false →
    (x.st, st, g) ∈ [(LSt.m, LSt.mia, ({ k := .wbDirty, src := die.val, dst := agentHome (homeOf (line.toNat * 64)), line := line.toNat, data := x.data, poison := x.poison } : Msg)),
      (.o, .oia, { k := .wbDirty, src := die.val, dst := agentHome (homeOf (line.toNat * 64)), line := line.toNat, data := x.data, poison := x.poison }),
      (.e, .eia, { k := .evict, src := die.val, dst := agentHome (homeOf (line.toNat * 64)), line := line.toNat, data := x.data, poison := x.poison, flag := true }),
      (.s, .sia, { k := .evict, src := die.val, dst := agentHome (homeOf (line.toNat * 64)), line := line.toNat, data := x.data, poison := x.poison, flag := true })] →
    Does (.evictionOffer die line .msc) s (fun m =>
      m.dl die.val line.toNat = { x with st := st, l1 := [], l3 := none } ∧ (∀ d l, l < 2 ^ 42 → ¬(d = die.val ∧ l = line.toNat) → m.dl d l = s.mach.dl d l) ∧
      m = { s.mach with lines := m.lines, net := s.dev.net ++ [g] })) ∧
  (∀ (s : State) (die : Fin 12) (line : BitVec 42) (core : Fin 20) (way : Fin 16) (x : DieLine), s.mach.homeUp = true → s.mach.dieUp die.val = true → NoUncore s →
    x = s.mach.dl die.val line.toNat → x.st ∈ [LSt.m, .o, .e, .s] → core.val ∈ x.l2 → 32 * die.val + core.val ∉ x.writers →
    x.l3 = none → s.mach.l3Holds die.val line.toNat way.val = none → s.mach.wayOpen die.val (l3Slice line.toNat) way.val = true →
    Does (.evictionOffer die line (.l3 core way false false)) s (fun m =>
      m.dl die.val line.toNat = { x with l1 := x.l1.filter (fun k => k.1 != core.val), l2 := x.l2.filter (· != core.val), l3 := some way.val } ∧
      (∀ d l, l < 2 ^ 42 → ¬(d = die.val ∧ l = line.toNat) → m.dl d l = s.mach.dl d l) ∧
      m.get R.L3_OFFERS_OFFERED (l3Slice line.toNat) die.val = (s.mach.get R.L3_OFFERS_OFFERED (l3Slice line.toNat) die.val + 1) % 2 ^ 32 ∧
      m.get R.L3_OFFERS_DECLINED (l3Slice line.toNat) die.val = s.mach.get R.L3_OFFERS_DECLINED (l3Slice line.toNat) die.val ∧
      RegsBut s [R.L3_OFFERS_OFFERED.bits (l3Slice line.toNat) die.val] m ∧ m = { s.mach with regs := m.regs, lines := m.lines })) ∧
  (∀ (s : State) (die : Fin 12) (line : BitVec 42) (o : OfferTo), s.mach.homeUp = false ∨ s.mach.dieUp die.val = false ∨ (s.mach.dl die.val line.toNat).st = .i →
    Leaves (.evictionOffer die line o) s s.mach) ∧
  (∀ (s : State) (die : Fin 12) (line : BitVec 42) (core : Fin 20) (way : Fin 16) (x : DieLine), s.mach.homeUp = true → s.mach.dieUp die.val = true → NoUncore s →
    x = s.mach.dl die.val line.toNat → x.st ∈ [LSt.e, .s] → x.l2 = [core.val] → x.writers = [] → x.l3 = none → s.mach.act R.L3_POLICY_DEAD_EN (l3Slice line.toNat) die.val = 1 →
    s.mach.flushing die.val line.toNat = false →
    Does (.evictionOffer die line (.l3 core way true false)) s (fun m =>
      m.dl die.val line.toNat = { x with st := if x.st = .e then .eia else .sia, l1 := [], l2 := [], l3 := none } ∧
      (∀ d l, l < 2 ^ 42 → ¬(d = die.val ∧ l = line.toNat) → m.dl d l = s.mach.dl d l) ∧
      m.get R.L3_OFFERS_OFFERED (l3Slice line.toNat) die.val = (s.mach.get R.L3_OFFERS_OFFERED (l3Slice line.toNat) die.val + 1) % 2 ^ 32 ∧
      m.get R.L3_OFFERS_DECLINED (l3Slice line.toNat) die.val = (s.mach.get R.L3_OFFERS_DECLINED (l3Slice line.toNat) die.val + 1) % 2 ^ 32 ∧
      RegsBut s [R.L3_OFFERS_OFFERED.bits (l3Slice line.toNat) die.val, R.L3_OFFERS_DECLINED.bits (l3Slice line.toNat) die.val] m ∧
      m = { s.mach with
        regs := m.regs, lines := m.lines
        net := s.dev.net ++ [{ k := .evict, src := die.val, dst := agentHome (homeOf (line.toNat * 64)), line := line.toNat, data := x.data, poison := x.poison }] })) ∧
  (∀ (s : State) (src : Src) (die : Fin 12) (slice : Fin 20) (value : Word), MayWrite s src die.val .l3 slice.val → s.dev.pruning.find (die.val * 64 + slice.val) = none →
    Does (.pruneReqWrite src die slice value) s (fun m =>
      m.get R.L3_PRUNE_REQ_GROUPS slice.val die.val = bitsOf value.toNat 1 3 ∧
      m.get R.L3_PRUNE_STATUS_BUSY slice.val die.val = (if bitsOf value.toNat 1 3 = s.mach.get R.L3_PRUNE_STATUS_PRUNED slice.val die.val then 0 else 1) ∧
      m.get R.L3_PRUNE_STATUS_PRUNED slice.val die.val = s.mach.get R.L3_PRUNE_STATUS_PRUNED slice.val die.val ∧
      m.get R.L3_PRUNE_STATUS_DONE_COUNT slice.val die.val = s.mach.get R.L3_PRUNE_STATUS_DONE_COUNT slice.val die.val ∧
      (∀ x ∈ m.pruning.find (die.val * 64 + slice.val), (1 ≤ x.1 ∧ x.1 ≤ 3) ∧ x.2 = (value.toNat / 2 ^ x.1 % 2 == 1) ∧
        x.2 ≠ (s.mach.get R.L3_PRUNE_STATUS_PRUNED slice.val die.val / 2 ^ (x.1 - 1) % 2 == 1)) ∧
      TblBut s.dev.pruning [die.val * 64 + slice.val] m.pruning ∧
      RegsBut s [R.L3_PRUNE_REQ_GROUPS.bits slice.val die.val, whole (R.L3_PRUNE_STATUS_BUSY.key slice.val die.val)] m ∧
      m = { s.mach with regs := m.regs, pruning := m.pruning })) ∧
  (∀ (s : State) (src : Src) (die : Fin 12) (slice : Fin 20) (value : Word), MayWrite s src die.val .l3 slice.val → s.dev.pruning.find (die.val * 64 + slice.val) ≠ none →
    Does (.pruneReqWrite src die slice value) s (fun m =>
      m.get R.L3_PRUNE_REQ_GROUPS slice.val die.val = bitsOf value.toNat 1 3 ∧ OnlyRegs s [R.L3_PRUNE_REQ_GROUPS.bits slice.val die.val] m)) ∧
  (∀ (s : State) (die : Fin 12) (slice : Fin 20) (g pr : Nat) (down : Bool), s.mach.dieUp die.val = true → s.dev.pruning.find (die.val * 64 + slice.val) = some (g, down) →
    (1 ≤ g ∧ g ≤ 3) → pr = s.mach.get R.L3_PRUNE_STATUS_PRUNED slice.val die.val → pr / 2 ^ (g - 1) % 2 = (!down).toNat →
    (down = true → s.mach.groupLines die.val slice.val g = [] ∧ s.mach.sliceBusy die.val slice.val = false) →
    Does (.pruneGroupDone die slice) s (fun m =>
      m.get R.L3_PRUNE_STATUS_PRUNED slice.val die.val = (if down = true then pr + 2 ^ (g - 1) else pr - 2 ^ (g - 1)) ∧
      m.get R.L3_PRUNE_STATUS_DONE_COUNT slice.val die.val = (s.mach.get R.L3_PRUNE_STATUS_DONE_COUNT slice.val die.val + 1) % 2 ^ 16 ∧
      m.get R.L3_PRUNE_STATUS_BUSY slice.val die.val =
        (if s.mach.get R.L3_PRUNE_REQ_GROUPS slice.val die.val = m.get R.L3_PRUNE_STATUS_PRUNED slice.val die.val then 0 else 1) ∧
      TblBut s.dev.pruning [die.val * 64 + slice.val] m.pruning ∧ RegsBut s [whole (R.L3_PRUNE_STATUS_BUSY.key slice.val die.val)] m ∧
      m = { s.mach with
        regs := m.regs, pruning := m.pruning
        evs := [⟨6, 2, die.val, .l3, slice.val, none, m.reg (R.L3_PRUNE_STATUS_BUSY.key slice.val die.val), 0⟩] })) ∧
  (∀ (s : State) (die : Fin 12) (slice : Fin 20) (g l : Nat) (x : DieLine), s.mach.dieUp die.val = true → s.dev.pruning.find (die.val * 64 + slice.val) = some (g, true) →
    s.mach.groupLines die.val slice.val g = [l] → x = s.mach.dl die.val l → x.l2 = [] → x.st ∈ [LSt.m, .o, .e, .s] → x.writers = [] → s.mach.flushing die.val l = false → l < 2 ^ 42 →
    Does (.pruneGroupDone die slice) s (fun m =>
      m.dl die.val l = { x with st := if x.st = .m then .mia else if x.st = .o then .oia else if x.st = .e then .eia else .sia, l1 := [], l3 := none } ∧
      (∀ d k, k < 2 ^ 42 → ¬(d = die.val ∧ k = l) → m.dl d k = s.mach.dl d k) ∧
      m = { s.mach with
        lines := m.lines
        net := s.dev.net ++ [{ k := if x.st = .m ∨ x.st = .o then .wbDirty else .evict, src := die.val, dst := agentHome (homeOf (l * 64)), line := l
                               data := x.data, poison := x.poison }] })) ∧
  (∀ (s : State) (die : Fin 12) (slice : Fin 20), s.mach.dieUp die.val = false ∨ s.dev.pruning.find (die.val * 64 + slice.val) = none ∨
      (∃ g ∈ s.dev.pruning.find (die.val * 64 + slice.val), g.2 = true ∧ s.mach.groupLines die.val slice.val g.1 = [] ∧ s.mach.sliceBusy die.val slice.val = true) →
    Leaves (.pruneGroupDone die slice) s s.mach) ∧
  (∀ (s : State) (src : Src) (q : Fin 4) (t : BitVec 11) (l : Nat) (e : FEnt), MayWrite s src 12 .home q.val → s.mach.get R.HOME_SWEEP_BUSY q.val = 0 →
    s.dev.filter = [(l, e)] → e.tenant = t.toNat → homeOf (l * 64) = q.val → e.st = .s → (∀ x ∈ s.dev.htx, x.req.line ≠ l) →
    Does (.sweepGo src q t) s (fun m =>
      m.get R.HOME_SWEEP_TENANT q.val = t.toNat ∧ m.get R.HOME_SWEEP_BUSY q.val = 1 ∧ m.get R.HOME_SWEEP_LINES q.val = 1 ∧
      m.get R.HOME_SF_COUNTS_BACKINV q.val = (s.mach.get R.HOME_SF_COUNTS_BACKINV q.val + 1) % 2 ^ 32 ∧
      m.get R.HOME_SF_COUNTS_STALE q.val = s.mach.get R.HOME_SF_COUNTS_STALE q.val ∧
      RegsBut s [whole (R.HOME_SWEEP_TENANT.key q.val), R.HOME_SWEEP_LINES.bits q.val, R.HOME_SF_COUNTS_BACKINV.bits q.val] m ∧
      m = { s.mach with
        regs := m.regs, sweeping := s.dev.sweeping.ins q.val t.toNat
        htx := s.dev.htx ++ [⟨{ k := .snpInvData, src := agentHome q.val, line := l }, e.pres, none, none, false, 0, .i, 0, false⟩]
        net := s.dev.net ++ e.pres.map (fun d => { k := .snpInv, src := agentHome q.val, dst := d, line := l, ackTo := agentHome q.val }) })) ∧
  (∀ (s : State) (src : Src) (q : Fin 4) (t : BitVec 11), MayWrite s src 12 .home q.val →
    s.mach.on R.HOME_SWEEP_BUSY q.val = true ∨ (∀ e ∈ s.dev.filter, ¬(homeOf (e.1 * 64) = q.val ∧ e.2.tenant = t.toNat)) →
    Does (.sweepGo src q t) s (fun m =>
      m.get R.HOME_SWEEP_TENANT q.val = t.toNat ∧ m.on R.HOME_SWEEP_BUSY q.val = true ∧
      m.get R.HOME_SWEEP_LINES q.val = (if s.mach.on R.HOME_SWEEP_BUSY q.val = true then s.mach.get R.HOME_SWEEP_LINES q.val else 0) ∧
      RegsBut s [whole (R.HOME_SWEEP_TENANT.key q.val), R.HOME_SWEEP_LINES.bits q.val] m ∧
      m = { s.mach with
        regs := m.regs, sweeping := if s.mach.on R.HOME_SWEEP_BUSY q.val = true then s.dev.sweeping else s.dev.sweeping.ins q.val t.toNat })) ∧
  (∀ (s : State) (q : Fin 4), s.mach.on R.HOME_SWEEP_BUSY q.val = true → Idle s → s.dev.tenCmd = none → s.dev.pair.attaches = [] → s.mach.presented = [] →
    (∀ e ∈ s.dev.filter, ¬(homeOf (e.1 * 64) = q.val ∧ e.2.tenant = s.dev.sweeping.getD q.val 0)) →
    Does (.sweepDone q) s (fun m =>
      m.get R.HOME_SWEEP_BUSY q.val = 0 ∧ m.get R.HOME_SWEEP_TENANT q.val = s.mach.get R.HOME_SWEEP_TENANT q.val ∧ OnlyRegs s [R.HOME_SWEEP_BUSY.bits q.val] m)) ∧
  (∀ (s : State) (q : Fin 4), s.mach.on R.HOME_SWEEP_BUSY q.val = false → Leaves (.sweepDone q) s s.mach) ∧
  (∀ (s : State) (q : Fin 4) (l : Nat) (e : FEnt), s.mach.on R.HOME_SWEEP_BUSY q.val = true → Idle s → s.dev.filter = [(l, e)] → homeOf (l * 64) = q.val →
    e.tenant = s.dev.sweeping.getD q.val 0 → (∃ x ∈ s.dev.htx, x.req.line = l) →
    Leaves (.sweepDone q) s s.mach)

/-- R220, R221 and R227: a read of a line whose codeword is clean returns it to the home, one with the poison pattern returns poison and is counted; a
write encrypts the line, or stores the poison pattern; MemData completes the request that waits. R229: a four-way quadrant whose channel fails
training goes on two-way without that channel and its mate. R226 and R223: ERASE_REQ puts a device under erasure. R231: the loss of a channel
that runs is Fatal. R497: Rake reads the next line of its quarter. Nothing else changes.
The clauses say too where such a command changes nothing. -/
def Obligations.DdrCommandsComplete : Prop :=
  (∀ (s : State) (spa lda : BitVec 48) (a : Nat), NoUncore s → a = lda.toNat / 64 * 64 → s.mach.homeUp = true → s.mach.chanReady a = true → s.mach.inMap a = false →
    s.mach.metaOf a = ⟨false, [], some (s.mach.bedEnc (lineOf spa.toNat))⟩ →
    Does (.memRd spa lda []) s (fun m =>
      (∀ x, m.metaOf x = s.mach.metaOf x) ∧
      m = { s.mach with lineMeta := m.lineMeta, memResp := s.dev.memResp ++ [⟨lineOf spa.toNat, a, .ok (s.mach.lineAt a)⟩] })) ∧
  (∀ (s : State) (spa lda : BitVec 48) (a : Nat), NoUncore s → a = lda.toNat / 64 * 64 → s.mach.homeUp = true → s.mach.chanReady a = true → s.mach.inMap a = false →
    s.mach.metaOf a = ⟨true, [], none⟩ → (∀ i < 8, s.mach.on (R.DDR_ERASE_V.at i) (s.mach.ldaChan a).1 = false) →
    Does (.memRd spa lda []) s (fun m =>
      (∀ x, m.metaOf x = s.mach.metaOf x) ∧
      m.get R.DDR_UE_COUNT_POISON_READS (s.mach.ldaChan a).1 = (s.mach.get R.DDR_UE_COUNT_POISON_READS (s.mach.ldaChan a).1 + 1) % 2 ^ 32 ∧
      m.get R.DDR_UE_COUNT_UNCORRECTABLE (s.mach.ldaChan a).1 = s.mach.get R.DDR_UE_COUNT_UNCORRECTABLE (s.mach.ldaChan a).1 ∧
      RegsBut s [R.DDR_UE_COUNT_POISON_READS.bits (s.mach.ldaChan a).1] m ∧
      m = { s.mach with regs := m.regs, lineMeta := m.lineMeta, memResp := s.dev.memResp ++ [⟨lineOf spa.toNat, a, .poison⟩] })) ∧
  (∀ (s : State) (spa lda : BitVec 48) (data : Line) (poison : Bool) (a : Nat), NoUncore s → a = lda.toNat / 64 * 64 → s.mach.homeUp = true → s.mach.chanReady a = true →
    Does (.memWr spa lda data poison) s (fun m =>
      m.lineAt a = (if poison then 0 else data) ∧ WritesOnly s (fun x => a ≤ x ∧ x < a + 64) m ∧
      m.metaOf a = (if poison then ⟨true, [], none⟩ else ⟨false, [], some (s.mach.bedEnc (lineOf spa.toNat))⟩) ∧ TblBut s.dev.lineMeta [a / 64] m.lineMeta ∧
      TblBut s.dev.slots [s.mach.memSlot (pageOf spa.toNat) (spa.toNat % 4096 / 64)] m.slots ∧
      m = { s.mach with lineMeta := m.lineMeta, slots := m.slots, wr := m.wr, errs := m.errs })) ∧
  (∀ (s : State) (spa lda : BitVec 48) (r : MemResp) (t : HTx) (d : Line), s.mach.homeUp = true → Idle s → s.mach.isH2 = true →
    s.dev.memResp.find? (fun r => r.spa / 64 == spa.toNat / 64 && r.lda / 64 == lda.toNat / 64) = some r → r.res = .ok d →
    s.dev.htx = [t] → t.req.spec = false → t.req.line = spa.toNat / 64 → t.fill = 1 → t.acks = [] → t.want = none → t.defer = false → t.cmpAck = false → (t.req.k = .rdShared ∨ t.req.k = .rdOwn) →
    s.mach.lineLda (spa.toNat / 64) = some (lda.toNat / 64 * 64) → s.mach.mscLine (spa.toNat / 64) = none →
    Does (.memData spa lda) s (fun m =>
      m = { s.mach with
        memResp := s.dev.memResp.erase r
        htx := []
        net := s.dev.net ++ [{ k := .data, src := agentHome (homeOf (spa.toNat / 64 * 64)), dst := t.req.src, line := spa.toNat / 64, st := t.grant, n := t.inv, data := d
                               aux := (eDur (s.mach.entry (pageOf (spa.toNat / 64 * 64)))).toNat + 2 * eTenant (s.mach.entry (pageOf (spa.toNat / 64 * 64))) }] })) ∧
  (∀ (s : State) (spa lda : BitVec 48), s.mach.homeUp = false ∨ s.mach.chanReady (lda.toNat / 64 * 64) = false →
    Leaves (.memRd spa lda []) s s.mach ∧ (∀ (d : Line) (p : Bool), Leaves (.memWr spa lda d p) s s.mach)) ∧
  (∀ (s : State) (spa lda : BitVec 48), s.mach.homeUp = true → s.dev.memResp.find? (fun r => r.spa / 64 == spa.toNat / 64 && r.lda / 64 == lda.toNat / 64) = none →
    Does (.memData spa lda) s (fun m =>
      m = { s.mach with errs := [⟨12, .home, homeOf (spa.toNat / 64 * 64), E.HOME_PROTOCOL.bit, sevFatal, some (spa.toNat / 64 * 64), 0, none, false⟩] })) ∧
  (∀ (s : State) (ch : Fin 16) (ranks : BitVec 4) (c q mate a b : Nat), s.mach.mode = 2 → c = ch.val → s.mach.on R.DDR_TRAIN_TRAINED c = false → s.mach.get R.DDR_MAP_WAYS c = 2 →
    q = c / 4 → mate = 4 * q + (c % 4 + 2) % 4 → a = 4 * q + (1 - c % 2) → b = a + 2 → s.mach.chanFailed a = false → s.mach.chanFailed b = false →
    Does (.ddrTrainFail ch ranks) s (fun m =>
      m.get R.DDR_TRAIN_FAILED c = 1 ∧ m.get R.DDR_TRAIN_FAIL_RANKS c = ranks.toNat ∧ m.hget R.HDR_STATUS_STRUCK .ddr c = 1 ∧
      (∀ x ∈ [c, mate], m.hget R.HDR_STATUS_READY .ddr x = 0 ∧ m.hget R.HDR_STATUS_ENABLED .ddr x = 0) ∧
      (∀ x ∈ [a, b], m.get R.DDR_MAP_WAYS x = 1 ∧ m.get R.DDR_MAP_PAIR x = 1 - c % 2 ∧ m.get R.DDR_MAP_QSIZE_GIB x = s.mach.get R.DDR_MAP_QSIZE_GIB x) ∧
      RegsBut s [whole (R.DDR_TRAIN_FAILED.key c), hbits R.HDR_STATUS_READY .ddr c, hbits R.HDR_STATUS_ENABLED .ddr c, hbits R.HDR_STATUS_STRUCK .ddr c, hbits R.HDR_STATUS_READY .ddr mate, hbits R.HDR_STATUS_ENABLED .ddr mate,
      R.DDR_MAP_WAYS.bits a, R.DDR_MAP_PAIR.bits a, R.DDR_MAP_WAYS.bits b, R.DDR_MAP_PAIR.bits b] m ∧
      m = { s.mach with regs := m.regs, errs := [⟨12, .ddr, c, 17, sevContained, none, 0, none, false⟩] })) ∧
  (∀ (s : State) (src : Src) (ch : Fin 16) (value : Word) (n rank sub dev : Nat), MayWrite s src 12 .ddr ch.val → rank = bitsOf value.toNat 0 2 → sub = bitsOf value.toNat 2 1 →
    dev = bitsOf value.toNat 3 4 → n = 2 * rank + sub → bitsOf value.toNat 7 1 = 1 → dev < 10 → s.mach.on (R.DDR_ERASE_V.at n) ch.val = false →
    Does (.eraseReq src ch value) s (fun m =>
      m.get (R.DDR_ERASE_V.at n) ch.val = 1 ∧ m.get (R.DDR_ERASE_DEVICE.at n) ch.val = dev ∧ m.get (R.DDR_ERASE_BY_REQ.at n) ch.val = 1 ∧
      RegsBut s [whole ((R.DDR_ERASE_V.at n).key ch.val)] m ∧
      m = { s.mach with regs := m.regs, errs := [⟨12, .ddr, ch.val, 66, sevCorrected, some 0, dev + sub * 2 ^ 4 + rank * 2 ^ 5, none, false⟩] })) ∧
  (∀ (s : State) (ch : Fin 16), s.mach.hon R.HDR_STATUS_READY .ddr ch.val = true →
    Does (.channelLost ch) s (fun m => m = { s.mach with errs := [⟨12, .ddr, ch.val, E.DDR_CHANNEL_LOST.bit, sevFatal, none, 0, none, false⟩] })) ∧
  (∀ (s : State) (q : Fin 4) (ecs : List EcsCount) (late : Bool) (i a : Nat), s.mach.mode ≠ 9 → s.mach.hon R.HDR_STATUS_ENABLED .rake q.val = true →
    s.mach.hon R.HDR_CONTROL_QUIESCE .rake q.val = false → i = s.mach.get R.RAKE_STATUS_CURSOR q.val → i + 1 < s.mach.rakeLines q.val → a = q.val * s.mach.qsize q.val + 64 * i →
    s.mach.hon R.HDR_STATUS_READY .ddr (s.mach.ldaChan a).1 = true → s.mach.hon R.HDR_STATUS_STRUCK .ddr (s.mach.ldaChan a).1 = false → (s.mach.metaOf a).poison = false → (s.mach.metaOf a).err = [] →
    (s.mach.ldaChan a).1 < 16 →
    Does (.rakeRead q [] ecs late) s (fun m =>
      m.get R.RAKE_STATUS_CURSOR q.val = (i + 1) % 2 ^ 35 ∧ m.get R.RAKE_STATUS_ACTIVE q.val = s.mach.get R.RAKE_STATUS_ACTIVE q.val ∧ m.get R.RAKE_STATUS_PASSES q.val = s.mach.get R.RAKE_STATUS_PASSES q.val ∧
      (∀ x, m.metaOf x = s.mach.metaOf x) ∧ RegsBut s [whole (R.RAKE_STATUS_CURSOR.key q.val)] m ∧ m = { s.mach with regs := m.regs, lineMeta := m.lineMeta })) ∧
  (∀ (s : State) (ch : Fin 16) (ranks : BitVec 4), s.mach.mode ≠ 2 ∨ s.mach.on R.DDR_TRAIN_TRAINED ch.val = true → Leaves (.ddrTrainFail ch ranks) s s.mach) ∧
  (∀ (s : State) (src : Src) (ch : Fin 16) (value : Word), MayWrite s src 12 .ddr ch.val →
    bitsOf value.toNat 7 1 = 0 ∨ (bitsOf value.toNat 3 4 < 10 ∧ s.mach.on (R.DDR_ERASE_V.at (2 * bitsOf value.toNat 0 2 + bitsOf value.toNat 2 1)) ch.val = true) →
    Leaves (.eraseReq src ch value) s s.mach) ∧
  (∀ (s : State) (ch : Fin 16), s.mach.hon R.HDR_STATUS_READY .ddr ch.val = false → s.mach.on R.DDR_TRAIN_SELF_REFRESH ch.val = false → Leaves (.channelLost ch) s s.mach) ∧
  (∀ (s : State) (q : Fin 4) (ecs : List EcsCount) (late : Bool), s.mach.mode = 9 ∨ s.mach.hon R.HDR_STATUS_ENABLED .rake q.val = false ∨ s.mach.hon R.HDR_CONTROL_QUIESCE .rake q.val = true →
    Leaves (.rakeRead q [] ecs late) s s.mach)

/-- R276: READ returns the page's entry; SET_ATTR writes TENANT, DUR, PIN and SLEEPOK; ALLOC turns a None entry into a Zero page of the attributes given; FREE leaves
None and ZERO leaves Zero, with what the page held freed; CLEAR_POISON turns a Poisoned page into a Zero one; PROMOTE starts a move of a Frame page to a
Bed frame and stays BUSY; DEMOTE of a page whose every line reads as zero, held by a die, turns it into a Zero page (R252). RESULT is 0 and CMD_ENTRY the
entry where the command ends. No other page's entry changes, and no register outside the pages named. -/
def Obligations.TierCommandsComplete : Prop :=
  (∀ (s : State) (src : Src) (q : Fin 4) (page : BitVec 36) (p : Nat), MayWrite s src 12 .tier q.val → Idle s → s.mach.tierReady q.val = true → s.mach.takesNew .tier q.val = true →
    s.mach.on R.TIER_CMD_BUSY q.val = false → p = page.toNat * 4096 → homeOf p = q.val → s.mach.managed p = true → s.mach.mapUnreadable p = false →
    Does (.tierRead src q page) s (fun m =>
      m.get R.TIER_CMD_ENTRY_ENTRY q.val = s.mach.entry p ∧ m.get R.TIER_CMD_RESULT q.val = 0 ∧ m.get R.TIER_CMD_BUSY q.val = 0 ∧
      m.get R.TIER_CMD_OP q.val = 1 ∧ m.get R.TIER_CMD_ARG_PAGE q.val = page.toNat ∧ (∀ j, m.tq j = s.mach.tq j) ∧
      RegsBut s [whole (R.TIER_CMD_OP.key q.val), R.TIER_CMD_ARG_PAGE.bits q.val, R.TIER_CMD_ENTRY_ENTRY.bits q.val] m ∧
      m = { s.mach with regs := m.regs, tierq := m.tierq })) ∧
  (∀ (s : State) (src : Src) (q : Fin 4) (page : BitVec 36) (a : PageAttrs) (p e : Nat), MayWrite s src 12 .tier q.val → Idle s → s.mach.tierReady q.val = true →
    s.mach.takesNew .tier q.val = true → s.mach.on R.TIER_CMD_BUSY q.val = false → p = page.toNat * 4096 → homeOf p = q.val → s.mach.managed p = true → s.mach.mapUnreadable p = false →
    e = s.mach.entry p → eState e ∉ [stPromoting, stDemoting, stRekeying] → ¬(eState e = stStable ∧ eTier e = tierNone) → s.mach.mirrorFed = false →
    ((a.tenant.toNat = eTenant e ∧ a.dur = eDur e) ∨ ((∀ x ∈ s.dev.filter, pageOf (x.1 * 64) ≠ p) ∧ (∀ t ∈ s.dev.htx, pageOf (t.req.line * 64) ≠ p))) →
    (a.dur = true → s.mach.inDregion p = true ∧ (eDur e = true ∨ ∀ x ∈ s.dev.msc, pageOf (x.1 * 64) ≠ p)) → (eDur e = true → a.dur = true ∨ s.mach.consents (eTenant e) = true) →
    (a.sleepok = true → s.mach.foreignTenant a.tenant.toNat = false) →
    (a.pin = true → (ePin e = true ∨ eState e ≠ stStable ∨ eTier e = tierBed) ∧
      (s.dev.pmap.filter (fun x => x.1 * 4096 != p && homeOf (x.1 * 4096) == q.val && ePin x.2.toNat && s.mach.acctTenant (x.1 * 4096) == a.tenant.toNat)).length + 1 <
        share (s.mach.quotaOf a.tenant.toNat tierBed) tierBed) →
    Does (.tierSetAttr src q page a) s (fun m =>
      m.entry p = attrs e a.tenant.toNat a.dur a.pin a.sleepok ∧ MapBut s [p] m ∧
      m.get R.TIER_CMD_ENTRY_ENTRY q.val = m.entry p ∧ m.get R.TIER_CMD_RESULT q.val = 0 ∧ m.get R.TIER_CMD_BUSY q.val = 0 ∧
      (∀ l, m.mscLine l = (s.mach.mscLine l).map (fun x => if pageOf (l * 64) = p then { x with tenant := a.tenant.toNat } else x)) ∧ (∀ j, m.tq j = s.mach.tq j) ∧
      RegsBut s [whole (R.TIER_CMD_OP.key q.val), R.TIER_CMD_ARG_PAGE.bits q.val, R.TIER_CMD_ENTRY_ENTRY.bits q.val] m ∧
      m = { s.mach with regs := m.regs, tierq := m.tierq, pmap := m.pmap, mapDirty := m.mapDirty, msc := m.msc })) ∧
  (∀ (s : State) (src : Src) (q : Fin 4) (page : BitVec 36) (a : PageAttrs) (p e : Nat), MayWrite s src 12 .tier q.val → Idle s → s.mach.tierReady q.val = true →
    s.mach.takesNew .tier q.val = true → s.mach.on R.TIER_CMD_BUSY q.val = false → p = page.toNat * 4096 → homeOf p = q.val → s.mach.managed p = true → s.mach.mapUnreadable p = false →
    e = s.mach.entry p → eState e = stStable → eTier e = tierNone → s.mach.mirrorFed = false → (a.dur = true → s.mach.inDregion p = true) →
    Does (.tierAlloc src q page a) s (fun m =>
      m.entry p = attrs entryReset a.tenant.toNat a.dur a.pin a.sleepok ∧ MapBut s [p] m ∧
      m.get R.TIER_CMD_ENTRY_ENTRY q.val = m.entry p ∧ m.get R.TIER_CMD_RESULT q.val = 0 ∧ m.get R.TIER_CMD_BUSY q.val = 0 ∧ Unfailed s p m ∧
      RegsBut s [whole (R.TIER_CMD_OP.key q.val), R.TIER_CMD_ARG_PAGE.bits q.val, R.TIER_CMD_ENTRY_ENTRY.bits q.val] m ∧
      m = { s.mach with regs := m.regs, tierq := m.tierq, pmap := m.pmap, mapDirty := m.mapDirty })) ∧
  (∀ (s : State) (src : Src) (q : Fin 4) (page : BitVec 36) (i : Instr) (p e new : Nat), MayWrite s src 12 .tier q.val → Idle s → s.mach.tierReady q.val = true →
    s.mach.takesNew .tier q.val = true → s.mach.on R.TIER_CMD_BUSY q.val = false → p = page.toNat * 4096 → homeOf p = q.val → s.mach.managed p = true → s.mach.mapUnreadable p = false →
    e = s.mach.entry p → s.mach.mirrorFed = false → (∀ x ∈ s.dev.filter, pageOf (x.1 * 64) ≠ p) → (∀ t ∈ s.dev.htx, pageOf (t.req.line * 64) ≠ p) →
    (i = .tierFree src q page ∧ eState e ∉ [stPromoting, stDemoting, stRekeying] ∧ new = tierNone ∨
      i = .tierZero src q page ∧ eState e = stStable ∧ eTier e ≠ tierNone ∧ new = eSetState (eMove e tierBed 0 0 false) stZero) →
    Does i s (fun m =>
      m.entry p = new ∧ MapBut s [p] m ∧ (∀ l, pageOf (l * 64) = p → m.mscLine l = none) ∧ (∀ l, pageOf (l * 64) ≠ p → m.mscLine l = s.mach.mscLine l) ∧
      m.get R.TIER_CMD_ENTRY_ENTRY q.val = m.entry p ∧ m.get R.TIER_CMD_RESULT q.val = 0 ∧ m.get R.TIER_CMD_BUSY q.val = 0 ∧
      (eTier e = tierBed → eState e ≠ stZero → (s.mach.tq q.val).gone.contains p = false → m.frames = s.dev.frames.erase (eLoc e)) ∧
      (∀ j < 4, m.tq j = { s.mach.tq j with gone := (m.tq j).gone, failed := (m.tq j).failed }) ∧
      PagesBut s ([0, 1, 2, 3].map (pageOff 12 .tier) ++ [pageOff 12 .msc q.val, pageOff 12 .seed 0]) m ∧
      m = { s.mach with regs := m.regs, tierq := m.tierq, pmap := m.pmap, mapDirty := m.mapDirty, msc := m.msc, frames := m.frames, smap := m.smap, tags := m.tags, journal := m.journal })) ∧
  (∀ (s : State) (src : Src) (q : Fin 4) (page : BitVec 36) (p e : Nat), MayWrite s src 12 .tier q.val → Idle s → s.mach.tierReady q.val = true →
    s.mach.takesNew .tier q.val = true → s.mach.on R.TIER_CMD_BUSY q.val = false → p = page.toNat * 4096 → homeOf p = q.val → s.mach.managed p = true → s.mach.mapUnreadable p = false →
    e = s.mach.entry p → eState e = stPoisoned → s.mach.mirrorFed = false →
    Does (.tierClearPoison src q page) s (fun m =>
      m.entry p = eSetState (eMove e tierBed 0 0 false) stZero ∧ MapBut s [p] m ∧
      m.get R.TIER_CMD_ENTRY_ENTRY q.val = m.entry p ∧ m.get R.TIER_CMD_RESULT q.val = 0 ∧ m.get R.TIER_CMD_BUSY q.val = 0 ∧
      (∀ j < 4, m.tq j = { s.mach.tq j with gone := (m.tq j).gone, failed := (m.tq j).failed }) ∧
      PagesBut s ([0, 1, 2, 3].map (pageOff 12 .tier) ++ [pageOff 12 .seed 0]) m ∧
      m = { s.mach with regs := m.regs, tierq := m.tierq, pmap := m.pmap, mapDirty := m.mapDirty, frames := m.frames, smap := m.smap, tags := m.tags, journal := m.journal })) ∧
  (∀ (s : State) (src : Src) (q : Fin 4) (page : BitVec 36) (p e k : Nat), MayWrite s src 12 .tier q.val → Idle s → s.mach.tierReady q.val = true →
    s.mach.takesNew .tier q.val = true → s.mach.on R.TIER_CMD_BUSY q.val = false → p = page.toNat * 4096 → homeOf p = q.val → s.mach.managed p = true → s.mach.mapUnreadable p = false →
    e = s.mach.entry p → eState e = stStable → eTier e = tierFrame → s.mach.bedNow p = true → s.mach.freeMoveSlot q.val = some k →
    Does (.tierPromote src q page) s (fun m =>
      (∃ n, s.mach.poolLo q.val ≤ n ∧ n < s.mach.poolHi q.val ∧ s.dev.frames.find n = none ∧ m.frames.find n = some 256 ∧ TblBut s.dev.frames [n] m.frames ∧
        m.moves.find k = some (promotion p e n)) ∧
      TblBut s.dev.moves [k] m.moves ∧ m.entry p = eSetState e stPromoting ∧ MapBut s [p] m ∧ m.get R.TIER_CMD_BUSY q.val = 1 ∧
      (∀ j < 4, m.tq j = { s.mach.tq j with cmd := (m.tq j).cmd }) ∧ (∀ j < 4, j ≠ q.val → m.tq j = s.mach.tq j) ∧
      RegsBut s [whole (R.TIER_CMD_OP.key q.val), R.TIER_CMD_ARG_PAGE.bits q.val, whole (R.TIER_FREE_FREE_FRAMES.key q.val), R.TIER_MOVES_ACTIVE.bits q.val] m ∧
      m = { s.mach with regs := m.regs, tierq := m.tierq, pmap := m.pmap, mapDirty := m.mapDirty, frames := m.frames, moves := m.moves, free := m.free })) ∧
  (∀ (s : State) (src : Src) (q : Fin 4) (page : BitVec 36) (p e : Nat), MayWrite s src 12 .tier q.val → Idle s → s.mach.tierReady q.val = true →
    s.mach.takesNew .tier q.val = true → s.mach.on R.TIER_CMD_BUSY q.val = false → p = page.toNat * 4096 → homeOf p = q.val → s.mach.managed p = true → s.mach.mapUnreadable p = false →
    e = s.mach.entry p → eState e = stStable → eTier e = tierFrame → s.mach.bedNow p = true → s.mach.freeMoveSlot q.val = none → s.mach.hasFailed p = false →
    Does (.tierPromote src q page) s (fun m =>
      (∀ j, m.entry j = s.mach.entry j) ∧ m.get R.TIER_CMD_BUSY q.val = 1 ∧ (m.tq q.val).want = [p] ∧
      (∀ j < 4, m.tq j = { s.mach.tq j with cmd := (m.tq j).cmd, want := (m.tq j).want }) ∧ (∀ j < 4, j ≠ q.val → m.tq j = s.mach.tq j) ∧
      RegsBut s [whole (R.TIER_CMD_OP.key q.val), R.TIER_CMD_ARG_PAGE.bits q.val] m ∧ m = { s.mach with regs := m.regs, tierq := m.tierq })) ∧
  (∀ (s : State) (src : Src) (q : Fin 4) (page : BitVec 36) (p e k : Nat), MayWrite s src 12 .tier q.val → Idle s → s.mach.tierReady q.val = true →
    s.mach.takesNew .tier q.val = true → s.mach.on R.TIER_CMD_BUSY q.val = false → p = page.toNat * 4096 → homeOf p = q.val → s.mach.managed p = true → s.mach.mapUnreadable p = false →
    e = s.mach.entry p → eState e = stStable → eTier e = tierBed → ePin e = false → s.mach.mirrorFed = false → s.mach.freeMoveSlot q.val = some k →
    (∀ i < 64, s.mach.ownerLine (p / 64 + i) = some (0, false)) →
    Does (.tierDemote src q page 0) s (fun m =>
      m.entry p = eSetCmp (eSetPlots (eSetLoc (eSetState (eSetTier e tierBed) stZero) 0) 0) false ∧ MapBut s [p] m ∧ m.frames = s.dev.frames.erase (eLoc e) ∧
      (∀ j, m.moves.find j = s.dev.moves.find j) ∧ m.get R.TIER_CMD_RESULT q.val = 0 ∧ m.get R.TIER_CMD_BUSY q.val = 0 ∧ m.get R.TIER_CMD_ENTRY_ENTRY q.val = m.entry p ∧
      m.get R.TIER_ZERO_EVENTS_COUNT q.val = (s.mach.get R.TIER_ZERO_EVENTS_COUNT q.val + 1) % 2 ^ 64 ∧ (∀ j < 4, m.tq j = { s.mach.tq j with failed := (m.tq j).failed }) ∧
      PagesBut s ([0, 1, 2, 3].map (pageOff 12 .tier) ++ [pageOff 12 .codec q.val]) m ∧
      m = { s.mach with regs := m.regs, tierq := m.tierq, pmap := m.pmap, mapDirty := m.mapDirty, frames := m.frames, moves := m.moves, shelfReads := m.shelfReads })) ∧
  (∀ (s : State) (src : Src) (q : Fin 4) (page : BitVec 36) (a : PageAttrs) (p : Nat) (i : Instr), MayWrite s src 12 .tier q.val → Idle s → s.mach.tierReady q.val = true →
    s.mach.takesNew .tier q.val = true → s.mach.on R.TIER_CMD_BUSY q.val = false → p = page.toNat * 4096 →
    (homeOf p ≠ q.val ∨ s.mach.managed p = false) →
    i ∈ [Instr.tierRead src q page, .tierSetAttr src q page a, .tierAlloc src q page a, .tierFree src q page, .tierZero src q page, .tierPromote src q page, .tierDemote src q page 0, .tierClearPoison src q page] →
    Does i s (fun m =>
      m.get R.TIER_CMD_RESULT q.val = (if homeOf p = q.val then 2 else 1) ∧ m.get R.TIER_CMD_BUSY q.val = 0 ∧ (∀ j, m.tq j = s.mach.tq j) ∧
      RegsBut s [whole (R.TIER_CMD_OP.key q.val), R.TIER_CMD_ARG_PAGE.bits q.val, R.TIER_CMD_ENTRY_ENTRY.bits q.val] m ∧ m = { s.mach with regs := m.regs, tierq := m.tierq }))

/-- R247 steps 5 to 7: a promotion whose Shed source has been read whole writes the lines not yet written to its Bed frame, the entry names the frame with
AGE 0, and the source is freed. R252 steps 7 and 8: a demotion whose writes are complete switches its entry and frees the Bed frame. R251 and R257: the engine
takes the page of the highest AGE. R246: an ageing sweep adds one to the AGE of each page of the map part, up to 7. R254, R267: a journal record leaves the
journal when the shelf has written it. R249, R317: a unit that verifies counts for its move. -/
def Obligations.MovesAndAgeingComplete : Prop :=
  (∀ (s : State) (q : Fin 4) (slot : Fin 64) (k : Nat) (v : Move), s.mach.tierReady q.val = true → s.mach.homeUp = true → Idle s → k = q.val * 64 + slot.val → s.dev.moves.find k = some v → v.promote = true →
    v.page % 4096 = 0 → homeOf v.page = q.val → v.srcTier = tierShed → v.srcCmp = false → v.dstTier = tierBed → v.units = 255 → (s.mach.tq q.val).deferred = [] → s.mach.on R.LANT_CTL_TRACE_TIER = false →
    (∀ u < 8, s.mach.unitOk (locShelf v.srcLoc) v.page u false v.srcPlots (locPlace v.srcLoc) = true) → (∀ r ∈ s.dev.shelfReads, r.page ≠ v.page ∨ r.req = none) → (∀ r ∈ s.dev.journal, r.move ≠ some k) →
    Does (.promotionCommit q slot) s (fun m =>
      (∀ i < 64, v.done / 2 ^ i % 2 = 0 → s.mach.mscLine (v.page / 64 + i) = none →
        m.lineAt (bedLda v.dstLoc (v.page + 64 * i)) = lineOfBytes (s.mach.unitBytes (locShelf v.srcLoc) false (locPlace v.srcLoc) (i / 8)) (i % 8)) ∧
      WritesOnly s (fun a => v.dstLoc * 4096 ≤ a ∧ a < v.dstLoc * 4096 + 4096) m ∧
      m.entry v.page = eSetAge (eMove (s.mach.entry v.page) tierBed v.dstLoc 0 false) 0 ∧ MapBut s [v.page] m ∧
      m.moves.find k = none ∧ TblBut s.dev.moves [k] m.moves ∧ (∀ u < 8, m.tags.find (tagKey (locShelf v.srcLoc) (8 * locPlace v.srcLoc + u)) = none) ∧
      m.smap.getD (smapKey (locShelf v.srcLoc) (locPlace v.srcLoc)) 0 = s.dev.smap.getD (smapKey (locShelf v.srcLoc) (locPlace v.srcLoc)) 0 -
        Nat.land (s.dev.smap.getD (smapKey (locShelf v.srcLoc) (locPlace v.srcLoc)) 0) 255 ∧ TblBut s.dev.smap [smapKey (locShelf v.srcLoc) (locPlace v.srcLoc)] m.smap ∧
      m.get R.TIER_PROMOTED_COUNT q.val = (s.mach.get R.TIER_PROMOTED_COUNT q.val + 1) % 2 ^ 64 ∧ 
      (∀ l, m.mscLine l = (s.mach.mscLine l).map (fun x => if pageOf (l * 64) = v.page then { x with dirty := true } else x)) ∧
      (∀ j, m.tq j = { s.mach.tq j with failed := (m.tq j).failed }) ∧ PagesBut s [pageOff 12 .tier q.val, pageOff 12 .seed 0, pageOff 12 .msc q.val] m ∧
      m = { s.mach with
        regs := m.regs, pmap := m.pmap, mapDirty := m.mapDirty, moves := m.moves, tags := m.tags, smap := m.smap, slots := m.slots, lineMeta := m.lineMeta, wr := m.wr, errs := m.errs
        journal := m.journal, tierq := m.tierq, msc := m.msc, shelfReads := m.shelfReads })) ∧
  (∀ (s : State) (q : Fin 4) (slot : Fin 64) (k : Nat) (v : Move) (ls : List Line), s.mach.tierReady q.val = true → s.mach.homeUp = true → Idle s → NoUncore s → k = q.val * 64 + slot.val →
    s.dev.moves.find k = some v → v.promote = true → v.page % 4096 = 0 → homeOf v.page = q.val → v.srcTier = tierFrame ∨ v.srcTier = tierShed → v.dstTier = tierBed →
    (v.srcTier = tierShed → v.units + 1 = 2 ^ unitsOf v.srcCmp v.srcPlots) → (s.mach.tq q.val).deferred = [] → s.mach.on R.LANT_CTL_TRACE_TIER = false →
    (s.mach.sourcePage v.page v.srcTier v.srcLoc v.srcPlots v.srcCmp).2.1 = some ls → (∀ r ∈ s.dev.shelfReads, r.page ≠ v.page ∨ r.req = none) →
    Does (.promotionCommit q slot) s (fun m =>
      (∀ i < 64, v.done / 2 ^ i % 2 = 0 → s.mach.mscLine (v.page / 64 + i) = none → m.lineAt (bedLda v.dstLoc (v.page + 64 * i)) = ls.getD i 0) ∧
      WritesOnly s (fun a => v.dstLoc * 4096 ≤ a ∧ a < v.dstLoc * 4096 + 4096) m ∧
      m.entry v.page = eSetAge (eMove (s.mach.entry v.page) tierBed v.dstLoc 0 false) 0 ∧ MapBut s [v.page] m ∧ m.moves.find k = none ∧ TblBut s.dev.moves [k] m.moves ∧
      m.get R.TIER_PROMOTED_COUNT q.val = (s.mach.get R.TIER_PROMOTED_COUNT q.val + 1) % 2 ^ 64 ∧
      m.get R.CODEC_PAGES_DEC_COUNT q.val = (s.mach.get R.CODEC_PAGES_DEC_COUNT q.val + if v.srcTier = tierFrame ∨ v.srcCmp = true then 1 else 0) % 2 ^ R.CODEC_PAGES_DEC_COUNT.w ∧
      (∀ l, m.mscLine l = (s.mach.mscLine l).map (fun x => if pageOf (l * 64) = v.page then { x with dirty := true } else x)) ∧
      PagesBut s ([pageOff 12 .tier q.val, pageOff 12 .seed 0, pageOff 12 .msc q.val, pageOff 12 .codec q.val] ++ (List.range 16).map (pageOff 12 .ddr)) m ∧
      m = { s.mach with
        regs := m.regs, pmap := m.pmap, mapDirty := m.mapDirty, moves := m.moves, tags := m.tags, smap := m.smap, frames := m.frames, slots := m.slots, lineMeta := m.lineMeta, wr := m.wr
        errs := m.errs, free := m.free, journal := m.journal, tierq := m.tierq, msc := m.msc, shelfReads := m.shelfReads })) ∧
  (∀ (s : State) (q : Fin 4) (slot : Fin 64) (k : Nat) (v : Move), s.mach.tierReady q.val = true → s.mach.homeUp = true → Idle s → k = q.val * 64 + slot.val → s.dev.moves.find k = some v → v.promote = false →
    homeOf v.page = q.val → v.srcTier = tierBed → v.dstTier = tierFrame → v.writes = 0 → (s.mach.tq q.val).deferred = [] → s.mach.on R.LANT_CTL_TRACE_TIER = false →
    Does (.demotionCommit q slot) s (fun m =>
      m.entry v.page = eMove (s.mach.entry v.page) tierFrame v.dstLoc v.dstPlots v.dstCmp ∧ MapBut s [v.page] m ∧
      m.moves.find k = none ∧ TblBut s.dev.moves [k] m.moves ∧ m.frames = s.dev.frames.erase v.srcLoc ∧
      m.get R.TIER_DEMOTED_FRAME_COUNT q.val = (s.mach.get R.TIER_DEMOTED_FRAME_COUNT q.val + 1) % 2 ^ 64 ∧
      (∀ j, m.tq j = { s.mach.tq j with failed := (m.tq j).failed }) ∧ PagesBut s ([0, 1, 2, 3].map (pageOff 12 .tier)) m ∧ m = { s.mach with regs := m.regs, pmap := m.pmap, mapDirty := m.mapDirty, moves := m.moves, frames := m.frames, tierq := m.tierq, shelfReads := m.shelfReads })) ∧
  (∀ (s : State) (q : Fin 4) (slot : Fin 64), s.mach.tierReady q.val = false ∨ s.dev.moves.find (q.val * 64 + slot.val) = none →
    Leaves (.promotionCommit q slot) s s.mach ∧ Leaves (.demotionCommit q slot) s s.mach) ∧
  (∀ (s : State) (q : Fin 4) (p e k : Nat), s.mach.tierReady q.val = true → s.mach.homeUp = true → s.mach.takesNew .tier q.val = true → Idle s → s.mach.act R.TIER_POLICY_AGE_DEMOTE q.val = 1 →
    s.dev.pmap = [(p / 4096, BitVec.ofNat 64 e)] → e < 2 ^ 64 → p % 4096 = 0 → homeOf p = q.val → eState e = stStable → eTier e = tierBed → ePin e = false →
    s.mach.act R.TIER_POLICY_FORCE_AGE q.val ≤ eAge e → s.mach.mirrorFed = false → s.mach.freeMoveSlot q.val = some k → (∀ i < 64, s.mach.ownerLine (p / 64 + i) = some (0, false)) →
    Does (.demotionStart q .age) s (fun m =>
      m.entry p = eSetCmp (eSetPlots (eSetLoc (eSetState (eSetTier e tierBed) stZero) 0) 0) false ∧ MapBut s [p] m ∧ m.frames = s.dev.frames.erase (eLoc e) ∧
      (∀ j, m.moves.find j = s.dev.moves.find j) ∧ m.get R.TIER_ZERO_EVENTS_COUNT q.val = (s.mach.get R.TIER_ZERO_EVENTS_COUNT q.val + 1) % 2 ^ 64 ∧
      (∀ j < 4, m.tq j = { s.mach.tq j with cursor := (m.tq j).cursor, failed := (m.tq j).failed }) ∧ PagesBut s ([0, 1, 2, 3].map (pageOff 12 .tier) ++ [pageOff 12 .codec q.val]) m ∧
      m = { s.mach with regs := m.regs, tierq := m.tierq, pmap := m.pmap, mapDirty := m.mapDirty, frames := m.frames, moves := m.moves, shelfReads := m.shelfReads })) ∧
  (∀ (s : State) (q : Fin 4) (cause : DemoteCause), s.mach.takesNew .tier q.val = false → Leaves (.demotionStart q cause) s s.mach ∧ Leaves (.ageingSweep q) s s.mach) ∧
  (∀ (s : State) (q : Fin 4), s.mach.tierReady q.val = true → s.mach.takesNew .tier q.val = true →
    Does (.ageingSweep q) s (fun m =>
      (∀ p, homeOf (p * 4096) = q.val → m.entry (p * 4096) =
        (if eTier (s.mach.entry (p * 4096)) = tierNone then s.mach.entry (p * 4096) else eSetAge (s.mach.entry (p * 4096)) (min 7 (eAge (s.mach.entry (p * 4096)) + 1)) % 2 ^ 64)) ∧
      (∀ p, homeOf (p * 4096) ≠ q.val → m.entry (p * 4096) = s.mach.entry (p * 4096)) ∧
      (∀ j, m.tq j = if j = q.val then { s.mach.tq j with bare := min 7 ((s.mach.tq j).bare + 1) } else s.mach.tq j) ∧
      (∀ l, (∀ p, homeOf (p * 4096) = q.val → s.mach.entryLda (p * 4096) / 64 ≠ l) → m.mapDirty.contains l = s.dev.mapDirty.contains l) ∧
      m = { s.mach with pmap := m.pmap, mapDirty := m.mapDirty, tierq := m.tierq })) ∧
  (∀ (s : State) (q : Fin 4) (seq : Word) (r : JRec) (k : Nat) (v : Move), Idle s → s.dev.journal.find? (fun r => r.q == q.val && r.seq == seq.toNat && r.kind != 1 && r.sent) = some r →
    s.mach.shelfState r.shelf ∈ [2, 3] → r.kind = 0 → r.move = some k → s.dev.moves.find k = some v →
    Does (.shelfWriteComplete q seq) s (fun m =>
      m.lineAt (hdm r.shelf (recByte r)) = r.data ∧
      WritesOnly s (fun a => hdm r.shelf (recByte r) ≤ a ∧ a < hdm r.shelf (recByte r) + 64) m ∧
      m.moves.find k = some { v with
        writes := v.writes - 1
        done := if v.writes ≤ 1 then fullMask else if r.cmp = false ∧ v.done / 2 ^ r.off % 2 = 0 then v.done + 2 ^ r.off else v.done } ∧ TblBut s.dev.moves [k] m.moves ∧
      m.get R.TIER_JOURNAL_IN_FLIGHT q.val = (m.journal.filter (fun x => x.q == q.val && x.kind != 1 && x.sent)).length % 2 ^ R.TIER_JOURNAL_IN_FLIGHT.w ∧
      RegsBut s [whole (R.TIER_JOURNAL_PEAK.key q.val), R.TIER_MOVES_ACTIVE.bits (k / 64)] m ∧
      m = { s.mach with regs := m.regs, moves := m.moves, wr := m.wr, journal := s.dev.journal.filter (fun x => !(x.q == q.val && x.seq == seq.toNat)) })) ∧
  (∀ (s : State) (shelf : Fin 64) (page : BitVec 36) (unit : Fin 8) (p e k : Nat) (v : Move), Idle s → p = page.toNat * 4096 → e = s.mach.entry p →
    s.mach.shelfState shelf.val ∈ [2, 3] → (∃ r ∈ s.dev.shelfReads, r.shelf = shelf.val ∧ r.page = p ∧ r.unit = unit.val) →
    (∀ r ∈ s.dev.shelfReads, r.shelf = shelf.val → r.page = p → r.unit = unit.val → r.req = none) → eTier e = tierShed → locShelf (eLoc e) = shelf.val → eState e ≠ stPoisoned → eCmp e = false →
    s.mach.unitOk shelf.val p unit.val false (ePlots e) (locPlace (eLoc e)) = true → s.mach.moveOf p = some (k, v) → s.dev.moves.find k = some v → v.promote = true → v.units / 2 ^ unit.val % 2 = 0 →
    Does (.shelfReadComplete shelf page unit true) s (fun m =>
      m.moves.find k = some { v with units := v.units + 2 ^ unit.val } ∧ TblBut s.dev.moves [k] m.moves ∧
      m.shelfReads = s.dev.shelfReads.filter (fun r => !(r.shelf == shelf.val && r.page == p && r.unit == unit.val)) ∧
      m.get R.CIPH_MESSAGES_COUNT (homeOf p) = (s.mach.get R.CIPH_MESSAGES_COUNT (homeOf p) + 1) % 2 ^ R.CIPH_MESSAGES_COUNT.w ∧
      m.get R.CIPH_BYTES_COUNT (homeOf p) = (s.mach.get R.CIPH_BYTES_COUNT (homeOf p) + 512) % 2 ^ R.CIPH_BYTES_COUNT.w ∧ TblBut s.dev.slots [12, 13] m.slots ∧
      RegsBut s [R.TIER_MOVES_ACTIVE.bits (k / 64), R.CIPH_MESSAGES_COUNT.bits (homeOf p), R.CIPH_BYTES_COUNT.bits (homeOf p), R.CIPH_SUSPENDS_COUNT.bits (homeOf p)] m ∧
      m = { s.mach with regs := m.regs, slots := m.slots, errs := m.errs, moves := m.moves, shelfReads := m.shelfReads })) ∧
  (∀ (s : State) (shelf : Fin 64) (page : BitVec 36) (unit : Fin 8) (intact : Bool) (q : Fin 4) (seq : Word),
    (∀ r ∈ s.dev.shelfReads, ¬(r.shelf = shelf.val ∧ r.page = page.toNat * 4096 ∧ r.unit = unit.val)) → (∀ r ∈ s.dev.journal, ¬(r.q = q.val ∧ r.seq = seq.toNat)) →
    Leaves (.shelfReadComplete shelf page unit intact) s s.mach ∧ Leaves (.shelfWriteComplete q seq) s s.mach)

/-- R261: a strike of an Awake shelf makes it Striking; with no page and no move on it, it waits for its link to be released, after which the shelf is Asleep, or
Empty where the strike was to evacuate it (R445). R262: RELEASE of an Asleep or Lost shelf makes each of its pages Poisoned, ends a promotion that still runs from it, and makes the
shelf Empty. R263 and R448: a shelf whose link is lost is Lost, and its Stable pages become Dormant. R265: the wake request is no longer pending after
WAKE_RETRY_S. Each change of state is one SHELF_STATE event (R501). The clauses say too where such a command changes nothing. -/
def Obligations.ShelfCommandsComplete : Prop :=
  (∀ (s : State) (src : Src) (shelf : Fin 64) (i : Instr) (evac : Bool), MayWrite s src 12 .tier 0 → Idle s →
    (i, evac) ∈ [(Instr.strikeEvac src shelf, true), (.strikeSleep src shelf, false)] → s.mach.shelfState shelf.val = 2 → s.mach.shelfPages shelf.val = [] →
    (∀ x ∈ s.dev.moves, moveOn x.2 shelf.val = false) →
    Does i s (fun m =>
      m.shelfState shelf.val = 3 ∧ m.shelf shelf.val = { s.mach.shelf shelf.val with evac := evac, phase := 4 } ∧ TblBut s.dev.shelves [shelf.val] m.shelves ∧
      RegsBut s [whole ((R.TIER_SHELF_STAT_STATE.at shelf.val).key)] m ∧
      m = { s.mach with regs := m.regs, shelves := m.shelves, evs := [⟨4, 2, 12, .tier, 0, none, shelf.val + 3 * 2 ^ 8, (s.mach.shelf shelf.val).ident⟩] })) ∧
  (∀ (s : State) (src : Src) (shelf : Fin 64), MayWrite s src 12 .tier 0 → Idle s → s.mach.shelfState shelf.val = 2 → (∀ x ∈ s.dev.moves, moveOn x.2 shelf.val = false) →
    (∀ p ∈ s.mach.shelfPages shelf.val, s.mach.cachedDirty p = false ∧ s.mach.foreignTenant (eTenant (s.mach.entry p)) = false) →
    Does (.strikeSleep src shelf) s (fun m =>
      m.shelfState shelf.val = 3 ∧ m.shelf shelf.val = { s.mach.shelf shelf.val with evac := false, phase := 4 } ∧ TblBut s.dev.shelves [shelf.val] m.shelves ∧
      (∀ p ∈ s.mach.shelfPages shelf.val, m.entry p = if eState (s.mach.entry p) = stStable then eSetState (s.mach.entry p) stDormant else s.mach.entry p) ∧
      MapBut s (s.mach.shelfPages shelf.val) m ∧ RegsBut s [whole ((R.TIER_SHELF_STAT_STATE.at shelf.val).key)] m ∧
      m = { s.mach with
        regs := m.regs, shelves := m.shelves, pmap := m.pmap, mapDirty := m.mapDirty
        evs := [⟨4, 2, 12, .tier, 0, none, shelf.val + 3 * 2 ^ 8, (s.mach.shelf shelf.val).ident⟩] })) ∧
  (∀ (s : State) (shelf : Fin 64) (port : Nat), s.mach.shelfState shelf.val = 3 → (s.mach.shelf shelf.val).phase = 4 → (s.mach.shelf shelf.val).mapped = false →
    (∀ r ∈ s.dev.journal, r.shelf ≠ shelf.val) → (∀ r ∈ s.dev.shelfReads, r.shelf ≠ shelf.val) → (∀ t ∈ s.dev.tags, t.1 / 2 ^ 40 ≠ shelf.val) →
    port = s.mach.get (R.TIER_SHELF_CFG_PORT.at shelf.val) →
    Does (.shelfStrikeDone shelf true) s (fun m =>
      m.shelfState shelf.val = (if (s.mach.shelf shelf.val).evac then 0 else 4) ∧
      m.shelf shelf.val = (if (s.mach.shelf shelf.val).evac then noShelf else { s.mach.shelf shelf.val with phase := 0 }) ∧ TblBut s.dev.shelves [shelf.val] m.shelves ∧
      m.get (R.PG_PORT_CTL_LINK_DISABLE.at (port % 4)) (port / 4) = 1 ∧ m.get (R.PG_PORT_STATUS_UP.at (port % 4)) (port / 4) = 0 ∧
      m.get (R.PG_PORT_STATUS_CXLMEM.at (port % 4)) (port / 4) = 0 ∧
      (∀ k, m.smap.find k = if (s.mach.shelf shelf.val).evac = true ∧ k / 2 ^ 32 = shelf.val then none else s.dev.smap.find k) ∧
      (∀ k, m.tags.find k = s.dev.tags.find k) ∧
      RegsBut s [whole ((R.TIER_SHELF_STAT_STATE.at shelf.val).key), (R.PG_PORT_CTL_LINK_DISABLE.at (port % 4)).bits (port / 4), whole ((R.PG_PORT_STATUS_UP.at (port % 4)).key (port / 4))] m ∧
      m = { s.mach with
        regs := m.regs, shelves := m.shelves, smap := m.smap, tags := m.tags
        evs := [⟨4, 2, 12, .tier, 0, none, shelf.val + (if (s.mach.shelf shelf.val).evac then 0 else 4) * 2 ^ 8, (s.mach.shelf shelf.val).ident⟩] })) ∧
  (∀ (s : State) (shelf : Fin 64) (port : Nat), Idle { s with dev := { s.dev with shelves := s.dev.shelves.erase shelf.val } } → s.mach.shelfState shelf.val = 3 → (s.mach.shelf shelf.val).phase = 4 →
    (∀ r ∈ s.dev.journal, r.shelf ≠ shelf.val) → (∀ r ∈ s.dev.shelfReads, r.shelf ≠ shelf.val) → port = s.mach.get (R.TIER_SHELF_CFG_PORT.at shelf.val) → (∀ x ∈ s.dev.moves, moveOn x.2 shelf.val = false) →
    Does (.shelfStrikeDone shelf false) s (fun m =>
      m.shelfState shelf.val = 5 ∧ m.shelf shelf.val = { s.mach.shelf shelf.val with phase := 0 } ∧ TblBut s.dev.shelves [shelf.val] m.shelves ∧
      (∀ p ∈ s.mach.shelfPages shelf.val, m.entry p = if eState (s.mach.entry p) = stStable then eSetState (s.mach.entry p) stDormant else s.mach.entry p) ∧
      MapBut s (s.mach.shelfPages shelf.val) m ∧ PagesBut s ([0, 1, 2, 3].map (pageOff 12 .tier)) m ∧
      m = { s.mach with
        regs := m.regs, shelves := m.shelves, pmap := m.pmap, mapDirty := m.mapDirty, shelfReads := m.shelfReads
        errs := [⟨12, .pg, port / 4, E.PG_SHELF_RELEASE.bit, sevContained, none, 0, none, false⟩]
        evs := [⟨4, 2, 12, .tier, 0, none, shelf.val + 5 * 2 ^ 8, (s.mach.shelf shelf.val).ident⟩] })) ∧
  (∀ (s : State) (src : Src) (shelf : Fin 64), MayWrite s src 12 .tier 0 → Idle s → s.mach.shelfState shelf.val ∈ [4, 5] → s.mach.mirrorFed = false → (∀ x ∈ s.dev.moves, x.2.page ∈ s.mach.shelfPages shelf.val → x.2.done = 0) →
    Does (.shelfRelease src shelf) s (fun m =>
      m.shelfState shelf.val = 0 ∧ m.shelf shelf.val = noShelf ∧ TblBut s.dev.shelves [shelf.val] m.shelves ∧
      (∀ p ∈ s.mach.shelfPages shelf.val, m.entry p = eSetState (s.mach.entry p) stPoisoned) ∧ MapBut s (s.mach.shelfPages shelf.val) m ∧
      (∀ k, k / 2 ^ 32 = shelf.val → m.smap.find k = none) ∧ (∀ k, k / 2 ^ 40 = shelf.val → m.tags.find k = none) ∧
      m.evs = [⟨4, 2, 12, .tier, 0, none, shelf.val, (s.mach.shelf shelf.val).ident⟩])) ∧
  (∀ (s : State) (src : Src) (shelf : Fin 64), MayWrite s src 12 .tier 0 → Idle s → s.mach.shelfState shelf.val ∈ [4, 5] → s.mach.mirrorFed = false → (∀ x ∈ s.dev.moves, x.2.page ∉ s.mach.shelfPages shelf.val) → (s.mach.shelf shelf.val).mapped = false →
    Does (.shelfRelease src shelf) s (fun m =>
      m.shelfState shelf.val = 0 ∧ m.shelf shelf.val = noShelf ∧ TblBut s.dev.shelves [shelf.val] m.shelves ∧
      (∀ p ∈ s.mach.shelfPages shelf.val, m.entry p = eSetState (s.mach.entry p) stPoisoned) ∧
      MapBut s (s.mach.shelfPages shelf.val) m ∧
      (∀ k, m.smap.find k = if k / 2 ^ 32 = shelf.val then none else s.dev.smap.find k) ∧ (∀ k, m.tags.find k = if k / 2 ^ 40 = shelf.val then none else s.dev.tags.find k) ∧
      m.journal = s.dev.journal.filter (fun r => !((r.q == 0 || r.q == 1 || r.q == 2 || r.q == 3) && r.shelf == shelf.val && r.kind != 1)) ∧
      (∀ j < 4, m.tq j = { s.mach.tq j with gone := (m.tq j).gone, rekeys := (m.tq j).rekeys, poisonLater := (m.tq j).poisonLater }) ∧
      PagesBut s ([0, 1, 2, 3].map (pageOff 12 .tier) ++ [pageOff 12 .seed 0]) m ∧
      m = { s.mach with
        regs := m.regs, shelves := m.shelves, smap := m.smap, tags := m.tags, pmap := m.pmap, mapDirty := m.mapDirty, tierq := m.tierq, journal := m.journal
        evs := [⟨4, 2, 12, .tier, 0, none, shelf.val, (s.mach.shelf shelf.val).ident⟩] })) ∧
  (∀ (s : State) (shelf : Fin 64), Idle s → s.mach.shelfState shelf.val ∈ [2, 3] → (∀ x ∈ s.dev.moves, moveOn x.2 shelf.val = false) → (∀ r ∈ s.dev.shelfReads, r.shelf ≠ shelf.val) →
    Does (.shelfLost shelf) s (fun m =>
      m.shelfState shelf.val = 5 ∧ m.shelf shelf.val = { s.mach.shelf shelf.val with phase := 0 } ∧ TblBut s.dev.shelves [shelf.val] m.shelves ∧
      (∀ p ∈ s.mach.shelfPages shelf.val, m.entry p = if eState (s.mach.entry p) = stStable then eSetState (s.mach.entry p) stDormant else s.mach.entry p) ∧
      MapBut s (s.mach.shelfPages shelf.val) m ∧
      m.journal = s.dev.journal.map (fun r => if r.shelf = shelf.val then { r with sent := false } else r) ∧ PagesBut s ([0, 1, 2, 3].map (pageOff 12 .tier)) m ∧
      m = { s.mach with
        regs := m.regs, shelves := m.shelves, pmap := m.pmap, mapDirty := m.mapDirty, journal := m.journal, shelfReads := m.shelfReads
        evs := [⟨4, 2, 12, .tier, 0, none, shelf.val + 5 * 2 ^ 8, (s.mach.shelf shelf.val).ident⟩] })) ∧
  (∀ (s : State) (shelf : Fin 64),
    Does (.wakeRetryExpire shelf) s (fun m =>
      m.get (R.TIER_SHELF_STAT_WAKE_PEND.at shelf.val) = 0 ∧ m.shelfState shelf.val = s.mach.shelfState shelf.val ∧ OnlyRegs s [(R.TIER_SHELF_STAT_WAKE_PEND.at shelf.val).bits] m)) ∧
  (∀ (s : State) (src : Src) (shelf : Fin 64), MayWrite s src 12 .tier 0 → Idle s → s.mach.shelfState shelf.val ∈ [0, 1] →
    Leaves (.strikeEvac src shelf) s s.mach ∧ Leaves (.strikeSleep src shelf) s s.mach ∧ (∀ ok, Leaves (.shelfStrikeDone shelf ok) s s.mach) ∧ Leaves (.shelfLost shelf) s s.mach ∧ Leaves (.shelfRelease src shelf) s s.mach)

/-- R331: GENERATE fills an Empty slot of 16 and up with a key of the DRBG (its bytes and a FIXED not given are free values, log 3); IMPORT unwraps the blob a
line holds under a KEK; EXPORT writes the wrapped slot to memory; RETIRE makes an Active slot Retiring; DESTROY empties a slot. Each gives RESULT 0, a
command that uses a KEK counts one use of it, and filling or emptying a slot raises its GEN (R328). A failed DRBG test clears HEALTHY, and a slot that
cannot be read is emptied (R330, R344). No other slot and no register outside the page's command registers changes. -/
def Obligations.SeedCommandsComplete : Prop :=
  (∀ (s : State) (src : Src) (slot : BitVec 12) (attr : BitVec 25) (fixed : Option (BitVec 32)) (n alg : Nat), MayWrite s src 12 .seed 0 → Idle s → s.mach.seedReady = true →
    n = slot.toNat → 16 ≤ n → (s.mach.slot n).state = 0 → alg = bitsOf attr.toNat 0 3 → alg ≤ 4 → alg ≠ 2 → bitsOf attr.toNat 8 3 = 0 →
    s.mach.on R.SEED_DRBG_HEALTHY = true → s.mach.durableTenant (bitsOf attr.toNat 13 11) = false →
    Does (.seedGenerate src slot attr fixed) s (fun m =>
      m.slot n = ⟨1, alg, bitsOf attr.toNat 3 10, bitsOf attr.toNat 13 11, bitsOf attr.toNat 24 1 == 1, ((s.mach.slot n).gen + 1) % 2 ^ 16, 0, (s.mach.slot n).limit, 0,
        fixed.elim (m.slot n).fixed BitVec.toNat, (m.slot n).key⟩ ∧
      (m.slot n).key.length = (if alg = 0 then 16 else 32) ∧ (m.slot n).fixed < 2 ^ 32 ∧
      TblBut s.dev.slots [n] m.slots ∧ m.get R.SEED_CMD_RESULT = 0 ∧ m.get R.SEED_DRBG_RESEEDS = (s.mach.get R.SEED_DRBG_RESEEDS + 1) % 2 ^ 32 ∧
      m.get R.SEED_DRBG_FAILS = s.mach.get R.SEED_DRBG_FAILS ∧ m.get R.SEED_DRBG_HEALTHY = 1 ∧
      RegsBut s [whole R.SEED_CMD_OP.key, whole R.SEED_CMD_ATTR_ATTR.key, whole R.SEED_DRBG_RESEEDS.key] m ∧
      (∀ k, m.ivBlocks.find k = if k / 4 = n then none else s.dev.ivBlocks.find k) ∧
      m = { s.mach with regs := m.regs, slots := m.slots, ivBlocks := m.ivBlocks, free := m.free })) ∧
  (∀ (s : State) (src : Src) (slot : BitVec 12) (attr : BitVec 25) (fixed : Option (BitVec 32)) (n : Nat), MayWrite s src 12 .seed 0 → Idle s → s.mach.seedReady = true →
    n = slot.toNat → 16 ≤ n → n % 2 = 0 → (s.mach.slot n).state = 0 → (s.mach.slot (n + 1)).state = 0 → bitsOf attr.toNat 0 3 = 2 → bitsOf attr.toNat 8 3 = 0 →
    s.mach.on R.SEED_DRBG_HEALTHY = true → s.mach.durableTenant (bitsOf attr.toNat 13 11) = false →
    Does (.seedGenerate src slot attr fixed) s (fun m =>
      (∀ j < 2, m.slot (n + j) = ⟨1, 2 + j, bitsOf attr.toNat 3 10, bitsOf attr.toNat 13 11, bitsOf attr.toNat 24 1 == 1, ((s.mach.slot (n + j)).gen + 1) % 2 ^ 16, 0,
        (s.mach.slot (n + j)).limit, 0, fixed.elim (m.slot (n + j)).fixed BitVec.toNat, (m.slot (n + j)).key⟩ ∧ (m.slot (n + j)).key.length = 32) ∧
      TblBut s.dev.slots [n, n + 1] m.slots ∧ m.get R.SEED_CMD_RESULT = 0 ∧
      RegsBut s [whole R.SEED_CMD_OP.key, whole R.SEED_CMD_ATTR_ATTR.key, whole R.SEED_DRBG_RESEEDS.key] m ∧
      (∀ k, m.ivBlocks.find k = if k / 4 = n ∨ k / 4 = n + 1 then none else s.dev.ivBlocks.find k) ∧
      m = { s.mach with regs := m.regs, slots := m.slots, ivBlocks := m.ivBlocks, free := m.free })) ∧
  (∀ (s : State) (src : Src) (slot kek : BitVec 12) (addr : BitVec 42) (attr : BitVec 25) (n k : Nat) (d : Line) (p : List Nat), MayWrite s src 12 .seed 0 → Idle s → NoUncore s →
    s.mach.seedReady = true → n = slot.toNat → k = kek.toNat → 16 ≤ n → (s.mach.slot n).state = 0 → s.mach.kekOk k useUnwrap = true → (s.mach.slot k).limit = 0 →
    s.mach.managed (addr.toNat * 64) = true → s.mach.ownerLine addr.toNat = some (d, false) → s.mach.durableTenant (bitsOf attr.toNat 13 11) = false → bitsOf attr.toNat 0 3 ≤ 4 → bitsOf attr.toNat 8 3 = 0 →
    Crypto.kwUnwrap (Crypto.ofB (s.mach.slot k).key) (Crypto.ofB ((bytesOf 64 d.toNat).take 56)) = some p →
    blobNat p 32 1 = 1 → blobNat p 34 1 ≤ 4 → blobNat p 34 1 ≠ 3 →
    Does (.seedImport src slot kek addr attr) s (fun m =>
      m.slot n = ⟨1, blobNat p 34 1, blobNat p 36 2 % 2 ^ 10, bitsOf attr.toNat 13 11, bitsOf attr.toNat 24 1 == 1, ((s.mach.slot n).gen + 1) % 2 ^ 16, 0, (s.mach.slot n).limit, 0,
        blobNat p 40 4, Crypto.toBytes (p.take (if blobNat p 34 1 = 0 then 16 else 32))⟩ ∧
      m.slot k = { s.mach.slot k with use := satAdd 48 (s.mach.slot k).use 1 } ∧ TblBut s.dev.slots [n, k] m.slots ∧ m.get R.SEED_CMD_RESULT = 0 ∧
      m.get R.CIPH_MESSAGES_COUNT = (s.mach.get R.CIPH_MESSAGES_COUNT + 1) % 2 ^ R.CIPH_MESSAGES_COUNT.w ∧
      m.get R.CIPH_BYTES_COUNT = (s.mach.get R.CIPH_BYTES_COUNT + 56) % 2 ^ R.CIPH_BYTES_COUNT.w ∧ Touched s addr.toNat m ∧
      RegsBut s [whole R.SEED_CMD_OP.key, R.SEED_CMD_ADDR_ADDR.bits, whole R.SEED_CMD_ATTR_ATTR.key, R.CIPH_MESSAGES_COUNT.bits, R.CIPH_BYTES_COUNT.bits, R.CIPH_SUSPENDS_COUNT.bits] m ∧
      (∀ k, m.ivBlocks.find k = if k / 4 = n then none else s.dev.ivBlocks.find k) ∧
      m = { s.mach with
        regs := m.regs, slots := m.slots, ivBlocks := m.ivBlocks, pmap := m.pmap, mapDirty := m.mapDirty, tierq := m.tierq })) ∧
  (∀ (s : State) (src : Src) (slot kek : BitVec 12) (addr : BitVec 42) (n k l a : Nat) (old : Line), MayWrite s src 12 .seed 0 → Idle s → NoUncore s →
    s.mach.seedReady = true → n = slot.toNat → k = kek.toNat → l = addr.toNat → 16 ≤ n → ((s.mach.slot n).state = 1 ∨ (s.mach.slot n).state = 2) →
    has (s.mach.slot n).usage useExport = true → s.mach.kekOk k useWrap = true → (s.mach.slot k).limit = 0 → k ≠ n → (s.mach.slot n).key.length ≤ 32 →
    Target s l a old → s.mach.memSlot (pageOf (l * 64)) (l % 64) ∉ [k, n] →
    Does (.seedExport src slot kek addr) s (fun m =>
      Stored s [(l, a, mergeLine old (BitVec.ofNat 512 (ofBytes (s.mach.wrapSlot n k))) (2 ^ 56 - 1))] m ∧
      m.slot k = { s.mach.slot k with use := satAdd 48 (s.mach.slot k).use 1 } ∧ TblBut s.dev.slots [k, s.mach.memSlot (pageOf (l * 64)) (l % 64)] m.slots ∧
      m.get R.SEED_CMD_RESULT = 0 ∧ RegsBut s [whole R.SEED_CMD_OP.key, R.SEED_CMD_ADDR_ADDR.bits, R.HOME_SF_STATUS_OCCUPIED.bits (homeOf (l * 64))] m ∧
      Touched s l m ∧
      m = { s.mach with regs := m.regs, pmap := m.pmap, mapDirty := m.mapDirty, tierq := m.tierq, slots := m.slots, lines := m.lines, filter := m.filter, lineMeta := m.lineMeta, wr := m.wr, errs := m.errs })) ∧
  (∀ (s : State) (src : Src) (slot : BitVec 12) (i : Instr) (n : Nat) (x : Slot), MayWrite s src 12 .seed 0 → Idle s → s.mach.seedReady = true → n = slot.toNat → 16 ≤ n →
    (i = .seedRetire src slot ∧ (s.mach.slot n).state = 1 ∧ x = { s.mach.slot n with state := 2 } ∨
      i = .seedDestroy src slot ∧ (s.mach.slot n).state ≠ 0 ∧ (s.mach.slot n).state ≠ 4 ∧ s.mach.durableTenant (s.mach.slot n).owner = false ∧
        x = ⟨0, 0, 0, 0, false, ((s.mach.slot n).gen + 1) % 2 ^ 16, 0, 0, 0, 0, []⟩) →
    Does i s (fun m =>
      m.slot n = x ∧ TblBut s.dev.slots [n] m.slots ∧ m.get R.SEED_CMD_RESULT = 0 ∧ RegsBut s [whole R.SEED_CMD_OP.key] m ∧ (∀ k, k / 4 ≠ n → m.ivBlocks.find k = s.dev.ivBlocks.find k) ∧
      m = { s.mach with regs := m.regs, slots := m.slots, ivBlocks := m.ivBlocks })) ∧
  (∀ (s : State) (src : Src) (slot : BitVec 12) (n : Nat), MayWrite s src 12 .seed 0 → Idle s → s.mach.seedReady = true → n = slot.toNat → 16 ≤ n → (s.mach.slot n).state = 0 →
    s.mach.durableTenant (s.mach.slot n).owner = false →
    Does (.seedDestroy src slot) s (fun m => m.get R.SEED_CMD_RESULT = 0 ∧ OnlyRegs s [whole R.SEED_CMD_OP.key] m) ∧
    Does (.seedRetire src slot) s (fun m => m.get R.SEED_CMD_RESULT = 2 ∧ OnlyRegs s [whole R.SEED_CMD_OP.key] m)) ∧
  (∀ (s : State),
    Does .drbgHealthFail s (fun m =>
      m.get R.SEED_DRBG_HEALTHY = 0 ∧ m.get R.SEED_DRBG_FAILS = satAdd 16 (s.mach.get R.SEED_DRBG_FAILS) 1 ∧ m.get R.SEED_DRBG_RESEEDS = s.mach.get R.SEED_DRBG_RESEEDS ∧
      RegsBut s [whole R.SEED_DRBG_HEALTHY.key] m ∧ m = { s.mach with regs := m.regs, errs := [⟨12, .seed, 0, 16, sevContained, none, 0, none, false⟩] })) ∧
  (∀ (s : State) (slot : BitVec 12) (n : Nat), n = slot.toNat → (s.mach.slot n).state ≠ 0 → (s.mach.slot n).state ≠ 4 →
    Does (.slotUncorrectable slot) s (fun m =>
      m.slot n = ⟨0, 0, 0, 0, false, ((s.mach.slot n).gen + 1) % 2 ^ 16, 0, 0, 0, 0, []⟩ ∧ TblBut s.dev.slots [n] m.slots ∧
      (∀ k, m.ivBlocks.find k = if k / 4 = n then none else s.dev.ivBlocks.find k) ∧
      m = { s.mach with slots := m.slots, ivBlocks := m.ivBlocks, errs := [⟨12, .seed, 0, 17, if n < 16 then sevFatal else sevContained, none, n, none, false⟩] })) ∧
  (∀ (s : State) (slot : BitVec 12), (s.mach.slot slot.toNat).state = 0 ∨ (s.mach.slot slot.toNat).state = 4 →
    Does (.slotUncorrectable slot) s (fun m =>
      m = { s.mach with errs := [⟨12, .seed, 0, 17, if slot.toNat < 16 then sevFatal else sevContained, none, slot.toNat, none, false⟩] }))

/-- R335: MEMROT.GO, or the count of the current pair reaching MEMROT_AT, fills the other pair, sets ACTIVE and zeroes the four cursors. R336: the walk of a
quadrant passes an entry that is neither in Bed nor in Frame, and defers a page in a move. R341: SHEDROT does the same for the Shed slots and makes the new
slot current at once; the rotation goes on while the old slot's SHED_UNITS is not 0. The keys drawn are free values (log 3).
The clauses say too where such a command changes nothing. -/
def Obligations.KeyRotationsComplete : Prop :=
  (∀ (s : State) (src : Src) (i : Instr) (n : Nat), n = 10 - 2 * s.mach.get R.SEED_MEMROT_CUR →
    (i = .memrotGo src ∧ MayWrite s src 12 .seed 0 ∨
      i = .memrotAuto ∧ s.mach.on R.SEED_MEMROT_AUTO = true ∧ s.mach.get R.SEED_MEMROT_AT_USE ≠ 0 ∧
        s.mach.get R.SEED_MEMROT_AT_USE ≤ (s.mach.slot (8 + 2 * s.mach.get R.SEED_MEMROT_CUR)).use) →
    s.mach.on R.SEED_MEMROT_ACTIVE = false → (∀ q < 4, s.mach.tierReady q = true) → (s.mach.slot n).state = 0 → (s.mach.slot (n + 1)).state = 0 →
    s.mach.on R.SEED_DRBG_HEALTHY = true →
    Does i s (fun m =>
      (∀ j < 2, (m.slot (n + j)).state = 1 ∧ (m.slot (n + j)).alg = 2 + j ∧ (m.slot (n + j)).usage = 2 ^ useMemory ∧ (m.slot (n + j)).owner = 0 ∧
        (m.slot (n + j)).pkgOwned = true ∧ (m.slot (n + j)).gen = ((s.mach.slot (n + j)).gen + 1) % 2 ^ 16 ∧ (m.slot (n + j)).use = 0 ∧
        (m.slot (n + j)).limit = (s.mach.slot (n + j)).limit ∧ (m.slot (n + j)).ivctr = 0 ∧ (m.slot (n + j)).key.length = 32) ∧
      TblBut s.dev.slots [n, n + 1] m.slots ∧ m.get R.SEED_MEMROT_ACTIVE = 1 ∧ m.get R.SEED_MEMROT_CUR = s.mach.get R.SEED_MEMROT_CUR ∧
      m.get R.SEED_MEMROT_COUNT = s.mach.get R.SEED_MEMROT_COUNT ∧ m.get R.SEED_MEMROT_REFUSED = s.mach.get R.SEED_MEMROT_REFUSED ∧
      (∀ q < 4, m.get (R.SEED_MEMROT_CUR_CURSOR.at q) = 0) ∧ m.get R.SEED_DRBG_RESEEDS = (s.mach.get R.SEED_DRBG_RESEEDS + 1) % 2 ^ 32 ∧
      RegsBut s ([whole R.SEED_MEMROT_ACTIVE.key, whole R.SEED_DRBG_RESEEDS.key] ++ [0, 1, 2, 3].map (fun q => whole ((R.SEED_MEMROT_CUR_CURSOR.at q).key))) m ∧
      (∀ k, m.ivBlocks.find k = if k / 4 ∈ [n, n + 1] then none else s.dev.ivBlocks.find k) ∧
      m = { s.mach with regs := m.regs, slots := m.slots, ivBlocks := m.ivBlocks, free := m.free })) ∧
  (∀ (s : State) (q : Fin 4) (i e : Nat) (d : Bool), Quiet s → s.mach.on R.SEED_SHEDROT_ACTIVE = false → s.mach.on R.SEED_MEMROT_ACTIVE = true → s.mach.tierReady q.val = true →
    i = s.mach.get (R.SEED_MEMROT_CUR_CURSOR.at q.val) → i + 1 < s.mach.mapEntries → e = s.mach.entry (pageAt q.val i) → d = (!s.mach.mapUnreadable (pageAt q.val i) && (eState e == stPromoting || eState e == stDemoting)) →
    (s.mach.mapUnreadable (pageAt q.val i) = true ∨ ¬(eState e = stStable ∧ (eTier e = tierBed ∨ eTier e = tierFrame))) →
    Does (.memrotRekey q) s (fun m =>
      m.get (R.SEED_MEMROT_CUR_CURSOR.at q.val) = i + 1 ∧
      m.tq q.val = (if d = true then { s.mach.tq q.val with deferred := (s.mach.tq q.val).deferred ++ [pageAt q.val i] } else s.mach.tq q.val) ∧
      (∀ j < 4, j ≠ q.val → m.tq j = s.mach.tq j) ∧ RegsBut s [whole ((R.SEED_MEMROT_CUR_CURSOR.at q.val).key)] m ∧
      m.get (R.SEED_MEMROT_CUR_DEFERRED.at q.val) =
        (if d = true then ((s.mach.tq q.val).deferred.length + 1) % 2 ^ 7 else s.mach.get (R.SEED_MEMROT_CUR_DEFERRED.at q.val)) ∧
      m = { s.mach with regs := m.regs, tierq := m.tierq })) ∧
  (∀ (s : State) (q : Fin 4) (i e p f cur : Nat), Quiet s → s.mach.on R.SEED_SHEDROT_ACTIVE = false → s.mach.on R.SEED_MEMROT_ACTIVE = true → s.mach.tierReady q.val = true →
    i = s.mach.get (R.SEED_MEMROT_CUR_CURSOR.at q.val) → i + 1 < s.mach.mapEntries → p = pageAt q.val i → e = s.mach.entry p → s.mach.mapUnreadable p = false →
    eState e = stStable → eTier e = tierBed → (s.mach.tq q.val).poisonLater.contains p = false → f = eLoc e * 4096 → cur = s.mach.get R.SEED_MEMROT_CUR →
    (∀ j < 64, s.mach.metaOf (f + 64 * j) = ⟨false, [], some ⟨(s.mach.slot (8 + 2 * cur)).key ++ (s.mach.slot (9 + 2 * cur)).key, (p / 64 + j) * 4⟩⟩) →
    Does (.memrotRekey q) s (fun m =>
      (∀ j < 64, m.lineAt (f + 64 * j) = s.mach.lineAt (f + 64 * j) ∧
        m.metaOf (f + 64 * j) = ⟨false, [], some ⟨(s.mach.slot (10 - 2 * cur)).key ++ (s.mach.slot (11 - 2 * cur)).key, (p / 64 + j) * 4⟩⟩) ∧
      (∀ a, m.byte a = s.mach.byte a) ∧ (∀ a, a / 4096 ≠ eLoc e → m.metaOf a = s.mach.metaOf a) ∧
      m.get (R.SEED_MEMROT_CUR_CURSOR.at q.val) = i + 1 ∧ m.get (R.SEED_REKEY_PAGE_VALID.at q.val) = 0 ∧ TblBut s.dev.slots [10 - 2 * cur] m.slots ∧ (∀ j, m.entry j = s.mach.entry j) ∧ MapBut s [p] m ∧
      RegsBut s [whole ((R.SEED_MEMROT_CUR_CURSOR.at q.val).key), whole ((R.SEED_REKEY_PAGE_PAGE.at q.val).key), whole ((R.SEED_REKEY_DONE_DONE.at q.val).key)] m ∧
      m = { s.mach with regs := m.regs, pmap := m.pmap, mapDirty := m.mapDirty, slots := m.slots, lineMeta := m.lineMeta, wr := m.wr, errs := m.errs })) ∧
  (∀ (s : State) (q : Fin 4) (i e p f cur : Nat), Quiet s → s.mach.on R.SEED_SHEDROT_ACTIVE = false → s.mach.on R.SEED_MEMROT_ACTIVE = true → s.mach.tierReady q.val = true →
    i = s.mach.get (R.SEED_MEMROT_CUR_CURSOR.at q.val) → i + 1 < s.mach.mapEntries → p = pageAt q.val i → e = s.mach.entry p → s.mach.mapUnreadable p = false →
    eState e = stStable → eTier e = tierFrame → (s.mach.tq q.val).poisonLater.contains p = false → f = eLoc e * 512 → cur = s.mach.get R.SEED_MEMROT_CUR →
    (∀ u < ePlots e + 1, ∀ j < 8, s.mach.metaOf (f + 512 * u + 64 * j) = ⟨false, [], some ⟨(s.mach.slot (8 + 2 * cur)).key ++ (s.mach.slot (9 + 2 * cur)).key, 1 + u * 4 + p / 4096 * 64⟩⟩) →
    Does (.memrotRekey q) s (fun m =>
      (∀ u < ePlots e + 1, ∀ j < 8, m.metaOf (f + 512 * u + 64 * j) = ⟨false, [], some ⟨(s.mach.slot (10 - 2 * cur)).key ++ (s.mach.slot (11 - 2 * cur)).key, 1 + u * 4 + p / 4096 * 64⟩⟩) ∧
      (∀ a, m.byte a = s.mach.byte a) ∧ (∀ a, a < f ∨ f + 512 * (ePlots e + 1) ≤ a → m.metaOf a = s.mach.metaOf a) ∧
      m.get (R.SEED_MEMROT_CUR_CURSOR.at q.val) = i + 1 ∧ m.get (R.SEED_REKEY_PAGE_VALID.at q.val) = 0 ∧ TblBut s.dev.slots [10 - 2 * cur] m.slots ∧
      (∀ j, m.entry j = s.mach.entry j) ∧ MapBut s [p] m ∧
      RegsBut s [whole ((R.SEED_MEMROT_CUR_CURSOR.at q.val).key), whole ((R.SEED_REKEY_PAGE_PAGE.at q.val).key), whole ((R.SEED_REKEY_DONE_DONE.at q.val).key)] m ∧
      m = { s.mach with regs := m.regs, pmap := m.pmap, mapDirty := m.mapDirty, slots := m.slots, lineMeta := m.lineMeta, wr := m.wr, errs := m.errs })) ∧
  (∀ (s : State) (q : Fin 4), s.mach.on R.SEED_MEMROT_ACTIVE = false → Idle s →
    Leaves (.memrotRekey q) s s.mach ∧ (s.mach.on R.SEED_MEMROT_AUTO = false → Leaves .memrotAuto s s.mach) ∧ (s.mach.on R.SEED_SHEDROT_AUTO = false → Leaves .shedrotAuto s s.mach)) ∧
  (∀ (s : State) (src : Src) (i : Instr) (n old : Nat), n = 13 - s.mach.get R.SEED_SHEDROT_CUR → old = s.mach.get R.SEED_SHEDROT_CUR →
    (i = .shedrotGo src ∧ MayWrite s src 12 .seed 0 ∨
      i = .shedrotAuto ∧ s.mach.on R.SEED_SHEDROT_AUTO = true ∧ s.mach.get R.SEED_SHEDROT_AT_USE ≠ 0 ∧ s.mach.get R.SEED_SHEDROT_AT_USE ≤ (s.mach.slot s.mach.shedSlot).use) →
    Idle s → (s.mach.slot n).state = 0 → s.mach.on R.SEED_DRBG_HEALTHY = true → s.mach.mirrorFed = false → (∀ k < 64, s.mach.shelfState k ≠ 2) →
    s.mach.get (R.SEED_SHED_UNITS_UNITS.at old) ≠ 0 →
    Does i s (fun m =>
      (m.slot n).state = 1 ∧ (m.slot n).alg = 1 ∧ (m.slot n).usage = 2 ^ useShed ∧ (m.slot n).owner = 0 ∧ (m.slot n).pkgOwned = true ∧
      (m.slot n).gen = ((s.mach.slot n).gen + 1) % 2 ^ 16 ∧ (m.slot n).use = 0 ∧ (m.slot n).limit = (s.mach.slot n).limit ∧ (m.slot n).ivctr = 0 ∧
      (m.slot n).key.length = 32 ∧ TblBut s.dev.slots [n] m.slots ∧ m.get R.SEED_SHEDROT_ACTIVE = 1 ∧ m.get R.SEED_SHEDROT_CUR = 1 - old ∧
      m.get R.SEED_SHEDROT_COUNT = s.mach.get R.SEED_SHEDROT_COUNT ∧ m.get R.SEED_DRBG_RESEEDS = (s.mach.get R.SEED_DRBG_RESEEDS + 1) % 2 ^ 32 ∧
      RegsBut s [whole R.SEED_SHEDROT_ACTIVE.key, whole R.SEED_DRBG_RESEEDS.key] m ∧ 
      (∀ k, m.ivBlocks.find k = if k / 4 = n then none else s.dev.ivBlocks.find k) ∧ m = { s.mach with regs := m.regs, slots := m.slots, ivBlocks := m.ivBlocks, free := m.free })) ∧
  (∀ (s : State) (src : Src) (n : Nat), MayWrite s src 12 .seed 0 → n = s.mach.get R.SEED_MEMROT_CUR → n < 2 →
    (s.mach.on R.SEED_MEMROT_ACTIVE = true ∨ s.mach.on R.SEED_DRBG_HEALTHY = false ∨ (s.mach.slot (10 - 2 * n)).state ≠ 0) →
    Does (.memrotGo src) s (fun m => m.get R.SEED_MEMROT_REFUSED = 1 ∧ OnlyRegs s [R.SEED_MEMROT_REFUSED.bits] m))

/-- R362: a doorbell sets TAIL or HEAD of the tenant's local queue. R361: START makes an Off queue Running with HALT_CAUSE 0; STOP makes a Running or Halted
one Stopping, or Off where nothing accepted is left. R365, R366, R367: an entry that passes its checks is written to the queue log, accepted (HEAD,
NEXT_SEQ, COUNT and TACCEPTED advance) and shown in the acceptance record. R372: the completion of a refused entry is written at CQ_TAIL with the
ring's PHASE. R319: with the completion of an encryption its tag goes into the parameter
block, its message leaves the pipe and its log entry is marked completed. R324 to R326: the oldest suspended message of an idle pipe runs again; where its time
had passed, for a further 64 KiB before it may be suspended once more. -/
def Obligations.QueuesAndPipesComplete : Prop :=
  (∀ (s : State) (tenant : BitVec 11) (index : BitVec 8) (tail : BitVec 16) (n : Nat), s.mach.localQueue tenant.toNat index.toNat = some n →
    Does (.sqDoorbell tenant index tail) s (fun m =>
      m.queue n = { s.mach.queue n with tail := tail.toNat } ∧ (∀ k, k ≠ n → m.queue k = s.mach.queue k) ∧ m = { s.mach with queues := m.queues })) ∧
  (∀ (s : State) (tenant : BitVec 11) (index : BitVec 8) (head : BitVec 16) (n : Nat), s.mach.localQueue tenant.toNat index.toNat = some n →
    (s.mach.queue n).held = [] → (s.mach.queue n).state ≠ 2 → Idle s →
    Does (.cqDoorbell tenant index head) s (fun m =>
      m.queue n = { s.mach.queue n with cqHead := head.toNat } ∧ (∀ k, k ≠ n → m.queue k = s.mach.queue k) ∧ m = { s.mach with queues := m.queues })) ∧
  (∀ (s : State) (tenant : BitVec 11) (index : BitVec 8), s.mach.localQueue tenant.toNat index.toNat = none →
    (∀ tail, Leaves (.sqDoorbell tenant index tail) s s.mach) ∧ (∀ head, Leaves (.cqDoorbell tenant index head) s s.mach)) ∧
  (∀ (s : State) (src : Src) (queue : BitVec 13) (i : Instr) (n : Nat) (x : Queue), MayWrite s src 12 .ten 0 → n = queue.toNat →
    (∀ t, s.mach.queueOwner n = some t → s.mach.durableTenant t = false) →
    (i = .queueStart src queue ∧ (s.mach.queue n).state = 0 ∧ x = { s.mach.queue n with state := 1, halt := 0 } ∨
      i = .queueStop src queue ∧ ((s.mach.queue n).state = 1 ∨ (s.mach.queue n).state = 3) ∧
        x = { s.mach.queue n with state := if queueBusy (s.mach.queue n) = false ∧ (s.mach.queue n).live = [] then 0 else 2 }) →
    Does i s (fun m =>
      m.queue n = x ∧ (∀ k, k ≠ n → m.queue k = s.mach.queue k) ∧ m.get R.TEN_QSEL_QUEUE = n ∧ RegsBut s [R.TEN_QSEL_QUEUE.bits] m ∧
      m = { s.mach with regs := m.regs, queues := m.queues })) ∧
  (∀ (s : State) (src : Src) (queue : BitVec 13) (i : Instr), MayWrite s src 12 .ten 0 →
    (i = .queueStart src queue ∧ (s.mach.queue queue.toNat).state ≠ 0 ∨ i = .queueStop src queue ∧ (s.mach.queue queue.toNat).state ≠ 1 ∧ (s.mach.queue queue.toNat).state ≠ 3) →
    Does i s (fun m => m.get R.TEN_QSEL_QUEUE = queue.toNat ∧ OnlyRegs s [R.TEN_QSEL_QUEUE.bits] m)) ∧
  (∀ (s : State) (queue : BitVec 13), Idle s →
    (s.mach.queueOwner queue.toNat = none ∨ (s.mach.queue queue.toNat).state ≠ 1 ∨ (s.mach.queue queue.toNat).head = (s.mach.queue queue.toNat).tail % (s.mach.queue queue.toNat).size) →
    Leaves (.descriptorFetch queue) s s.mach) ∧
  (∀ (s : State) (queue : BitVec 13) (n t spa aspa la : Nat) (l old : Line) (x : Queue) (d : Desc) (ent : List Byte) (ws : List (Nat × Nat × Line)), n = queue.toNat →
    s.mach.queueOwner n = some t → x = s.mach.queue n → Idle s → NoUncore s → x.state = 1 → (s.mach.tenant t).state = 1 → x.head ≠ x.tail % x.size → s.mach.bulkReady x.quad = true →
    s.mach.takesNew .bulk x.quad = true → s.mach.takesWork t x.quad = true → (∀ e ∈ x.live, e.waitAck = false) → s.mach.durableTenant t = false → s.dev.rstale = [] →
    (s.mach.lookup (s.mach.tenant t).rset (x.sq + 64 * x.head) false).2.toOption = some spa → s.mach.ownerLine (spa / 64) = some (l, false) →
    d = newDesc (bytesOf 64 l.toNat) (s.mach.tenant t).gen t → d.field 4 2 = (s.mach.tenant t).gen → d.seq = x.nextSeq → 0 < d.op → d.op ≤ 0x0E → bitsOf d.ivctl 5 1 = 0 →
    ent = d.bytes ++ bytesOf 4 1 ++ bytesOf 2 d.gen ++ bytesOf 2 0 ++ d.iv ++ bytesOf 12 0 ++ bytesOf 32 0 →
    logAt x d.seq % 64 = 0 → (∀ i < 2, BedPage s (logAt x d.seq / 64 + i) ∧ s.mach.lineBusy (logAt x d.seq / 64 + i) = false ∧
      eDur (s.mach.entry (pageOf ((logAt x d.seq / 64 + i) * 64))) = false ∧ NoDw s (logAt x d.seq / 64 + i)) → Dest s t x.acc 16 aspa la old → aspa / 64 ∉ [logAt x d.seq / 64, logAt x d.seq / 64 + 1] →
    ws = [0, 1].map (fun i => (logAt x d.seq / 64 + i, bedLda (eLoc (s.mach.entry (pageOf ((logAt x d.seq / 64 + i) * 64)))) ((logAt x d.seq / 64 + i) * 64), lineOfBytes ent i)) ++
      [(aspa / 64, la, putIn old aspa (bytesOf 4 ((x.nextSeq + 1) % 2 ^ 32) ++ bytesOf 2 (s.mach.tenant t).gen ++ bytesOf 1 0 ++ bytesOf 1 0 ++ bytesOf 8 ((x.count + 1) % 2 ^ 64)))] →
    (∀ w ∈ ws, ∀ v ∈ ws, w.1 ≠ v.1 → w.2.1 / 64 ≠ v.2.1 / 64) →
    Does (.descriptorFetch queue) s (fun m =>
      m.queue n = { x with head := (x.head + 1) % x.size, nextSeq := (x.nextSeq + 1) % 2 ^ 32, count := (x.count + 1) % 2 ^ 64, live := x.live ++ [{ d with logged := true }] } ∧
      (∀ k, k ≠ n → m.queue k = s.mach.queue k) ∧
      m.tenant t = { s.mach.tenant t with accepted := ((s.mach.tenant t).accepted + 1) % 2 ^ 64 } ∧ TblBut s.dev.tenants [t] m.tenants ∧
      Stored s ws m ∧ TblBut s.dev.slots (memSlots s ws) m.slots ∧ RegsBut s ([0, 1, 2, 3].map (fun q => R.HOME_SF_STATUS_OCCUPIED.bits q)) m ∧
      Aged s m ∧
      m = { s.mach with
        regs := m.regs, pmap := m.pmap, mapDirty := m.mapDirty, tierq := m.tierq, queues := m.queues, tenants := m.tenants, slots := m.slots, lines := m.lines, filter := m.filter, lineMeta := m.lineMeta, wr := m.wr, errs := m.errs })) ∧
  (∀ (s : State) (queue : BitVec 13) (index : BitVec 8) (n t spa la : Nat) (old : Line) (x : Queue) (d : Desc), n = queue.toNat → s.mach.queueOwner n = some t →
    x = s.mach.queue n → Idle s → NoUncore s → x.run[index.toNat]? = some d → d.logged = false → d.cancelled = false → d.suspended = false → d.heldLines = [] → d.acks = [] → d.pipe = none → d.tag = none →
    d.gen = (s.mach.tenant t).gen → d.tenant = t → s.mach.bulkReady x.quad = true → x.held = [] → slotFree x = true → d.flags / 2 % 2 = 0 → x.state ≠ 2 → Dest s t (x.cq + 32 * x.cqTail) 32 spa la old →
    Does (.completionWrite queue index) s (fun m =>
      m.queue n = { x with
        run := x.run.eraseIdx index.toNat
        cqTail := if x.cqTail + 1 = x.size then 0 else x.cqTail + 1, phase := if x.cqTail + 1 = x.size then !x.phase else x.phase } ∧
      (∀ k, k ≠ n → m.queue k = s.mach.queue k) ∧ m.tenant t = { s.mach.tenant t with completed := ((s.mach.tenant t).completed + 1) % 2 ^ 64 } ∧
      TblBut s.dev.tenants [t] m.tenants ∧ m.get R.BULK_COMPLETED_COUNT x.quad = (s.mach.get R.BULK_COMPLETED_COUNT x.quad + 1) % 2 ^ R.BULK_COMPLETED_COUNT.w ∧
      Stored s [(spa / 64, la, putIn old spa (completionBytes d x.phase))] m ∧ TblBut s.dev.slots (memSlots s [(spa / 64, la, old)]) m.slots ∧
      RegsBut s [R.BULK_COMPLETED_COUNT.bits x.quad, R.HOME_SF_STATUS_OCCUPIED.bits (homeOf spa)] m ∧
      Aged s m ∧
      m = { s.mach with
        regs := m.regs, pmap := m.pmap, mapDirty := m.mapDirty, tierq := m.tierq, queues := m.queues, tenants := m.tenants, slots := m.slots, lines := m.lines, filter := m.filter, lineMeta := m.lineMeta, wr := m.wr, errs := m.errs })) ∧
  (∀ (s : State) (queue : BitVec 13) (index : BitVec 8), Idle s →
    ((s.mach.queue queue.toNat).run[index.toNat]? = none ∨ s.mach.bulkReady (s.mach.queue queue.toNat).quad = false) → Leaves (.completionWrite queue index) s s.mach) ∧
  (∀ (s : State) (queue : BitVec 13) (index : BitVec 8) (n t p spa la tpa ta lla l0 : Nat) (old told lold : Line) (x : Queue) (d : Desc) (c : CMsg) (tag : List Byte),
    n = queue.toNat → s.mach.queueOwner n = some t → x = s.mach.queue n → Idle s → NoUncore s → x.run = [d] → index = 0 → d.logged = true → d.cancelled = false → d.suspended = false →
    d.heldLines = [] → d.acks = [] → d.status = 0 → d.op ∈ [0x05, 0x09] → d.tag = some tag → tag.length = 16 → bitsOf d.ivctl 5 1 = 0 → d.pipe = some p →
    s.mach.pipe x.quad p = ⟨some c, []⟩ → c.queue = n → c.seq = d.seq → d.gen = (s.mach.tenant t).gen → d.tenant = t → s.mach.durableTenant t = false → s.mach.bulkReady x.quad = true →
    x.held = [] → slotFree x = true → d.flags / 2 % 2 = 0 → x.state = 1 → l0 = logAt x d.seq + 64 → l0 % 64 = 0 → Dest s t (x.cq + 32 * x.cqTail) 32 spa la old →
    Dest s t (d.aad + 16) 16 tpa ta told → Target s (l0 / 64) lla lold → spa / 64 ≠ tpa / 64 → spa / 64 ≠ l0 / 64 → tpa / 64 ≠ l0 / 64 → la / 64 ≠ ta / 64 → la / 64 ≠ lla / 64 → ta / 64 ≠ lla / 64 →
    Does (.completionWrite queue index) s (fun m =>
      m.queue n = { x with
        run := []
        cqTail := if x.cqTail + 1 = x.size then 0 else x.cqTail + 1, phase := if x.cqTail + 1 = x.size then !x.phase else x.phase } ∧
      (∀ k, k ≠ n → m.queue k = s.mach.queue k) ∧ m.tenant t = { s.mach.tenant t with completed := ((s.mach.tenant t).completed + 1) % 2 ^ 64 } ∧
      m.lineAt ta = putIn told tpa tag ∧ m.lineAt la = putIn old spa (completionBytes d x.phase) ∧
      m.lineAt lla = putIn (putIn lold l0 [2]) (l0 + 32) (completionBytes d x.phase) ∧
      m.pipe x.quad p = ⟨none, []⟩ ∧ m.get R.CIPH_MESSAGES_COUNT x.quad = (s.mach.get R.CIPH_MESSAGES_COUNT x.quad + 1) % 2 ^ R.CIPH_MESSAGES_COUNT.w ∧
      m.get R.BULK_COMPLETED_COUNT x.quad = (s.mach.get R.BULK_COMPLETED_COUNT x.quad + 1) % 2 ^ R.BULK_COMPLETED_COUNT.w ∧
      TblBut s.dev.pipes [x.quad * 8 + p] m.pipes ∧ TblBut s.dev.tenants [t] m.tenants)) ∧
  (∀ (s : State) (q : Fin 4) (pipe : Fin 6) (i : Instr) (c : CMsg) (rest : List CMsg) (d : Desc),
    (i = .messageResume q pipe ∧ s.mach.urgentWaits q.val (decide (4 ≤ pipe.val)) = false ∨ i = .suspendTimeout q pipe) →
    s.mach.pipe q.val pipe.val = ⟨none, c :: rest⟩ → (s.mach.queue c.queue).run.find? (fun d => d.logged && d.seq == c.seq && d.pipe == some pipe.val) = some d →
    s.mach.keySame c (d.op == 0x06 || d.op == 0x0A) = true →
    Does i s (fun m =>
      m.pipe q.val pipe.val = ⟨some { c with due := false, floor := if c.due = true ∨ i = .suspendTimeout q pipe then c.ctx.pos + 65536 else c.floor }, rest⟩ ∧ TblBut s.dev.pipes [q.val * 8 + pipe.val] m.pipes ∧
      m.queue c.queue = { s.mach.queue c.queue with run := (s.mach.queue c.queue).run.map (fun e => if e.logged ∧ e.seq = c.seq then { e with suspended := false } else e) } ∧
      (∀ k, k ≠ c.queue → m.queue k = s.mach.queue k) ∧ m = { s.mach with pipes := m.pipes, queues := m.queues })) ∧
  (∀ (s : State) (q : Fin 4) (pipe : Fin 6), ((s.mach.pipe q.val pipe.val).run ≠ none ∨ (s.mach.pipe q.val pipe.val).saved = []) →
    Leaves (.messageResume q pipe) s s.mach ∧
    Does (.suspendTimeout q pipe) s (fun m =>
      m.pipe q.val pipe.val = { s.mach.pipe q.val pipe.val with
        saved := match (s.mach.pipe q.val pipe.val).saved with
          | [] => []
          | c :: r => { c with due := true } :: r } ∧ TblBut s.dev.pipes [q.val * 8 + pipe.val] m.pipes ∧ m = { s.mach with pipes := m.pipes }))

/-- R353: CREATE makes a Free context Running with the staged configuration and its queues Off; R357: RESIZE replaces what may change of a Running one. R354, R355:
RESET and DESTROY make it Resetting or Destroying and cancel its work, and once that work is drained its GEN advances, its queues are Off and it is Running or
Free. R356: ATTACH makes the homes refuse the tenant's lines and starts the four sweeps; DETACH takes it back. RESULT is 0 where the command ends. The
tenant is not durable and the package presents no logical device; no register outside the TEN page and the sweeps changes.
The clauses say too where such a command changes nothing. -/
def Obligations.TenantCommandsComplete : Prop :=
  (∀ (s : State) (src : Src) (tenant : BitVec 11) (cfg : TenantCfg) (i : Instr) (t : Nat) (x : Tenant), MayWrite s src 12 .ten 0 → Idle s → s.mach.tenReady = true →
    s.mach.on R.TEN_TCMD_BUSY = false → t = tenant.toNat → s.mach.mirrorFed = false → cfg.keys.length = 8 → cfg.kind.val ≠ 3 →
    (i = .tenCreate src tenant cfg ∧ (s.mach.tenant t).state = 0 ∧ (cfg.kind.val = 1 → ∀ e ∈ s.dev.tenants, e.2.state = 0 ∨ e.2.kind ≠ 1 ∨ e.2.ld ≠ cfg.ld.toNat) ∧
        x = { s.mach.tenant t with
          state := 1, attached := false, consent := false, kind := cfg.kind.val, durable := cfg.durable, rset := cfg.rset.toNat
          queues := cfg.queues.toNat, qbase := cfg.qbase.toNat, bw := cfg.bw.toNat, lant := cfg.lant.toNat, ld := cfg.ld.toNat
          keys := cfg.keys.map (fun k => k.map BitVec.toNat), qBed := cfg.bed.toNat, qFrame := cfg.frame.toNat, qShed := cfg.shed.toNat
          unbound := (List.range 8).map (fun n => if (cfg.keys.getD n none).isSome then 0 else s.mach.get (R.TEN_TKEY_SLOT.at n)) } ∨
      i = .tenResize src tenant cfg ∧ (s.mach.tenant t).state = 1 ∧ ((s.mach.tenant t).durable = true → cfg.durable = true ∨ (s.mach.tenant t).consent = true) ∧
        (∀ k < (s.mach.tenant t).queues, cfg.queues.toNat ≤ k → (s.mach.queue ((s.mach.tenant t).qbase + k)).state = 0) ∧
        x = { s.mach.tenant t with
          durable := cfg.durable, queues := cfg.queues.toNat, bw := cfg.bw.toNat, lant := cfg.lant.toNat
          keys := cfg.keys.map (fun k => k.map BitVec.toNat), qBed := cfg.bed.toNat, qFrame := cfg.frame.toNat, qShed := cfg.shed.toNat
          unbound := (List.range 8).map (fun n => if (cfg.keys.getD n none).isSome then 0 else keyWord (s.mach.tenant t) n % 2 ^ 12) }) →
    badConfig x = false → s.mach.overdraws t x = false → s.mach.clash t x = false →
    Does i s (fun m =>
      m.tenant t = x ∧ TblBut s.dev.tenants [t] m.tenants ∧ m.get R.TEN_TCMD_RESULT = 0 ∧ m.get R.TEN_TCMD_BUSY = 0 ∧ m.get R.TEN_TSEL_TENANT = t ∧
      (∀ n, m.queue n = if i = .tenCreate src tenant cfg ∧ x.qbase ≤ n ∧ n < x.qbase + x.queues then { s.mach.queue n with state := 0 } else s.mach.queue n) ∧
      PagesBut s [pageOff 12 .ten 0] m ∧ m = { s.mach with regs := m.regs, tenants := m.tenants, queues := m.queues })) ∧
  (∀ (s : State) (src : Src) (tenant : BitVec 11) (i : Instr) (t st op : Nat), MayWrite s src 12 .ten 0 → Idle s → s.mach.tenReady = true → s.mach.on R.TEN_TCMD_BUSY = false →
    t = tenant.toNat → t ≠ 0 → (s.mach.tenant t).state = 1 → (i = .tenReset src tenant ∧ st = 2 ∧ op = 3 ∨ i = .tenantDestroy src tenant ∧ (s.mach.tenant t).attached = false ∧ st = 3 ∧ op = 4) →
    (∀ k < (s.mach.tenant t).queues, ∀ d ∈ (s.mach.queue ((s.mach.tenant t).qbase + k)).run, d.logged = false ∨ d.cancelled = true) →
    Does i s (fun m =>
      m.tenant t = { s.mach.tenant t with state := st } ∧ TblBut s.dev.tenants [t] m.tenants ∧ m.tenCmd = some (op, t) ∧ m.get R.TEN_TCMD_BUSY = 1 ∧
      (∀ n, m.queue n = if (s.mach.tenant t).qbase ≤ n ∧ n < (s.mach.tenant t).qbase + (s.mach.tenant t).queues then
        { s.mach.queue n with
          live := (s.mach.queue n).live.filter (·.waitAck)
          run := (s.mach.queue n).run.map (fun d => { d with cancelled := true, pipe := none, suspended := false })
          held := (s.mach.queue n).held.map (fun d => { d with cancelled := true, pipe := none, suspended := false }) } else s.mach.queue n) ∧
      PagesBut s [pageOff 12 .ten 0] m ∧ m = { s.mach with regs := m.regs, tenants := m.tenants, queues := m.queues, tenCmd := m.tenCmd })) ∧
  (∀ (s : State) (src : Src) (tenant : BitVec 11) (i : Instr) (t st op : Nat), MayWrite s src 12 .ten 0 → Idle s → s.mach.tenReady = true → s.mach.on R.TEN_TCMD_BUSY = false →
    t = tenant.toNat → t ≠ 0 → (s.mach.tenant t).state = 1 → (i = .tenReset src tenant ∧ st = 2 ∧ op = 3 ∨ i = .tenantDestroy src tenant ∧ (s.mach.tenant t).attached = false ∧ st = 3 ∧ op = 4) →
    Does i s (fun m =>
      m.tenant t = { s.mach.tenant t with state := st } ∧ TblBut s.dev.tenants [t] m.tenants ∧ m.tenCmd = some (op, t) ∧ m.get R.TEN_TCMD_BUSY = 1 ∧
      (∀ k < (s.mach.tenant t).queues, (m.queue ((s.mach.tenant t).qbase + k)).live = (s.mach.queue ((s.mach.tenant t).qbase + k)).live.filter (·.waitAck) ∧
        ∀ d ∈ (m.queue ((s.mach.tenant t).qbase + k)).run, d.cancelled = true ∧ d.pipe = none))) ∧
  (∀ (s : State) (tenant : BitVec 11) (t op : Nat) (x : Tenant), Idle s → t = tenant.toNat → s.dev.tenCmd = some (op, t) →
    s.mach.mirrorFed = false → (∀ e ∈ s.dev.lds, e.2.flr = false) →
    (∀ k < (s.mach.tenant t).queues, (s.mach.queue ((s.mach.tenant t).qbase + k)).nextSeq = 0 ∧ (s.mach.queue ((s.mach.tenant t).qbase + k)).live = []) →
    ((s.mach.tenant t).state = 2 ∧ op = 3 ∧ x = { s.mach.tenant t with state := 1, gen := ((s.mach.tenant t).gen + 1) % 2 ^ 16 } ∨
      (s.mach.tenant t).state = 3 ∧ op = 4 ∧
        x = { s.mach.tenant t with
          state := 0, gen := ((s.mach.tenant t).gen + 1) % 2 ^ 16, attached := false, consent := false, queues := 0, qbase := 0, rset := 0
          qBed := 0, qFrame := 0, qShed := 0, durable := false }) →
    Does (.tenantWorkDrained tenant) s (fun m =>
      m.tenant t = x ∧ TblBut s.dev.tenants [t] m.tenants ∧ m.tenCmd = none ∧ m.get R.TEN_TCMD_BUSY = 0 ∧ m.get R.TEN_TCMD_RESULT = 0 ∧
      (∀ n, m.queue n = if (s.mach.tenant t).qbase ≤ n ∧ n < (s.mach.tenant t).qbase + (s.mach.tenant t).queues then
        { s.mach.queue n with state := 0, halt := 0, nextSeq := 0, head := 0, tail := 0, cqHead := 0, cqTail := 0, phase := true, count := 0, live := [] } else s.mach.queue n) ∧
      RegsBut s [whole R.TEN_TCMD_BUSY.key] m ∧ m = { s.mach with regs := m.regs, tenants := m.tenants, queues := m.queues, tenCmd := none })) ∧
  (∀ (s : State) (tenant : BitVec 11) (t op : Nat) (x : Tenant), Idle s → t = tenant.toNat → s.dev.tenCmd = some (op, t) →
    s.mach.mirrorFed = false →
    ((s.mach.tenant t).state = 2 ∧ op = 3 ∧ x = { s.mach.tenant t with state := 1, gen := ((s.mach.tenant t).gen + 1) % 2 ^ 16 } ∨
      (s.mach.tenant t).state = 3 ∧ op = 4 ∧
        x = { s.mach.tenant t with
          state := 0, gen := ((s.mach.tenant t).gen + 1) % 2 ^ 16, attached := false, consent := false, queues := 0, qbase := 0, rset := 0
          qBed := 0, qFrame := 0, qShed := 0, durable := false }) →
    Does (.tenantWorkDrained tenant) s (fun m =>
      m.tenant t = x ∧ TblBut s.dev.tenants [t] m.tenants ∧ m.tenCmd = none ∧ m.get R.TEN_TCMD_BUSY = 0 ∧ m.get R.TEN_TCMD_RESULT = 0 ∧
      (∀ n, m.queue n = if (s.mach.tenant t).qbase ≤ n ∧ n < (s.mach.tenant t).qbase + (s.mach.tenant t).queues then
        { s.mach.queue n with state := 0, halt := 0, nextSeq := 0, head := 0, tail := 0, cqHead := 0, cqTail := 0, phase := true, count := 0, live := [] } else s.mach.queue n))) ∧
  (∀ (s : State) (src : Src) (tenant : BitVec 11) (t : Nat), MayWrite s src 12 .ten 0 → Idle s → s.mach.tenReady = true → s.mach.on R.TEN_TCMD_BUSY = false →
    t = tenant.toNat → t ≠ 0 → (s.mach.tenant t).state = 1 → (s.mach.tenant t).kind = 1 → (s.mach.tenant t).attached = false → t ∉ s.dev.attached → (∀ e ∈ s.dev.filter, e.2.tenant ≠ t) →
    Does (.tenAttach src tenant) s (fun m =>
      m.attached = s.dev.attached ++ [t] ∧ m.tenCmd = some (5, t) ∧ m.get R.TEN_TCMD_BUSY = 1 ∧
      (∀ q < 4, m.get R.HOME_SWEEP_TENANT q = t ∧ m.get R.HOME_SWEEP_BUSY q = 1 ∧ m.get R.HOME_SWEEP_LINES q = 0) ∧
      PagesBut s ([pageOff 12 .ten 0] ++ [0, 1, 2, 3].map (pageOff 12 .home)) m ∧ m = { s.mach with regs := m.regs, attached := m.attached, sweeping := [(0, t), (1, t), (2, t), (3, t)], tenCmd := m.tenCmd })) ∧
  (∀ (s : State) (src : Src) (tenant : BitVec 11) (t : Nat), MayWrite s src 12 .ten 0 → Idle s → s.mach.tenReady = true → s.mach.on R.TEN_TCMD_BUSY = false →
    t = tenant.toNat → t ≠ 0 → (s.mach.tenant t).state = 1 → (s.mach.tenant t).kind = 1 → (s.mach.tenant t).attached = false →
    Does (.tenAttach src tenant) s (fun m =>
      m.attached.contains t = true ∧ m.tenCmd = some (5, t) ∧ m.get R.TEN_TCMD_BUSY = 1 ∧
      (∀ q < 4, m.get R.HOME_SWEEP_TENANT q = t ∧ m.get R.HOME_SWEEP_BUSY q = 1) ∧ m.tenants = s.dev.tenants ∧ m.queues = s.dev.queues)) ∧
  (∀ (s : State) (src : Src) (tenant : BitVec 11) (t : Nat), MayWrite s src 12 .ten 0 → Idle s → s.mach.tenReady = true → s.mach.on R.TEN_TCMD_BUSY = false →
    t = tenant.toNat → t ≠ 0 → (s.mach.tenant t).state = 1 → (s.mach.tenant t).attached = true → s.mach.mirrorFed = false →
    Does (.tenDetach src tenant) s (fun m =>
      m.tenant t = { s.mach.tenant t with attached := false } ∧ TblBut s.dev.tenants [t] m.tenants ∧ m.attached = s.dev.attached.filter (· != t) ∧
      m.get R.TEN_TCMD_RESULT = 0 ∧ m.get R.TEN_TCMD_BUSY = 0 ∧ PagesBut s [pageOff 12 .ten 0] m ∧ m = { s.mach with regs := m.regs, attached := m.attached, tenants := m.tenants })) ∧
  (∀ (s : State) (src : Src) (tenant : BitVec 11) (i : Instr) (t r : Nat), MayWrite s src 12 .ten 0 → Idle s → s.mach.tenReady = true → s.mach.on R.TEN_TCMD_BUSY = false → t = tenant.toNat →
    i ∈ [Instr.tenReset src tenant, .tenantDestroy src tenant, .tenAttach src tenant, .tenDetach src tenant] → ((t = 0 ∧ r = 7) ∨ (t ≠ 0 ∧ (s.mach.tenant t).state ≠ 1 ∧ r = 1)) →
    Does i s (fun m => m.get R.TEN_TCMD_RESULT = r ∧ m.get R.TEN_TCMD_BUSY = 0 ∧ m.get R.TEN_TSEL_TENANT = t ∧ PagesBut s [pageOff 12 .ten 0] m ∧ m = { s.mach with regs := m.regs })) ∧
  (∀ (s : State) (tenant : BitVec 11), Idle s → (s.mach.tenant tenant.toNat).state ∉ [2, 3] → (∀ e ∈ s.dev.lds, e.2.flr = false) → Leaves (.tenantWorkDrained tenant) s s.mach)

/-- R364: a COPY writes what its source holds, a FILL repeats its pattern, each with OK and BYTES_OUT of LEN; PERSIST of lines no cache holds, and FENCE, write
nothing; PROMOTE_HINT starts a promotion of the tenant's Frame page and DEMOTE_HINT demotes a page of zeros, BYTES_OUT counting the page. The descriptor
leaves the accepted ones and stands last among the started ones (R368). Only the lines written, their copies and the counters named change. -/
def Obligations.CopiesAndHintsComplete : Prop :=
  (∀ (s : State) (queue : BitVec 13) (i : Instr) (n op t : Nat) (d : Desc) (p : Option Nat), n = queue.toNat → Starts s n op t d p →
    (op, i) ∈ [(0x01, Instr.copy queue), (0x02, .fill queue), (0x0B, .promoteHint queue), (0x0C, .demoteHint queue), (0x0D, .persist queue), (0x0E, .bulkFence queue)] →
    Does i s (fun m =>
      (m.queue n).live = (s.mach.queue n).live.drop 1 ∧ (m.queue n).run.dropLast = (s.mach.queue n).run ∧
      (∃ e ∈ (m.queue n).run.getLast?, e = { d with status := e.status, out := e.out, info := e.info, untrusted := e.untrusted, heldLines := e.heldLines, acks := e.acks, pipe := p, tag := e.tag }) ∧
      (∀ k, k ≠ n → m.queue k = s.mach.queue k) ∧
      m.get R.BULK_STARTED_COUNT (s.mach.queue n).quad = (s.mach.get R.BULK_STARTED_COUNT (s.mach.queue n).quad + 1) % 2 ^ R.BULK_STARTED_COUNT.w)) ∧
  (∀ (s : State) (queue : BitVec 13) (i : Instr) (n t spa la inp : Nat) (old : Line) (d : Desc) (b : List Byte), n = queue.toNat →
    (i = .copy queue ∧ Starts s n 0x01 t d none ∧ Source s t d.src d.len b ∧ inp = d.len ∨
      i = .fill queue ∧ Starts s n 0x02 t d none ∧ b = (List.range d.len).map (fun k => ((d.bytes.drop 48).take 8).getD (k % 8) 0) ∧ inp = 0) →
    Dest s t d.dst d.len spa la old →
    Does i s (fun m =>
      Ran s n t d { d with status := 0, out := d.len, info := 0, untrusted := false, heldLines := [], acks := [] } none none noText inp m ∧
      Stored s [(spa / 64, la, putIn old spa b)] m ∧ TblBut s.dev.slots (memSlots s [(spa / 64, la, old)]) m.slots ∧
      RegsBut s [R.BULK_STARTED_COUNT.bits (s.mach.queue n).quad, R.BULK_BYTES_IN_COUNT.bits (s.mach.queue n).quad, R.BULK_BYTES_OUT_COUNT.bits (s.mach.queue n).quad,
        R.HOME_SF_STATUS_OCCUPIED.bits (homeOf spa)] m ∧
      Aged s m ∧
      m = { s.mach with
        regs := m.regs, pmap := m.pmap, mapDirty := m.mapDirty, tierq := m.tierq, queues := m.queues, arb := m.arb, turns := m.turns, slots := m.slots, lines := m.lines, filter := m.filter, lineMeta := m.lineMeta, wr := m.wr, errs := m.errs })) ∧
  (∀ (s : State) (queue : BitVec 13) (i : Instr) (n t : Nat) (d : Desc), n = queue.toNat → s.dev.rstale = [] → s.mach.acceptMode ≠ 4 → s.mach.acceptMode ≠ 6 →
    (i = .persist queue ∧ Starts s n 0x0D t d none ∧
        (∀ k < linesIn d.dst d.len, (viewed s t (max d.dst ((d.dst / 64 + k) * 64)) false).isSome = true ∧
          ∀ spa ∈ viewed s t (max d.dst ((d.dst / 64 + k) * 64)) false, eTier (s.mach.entry (pageOf spa)) ≠ tierNone ∧
            s.mach.tierReady (homeOf spa) = true ∧ s.mach.mapUnreadable (pageOf spa) = false ∧
            s.mach.writeNotReady spa = false ∧ NoDw s (spa / 64) ∧ s.mach.ownerLine (spa / 64) = none ∧ s.mach.mscLine (spa / 64) = none ∧
            (∀ x ∈ s.dev.lines, x.1 % 2 ^ 42 = spa / 64 → x.2.st ≠ LSt.m ∧ x.2.st ≠ LSt.o ∧ x.2.writers = []) ∧ (s.dev.filter.find (spa / 64)).all (fun f => f.st != FSt.o) = true) ∨
      i = .bulkFence queue ∧ Starts s n 0x0E t d none) →
    Does i s (fun m =>
      Ran s n t d { d with status := 0, out := if d.op = 0x0D then d.len else 0, info := 0, untrusted := false, heldLines := [], acks := [] } none none noText 0 m ∧
      RegsBut s [R.BULK_STARTED_COUNT.bits (s.mach.queue n).quad, R.BULK_BYTES_OUT_COUNT.bits (s.mach.queue n).quad] m ∧ m = { s.mach with regs := m.regs, queues := m.queues, arb := m.arb, turns := m.turns })) ∧
  (∀ (s : State) (queue : BitVec 13) (n t spa p e k : Nat) (d : Desc), n = queue.toNat → Starts s n 0x0B t d none → d.len = 4096 → s.dev.rstale = [] →
    viewed s t d.src false = some spa → p = pageOf spa → e = s.mach.entry p → s.mach.tierReady (homeOf p) = true → s.mach.mapUnreadable p = false → eTenant e = t →
    eState e = stStable → eTier e = tierFrame → s.mach.bedNow p = true → s.mach.promoteQuota p = false → s.mach.freeMoveSlot (homeOf p) = some k →
    Does (.promoteHint queue) s (fun m =>
      Ran s n t d { d with status := 0, out := 4096, info := 0, untrusted := false, heldLines := [], acks := [] } none none noText 0 m ∧
      (∃ f, s.mach.poolLo (homeOf p) ≤ f ∧ f < s.mach.poolHi (homeOf p) ∧ s.dev.frames.find f = none ∧ m.frames.find f = some 256 ∧ TblBut s.dev.frames [f] m.frames ∧
        m.moves.find k = some (promotion p e f)) ∧
      TblBut s.dev.moves [k] m.moves ∧ m.entry p = eSetState e stPromoting ∧ MapBut s [p] m ∧
      RegsBut s [R.BULK_STARTED_COUNT.bits (s.mach.queue n).quad, R.BULK_BYTES_OUT_COUNT.bits (s.mach.queue n).quad, whole (R.TIER_FREE_FREE_FRAMES.key (homeOf p)),
        R.TIER_MOVES_ACTIVE.bits (homeOf p)] m ∧
      m = { s.mach with regs := m.regs, queues := m.queues, arb := m.arb, turns := m.turns, pmap := m.pmap, mapDirty := m.mapDirty, frames := m.frames, moves := m.moves, free := m.free })) ∧
  (∀ (s : State) (queue : BitVec 13) (n t spa p e k x : Nat) (d : Desc), n = queue.toNat → Starts s n 0x0C t d none → d.len = 4096 → s.dev.rstale = [] →
    viewed s t d.src false = some spa → p = pageOf spa → e = s.mach.entry p → s.mach.tierReady (homeOf p) = true → s.mach.mapUnreadable p = false → eTenant e = t →
    eState e = stStable → eTier e = tierBed → ePin e = false → s.mach.freeMoveSlot (homeOf p) = some k → s.mach.mirrorFed = false → x = d.auxLen % 4 →
    s.mach.hasRoom (s.mach.acctTenant p) (if x = 1 then tierFrame else tierShed) (homeOf p) = true → (x = 1 → s.mach.act R.TIER_POLICY_FRAME_EN (homeOf p) = 1) →
    (∀ i < 64, s.mach.ownerLine (p / 64 + i) = some (0, false)) →
    Does (.demoteHint queue) s (fun m =>
      Ran s n t d { d with status := 0, out := 4096, info := 0, untrusted := false, heldLines := [], acks := [] } none none noText 0 m ∧
      m.entry p = eSetCmp (eSetPlots (eSetLoc (eSetState (eSetTier e tierBed) stZero) 0) 0) false ∧ MapBut s [p] m ∧ m.frames = s.dev.frames.erase (eLoc e) ∧
      (∀ j, m.moves.find j = s.dev.moves.find j) ∧
      m.get R.TIER_ZERO_EVENTS_COUNT (homeOf p) = (s.mach.get R.TIER_ZERO_EVENTS_COUNT (homeOf p) + 1) % 2 ^ 64 ∧
      PagesBut s ([0, 1, 2, 3].map (pageOff 12 .tier) ++ [pageOff 12 .codec (homeOf p), pageOff 12 .bulk (s.mach.queue n).quad]) m ∧
      (∀ j, m.tq j = { s.mach.tq j with failed := (m.tq j).failed }) ∧
      m = { s.mach with regs := m.regs, queues := m.queues, arb := m.arb, turns := m.turns, tierq := m.tierq, pmap := m.pmap, mapDirty := m.mapDirty, frames := m.frames, moves := m.moves, shelfReads := m.shelfReads })) ∧
  (∀ (s : State) (queue : BitVec 13), s.mach.canStart queue.toNat = none →
    (∀ i ∈ [Instr.copy queue, .fill queue, .promoteHint queue, .demoteHint queue, .persist queue, .bulkFence queue], Leaves i s s.mach))

/-- R293, R320: each reads LEN bytes of its source and writes what its transformation makes of them, with OK and BYTES_OUT of the output's length: the compressed
or decompressed stream, the ciphertext or plaintext, the digest or tag; PACK and GCM ENCRYPT keep the tag that their parameter block
receives at the completion (R319), and UNPACK has found the tag right. A message takes a pipe with its key slot and GEN, and one use of the key counts (R321, R333). Here the output fills exactly the room it is given,
in one line, and nothing stops an access. Which compressed bytes a stream takes is the model's free choice (log 27).
The clauses say too where such a command changes nothing. -/
def Obligations.StreamsAndCiphersComplete : Prop :=
  (∀ (s : State) (queue : BitVec 13) (i : Instr) (n op t : Nat) (d : Desc) (p : Option Nat), n = queue.toNat → Starts s n op t d p →
    (op, i) ∈ [(0x03, Instr.compress queue), (0x04, .decompress queue), (0x05, .encrypt queue), (0x06, .decrypt queue), (0x07, .hash queue), (0x08, .mac queue),
      (0x09, .pack queue), (0x0A, .unpack queue)] →
    Does i s (fun m =>
      (m.queue n).live = (s.mach.queue n).live.drop 1 ∧ (m.queue n).run.dropLast = (s.mach.queue n).run ∧
      (∃ e ∈ (m.queue n).run.getLast?, e = { d with status := e.status, out := e.out, info := e.info, untrusted := e.untrusted, heldLines := e.heldLines, acks := e.acks, pipe := p, tag := e.tag }) ∧
      (∀ k, k ≠ n → m.queue k = s.mach.queue k) ∧
      m.get R.BULK_STARTED_COUNT (s.mach.queue n).quad = (s.mach.get R.BULK_STARTED_COUNT (s.mach.queue n).quad + 1) % 2 ^ R.BULK_STARTED_COUNT.w)) ∧
  (∀ (s : State) (queue : BitVec 13) (i : Instr) (n t q spa la : Nat) (old : Line) (d : Desc) (b o : List Byte), n = queue.toNat → q = (s.mach.queue n).quad → fmt d ≠ 4 →
    s.mach.aliased t d = false → Source s t d.src d.len b → Dest s t d.dst d.auxLen spa la old →
    (i = .compress queue ∧ Starts s n 0x03 t d none ∧ o = Crypto.toBytes (Stream.compress (fmt d) (level d) (Crypto.ofB b)) ∨
      i = .decompress queue ∧ Starts s n 0x04 t d none ∧ (Stream.decompress (fmt d) (multi d) (Crypto.ofB b)).reason = 0 ∧
        o = Crypto.toBytes (Stream.decompress (fmt d) (multi d) (Crypto.ofB b)).out.toList) →
    o.length = d.auxLen →
    Does i s (fun m =>
      Ran s n t d { d with status := 0, out := o.length, info := 0, untrusted := false, heldLines := [], acks := [] } none none noText b.length m ∧
      Stored s [(spa / 64, la, putIn old spa o)] m ∧ TblBut s.dev.slots (memSlots s [(spa / 64, la, old)]) m.slots ∧
      m.get R.CODEC_STREAMS_COMPLETED q = (s.mach.get R.CODEC_STREAMS_COMPLETED q + 1) % 2 ^ R.CODEC_STREAMS_COMPLETED.w ∧
      m.get R.CODEC_STREAM_IN_BYTES q = (s.mach.get R.CODEC_STREAM_IN_BYTES q + b.length) % 2 ^ R.CODEC_STREAM_IN_BYTES.w ∧
      m.get R.CODEC_STREAM_OUT_BYTES q = (s.mach.get R.CODEC_STREAM_OUT_BYTES q + o.length) % 2 ^ R.CODEC_STREAM_OUT_BYTES.w ∧
      RegsBut s [R.BULK_STARTED_COUNT.bits q, R.BULK_BYTES_IN_COUNT.bits q, R.BULK_BYTES_OUT_COUNT.bits q, R.CODEC_STREAMS_COMPLETED.bits q,
        R.CODEC_STREAM_IN_BYTES.bits q, R.CODEC_STREAM_OUT_BYTES.bits q, R.HOME_SF_STATUS_OCCUPIED.bits (homeOf spa)] m ∧
      Aged s m ∧
      m = { s.mach with
        regs := m.regs, pmap := m.pmap, mapDirty := m.mapDirty, tierq := m.tierq, queues := m.queues, arb := m.arb, turns := m.turns, slots := m.slots, lines := m.lines, filter := m.filter, lineMeta := m.lineMeta, wr := m.wr, errs := m.errs })) ∧
  (∀ (s : State) (queue : BitVec 13) (n t q spa la : Nat) (old : Line) (d : Desc) (b : List Byte), n = queue.toNat → q = (s.mach.queue n).quad → fmt d = 4 →
    Starts s n 0x03 t d none → s.mach.aliased t d = false → Source s t d.src d.len b → Dest s t d.dst d.auxLen spa la old → (Frame.encode 3 16 (pageOfBytes b)).bytes.length = d.auxLen →
    Does (.compress queue) s (fun m =>
      Ran s n t d { d with status := 0, out := d.auxLen, info := 0, untrusted := false, heldLines := [], acks := [] } none none noText b.length m ∧
      Stored s [(spa / 64, la, putIn old spa (Frame.encode 3 16 (pageOfBytes b)).bytes)] m ∧ TblBut s.dev.slots (memSlots s [(spa / 64, la, old)]) m.slots ∧
      m.get R.CODEC_STREAMS_COMPLETED q = (s.mach.get R.CODEC_STREAMS_COMPLETED q + 1) % 2 ^ R.CODEC_STREAMS_COMPLETED.w ∧
      PagesBut s [pageOff 12 .bulk q, pageOff 12 .codec q, pageOff 12 .home (homeOf spa)] m ∧
      Aged s m ∧
      m = { s.mach with
        regs := m.regs, pmap := m.pmap, mapDirty := m.mapDirty, tierq := m.tierq, queues := m.queues, arb := m.arb, turns := m.turns, slots := m.slots, lines := m.lines, filter := m.filter, lineMeta := m.lineMeta, wr := m.wr, errs := m.errs })) ∧
  (∀ (s : State) (queue : BitVec 13) (i : Instr) (n t q k spa la pk : Nat) (old : Line) (d : Desc) (b cb : List Byte) (enc : Bool), n = queue.toNat → q = (s.mach.queue n).quad →
    cmode d ≠ 0 → (i = .encrypt queue ∧ enc = true ∧ Starts s n 0x05 t d (some pk) ∨ i = .decrypt queue ∧ enc = false ∧ Starts s n 0x06 t d (some pk)) →
    (s.mach.checkKey t d).toOption = some k → (s.mach.slot k).limit = 0 → Source s t d.aad 64 cb → (cpbOf cb).rest = 0 → Source s t d.src d.len b → Dest s t d.dst d.len spa la old →
    k ∉ memSlots s [(spa / 64, la, old)] →
    Does i s (fun m =>
      Ran s n t d { d with status := 0, out := d.len, info := 0, untrusted := false, heldLines := [], acks := [] } (some pk) (some (k, (s.mach.slot k).gen)) (textOf d (cpbOf cb) [] (if enc then s.mach.cipher k d (cpbOf cb) enc b else b)) d.len m ∧
      Stored s [(spa / 64, la, putIn old spa (s.mach.cipher k d (cpbOf cb) enc b))] m ∧
      m.slot k = { s.mach.slot k with use := satAdd 48 (s.mach.slot k).use 1 } ∧ TblBut s.dev.slots (k :: memSlots s [(spa / 64, la, old)]) m.slots ∧
      m.get R.CIPH_BYTES_COUNT q = (s.mach.get R.CIPH_BYTES_COUNT q + d.len) % 2 ^ R.CIPH_BYTES_COUNT.w ∧
      RegsBut s [R.BULK_STARTED_COUNT.bits q, R.BULK_BYTES_IN_COUNT.bits q, R.BULK_BYTES_OUT_COUNT.bits q, R.CIPH_BYTES_COUNT.bits q, R.HOME_SF_STATUS_OCCUPIED.bits (homeOf spa)] m ∧
      Aged s m ∧
      m = { s.mach with
        regs := m.regs, pmap := m.pmap, mapDirty := m.mapDirty, tierq := m.tierq, queues := m.queues, arb := m.arb, turns := m.turns, pipes := m.pipes, slots := m.slots, lines := m.lines
        filter := m.filter, lineMeta := m.lineMeta, wr := m.wr, errs := m.errs })) ∧
  (∀ (s : State) (queue : BitVec 13) (i : Instr) (n t q k spa la pk : Nat) (old : Line) (d : Desc) (b cb aad ct : List Byte),
    n = queue.toNat → q = (s.mach.queue n).quad → cmode d = 0 → bitsOf d.ivctl 5 1 = 0 →
    (i = .encrypt queue ∧ Starts s n 0x05 t d (some pk) ∧ ct = s.mach.cipher k d (cpbOf cb) true b ∧ ct.length = d.len ∨
      i = .pack queue ∧ Starts s n 0x09 t d (some pk) ∧ fmt d ≠ 4 ∧
        (Crypto.toBytes (Stream.compress (fmt d) (level d) (Crypto.ofB b))).length = d.auxLen ∧
        ct = s.mach.cipher k d (cpbOf cb) true (Crypto.toBytes (Stream.compress (fmt d) (level d) (Crypto.ofB b))) ∧ ct.length = d.auxLen) →
    (s.mach.checkKey t d).toOption = some k → (s.mach.slot k).limit = 0 → Source s t d.aad 64 cb → (cpbOf cb).rest = 0 → (cpbOf cb).aadLen ≤ 65536 →
    Source s t (cpbOf cb).aadAddr (cpbOf cb).aadLen aad → s.mach.aliased t d = false → Source s t d.src d.len b → Dest s t d.dst (outLen d) spa la old →
    k ∉ memSlots s [(spa / 64, la, old)] →
    Does i s (fun m =>
      Ran s n t d { d with status := 0, out := outLen d, info := 0, untrusted := false, heldLines := [], acks := [], tag := some (s.mach.tagOf k d (cpbOf cb) aad ct) } (some pk) (some (k, (s.mach.slot k).gen))
        (textOf d (cpbOf cb) aad ct) d.len m ∧
      Stored s [(spa / 64, la, putIn old spa ct)] m ∧
      m.slot k = { s.mach.slot k with use := satAdd 48 (s.mach.slot k).use 1 } ∧ TblBut s.dev.slots (k :: memSlots s [(spa / 64, la, old)]) m.slots ∧
      m.get R.CIPH_BYTES_COUNT q = (s.mach.get R.CIPH_BYTES_COUNT q + outLen d) % 2 ^ R.CIPH_BYTES_COUNT.w ∧
      PagesBut s ([0, 1, 2, 3].map (pageOff 12 .home) ++ [pageOff 12 .bulk q, pageOff 12 .ciph q, pageOff 12 .codec q]) m ∧
      Aged s m ∧
      m = { s.mach with
        regs := m.regs, pmap := m.pmap, mapDirty := m.mapDirty, tierq := m.tierq, queues := m.queues, arb := m.arb, turns := m.turns, pipes := m.pipes, slots := m.slots, lines := m.lines
        filter := m.filter, lineMeta := m.lineMeta, wr := m.wr, errs := m.errs })) ∧
  (∀ (s : State) (queue : BitVec 13) (n t q k spa la pk : Nat) (old : Line) (d : Desc) (b cb aad o : List Byte), n = queue.toNat → q = (s.mach.queue n).quad → fmt d ≠ 4 →
    Starts s n 0x0A t d (some pk) → (s.mach.checkKey t d).toOption = some k → (s.mach.slot k).limit = 0 → Source s t d.aad 64 cb → (cpbOf cb).rest = 0 → (cpbOf cb).aadLen ≤ 65536 →
    Source s t (cpbOf cb).aadAddr (cpbOf cb).aadLen aad → s.mach.aliased t d = false → Source s t d.src d.len b → Dest s t d.dst d.auxLen spa la old → k ∉ memSlots s [(spa / 64, la, old)] →
    (Stream.decompress (fmt d) (multi d) (Crypto.ofB (s.mach.cipher k d (cpbOf cb) false b))).reason = 0 →
    o = Crypto.toBytes (Stream.decompress (fmt d) (multi d) (Crypto.ofB (s.mach.cipher k d (cpbOf cb) false b))).out.toList → o.length = d.auxLen →
    s.mach.tagOf k d (cpbOf cb) aad b = (cpbOf cb).tag.take (tagLen d) ++ List.replicate (16 - tagLen d) 0 →
    Does (.unpack queue) s (fun m =>
      Ran s n t d { d with status := 0, out := d.auxLen, info := 0, untrusted := false, heldLines := [], acks := [] } (some pk) (some (k, (s.mach.slot k).gen)) (textOf d (cpbOf cb) aad b) d.len m ∧
      Stored s [(spa / 64, la, putIn old spa o)] m ∧
      m.slot k = { s.mach.slot k with use := satAdd 48 (s.mach.slot k).use 1 } ∧ TblBut s.dev.slots (k :: memSlots s [(spa / 64, la, old)]) m.slots ∧
      m.get R.CIPH_BYTES_COUNT q = (s.mach.get R.CIPH_BYTES_COUNT q + d.len) % 2 ^ R.CIPH_BYTES_COUNT.w ∧
      PagesBut s [pageOff 12 .bulk q, pageOff 12 .codec q, pageOff 12 .ciph q, pageOff 12 .home (homeOf spa)] m ∧
      Aged s m ∧
      m = { s.mach with
        regs := m.regs, pmap := m.pmap, mapDirty := m.mapDirty, tierq := m.tierq, queues := m.queues, arb := m.arb, turns := m.turns, pipes := m.pipes, slots := m.slots, lines := m.lines
        filter := m.filter, lineMeta := m.lineMeta, wr := m.wr, errs := m.errs })) ∧
  (∀ (s : State) (queue : BitVec 13) (i : Instr) (n t q spa la pk : Nat) (old : Line) (d : Desc) (b o : List Byte) (key : Option (Nat × Nat)), n = queue.toNat →
    q = (s.mach.queue n).quad → Source s t d.src d.len b → Dest s t d.dst (outLen d) spa la old →
    (i = .hash queue ∧ Starts s n 0x07 t d (some pk) ∧ key = none ∧ o = Crypto.toBytes (if cmode d = 4 then Crypto.sha Crypto.sha256P (Crypto.ofB b) else Crypto.sha Crypto.sha384P (Crypto.ofB b)) ∨
      i = .mac queue ∧ Starts s n 0x08 t d (some pk) ∧ (∃ k ∈ (s.mach.checkKey t d).toOption, key = some (k, (s.mach.slot k).gen) ∧ (s.mach.slot k).limit = 0 ∧
        k ∉ memSlots s [(spa / 64, la, old)] ∧
        o = Crypto.toBytes (match cmode d with
          | 3 => Crypto.cmac (s.mach.keyBytes k) (Crypto.ofB b)
          | 6 => Crypto.hmac Crypto.sha256P (s.mach.keyBytes k) (Crypto.ofB b)
          | _ => Crypto.hmac Crypto.sha384P (s.mach.keyBytes k) (Crypto.ofB b)))) →
    Does i s (fun m =>
      Ran s n t d { d with status := 0, out := outLen d, info := 0, untrusted := false, heldLines := [], acks := [] } (some pk) key ⟨[], [], Crypto.ofB b⟩ d.len m ∧
      Stored s [(spa / 64, la, putIn old spa o)] m ∧
      (∀ k ∈ key, m.slot k.1 = { s.mach.slot k.1 with use := satAdd 48 (s.mach.slot k.1).use 1 }) ∧
      TblBut s.dev.slots (key.toList.map (fun k => k.1) ++ memSlots s [(spa / 64, la, old)]) m.slots ∧
      m.get R.CIPH_BYTES_COUNT q = (s.mach.get R.CIPH_BYTES_COUNT q + d.len) % 2 ^ R.CIPH_BYTES_COUNT.w ∧
      RegsBut s [R.BULK_STARTED_COUNT.bits q, R.BULK_BYTES_IN_COUNT.bits q, R.BULK_BYTES_OUT_COUNT.bits q, R.CIPH_BYTES_COUNT.bits q, R.HOME_SF_STATUS_OCCUPIED.bits (homeOf spa)] m ∧
      Aged s m ∧
      m = { s.mach with
        regs := m.regs, pmap := m.pmap, mapDirty := m.mapDirty, tierq := m.tierq, queues := m.queues, arb := m.arb, turns := m.turns, pipes := m.pipes, slots := m.slots, lines := m.lines
        filter := m.filter, lineMeta := m.lineMeta, wr := m.wr, errs := m.errs })) ∧
  (∀ (s : State) (queue : BitVec 13), s.mach.canStart queue.toNat = none →
    (∀ i ∈ [Instr.compress queue, .decompress queue, .encrypt queue, .decrypt queue, .hash queue, .mac queue, .pack queue, .unpack queue], Leaves i s s.mach))

/-- R389, R394: FORM starts a formation; a HELLO that passes every check gives the session keys and sends SYNC on each stream. R413: UNPAIR sends SYNC on each
stream. R406, R409: TAKEOVER in SEVERED, by software or after AUTO_TAKEOVER_MS, sends the token on PAIR_FENCE_OUT, and 16 µs later the package has won unless it
holds a token of a lower SERIAL; a token received is recorded. R412: HANDBACK starts the return, and once the tenants are released the fence is released; FENCE_IN
clears when the partner's PAIR_FENCE_OUT is high again. A HELLO that fails a check ends the formation with its result. Where nothing is held, sent or taken over that
would have to go along, all of the machine is said; the last clauses hold whatever goes along, and say that a fence lost freezes the package.
The clauses say too where such a command changes nothing. -/
def Obligations.PairControlComplete : Prop :=
  (∀ (s : State) (src : Src), MayWrite s src 12 .pkg 0 → s.mach.mode = 3 → s.mach.pairState = 0 → s.mach.on R.PKG_PAIR_CTL_ENABLE = true → s.mach.guyAny = true →
    Does (.pairForm src) s (fun m =>
      m.pairState = 1 ∧ RegsBut s [R.PKG_PAIR_STATE_STATE.bits] m ∧ m = { s.mach with regs := m.regs, pair := { s.dev.pair with step := 2, cmd := 1, hello := some (s.mach.ownHello 0) } })) ∧
  (∀ (s : State) (src : Src), MayWrite s src 12 .pkg 0 →
    (∀ r, (r = 1 ∧ (s.mach.mode ≠ 3 ∨ s.mach.pairState ≠ 0 ∨ s.mach.on R.PKG_PAIR_CTL_ENABLE = false) ∨
        r = 2 ∧ s.mach.mode = 3 ∧ s.mach.pairState = 0 ∧ s.mach.on R.PKG_PAIR_CTL_ENABLE = true ∧ s.mach.guyAny = false) →
      Does (.pairForm src) s (fun m => m.get R.PKG_PAIR_STATE_RESULT = r ∧ OnlyRegs s [R.PKG_PAIR_STATE_RESULT.bits] m)) ∧
    (s.mach.mode ≠ 4 ∨ s.mach.pairState ≠ 3 → Does (.unpair src) s (fun m => m.get R.PKG_PAIR_STATE_RESULT = 1 ∧ OnlyRegs s [R.PKG_PAIR_STATE_RESULT.bits] m)) ∧
    (s.mach.mode ≠ 5 ∨ s.mach.pairState ≠ 5 → Does (.handback src) s (fun m => m.get R.PKG_PAIR_STATE_RESULT = 1 ∧ OnlyRegs s [R.PKG_PAIR_STATE_RESULT.bits] m)) ∧
    (s.dev.pair.deciding = false → s.mach.mode ≠ 6 → Does (.takeover src) s (fun m => m.get R.PKG_PAIR_STATE_RESULT = 1 ∧ OnlyRegs s [R.PKG_PAIR_STATE_RESULT.bits] m)) ∧
    (s.dev.pair.deciding = false → s.mach.mode = 6 → s.mach.pairState = 4 → s.mach.partnerAlive = true →
      Does (.takeover src) s (fun m => m.get R.PKG_PAIR_STATE_RESULT = 10 ∧ OnlyRegs s [R.PKG_PAIR_STATE_RESULT.bits] m))) ∧
  (∀ (s : State) (h : Hello) (tx rx kek x : Nat), s.mach.guyAny = true → s.mach.pairState = 1 → s.dev.pair.step = 2 → s.mach.helloResult h = 0 → s.fuses.serial < h.serial.toNat →
    s.mach.on R.SEED_DRBG_HEALTHY = true → (s.mach.slot tx).limit = 0 → tx = s.mach.get R.PKG_PAIR_KEYS_TX → rx = s.mach.get R.PKG_PAIR_KEYS_RX → kek = s.mach.pairKek → (s.mach.slot kek).limit = 0 →
    (s.mach.slot 12).state = 0 → (s.mach.slot 13).state = 0 → (∀ x ∈ s.dev.tenants, x.2.durable = false) → (∀ x ∈ s.dev.pmap, eDur (s.mach.entry (x.1 * 4096)) = false) →
    s.mach.mirrorMode = true → x = (Mach.streams.filter (fun q => s.mach.guyOn (s.mach.streamPort q))).length → s.mach.acceptMode ≠ 6 →
    Does (.hello h) s (fun m =>
      m.pairState = 2 ∧ m.get R.PKG_PAIR_PEER_SERIAL = h.serial.toNat ∧ m.get R.PKG_PAIR_STATE_MIRROR_MAJOR = commonMajor s.mach.mirrorMajors h.majors.toNat ∧
      m.get R.PKG_PAIR_STATE_FEATURES = Nat.land (mirrorFeatures (commonMajor s.mach.mirrorMajors h.majors.toNat)) h.features.toNat % 2 ^ R.PKG_PAIR_STATE_FEATURES.w ∧
      (∀ n ∈ [tx, rx], (m.slot n).state = 1 ∧ (m.slot n).alg = 1 ∧ (m.slot n).usage = 2 ^ useMirror ∧ (m.slot n).pkgOwned = true ∧
        (m.slot n).gen = ((s.mach.slot n).gen + 1) % 2 ^ 16 ∧ (m.slot n).key.length = 32) ∧
      (m.slot tx).use = x ∧ (m.slot rx).use = 0 ∧ (m.slot rx).ivctr = 0 ∧ m.get R.SEED_DRBG_RESEEDS = (s.mach.get R.SEED_DRBG_RESEEDS + 2) % 2 ^ R.SEED_DRBG_RESEEDS.w ∧
      m.slot kek = { s.mach.slot kek with use := satAdd 48 (s.mach.slot kek).use 2 } ∧ TblBut s.dev.slots [tx, rx, kek] m.slots ∧
      (∀ q < 4, m.outRing q = [⟨1, false, .sync, none⟩]) ∧ m.pair.syncOut = [0, 1, 2, 3] ∧ m.pair.syncAcked = [] ∧ m.pair.syncIn = [] ∧ m.pair.inb = [] ∧
      m.pair.peerSize = h.dregion.toNat ∧
      m.pair.hello = some { s.mach.ownHello 0 with keyToPeer := m.wrapSlot rx kek, keyFromPeer := m.wrapSlot tx kek } ∧ PagesBut s [pageOff 12 .pkg 0, pageOff 12 .seed 0, pageOff 12 .ciph 0, pageOff 12 .ciph 3] m ∧
      m = { s.mach with regs := m.regs, pair := m.pair, slots := m.slots, ivBlocks := m.ivBlocks, free := m.free })) ∧
  (∀ (s : State) (h : Hello), s.mach.guyAny = true →
    (s.mach.pairState = 1 ∧ s.dev.pair.step = 2 ∨ s.mach.pairState = 0 ∧ s.mach.mode = 3 ∧ s.mach.on R.PKG_PAIR_CTL_ENABLE = true) →
    s.mach.helloResult h ≠ 0 → s.mach.mode ≠ 5 → s.mach.mode ≠ 6 →
    Does (.hello h) s (fun m =>
      m.pairState = 0 ∧ m.get R.PKG_PAIR_STATE_RESULT = s.mach.helloResult h % 2 ^ R.PKG_PAIR_STATE_RESULT.w ∧ m.get R.PKG_PAIR_PEER_SERIAL = h.serial.toNat ∧
      (∀ q < 4, m.outRing q = [] ∧ m.get (R.PKG_MIRROR_TX_UNACKED.at q) = 0 ∧ m.get (R.PKG_MIRROR_RX_PENDING.at q) = 0) ∧ PagesBut s [pageOff 12 .pkg 0] m ∧
      m = { s.mach with regs := m.regs, pair := { s.dev.pair with
        out := m.pair.out, wire := m.pair.wire, lost := [], hello := some (s.mach.ownHello (s.mach.helloResult h)), inb := [], step := 0, cmd := 0, syncOut := [], syncAcked := [], syncIn := [] } })) ∧
  (∀ (s : State) (h : Hello), s.mach.guyAny = true → s.mach.pairState = 1 → s.dev.pair.step = 2 → s.mach.helloResult h ≠ 0 → s.mach.mode = 5 ∨ s.mach.mode = 6 →
    Does (.hello h) s (fun m => m.pairState = 0 ∧ Enters s 3 m ∧ m.get R.PKG_PAIR_STATE_RESULT = s.mach.helloResult h % 2 ^ R.PKG_PAIR_STATE_RESULT.w ∧ PagesBut s [pageOff 12 .pkg 0, pageOff 12 .lant 0] m)) ∧
  (∀ (s : State) (h : Hello) (tx rx : Nat) (a b : Nat × Nat × Nat × List Byte), s.mach.guyAny = true → s.mach.pairState = 1 → s.dev.pair.step = 2 → s.mach.helloResult h = 0 → h.serial.toNat ≤ s.fuses.serial →
    s.mach.unwrapPair h.keyToPeer = some a → s.mach.unwrapPair h.keyFromPeer = some b → tx = s.mach.get R.PKG_PAIR_KEYS_TX → rx = s.mach.get R.PKG_PAIR_KEYS_RX →
    (s.mach.slot 12).state = 0 → (s.mach.slot 13).state = 0 → (∀ x ∈ s.dev.tenants, x.2.durable = false) → (∀ x ∈ s.dev.pmap, eDur (s.mach.entry (x.1 * 4096)) = false) → s.mach.acceptMode ≠ 6 →
    Does (.hello h) s (fun m =>
      m.pairState = 2 ∧ m.get R.PKG_PAIR_PEER_SERIAL = h.serial.toNat ∧ (m.slot tx).key = a.2.2.2 ∧ (m.slot tx).alg = a.1 ∧ (m.slot tx).usage = a.2.1 ∧ (m.slot tx).fixed = a.2.2.1 ∧
      m.slot rx = ⟨1, b.1, b.2.1, 0, true, ((s.mach.slot rx).gen + 1) % 2 ^ 16, 0, (s.mach.slot rx).limit, 0, b.2.2.1, b.2.2.2⟩ ∧
      (∀ q < 4, m.outRing q = [⟨1, false, .sync, none⟩]) ∧ m.pair.hello = some (s.mach.ownHello 0))) ∧
  (∀ (s : State) (src : Src), MayWrite s src 12 .pkg 0 → s.mach.mode = 4 → s.mach.pairState = 3 →
    Does (.unpair src) s (fun m =>
      (∀ q < 4, m.outRing q = s.mach.outRing q ++ [⟨s.dev.pair.next.getD q 1, false, .sync, none⟩] ∧ m.pair.next.find q = some (s.dev.pair.next.getD q 1 + 1)) ∧
      m.pair.cmd = 2 ∧ m.pair.syncOut = [0, 1, 2, 3] ∧ m.pair.syncAcked = s.dev.pair.syncAcked.filter (fun q => !([0, 1, 2, 3].contains q)) ∧ m.pairState = 3 ∧
      PagesBut s [pageOff 12 .pkg 0, pageOff 12 .ciph 0, pageOff 12 .ciph 3] m ∧ TblBut s.dev.slots [s.mach.get R.PKG_PAIR_KEYS_TX] m.slots ∧
      m = { s.mach with regs := m.regs, slots := m.slots, ivBlocks := m.ivBlocks, errs := m.errs, pair := { s.dev.pair with out := m.pair.out, next := m.pair.next, sent := m.pair.sent, wire := m.pair.wire, cmd := 2, syncOut := m.pair.syncOut, syncAcked := m.pair.syncAcked } })) ∧
  (∀ (s : State) (src : Src) (i : Instr), (i = .takeover src ∧ MayWrite s src 12 .pkg 0 ∨ i = .autoTakeoverExpire ∧ s.mach.on R.PKG_PAIR_CTL_AUTO_TAKEOVER = true ∧ s.mach.guyAny = false) →
    s.mach.mode = 6 → s.mach.pairState = 4 → s.dev.pair.deciding = false → s.mach.partnerAlive = false → s.mach.on R.PKG_PAIR_STATE_FENCE_IN = false →
    Does i s (fun m =>
      m.get R.PKG_PAIR_STATE_FENCE_OUT = 1 ∧ m.pairState = 4 ∧ RegsBut s [R.PKG_PAIR_STATE_FENCE_OUT.bits] m ∧
      m = { s.mach with regs := m.regs, pair := { s.dev.pair with deciding := true }, pins := { s.dev.pins with pairFenceOut := true } })) ∧
  (∀ (s : State) (token : BitVec 63), (s.dev.pair.deciding = true ∨ s.mach.pairState = 5 ∨ s.mach.on R.PKG_PAIR_STATE_FENCE_OUT = true) →
    Does (.fenceTokenIn token) s (fun m =>
      m.get R.PKG_FENCE_TOKEN_TOKEN = token.toNat ∧ m.get R.PKG_FENCE_TOKEN_VALID = 1 ∧ m.get R.PKG_PAIR_STATE_FENCE_IN = 1 ∧ m.pairState = s.mach.pairState ∧
      RegsBut s [whole R.PKG_FENCE_TOKEN_TOKEN.key, R.PKG_PAIR_STATE_FENCE_IN.bits] m ∧ m = { s.mach with regs := m.regs, pins := { s.dev.pins with pairFenceIn := true } })) ∧
  (∀ (s : State), Idle s → s.dev.pair.deciding = true → s.mach.mode = 6 →
    (s.mach.on R.PKG_PAIR_STATE_FENCE_IN = false ∨ s.fuses.serial < s.mach.get R.PKG_FENCE_TOKEN_TOKEN) → (∀ q < 4, s.mach.outRing q = []) → s.dev.pair.inb = [] →
    s.dev.pair.owed = [] → s.dev.pair.shCtx = [] → s.dev.pair.attaches = [] → s.mach.windowPages = [] →
    Does .fenceWaitExpire s (fun m =>
      Enters s 5 m ∧ m.pairState = 5 ∧ m.get R.PKG_PAIR_STATE_RESULT = 0 ∧ PagesBut s [pageOff 12 .pkg 0, pageOff 12 .lant 0] m ∧ (∀ q < 4, m.outRing q = []) ∧
      m = { s.mach with regs := m.regs, pins := { s.dev.pins with fatalN := m.pins.fatalN }, evs := m.evs, pair := { s.dev.pair with deciding := false, out := m.pair.out, wire := m.pair.wire } })) ∧
  (∀ (s : State) (src : Src), MayWrite s src 12 .pkg 0 → s.mach.mode = 5 → s.mach.pairState = 5 → s.mach.guyAny = true → s.dev.taken = [] → s.mach.windowPages = [] →
    Does (.handback src) s (fun m =>
      m.pairState = 7 ∧ (∀ q < 4, m.outRing q = []) ∧ TblBut s.dev.pair.out [0, 1, 2, 3] m.pair.out ∧
      RegsBut s (R.PKG_PAIR_STATE_STATE.bits :: [0, 1, 2, 3].map (fun q => whole (R.PKG_MIRROR_TX_UNACKED.at q).key)) m ∧
      m = { s.mach with regs := m.regs, pair := { s.dev.pair with step := 1, cmd := 4, out := m.pair.out, wire := m.pair.wire } })) ∧
  (∀ (s : State), s.mach.pairState = 7 → s.mach.mode = 5 → s.dev.pair.step = 1 → s.dev.taken = [] → s.mach.windowPages = [] →
    Does .handbackReleased s (fun m =>
      m.pairState = 1 ∧ m.get R.PKG_PAIR_STATE_FENCE_OUT = 0 ∧ RegsBut s [R.PKG_PAIR_STATE_STATE.bits, R.PKG_PAIR_STATE_FENCE_OUT.bits] m ∧
      m = { s.mach with
        regs := m.regs, pins := { s.dev.pins with pairFenceOut := false }
        pair := { s.dev.pair with step := 3, syncOut := [], syncAcked := [], syncIn := [] } })) ∧
  (∀ (s : State), Idle s → (s.mach.pairState = 7 → s.mach.mode = 6 → s.dev.pair.inb = [] ∧ s.dev.pair.shCtx = []) →
    Does .pairFenceInHigh s (fun m =>
      m.get R.PKG_PAIR_STATE_FENCE_IN = 0 ∧ m.pins = { s.dev.pins with pairFenceIn := false } ∧ PagesBut s [pageOff 12 .pkg 0] m ∧
      m.pairState = (if s.mach.pairState = 7 ∧ s.mach.mode = 6 then 1 else s.mach.pairState) ∧
      m.pair = (if s.mach.pairState = 7 ∧ s.mach.mode = 6 then { s.dev.pair with
          step := 3, out := m.pair.out, wire := m.pair.wire, shQueue := [], shRange := [], shKey := [], shAcc := [], shDone := [], shLast := [], syncOut := [], syncAcked := [], syncIn := [] } else s.dev.pair) ∧
      (s.mach.pairState = 7 → s.mach.mode = 6 → ∀ q < 4, m.outRing q = []) ∧
      m = { s.mach with regs := m.regs, pins := m.pins, pair := m.pair })) ∧
  (∀ (s : State), s.dev.pair.deciding = true → s.mach.mode = 6 →
    Does .fenceWaitExpire s (fun m =>
      m.pair.deciding = false ∧
      (s.mach.on R.PKG_PAIR_STATE_FENCE_IN = false ∨ s.fuses.serial < s.mach.get R.PKG_FENCE_TOKEN_TOKEN →
        m.mode = 5 ∧ m.pairState = 5 ∧ m.get R.PKG_PAIR_STATE_RESULT = 0 ∧ m.pair.inb = [] ∧ (∀ q < 4, m.outRing q = [])) ∧
      (s.mach.on R.PKG_PAIR_STATE_FENCE_IN = true → s.mach.get R.PKG_FENCE_TOKEN_TOKEN ≤ s.fuses.serial →
        m.mode = 9 ∧ m.get R.PKG_PAIR_STATE_RESULT = 9 ∧ m.frozenCause = 2))) ∧
  (∀ (s : State) (token : BitVec 63), 2 ≤ s.mach.mode → s.mach.mode < 12 → s.mach.mode ≠ 9 → s.dev.pair.deciding = false → s.mach.pairState ≠ 5 →
    s.mach.on R.PKG_PAIR_STATE_FENCE_OUT = false →
    Does (.fenceTokenIn token) s (fun m =>
      m.get R.PKG_FENCE_TOKEN_TOKEN = token.toNat ∧ m.get R.PKG_FENCE_TOKEN_VALID = 1 ∧ m.get R.PKG_PAIR_STATE_FENCE_IN = 1 ∧ m.pins.pairFenceIn = true ∧
      m.mode = 9 ∧ m.frozenCause = 2)) ∧
  (∀ (s : State) (src : Src), MayWrite s src 12 .pkg 0 → s.mach.mode = 5 → s.mach.pairState = 5 → s.mach.guyAny = true →
    Does (.handback src) s (fun m =>
      m.pairState = 7 ∧ m.pair.step = 1 ∧ m.pair.cmd = 4 ∧ (∀ k ∈ s.mach.takenLds, (m.ldFn k).draining = true ∧ (m.ldFn k).released = false))) ∧
  (∀ (s : State), s.mach.pairState = 7 → s.mach.mode = 5 → s.dev.pair.step = 1 → s.mach.takenIdle = true →
    (∀ k ∈ s.mach.takenLds, (s.mach.ldFn k).released = true) →
    Does .handbackReleased s (fun m =>
      m.pairState = 1 ∧ m.pair.step = 3 ∧ m.get R.PKG_PAIR_STATE_FENCE_OUT = 0 ∧ m.pins.pairFenceOut = false ∧ m.taken = [] ∧
      (∀ t ∈ s.dev.taken, (m.tenant t).state = 0 ∧ (m.tenant t).attached = false) ∧ (∀ k ∈ s.mach.takenLds, (m.ldFn k).draining = false))) ∧
  (∀ (s : State), s.mach.pairState = 7 → s.mach.mode = 6 →
    Does .pairFenceInHigh s (fun m => m.get R.PKG_PAIR_STATE_FENCE_IN = 0 ∧ m.pins.pairFenceIn = false ∧ m.pairState = 1 ∧ m.pair.step = 3 ∧ m.pair.inb = [])) ∧
  (∀ (s : State), (s.dev.pair.deciding = false → Leaves .fenceWaitExpire s s.mach) ∧
    (s.mach.on R.PKG_PAIR_CTL_AUTO_TAKEOVER = false ∨ s.mach.mode ≠ 6 → Leaves .autoTakeoverExpire s s.mach) ∧ (s.mach.pairState ≠ 7 → Leaves .handbackReleased s s.mach) ∧
    (∀ h, s.mach.guyAny = false → Leaves (.hello h) s s.mach))

/-- R399, R400: a batch that opens under the RX slot counts one use of it and its record, not held before, goes into the inbound ring; an acknowledgement removes
the records it covers from the outbound ring. R402: the oldest held record of a stream is applied and leaves the ring: LINE and PAGE write the window,
MAP changes its entries, ACCEPT and COMPLETE write the window copy of a queue log, CONTEXT, QUEUE, RANGE and KEY the shadow tables, and SYNC is noted.
The last SYNC acknowledged or received makes the pair (R394), and in PAIRED, after UNPAIR, ends it (R413).
RX_PENDING counts what is left. -/
def Obligations.MirrorStreamComplete : Prop :=
  (∀ (s : State) (q : Fin 4) (b : Batch) (r : MRec) (rx : Nat), s.mach.mirrorTakes = true → s.mach.mirrorMode = true → b.cipher.length ≤ 65536 → s.mach.batchAt q.val = none →
    s.mach.inboundBytes q.val + b.cipher.length ≤ 124 * 2 ^ 20 → rx = s.mach.get R.PKG_PAIR_KEYS_RX → s.mach.openBatch q.val b = some [r] → (s.mach.slot rx).limit = 0 →
    s.dev.pair.held.getD q.val 0 < r.seq →
    Does (.mirrorBatch q b) s (fun m =>
      m.pairState = (if s.mach.pairState = 6 then 7 else s.mach.pairState) ∧ m.pair.ackOut.getD q.val 0 = r.seq ∧ TblBut s.dev.pair.ackOut [q.val] m.pair.ackOut ∧ (∀ k, m.pair.rx.getD k [] = s.dev.pair.rx.getD k []) ∧
      m.slot rx = { s.mach.slot rx with use := satAdd 48 (s.mach.slot rx).use 1 } ∧ TblBut s.dev.slots [rx] m.slots ∧
      m.pair.inb = s.dev.pair.inb ++ [(q.val, r)] ∧ m.pair.held.find q.val = some r.seq ∧ TblBut s.dev.pair.held [q.val] m.pair.held ∧ m.pair.fails.getD q.val 0 = 0 ∧
      TblBut s.dev.pair.fails [q.val] m.pair.fails ∧
      m.get (R.PKG_MIRROR_RX_PENDING.at q.val) = ((s.dev.pair.inb.filter (fun x => x.1 == q.val)).length + 1) % 2 ^ R.PKG_MIRROR_RX_PENDING.w ∧
      m.get R.CIPH_MESSAGES_COUNT (s.mach.mirrorCiph q.val) = (s.mach.get R.CIPH_MESSAGES_COUNT (s.mach.mirrorCiph q.val) + 1) % 2 ^ R.CIPH_MESSAGES_COUNT.w ∧
      m.get R.CIPH_BYTES_COUNT (s.mach.mirrorCiph q.val) = (s.mach.get R.CIPH_BYTES_COUNT (s.mach.mirrorCiph q.val) + b.cipher.length) % 2 ^ R.CIPH_BYTES_COUNT.w ∧
      RegsBut s [R.PKG_PAIR_STATE_STATE.bits, (R.PKG_MIRROR_RX_PENDING.at q.val).bits, R.CIPH_SUSPENDS_COUNT.bits (s.mach.mirrorCiph q.val), R.CIPH_MESSAGES_COUNT.bits (s.mach.mirrorCiph q.val), R.CIPH_BYTES_COUNT.bits (s.mach.mirrorCiph q.val)] m ∧
      m = { s.mach with regs := m.regs, slots := m.slots, pair := { s.dev.pair with inb := m.pair.inb, held := m.pair.held, fails := m.pair.fails, rx := m.pair.rx, ackOut := m.pair.ackOut } })) ∧
  (∀ (s : State) (q : Fin 4) (seq : Word), Idle s → s.mach.mirrorMode = true → (∀ r ∈ s.mach.outRing q.val, r.seq ≤ seq.toNat → r.forDur = none ∧ (match r.body with | .sync => false | .accept .. => false | _ => true) = true) →
    (∃ k ∈ [0, 1, 2, 3], k ∉ s.dev.pair.syncAcked) →
    Does (.mirrorAck q seq) s (fun m =>
      m.outRing q.val = (s.mach.outRing q.val).filter (fun r => decide (seq.toNat < r.seq)) ∧ TblBut s.dev.pair.out [q.val] m.pair.out ∧
      m.get (R.PKG_MIRROR_TX_UNACKED.at q.val) = m.unacked q.val % 2 ^ R.PKG_MIRROR_TX_UNACKED.w ∧ m.get (R.PKG_MIRROR_TX_FULL.at q.val) = (!m.ringRoom q.val 80).toNat ∧
      RegsBut s [whole ((R.PKG_MIRROR_TX_UNACKED.at q.val).key)] m ∧ m = { s.mach with regs := m.regs, pair := { s.dev.pair with out := m.pair.out, wire := m.pair.wire } })) ∧
  (∀ (s : State) (q : Fin 4) (seq : Word), s.mach.mirrorMode = true → s.mach.pairState = 2 → (∃ r ∈ s.mach.outRing q.val, r.body = .sync ∧ r.seq ≤ seq.toNat) →
    q.val ∈ s.dev.pair.syncOut → (∀ k < 4, k = q.val ∨ k ∈ s.dev.pair.syncAcked) → (∀ k < 4, k ∈ s.dev.pair.syncIn) →
    Does (.mirrorAck q seq) s (fun m =>
      m.pairState = 3 ∧ m.get R.PKG_PAIR_STATE_WAS_PAIRED = 1 ∧ m.mode = (if s.mach.mode = 3 ∨ s.mach.mode = 5 ∨ s.mach.mode = 6 then 4 else s.mach.mode) ∧
      m.pair.syncOut = [] ∧ m.pair.syncIn = [] ∧ m.pair.step = 0)) ∧
  (∀ (s : State) (q : Fin 4) (seq : Word), s.mach.mode = 4 → s.mach.pairState = 3 → s.dev.pair.cmd = 2 →
    (∃ r ∈ s.mach.outRing q.val, r.body = .sync ∧ r.seq ≤ seq.toNat) → q.val ∈ s.dev.pair.syncOut → (∀ k < 4, k = q.val ∨ k ∈ s.dev.pair.syncAcked) →
    (∀ k < 4, k ∈ s.dev.pair.syncIn) →
    Does (.mirrorAck q seq) s (fun m => m.pairState = 0 ∧ m.get R.PKG_PAIR_STATE_WAS_PAIRED = 0 ∧ m.mode = 3 ∧ m.get R.PKG_PAIR_STATE_RESULT = 0 ∧ m.pair.inb = [] ∧ m.pair.cmd = 0)) ∧
  (∀ (s : State) (q : Fin 4) (i : Instr) (r : MRec) (p : PairSt), Idle s → s.mach.homeUp = true → s.dev.pair.inb.find? (fun x => x.1 == q.val) = some (q.val, r) →
    i = (match r.body with | .context .. => .contextRecord q | .queue .. => .queueRecord q | .range .. => .rangeRecord q | .key .. => .keyRecord q | _ => .syncRecord q) →
    (match r.body with
      | .context _ op _ _ _ _ => op != 3 && op != 4
      | .queue .. => true
      | .range .. => true
      | .key n _ gone _ => !gone && n != 12 && n != 13
      | .sync => s.mach.pairState == 2 && !s.dev.pair.syncIn.contains q.val && [0, 1, 2, 3].any (fun k => !s.dev.pair.syncAcked.contains k)
      | _ => false) = true →
    p = (match r.body with
      | .context t _ _ _ _ _ => { s.dev.pair with shCtx := s.dev.pair.shCtx.ins t r.body }
      | .queue n _ _ => { s.dev.pair with shQueue := s.dev.pair.shQueue.ins n r.body }
      | .range rs n _ _ _ => { s.dev.pair with shRange := s.dev.pair.shRange.ins (rs * 8 + n) r.body }
      | .key n _ _ _ => { s.dev.pair with shKey := s.dev.pair.shKey.ins n r.body }
      | _ => { s.dev.pair with syncIn := s.dev.pair.syncIn ++ [q.val] }) →
    Does i s (fun m =>
      m.get (R.PKG_MIRROR_RX_PENDING.at q.val) = (m.pair.inb.filter (fun x => x.1 == q.val)).length % 2 ^ R.PKG_MIRROR_RX_PENDING.w ∧
      RegsBut s [(R.PKG_MIRROR_RX_PENDING.at q.val).bits] m ∧ m = { s.mach with regs := m.regs, pair := { p with inb := s.dev.pair.inb.erase (q.val, r) } })) ∧
  (∀ (s : State) (q : Fin 4) (r : MRec) (t op gen cfg : Nat) (ks qs : List Nat), Idle s → s.mach.homeUp = true → s.dev.pair.inb.find? (fun x => x.1 == q.val) = some (q.val, r) →
    r.body = .context t op gen cfg ks qs → op = 3 ∨ op = 4 →
    Does (.contextRecord q) s (fun m =>
      m.get (R.PKG_MIRROR_RX_PENDING.at q.val) = (m.pair.inb.filter (fun x => x.1 == q.val)).length % 2 ^ R.PKG_MIRROR_RX_PENDING.w ∧ RegsBut s [(R.PKG_MIRROR_RX_PENDING.at q.val).bits] m ∧
      m = { s.mach with
        regs := m.regs
        pair := { s.dev.pair with
          inb := s.dev.pair.inb.erase (q.val, r), shCtx := if op = 4 then s.dev.pair.shCtx.erase t else s.dev.pair.shCtx.ins t r.body
          shAcc := s.dev.pair.shAcc.keep (fun k _ => !(decide (bitsOf cfg 25 13 ≤ k) && decide (k < bitsOf cfg 25 13 + bitsOf cfg 16 9))), shLast := s.dev.pair.shLast.keep (fun k _ => !(decide (bitsOf cfg 25 13 ≤ k) && decide (k < bitsOf cfg 25 13 + bitsOf cfg 16 9))), shDone := s.dev.pair.shDone.keep (fun k _ => !(decide (bitsOf cfg 25 13 ≤ k / 2 ^ 16) && decide (k / 2 ^ 16 < bitsOf cfg 25 13 + bitsOf cfg 16 9))) } })) ∧
  (∀ (s : State) (q : Fin 4) (r : MRec) (a t w la : Nat) (d : Line), Idle s → NoUncore s → s.mach.homeUp = true → s.dev.pair.inb.find? (fun x => x.1 == q.val) = some (q.val, r) → r.body = .line a t d false →
    s.mach.applyAt a = some w → BedPage s (w / 64) → s.mach.lineBusy (w / 64) = false → NoDw s (w / 64) → eDur (s.mach.entry (pageOf (w / 64 * 64))) = false →
    la = bedLda (eLoc (s.mach.entry (pageOf (w / 64 * 64)))) (w / 64 * 64) → w % 64 = 0 →
    Does (.lineRecord q) s (fun m =>
      Stored s [(w / 64, la, d)] m ∧ TblBut s.dev.slots (memSlots s [(w / 64, la, d)]) m.slots ∧ Touched s (w / 64) m ∧ m.pair = { s.dev.pair with inb := s.dev.pair.inb.erase (q.val, r) } ∧
      m.get (R.PKG_MIRROR_RX_PENDING.at q.val) = (m.pair.inb.filter (fun x => x.1 == q.val)).length % 2 ^ R.PKG_MIRROR_RX_PENDING.w ∧
      RegsBut s [(R.PKG_MIRROR_RX_PENDING.at q.val).bits, R.HOME_SF_STATUS_OCCUPIED.bits (homeOf w)] m ∧
      m = { s.mach with
        regs := m.regs, pair := m.pair, slots := m.slots, lines := m.lines, filter := m.filter, lineMeta := m.lineMeta, wr := m.wr, errs := m.errs
        pmap := m.pmap, mapDirty := m.mapDirty, tierq := m.tierq })) ∧
  (∀ (s : State) (q : Fin 4) (i : Instr) (r : MRec) (a t w e new : Nat) (sl own : Bool), Idle s → s.mach.homeUp = true → s.dev.pair.inb.find? (fun x => x.1 == q.val) = some (q.val, r) →
    s.mach.applyAt a = some w → w % 4096 = 0 → e = s.mach.entry w → s.mach.pageMoving w = false →
    (i = .pageRecord q ∧ r.body = .page a t sl true false [] ∧ eTier e = tierNone ∧ new = eSetState (eMove (attrs entryReset t own false sl) tierBed 0 0 false) stZero ∨
      i = .mapRecord q ∧ r.body = .map a t 1 sl ∧ eTier e = tierNone ∧ new = attrs entryReset t own false sl ∨
      i = .mapRecord q ∧ r.body = .map a t 4 sl ∧ eTier e ≠ tierNone ∧ new = attrs e t (own && eDur e) (own && ePin e) sl) →
    own = !s.mach.inMirrorWindow w →
    (∀ x ∈ s.dev.filter, pageOf (x.1 * 64) ≠ w) → (∀ x ∈ s.dev.msc, pageOf (x.1 * 64) ≠ w) → (∀ x ∈ s.dev.lines, pageOf (x.1 % 2 ^ 42 * 64) ≠ w) →
    Does i s (fun m =>
      m.entry w = new ∧ MapBut s [w] m ∧ m.pair = { s.dev.pair with inb := s.dev.pair.inb.erase (q.val, r) } ∧
      m.get (R.PKG_MIRROR_RX_PENDING.at q.val) = (m.pair.inb.filter (fun x => x.1 == q.val)).length % 2 ^ R.PKG_MIRROR_RX_PENDING.w ∧
      (∀ j < 4, m.tq j = { s.mach.tq j with gone := (m.tq j).gone, failed := (m.tq j).failed }) ∧ (∀ l, m.lines.find l = s.dev.lines.find l) ∧ (∀ l, m.filter.find l = s.dev.filter.find l) ∧
      PagesBut s ([pageOff 12 .pkg 0, pageOff 12 .seed 0] ++ [0, 1, 2, 3].map (pageOff 12 .tier) ++ [0, 1, 2, 3].map (pageOff 12 .home)) m ∧
      m = { s.mach with regs := m.regs, pair := m.pair, pmap := m.pmap, mapDirty := m.mapDirty, tierq := m.tierq, lines := m.lines, filter := m.filter, journal := m.journal })) ∧
  (∀ (s : State) (q : Fin 4) (r : MRec) (a t w e new : Nat) (sl : Bool), Idle s → s.mach.homeUp = true → s.dev.pair.inb.find? (fun x => x.1 == q.val) = some (q.val, r) →
    s.mach.applyAt a = some w → w % 4096 = 0 → e = s.mach.entry w → s.mach.pageMoving w = false → (∀ x ∈ s.dev.filter, pageOf (x.1 * 64) ≠ w) →
    (r.body = .map a t 2 sl ∧ new = tierNone ∨
      r.body = .map a t 3 sl ∧ eTier e ≠ tierNone ∧ new = eSetState (eMove e tierBed 0 0 false) stZero) →
    Does (.mapRecord q) s (fun m =>
      m.entry w = new ∧ MapBut s [w] m ∧ (∀ l, pageOf (l * 64) = w → m.mscLine l = none) ∧ (∀ l, pageOf (l * 64) ≠ w → m.mscLine l = s.mach.mscLine l) ∧
      m.pair = { s.dev.pair with inb := s.dev.pair.inb.erase (q.val, r) } ∧ m.get (R.PKG_MIRROR_RX_PENDING.at q.val) = (m.pair.inb.filter (fun x => x.1 == q.val)).length % 2 ^ R.PKG_MIRROR_RX_PENDING.w ∧
      (∀ j < 4, m.tq j = { s.mach.tq j with gone := (m.tq j).gone, failed := (m.tq j).failed }) ∧
      PagesBut s ([pageOff 12 .pkg 0, pageOff 12 .seed 0] ++ [0, 1, 2, 3].map (pageOff 12 .tier) ++ [0, 1, 2, 3].map (pageOff 12 .msc)) m ∧
      m = { s.mach with
        regs := m.regs, pair := m.pair, pmap := m.pmap, mapDirty := m.mapDirty, tierq := m.tierq, msc := m.msc, frames := m.frames, smap := m.smap, tags := m.tags, journal := m.journal })) ∧
  (∀ (s : State) (q : Fin 4) (i : Instr) (r : MRec) (n g sq ix size w l la la1 : Nat) (ph : Bool) (ent rec : List Byte) (old : Line) (p : PairSt) (ws : List (Nat × Nat × Line)),
    Idle s → NoUncore s → s.mach.homeUp = true → s.dev.pair.inb.find? (fun x => x.1 == q.val) = some (q.val, r) → s.mach.shadowLog n = some (w, size) → w % 64 = 0 → l = (w + 128 * (sq % size)) / 64 →
    (i = .acceptRecord q ∧ r.body = .accept n g sq ent ∧ ent.length = 96 ∧ BedPage s l ∧ NoDw s l ∧ s.mach.lineBusy l = false ∧ eDur (s.mach.entry (pageOf (l * 64))) = false ∧
        la = bedLda (eLoc (s.mach.entry (pageOf (l * 64)))) (l * 64) ∧ Target s (l + 1) la1 old ∧ la / 64 ≠ la1 / 64 ∧
        ws = [(l, la, lineOfBytes ent 0), (l + 1, la1, putIn old 0 (ent.drop 64))] ∧ p = { s.dev.pair with shAcc := s.dev.pair.shAcc.ins n r.body } ∨
      i = .completeRecord q ∧ r.body = .complete n g sq ix ph rec ∧ rec.length = 32 ∧ Target s (l + 1) la1 old ∧ s.mach.chanReady la1 = true ∧
        ws = [(l + 1, la1, putIn (putIn old 0 [2]) 32 rec)] ∧ p = { s.dev.pair with shDone := s.dev.pair.shDone.ins (n * 2 ^ 16 + sq % size) r.body, shLast := s.dev.pair.shLast.ins n r.body }) →
    Does i s (fun m =>
      Stored s ws m ∧ TblBut s.dev.slots (memSlots s ws) m.slots ∧ m.pair = { p with inb := s.dev.pair.inb.erase (q.val, r) } ∧
      MapBut s [pageOf (l * 64), pageOf ((l + 1) * 64)] m ∧ Aged s m ∧
      PagesBut s ([pageOff 12 .pkg 0] ++ [0, 1, 2, 3].map (pageOff 12 .home)) m ∧
      m = { s.mach with
        regs := m.regs, pair := m.pair, slots := m.slots, lines := m.lines, filter := m.filter
        lineMeta := m.lineMeta, wr := m.wr, errs := m.errs, pmap := m.pmap, mapDirty := m.mapDirty, tierq := m.tierq })) ∧
  (∀ (s : State) (q : Fin 4) (r : MRec), s.mach.homeUp = true → s.dev.pair.inb.find? (fun x => x.1 == q.val) = some (q.val, r) → r.body = .sync →
    s.mach.pairState = 2 → (∀ k < 4, k ∈ s.dev.pair.syncAcked) → (∀ k < 4, k = q.val ∨ k ∈ s.dev.pair.syncIn) →
    Does (.syncRecord q) s (fun m =>
      m.pairState = 3 ∧ m.get R.PKG_PAIR_STATE_WAS_PAIRED = 1 ∧ m.mode = (if s.mach.mode = 3 ∨ s.mach.mode = 5 ∨ s.mach.mode = 6 then 4 else s.mach.mode) ∧
      m.pair.inb = s.dev.pair.inb.erase (q.val, r))) ∧
  (∀ (s : State) (q : Fin 4) (seq : Word) (b : Batch), Idle s → s.dev.pair.inb.find? (fun x => x.1 == q.val) = none →
    (∀ i ∈ [Instr.lineRecord q, .pageRecord q, .mapRecord q, .acceptRecord q, .completeRecord q, .contextRecord q, .queueRecord q, .rangeRecord q, .keyRecord q, .syncRecord q], Leaves i s s.mach) ∧
    (s.mach.mirrorMode = false → Leaves (.mirrorAck q seq) s s.mach ∧ Leaves (.mirrorBatch q b) s s.mach))

/-- R417–R419: a flit whose CRC holds and whose TXSEQ is the next one is taken: its ACKSEQ and credits count, and what it carries goes on into the mesh beyond,
an ANY flit on routes A and B in turn; a null flit carries nothing. One that fails its CRC is counted and asked for again. R420: a retrain that succeeds ends
TRAINING at both ends; the RETRAIN_LIMIT-th failure, or the loss of the forwarded clock, takes the link down: UP 0 with its cause at both ends, a LINK event and
the Fatal error LINK_DOWN. The last clause holds of any flit whose CRC holds, also where a probe sees it; the others meet no probe. The module retrains
again while its failures in a row stay under the RETRAIN_LIMIT of both its pages. The clauses say too where such a command changes nothing. -/
def Obligations.HylarLinksComplete : Prop :=
  (∀ (s : State) (die : Fin 12) (atDie : Bool) (flit b : List Byte) (ctl crc : BitVec 32) (e i d k : Nat) (x : HylEnd), e = atDie.toNat → (i, d) = hylPage die.val e →
    k = 2 * die.val + e → x = s.mach.hylEnd k → s.mach.on R.HYL_LINK_STATUS_UP i d = true → s.mach.on R.HYL_LINK_STATUS_TRAINING i d = false → b = (flit ++ List.replicate 88 0).take 88 →
    Wire.crc32 (b ++ bytesOf 4 ctl.toNat) = crc.toNat → bitsOf ctl.toNat 0 12 = x.expect → bitsOf ctl.toNat 24 1 = 0 → x.runs < max 1 (s.mach.act R.HYL_LINK_CTL_REPLAY_LIMIT i d) →
    (Wire.nat b 8 1 % 64 = 0 ∨
      ((nodeAt (if atDie then die.val else 12) (if atDie then 60 else bridgeLocal die.val)).isSome = true ∧
        (s.mach.exitOf (if atDie then die.val else 12) (bitsOf (ofBytes (b.take 24)) 43 11)).isSome = true ∧
        ∀ j < 4, ∀ p < 4, s.mach.get (R.FAB_PCFG_EN.at p) j (if atDie then die.val else 12) = 0)) →
    Does (.hylarFlit die atDie flit ctl crc) s (fun m =>
      m.hylEnd k = { x with
        expect := (x.expect + 1) % 2 ^ 12, nak := false, acked := bitsOf ctl.toNat 12 12, runs := if bitsOf ctl.toNat 12 12 = x.acked then x.runs else 0
        credits := (List.range 6).map (fun c => if c = bitsOf ctl.toNat 25 3 then min 93 (x.credits.getD c 0 + bitsOf ctl.toNat 28 4) else x.credits.getD c 0)
        last := if Wire.nat b 8 1 % 64 = 0 then x.last else b } ∧
      TblBut s.dev.hylEnds [k] m.hylEnds ∧
      (Wire.nat b 8 1 % 64 = 0 ∨ bitsOf (ofBytes (b.take 24)) 73 2 ≠ 0 → m.fabAlt = s.dev.fabAlt) ∧
      m = { s.mach with hylEnds := m.hylEnds, fabAlt := m.fabAlt })) ∧
  (∀ (s : State) (die : Fin 12) (atDie : Bool) (flit b : List Byte) (ctl crc : BitVec 32) (e i d k : Nat), e = atDie.toNat → (i, d) = hylPage die.val e → k = 2 * die.val + e →
    s.mach.on R.HYL_LINK_STATUS_UP i d = true → s.mach.on R.HYL_LINK_STATUS_TRAINING i d = false → b = (flit ++ List.replicate 88 0).take 88 → Wire.crc32 (b ++ bytesOf 4 ctl.toNat) ≠ crc.toNat →
    Does (.hylarFlit die atDie flit ctl crc) s (fun m =>
      m.hylEnd k = { s.mach.hylEnd k with nak := true } ∧ TblBut s.dev.hylEnds [k] m.hylEnds ∧
      m.get R.HYL_ERRORS_CRC i d = (s.mach.get R.HYL_ERRORS_CRC i d + 1) % 2 ^ R.HYL_ERRORS_CRC.w ∧ RegsBut s [R.HYL_ERRORS_CRC.bits i d] m ∧
      m = { s.mach with regs := m.regs, hylEnds := m.hylEnds })) ∧
  (∀ (s : State) (die : Fin 12), s.mach.on R.HYL_LINK_STATUS_TRAINING die.val = true → s.mach.on R.HYL_LINK_STATUS_UP die.val = true →
    Does (.hylarRetrainDone die true) s (fun m =>
      m.get R.HYL_LINK_STATUS_TRAINING die.val = 0 ∧ m.get R.HYL_LINK_STATUS_TRAINING 0 die.val = 0 ∧
      m.hylEnd (2 * die.val) = { s.mach.hylEnd (2 * die.val) with fails := 0 } ∧ TblBut s.dev.hylEnds [2 * die.val] m.hylEnds ∧
      RegsBut s [R.HYL_LINK_STATUS_TRAINING.bits die.val, R.HYL_LINK_STATUS_TRAINING.bits 0 die.val] m ∧ m = { s.mach with regs := m.regs, hylEnds := m.hylEnds })) ∧
  (∀ (s : State) (die : Fin 12), s.mach.on R.HYL_LINK_STATUS_TRAINING die.val = true → s.mach.on R.HYL_LINK_STATUS_UP die.val = true →
    (s.mach.hylEnd (2 * die.val)).fails + 1 < min (max 1 (s.mach.act R.HYL_LINK_CTL_RETRAIN_LIMIT die.val)) (max 1 (s.mach.act R.HYL_LINK_CTL_RETRAIN_LIMIT 0 die.val)) →
    Does (.hylarRetrainDone die false) s (fun m =>
      (∀ p ∈ [(die.val, 12), (0, die.val)], m.get R.HYL_LINK_STATUS_TRAINING p.1 p.2 = 1 ∧
        m.get R.HYL_RETRAINS_COUNT p.1 p.2 = (s.mach.get R.HYL_RETRAINS_COUNT p.1 p.2 + 1) % 2 ^ R.HYL_RETRAINS_COUNT.w) ∧
      m.hylEnd (2 * die.val) = { s.mach.hylEnd (2 * die.val) with fails := (s.mach.hylEnd (2 * die.val)).fails + 1 } ∧
      TblBut s.dev.hylEnds [2 * die.val] m.hylEnds ∧
      RegsBut s [R.HYL_LINK_STATUS_TRAINING.bits die.val, R.HYL_RETRAINS_COUNT.bits die.val, R.HYL_LINK_STATUS_TRAINING.bits 0 die.val, R.HYL_RETRAINS_COUNT.bits 0 die.val] m ∧
      m = { s.mach with regs := m.regs, hylEnds := m.hylEnds })) ∧
  (∀ (s : State) (die : Fin 12) (i : Instr) (cause : Nat), s.mach.on R.HYL_LINK_STATUS_UP die.val = true →
    (i = .hylarRetrainDone die false ∧ cause = 5 ∧ s.mach.on R.HYL_LINK_STATUS_TRAINING die.val = true ∧
        min (max 1 (s.mach.act R.HYL_LINK_CTL_RETRAIN_LIMIT die.val)) (max 1 (s.mach.act R.HYL_LINK_CTL_RETRAIN_LIMIT 0 die.val)) ≤ (s.mach.hylEnd (2 * die.val)).fails + 1 ∨ i = .fwdClockLoss die ∧ cause = 4) →
    Does i s (fun m =>
      (∀ p ∈ [(die.val, 12), (0, die.val)], m.get R.HYL_LINK_STATUS_UP p.1 p.2 = 0 ∧ m.get R.HYL_LINK_STATUS_TRAINING p.1 p.2 = 0 ∧
        m.get R.HYL_LINK_STATUS_FAIL_CAUSE p.1 p.2 = cause) ∧
      (cause = 4 → m.get R.CLK_FWD_STATUS_FWD_OK 0 die.val = 0 ∧ m.get R.CLK_FWD_STATUS_DESKEW_DONE 0 die.val = 0) ∧
      RegsBut s [whole (R.HYL_LINK_STATUS_UP.key die.val), whole (R.HYL_LINK_STATUS_UP.key 0 die.val), whole (R.CLK_FWD_STATUS_FWD_OK.key 0 die.val)] m ∧
      (∀ k, k ≠ 2 * die.val → m.hylEnd k = s.mach.hylEnd k) ∧
      m = { s.mach with
        regs := m.regs, hylEnds := m.hylEnds, errs := [⟨12, .hyl, die.val, E.HYL_LINK_DOWN.bit, sevFatal, none, 0, none, false⟩]
        evs := [⟨9, 2, 12, .hyl, die.val, none, cause * 16, 0⟩] })) ∧
  (∀ (s : State) (die : Fin 12) (atDie : Bool) (flit b : List Byte) (ctl crc : BitVec 32) (e i d k : Nat), e = atDie.toNat → (i, d) = hylPage die.val e →
    k = 2 * die.val + e → s.mach.on R.HYL_LINK_STATUS_UP i d = true → s.mach.on R.HYL_LINK_STATUS_TRAINING i d = false → b = (flit ++ List.replicate 88 0).take 88 →
    Wire.crc32 (b ++ bytesOf 4 ctl.toNat) = crc.toNat →
    Does (.hylarFlit die atDie flit ctl crc) s (fun m =>
      (m.hylEnd k).acked = bitsOf ctl.toNat 12 12 ∧ TblBut s.dev.hylEnds [k] m.hylEnds ∧
      (bitsOf ctl.toNat 0 12 = (s.mach.hylEnd k).expect → (m.hylEnd k).expect = ((s.mach.hylEnd k).expect + 1) % 2 ^ 12 ∧ (m.hylEnd k).nak = false) ∧
      (bitsOf ctl.toNat 0 12 ≠ (s.mach.hylEnd k).expect → (m.hylEnd k).expect = (s.mach.hylEnd k).expect ∧ (m.hylEnd k).nak = true))) ∧
  (∀ (s : State) (die : Fin 12) (atDie : Bool) (flit : List Byte) (ctl crc : BitVec 32) (e i d : Nat), e = atDie.toNat → (i, d) = hylPage die.val e →
    (s.mach.on R.HYL_LINK_STATUS_UP i d = false ∨ s.mach.on R.HYL_LINK_STATUS_TRAINING i d = true → Leaves (.hylarFlit die atDie flit ctl crc) s s.mach) ∧
    (s.mach.on R.HYL_LINK_STATUS_UP die.val = false ∨ s.mach.on R.HYL_LINK_STATUS_TRAINING die.val = false → ∀ ok, Leaves (.hylarRetrainDone die ok) s s.mach) ∧
    (s.mach.on R.HYL_LINK_STATUS_UP die.val = false → Does (.fwdClockLoss die) s (fun m =>
      m.get R.CLK_FWD_STATUS_FWD_OK 0 die.val = 0 ∧ m.get R.CLK_FWD_STATUS_DESKEW_DONE 0 die.val = 0 ∧
      OnlyRegs s [R.CLK_FWD_STATUS_FWD_OK.bits 0 die.val, R.CLK_FWD_STATUS_DESKEW_DONE.bits 0 die.val] m)))

/-- R424–R426: a numbered frame whose CRC holds and whose FSEQ is the next one is taken. A DATA frame's bytes join its stream's batches; an ACK frame acts as the
acknowledgements it lists; a STATUS frame's 128 bytes go into the partner's view, which is valid with it (R66, R431). The leader answers RETRAIN_REQ with a
retrain, and WIDTH_REQ with the widest of 4, 8, 12 and 16 lanes that its lanes allow and that is not above the request (R428, R429); a follower keeps a GRANT until
its pair. R423: a pair header whose check holds gives its lane lock, and pairs are taken up in PSEQ order. The ACK clause says it for records without waiting work.
The clauses say too where such a command changes nothing. -/
def Obligations.GuylineFramesComplete : Prop :=
  (∀ (s : State) (port : Fin 2) (h : FrameHdr) (q : Fin 4) (payload : List Byte), Arrives s port.val 1 h q.val payload →
    Does (.dataFrame port h q payload) s (fun m =>
      m.guy port.val = tookFrame (s.mach.guy port.val) h ∧ TblBut s.dev.guys [port.val] m.guys ∧
      m.pair.rx.getD q.val [] = s.dev.pair.rx.getD q.val [] ++ (payload ++ List.replicate 244 0).take 244 ∧ TblBut s.dev.pair.rx [q.val] m.pair.rx ∧
      m = { s.mach with guys := m.guys, pair := { s.dev.pair with rx := m.pair.rx } })) ∧
  (∀ (s : State) (port : Fin 2) (h : FrameHdr) (entries l : List (Fin 4 × Word)), Arrives s port.val 2 h 0 (ackBytes (entries.take 14)) → Idle s → s.mach.mirrorMode = true →
    l = (if s.mach.get R.PKG_PAIR_STATE_FEATURES / 2 % 2 = 1 then entries.take 14 else entries.take 1) →
    (∀ e ∈ l, ∀ r ∈ s.mach.outRing e.1.val, r.seq ≤ e.2.toNat → r.forDur = none ∧ (match r.body with | .sync => false | .accept .. => false | _ => true) = true) →
    (∃ k ∈ [0, 1, 2, 3], k ∉ s.dev.pair.syncAcked) →
    Does (.ackFrame port h entries) s (fun m =>
      m.guy port.val = tookFrame (s.mach.guy port.val) h ∧ TblBut s.dev.guys [port.val] m.guys ∧
      (∀ q < 4, m.outRing q = (s.mach.outRing q).filter (fun r => l.all (fun e => e.1.val != q || decide (e.2.toNat < r.seq)))) ∧
      (∀ e ∈ l, m.get (R.PKG_MIRROR_TX_UNACKED.at e.1.val) = m.unacked e.1.val % 2 ^ R.PKG_MIRROR_TX_UNACKED.w ∧ m.get (R.PKG_MIRROR_TX_FULL.at e.1.val) = (!m.ringRoom e.1.val 80).toNat) ∧
      TblBut s.dev.pair.out (l.map (fun e => e.1.val)) m.pair.out ∧ RegsBut s (l.map (fun e => whole ((R.PKG_MIRROR_TX_UNACKED.at e.1.val).key))) m ∧
      m = { s.mach with regs := m.regs, guys := m.guys, pair := { s.dev.pair with out := m.pair.out, wire := m.pair.wire } })) ∧
  (∀ (s : State) (port : Fin 2) (h : FrameHdr) (page : StatusPage) (offset : Fin 32) (mode : BitVec 4) (data : List Byte),
    Arrives s port.val 3 h 0 (statusBytes page offset.val mode.toNat data) → (mode ≠ 9 ∨ s.mach.pairState ≠ 3) → s.mach.mode ≠ 6 →
    Does (.statusFrame port h page offset mode data) s (fun m =>
      (∀ i < 16, m.reg (copyPage page + 128 * offset.val + 8 * i) = Wire.nat data (8 * i) 8) ∧ m.get R.PKG_PARTNER_VIEW_VALID = 1 ∧
      (∀ n < 2, m.guy n = { if n = port.val then tookFrame (s.mach.guy n) h else s.mach.guy n with peerMode := mode.toNat }) ∧ TblBut s.dev.guys [0, 1] m.guys ∧
      RegsBut s (R.PKG_PARTNER_VIEW_VALID.bits :: (List.range 16).map (fun i => whole (copyPage page + 128 * offset.val + 8 * i))) m ∧
      m = { s.mach with regs := m.regs, guys := m.guys, statusAt := s.dev.time, pair := { s.dev.pair with alive := mode != 9 } })) ∧
  (∀ (s : State) (port : Fin 2) (h : FrameHdr) (page : StatusPage) (offset : Fin 32) (mode : BitVec 4) (data : List Byte),
    Arrives s port.val 3 h 0 (statusBytes page offset.val mode.toNat data) →
    Does (.statusFrame port h page offset mode data) s (fun m =>
      (∀ i < 16, m.reg (copyPage page + 128 * offset.val + 8 * i) = Wire.nat data (8 * i) 8) ∧ m.get R.PKG_PARTNER_VIEW_VALID = 1 ∧
      m.statusAt = some s.dev.time ∧ m.pair.alive = (mode != 9) ∧ (mode = 9 → s.mach.pairState = 3 → m.pairState = 4 ∧ (s.mach.mode = 4 → m.mode = 6)))) ∧
  (∀ (s : State) (port : Fin 2) (h : FrameHdr) (n : Nat), n = port.val → Arrives s n 4 h 0 (controlBytes 1 0 0 (s.mach.get R.GUY_PEER_SERIAL n)) →
    s.mach.on R.GUY_STATUS_LEADER n = true →
    Does (.retrainReq port h) s (fun m =>
      m.get R.GUY_STATUS_TRAINING n = 1 ∧ m.get R.GUY_EVENTS_RETRAINS n = (s.mach.get R.GUY_EVENTS_RETRAINS n + 1) % 2 ^ R.GUY_EVENTS_RETRAINS.w ∧
      m.guy n = { tookFrame (s.mach.guy n) h with retrain := true, trained := false, grant := none } ∧ TblBut s.dev.guys [n] m.guys ∧
      RegsBut s [R.GUY_STATUS_TRAINING.bits n, R.GUY_EVENTS_RETRAINS.bits n] m ∧ m = { s.mach with regs := m.regs, guys := m.guys })) ∧
  (∀ (s : State) (port : Fin 2) (h : FrameHdr) (lanes : Byte) (n : Nat), n = port.val → Arrives s n 4 h 0 (controlBytes 2 lanes.toNat 0 (s.mach.get R.GUY_PEER_SERIAL n)) →
    s.mach.on R.GUY_STATUS_LEADER n = true → (s.mach.guy n).retrain = false →
    Does (.widthReq port h lanes) s (fun m =>
      m.get R.GUY_STATUS_ACTIVE n = min lanes.toNat (widthFor (min (s.mach.guy n).lanes.length (s.mach.guy n).peerLanes)) ∧
      m.guy n = tookFrame (s.mach.guy n) h ∧ TblBut s.dev.guys [n] m.guys ∧ RegsBut s [R.GUY_STATUS_ACTIVE.bits n] m ∧ m = { s.mach with regs := m.regs, guys := m.guys })) ∧
  (∀ (s : State) (port : Fin 2) (h : FrameHdr) (lanes : Byte) (pseq : BitVec 16) (n : Nat), n = port.val →
    Arrives s n 4 h 0 (controlBytes 3 lanes.toNat pseq.toNat (s.mach.get R.GUY_PEER_SERIAL n)) → s.mach.on R.GUY_STATUS_LEADER n = false →
    (s.mach.guy n).nextPair ∉ (s.mach.guy n).pairs →
    Does (.widthGrant port h lanes pseq) s (fun m =>
      m.guy n = { tookFrame (s.mach.guy n) h with grant := some (lanes.toNat, pseq.toNat) } ∧ TblBut s.dev.guys [n] m.guys ∧ m = { s.mach with guys := m.guys })) ∧
  (∀ (s : State) (port : Fin 2) (h : FrameHdr) (lanes : Byte) (pseq : BitVec 16) (i : Instr) (op a b : Nat), Arrives s port.val 4 h 0 (controlBytes op a b (s.mach.get R.GUY_PEER_SERIAL port.val)) →
    (i = .retrainReq port h ∧ (op, a, b) = (1, 0, 0) ∧ s.mach.on R.GUY_STATUS_LEADER port.val = false ∨
      i = .widthReq port h lanes ∧ (op, a, b) = (2, lanes.toNat, 0) ∧ (s.mach.on R.GUY_STATUS_LEADER port.val = false ∨ (s.mach.guy port.val).retrain = true) ∨
      i = .widthGrant port h lanes pseq ∧ (op, a, b) = (3, lanes.toNat, pseq.toNat) ∧ s.mach.on R.GUY_STATUS_LEADER port.val = true) →
    Does i s (fun m => m.guy port.val = tookFrame (s.mach.guy port.val) h ∧ TblBut s.dev.guys [port.val] m.guys ∧ m = { s.mach with guys := m.guys })) ∧
  (∀ (s : State) (port : Fin 2) (lane : Fin 16) (h : PairHdr) (n : Nat) (g : GuyPort), n = port.val → g = s.mach.guy n →
    Nat.xor (Nat.xor (Nat.xor (Nat.xor (h.pseq.toNat % 256) (h.pseq.toNat / 256)) h.lane.toNat) h.active.toNat) 0x5A = h.check.toNat → g.pairs = [] → h.pseq.toNat = g.nextPair →
    Does (.codewordPair port lane h) s (fun m =>
      m.get R.GUY_FEC_CORRECTED n = (s.mach.get R.GUY_FEC_CORRECTED n + h.corrected.val) % 2 ^ R.GUY_FEC_CORRECTED.w ∧
      m.get R.GUY_FEC_UNCORRECTED n = (s.mach.get R.GUY_FEC_UNCORRECTED n + h.uncorrected.val) % 2 ^ R.GUY_FEC_UNCORRECTED.w ∧
      (∀ w, g.grant = some (w, g.nextPair) → m.get R.GUY_STATUS_ACTIVE n = w % 2 ^ R.GUY_STATUS_ACTIVE.w) ∧
      ((∀ w, g.grant ≠ some (w, g.nextPair)) → m.get R.GUY_STATUS_ACTIVE n = s.mach.get R.GUY_STATUS_ACTIVE n) ∧
      (m.guy n).lanes = (if g.lanes.contains lane.val then g.lanes else g.lanes ++ [lane.val]) ∧ (m.guy n).nextPair = (g.nextPair + 1) % 2 ^ 16 ∧ (m.guy n).pairs = [] ∧
      (m.guy n).bad.getD lane.val 0 = 0 ∧ TblBut s.dev.guys [n] m.guys ∧
      m.guy n = { g with lanes := (m.guy n).lanes, bad := (m.guy n).bad, nextPair := (m.guy n).nextPair, grant := (m.guy n).grant } ∧
      RegsBut s [R.GUY_FEC_CORRECTED.bits n, R.GUY_FEC_UNCORRECTED.bits n, R.GUY_STATUS_ACTIVE.bits n] m ∧ m = { s.mach with regs := m.regs, guys := m.guys })) ∧
  (∀ (s : State) (port : Fin 2) (lane : Fin 16) (h : PairHdr) (n k : Nat), n = port.val → k = (s.mach.guy n).bad.getD lane.val 0 + 1 → k < 4 →
    Nat.xor (Nat.xor (Nat.xor (Nat.xor (h.pseq.toNat % 256) (h.pseq.toNat / 256)) h.lane.toNat) h.active.toNat) 0x5A ≠ h.check.toNat →
    Does (.codewordPair port lane h) s (fun m =>
      m.get R.GUY_FEC_CORRECTED n = (s.mach.get R.GUY_FEC_CORRECTED n + h.corrected.val) % 2 ^ R.GUY_FEC_CORRECTED.w ∧
      m.get R.GUY_FEC_UNCORRECTED n = (s.mach.get R.GUY_FEC_UNCORRECTED n + h.uncorrected.val) % 2 ^ R.GUY_FEC_UNCORRECTED.w ∧
      m.guy n = { s.mach.guy n with
        bad := (m.guy n).bad
        window := if (s.mach.guy n).lanes.contains lane.val ∨ (s.mach.guy n).retrain = true then (s.mach.guy n).window else (s.mach.guy n).window + 5 } ∧
      (m.guy n).bad.getD lane.val 0 = k ∧ TblBut (s.mach.guy n).bad [lane.val] (m.guy n).bad ∧ TblBut s.dev.guys [n] m.guys ∧
      RegsBut s [R.GUY_FEC_CORRECTED.bits n, R.GUY_FEC_UNCORRECTED.bits n] m ∧ m = { s.mach with regs := m.regs, guys := m.guys })) ∧
  (∀ (s : State) (port : Fin 2) (lane : Fin 16) (h : PairHdr) (n c : Nat) (g : GuyPort), n = port.val → g = s.mach.guy n → 3 ≤ g.bad.getD lane.val 0 →
    Nat.xor (Nat.xor (Nat.xor (Nat.xor (h.pseq.toNat % 256) (h.pseq.toNat / 256)) h.lane.toNat) h.active.toNat) 0x5A ≠ h.check.toNat →
    c = (g.lanes.filter (· != lane.val)).length → (g.lanes.contains lane.val = true → s.mach.guyUp n = true → 4 ≤ c) →
    Does (.codewordPair port lane h) s (fun m =>
      m.get R.GUY_FEC_CORRECTED n = (s.mach.get R.GUY_FEC_CORRECTED n + h.corrected.val) % 2 ^ R.GUY_FEC_CORRECTED.w ∧
      m.get R.GUY_FEC_UNCORRECTED n = (s.mach.get R.GUY_FEC_UNCORRECTED n + h.uncorrected.val) % 2 ^ R.GUY_FEC_UNCORRECTED.w ∧
      m.guy n = { g with
        lanes := g.lanes.filter (· != lane.val), bad := (m.guy n).bad
        window := if g.lanes.contains lane.val ∨ g.retrain = true then g.window else g.window + 5 } ∧
      (m.guy n).bad.getD lane.val 0 = 4 ∧ TblBut g.bad [lane.val] (m.guy n).bad ∧ TblBut s.dev.guys [n] m.guys ∧
      m.get R.GUY_STATUS_ACTIVE n = (if g.lanes.contains lane.val = true ∧ s.mach.guyUp n = true ∧ s.mach.on R.GUY_STATUS_LEADER n = true ∧ c < s.mach.get R.GUY_STATUS_ACTIVE n
        then widthFor c else s.mach.get R.GUY_STATUS_ACTIVE n) ∧
      RegsBut s [R.GUY_FEC_CORRECTED.bits n, R.GUY_FEC_UNCORRECTED.bits n, R.GUY_STATUS_ACTIVE.bits n] m ∧ m = { s.mach with regs := m.regs, guys := m.guys })) ∧
  (∀ (s : State) (port : Fin 2) (lane : Fin 16) (h : PairHdr) (n : Nat), n = port.val →
    Nat.xor (Nat.xor (Nat.xor (Nat.xor (h.pseq.toNat % 256) (h.pseq.toNat / 256)) h.lane.toNat) h.active.toNat) 0x5A = h.check.toNat →
    Does (.codewordPair port lane h) s (fun m =>
      m.get R.GUY_FEC_CORRECTED n = (s.mach.get R.GUY_FEC_CORRECTED n + h.corrected.val) % 2 ^ R.GUY_FEC_CORRECTED.w ∧
      m.get R.GUY_FEC_UNCORRECTED n = (s.mach.get R.GUY_FEC_UNCORRECTED n + h.uncorrected.val) % 2 ^ R.GUY_FEC_UNCORRECTED.w ∧
      lane.val ∈ (m.guy n).lanes ∧ (∀ x, x ∈ (m.guy n).lanes ↔ x = lane.val ∨ x ∈ (s.mach.guy n).lanes) ∧ (m.guy n).bad.getD lane.val 0 = 0 ∧ TblBut s.dev.guys [n] m.guys ∧
      m = { s.mach with regs := m.regs, guys := m.guys })) ∧
  (∀ (s : State) (port : Fin 2) (h : FrameHdr) (q : Fin 4) (data payload : List Byte) (entries : List (Fin 4 × Word)) (page : StatusPage) (offset : Fin 32)
    (mode : BitVec 4) (lanes : Byte) (pseq : BitVec 16) (i : Instr) (kind stream n peer : Nat), n = port.val → peer = s.mach.get R.GUY_PEER_SERIAL n →
    (i, kind, stream, payload) ∈ [
      (.dataFrame port h q data, 1, q.val, data), (.ackFrame port h entries, 2, 0, ackBytes (entries.take 14)),
      (.statusFrame port h page offset mode data, 3, 0, statusBytes page offset.val mode.toNat data),
      (.retrainReq port h, 4, 0, controlBytes 1 0 0 peer), (.widthReq port h lanes, 4, 0, controlBytes 2 lanes.toNat 0 peer),
      (.widthGrant port h lanes pseq, 4, 0, controlBytes 3 lanes.toNat pseq.toNat peer)] →
    (s.mach.guyUp n = false → Leaves i s s.mach) ∧
    (s.mach.guyUp n = true → Wire.crc32 (Mach.frameBytes kind h stream payload) ≠ h.crc.toNat →
      Does i s (fun m =>
        m.get R.GUY_FRAMES_CRC_FAIL n = (s.mach.get R.GUY_FRAMES_CRC_FAIL n + 1) % 2 ^ R.GUY_FRAMES_CRC_FAIL.w ∧
        m.guy n = { s.mach.guy n with nak := true, window := if (s.mach.guy n).retrain = true then (s.mach.guy n).window else (s.mach.guy n).window + 1 } ∧
        TblBut s.dev.guys [n] m.guys ∧ RegsBut s [R.GUY_FRAMES_CRC_FAIL.bits n] m ∧ m = { s.mach with regs := m.regs, guys := m.guys })) ∧
    (s.mach.guyUp n = true → Wire.crc32 (Mach.frameBytes kind h stream payload) = h.crc.toNat → h.nak = false → h.fseq.toNat ≠ (s.mach.guy n).expect →
      Does i s (fun m =>
        m.guy n = { s.mach.guy n with acked := h.ackseq.toNat, credits := min 1024 ((s.mach.guy n).credits + h.credits.toNat), nak := true } ∧
        TblBut s.dev.guys [n] m.guys ∧ m = { s.mach with guys := m.guys })))

/-- R427: a TRAIN frame that passes the checks gives the partner's SERIAL and the leader; one that does not is refused with its cause. Training ends at the largest
width the lanes of both ends allow, with a LINK event where the port was down. R428, R429, R433: WIDTH.RETRAIN and WIDTH.REQ act on the leader and are asked for
by the follower. R430: a retrain of 100 ms, or a window with more failures than DOWN_COUNT, declares the port down. R431, R432: STATUS rounds, their absence, the beacon
of every mode but OFF, the partner's beacon and its absence. The clauses say too where such a command changes nothing. -/
def Obligations.GuylineTrainingComplete : Prop :=
  (∀ (s : State) (port : Fin 2) (crc : BitVec 32) (serial : BitVec 63) (majors minor lanes peerPort : Byte) (mode : BitVec 4) (n : Nat), n = port.val →
    Wire.crc32 (frameBytes 5 ⟨false, false, 0, 0, 0, 0⟩ 0 (trainBytes serial.toNat majors.toNat minor.toNat lanes.toNat peerPort.toNat mode.toNat)) = crc.toNat →
    s.mach.guyOn n = true → s.mach.on R.GUY_STATUS_TRAINING n = true → s.mach.trainCause n serial.toNat majors.toNat = 0 →
    Does (.trainFrame port crc serial majors minor lanes peerPort mode) s (fun m =>
      m.get R.GUY_PEER_SERIAL n = serial.toNat ∧ m.get R.GUY_STATUS_MAJOR n = 1 ∧ m.get R.GUY_STATUS_FAIL_CAUSE n = 0 ∧
      m.get R.GUY_STATUS_LEADER n = (decide (s.fuses.serial < serial.toNat)).toNat ∧
      m.guy n = { s.mach.guy n with trained := true, peerLanes := lanes.toNat, peerMode := mode.toNat } ∧ TblBut s.dev.guys [n] m.guys ∧
      RegsBut s [R.GUY_PEER_SERIAL.bits n, R.GUY_STATUS_MAJOR.bits n, R.GUY_STATUS_FAIL_CAUSE.bits n, R.GUY_STATUS_LEADER.bits n] m ∧
      m = { s.mach with regs := m.regs, guys := m.guys })) ∧
  (∀ (s : State) (port : Fin 2) (crc : BitVec 32) (serial : BitVec 63) (majors minor lanes peerPort : Byte) (mode : BitVec 4) (n c : Nat), n = port.val →
    Wire.crc32 (frameBytes 5 ⟨false, false, 0, 0, 0, 0⟩ 0 (trainBytes serial.toNat majors.toNat minor.toNat lanes.toNat peerPort.toNat mode.toNat)) = crc.toNat →
    s.mach.guyOn n = true → s.mach.on R.GUY_STATUS_TRAINING n = true → s.mach.trainCause n serial.toNat majors.toNat = c → c ≠ 0 →
    Does (.trainFrame port crc serial majors minor lanes peerPort mode) s (fun m =>
      m.get R.GUY_STATUS_FAIL_CAUSE n = c ∧ m.guy n = { s.mach.guy n with trained := false } ∧ TblBut s.dev.guys [n] m.guys ∧ RegsBut s [R.GUY_STATUS_FAIL_CAUSE.bits n] m ∧
      m = { s.mach with
        regs := m.regs, guys := m.guys, errs := [⟨12, .guy, n, E.GUY_REFUSED.bit, sevContained, none, 0, none, false⟩]
        evs := [⟨9, 2, 12, .guy, n, none, c * 16, 0⟩] })) ∧
  (∀ (s : State) (port : Fin 2) (lanes : BitVec 16) (n w : Nat) (g : GuyPort), n = port.val → g = s.mach.guy n → w = widthFor (min (lanesOf lanes).length g.peerLanes) → w ≠ 0 →
    s.mach.guyOn n = true → s.mach.on R.GUY_STATUS_TRAINING n = true → g.trained = true → s.mach.mode ≠ 6 →
    (∀ q < 4, s.mach.outRing q = []) →
    Does (.guyTrainDone port lanes) s (fun m =>
      m.get R.GUY_STATUS_UP n = 1 ∧ m.get R.GUY_STATUS_TRAINING n = 0 ∧ m.get R.GUY_STATUS_ACTIVE n = w ∧
      m.guy n = { g with
        lanes := lanesOf lanes, bad := [], retrain := false, grant := none, nextPair := 0, pairs := []
        ask := if s.mach.on R.GUY_STATUS_LEADER n = true ∨ s.mach.get R.GUY_WIDTH_REQ n = w then none else some (s.mach.get R.GUY_WIDTH_REQ n)
        expect := if s.mach.guyUp n then g.expect else 0, next := if s.mach.guyUp n then g.next else 0
        acked := if s.mach.guyUp n then g.acked else 0xFFFF, credits := if s.mach.guyUp n then g.credits else 1024 } ∧
      TblBut s.dev.guys [n] m.guys ∧ RegsBut s [R.GUY_STATUS_UP.bits n, R.GUY_STATUS_TRAINING.bits n, R.GUY_STATUS_ACTIVE.bits n] m ∧
      m = { s.mach with
        regs := m.regs, guys := m.guys, evs := if s.mach.guyUp n then [] else [⟨9, 2, 12, .guy, n, none, 1, 0⟩]
        pair := { s.dev.pair with out := m.pair.out, sent := m.pair.sent, wire := m.pair.wire } } ∧ (∀ q < 4, m.outRing q = []))) ∧
  (∀ (s : State) (port : Fin 2) (lanes : BitVec 16) (n w : Nat) (g : GuyPort), n = port.val → g = s.mach.guy n → w = widthFor (min (lanesOf lanes).length g.peerLanes) → w ≠ 0 →
    s.mach.guyOn n = true → s.mach.on R.GUY_STATUS_TRAINING n = true → g.trained = true →
    Does (.guyTrainDone port lanes) s (fun m =>
      m.get R.GUY_STATUS_UP n = 1 ∧ m.get R.GUY_STATUS_TRAINING n = 0 ∧ m.get R.GUY_STATUS_ACTIVE n = w ∧ (m.guy n).lanes = lanesOf lanes ∧ TblBut s.dev.guys [n] m.guys ∧
      (s.mach.guyUp n = false → (m.guy n).expect = 0 ∧ (m.guy n).next = 0) ∧
      (s.mach.guyUp n = true → ∀ q < 4, m.outRing q = s.mach.outRing q) ∧
      (s.mach.guyUp n = false → s.mach.mode ≠ 6 → ∀ q < 4, m.outRing q =
        if (s.mach.guyAny = false ∨ s.mach.streamPort q ≠ m.streamPort q) then
          (s.mach.outRing q).map (fun r => { r with resend := r.resend || decide (r.seq ≤ s.dev.pair.sent.getD q 0) }) else s.mach.outRing q) ∧
      (s.mach.guyUp n = false → s.mach.mode = 6 → s.mach.pairState = 4 → s.dev.pair.step = 0 → g.peerMode = 4 ∨ g.peerMode = 6 →
        m.pair.step = 5 ∧ m.pair.syncOut = [0, 1, 2, 3] ∧ m.get R.PKG_PAIR_STATE_RESYNC_NEEDED = 0))) ∧
  (∀ (s : State) (port : Fin 2) (lanes : BitVec 16) (n : Nat), n = port.val →
    (s.mach.guyOn n = false ∨ s.mach.on R.GUY_STATUS_TRAINING n = false ∨ (s.mach.guy n).trained = false ∨ min (lanesOf lanes).length (s.mach.guy n).peerLanes < 4) →
    Does (.guyTrainDone port lanes) s (fun m => m.guy n = { s.mach.guy n with lanes := lanesOf lanes, bad := [] } ∧ TblBut s.dev.guys [n] m.guys ∧ m = { s.mach with guys := m.guys })) ∧
  (∀ (s : State) (src : Src) (port : Fin 2) (n : Nat), n = port.val → MayWrite s src 12 .guy n → s.mach.guyUp n = true →
    Does (.guyRetrain src port) s (fun m =>
      (s.mach.on R.GUY_STATUS_LEADER n = true → m.get R.GUY_STATUS_TRAINING n = 1 ∧
        m.get R.GUY_EVENTS_RETRAINS n = (s.mach.get R.GUY_EVENTS_RETRAINS n + 1) % 2 ^ R.GUY_EVENTS_RETRAINS.w ∧
        m.guy n = { s.mach.guy n with retrain := true, trained := false, grant := none }) ∧
      (s.mach.on R.GUY_STATUS_LEADER n = false → m.guy n = { s.mach.guy n with ask := some 32 } ∧ m.regs = s.dev.regs) ∧
      TblBut s.dev.guys [n] m.guys ∧ RegsBut s [R.GUY_STATUS_TRAINING.bits n, R.GUY_EVENTS_RETRAINS.bits n] m ∧ m = { s.mach with regs := m.regs, guys := m.guys })) ∧
  (∀ (s : State) (src : Src) (port : Fin 2) (lanes : BitVec 5) (n w : Nat) (g : GuyPort), n = port.val → w = lanes.toNat → g = s.mach.guy n → MayWrite s src 12 .guy n →
    w ∈ [4, 8, 12, 16] → (s.mach.guyUp n = true → g.retrain = false) →
    Does (.widthReqWrite src port lanes) s (fun m =>
      m.get R.GUY_WIDTH_REQ n = w ∧
      m.get R.GUY_STATUS_ACTIVE n = (if s.mach.guyUp n = true ∧ s.mach.on R.GUY_STATUS_LEADER n = true then min w (widthFor (min g.lanes.length g.peerLanes))
        else s.mach.get R.GUY_STATUS_ACTIVE n) ∧
      (s.mach.guyUp n = true → s.mach.on R.GUY_STATUS_LEADER n = false →
        m.guy n = { g with ask := if w = s.mach.get R.GUY_STATUS_ACTIVE n then none else some w }) ∧
      (s.mach.guyUp n = false ∨ s.mach.on R.GUY_STATUS_LEADER n = true → m.guys = s.dev.guys) ∧
      TblBut s.dev.guys [n] m.guys ∧ RegsBut s [R.GUY_WIDTH_REQ.bits n, R.GUY_STATUS_ACTIVE.bits n] m ∧ m = { s.mach with regs := m.regs, guys := m.guys })) ∧
  (∀ (s : State) (port : Fin 2) (i : Instr) (n : Nat) (g : GuyPort), n = port.val → g = s.mach.guy n →
    (i = .guyRetrainTimeout port ∧ g.retrain = true ∨ i = .downWindowEnd port ∧ s.mach.guyUp n = true ∧ s.mach.act R.GUY_CTL_DOWN_COUNT n < g.window) →
    s.mach.hon R.HDR_STATUS_COMMIT_PENDING .guy n = false →
    (s.mach.guyUp (1 - n) = true ∧ (∀ q < 4, s.mach.outRing q = []) ∨ s.mach.guyUp (1 - n) = false ∧ s.mach.pairState = 0) →
    Does i s (fun m =>
      m.get R.GUY_STATUS_UP n = 0 ∧ m.get R.GUY_STATUS_ACTIVE n = 0 ∧ m.get R.GUY_STATUS_FAIL_CAUSE n = 4 ∧ m.get R.GUY_STATUS_TRAINING n = 1 ∧
      m.get R.GUY_EVENTS_DOWNS n = (s.mach.get R.GUY_EVENTS_DOWNS n + 1) % 2 ^ R.GUY_EVENTS_DOWNS.w ∧
      m.get R.PKG_PARTNER_VIEW_VALID = (if s.mach.guyUp (1 - n) then s.mach.get R.PKG_PARTNER_VIEW_VALID else 0) ∧
      m.guy n = { g with acked := (g.next + 0xFFFF) % 2 ^ 16, trained := false, retrain := false, grant := none, window := 0, nak := false } ∧ TblBut s.dev.guys [n] m.guys ∧
      RegsBut s [R.GUY_STATUS_UP.bits n, R.GUY_STATUS_ACTIVE.bits n, R.GUY_STATUS_FAIL_CAUSE.bits n, R.GUY_STATUS_TRAINING.bits n, R.GUY_EVENTS_DOWNS.bits n,
        R.PKG_PARTNER_VIEW_VALID.bits] m ∧
      m = { s.mach with
        regs := m.regs, guys := m.guys, errs := [⟨12, .guy, n, E.GUY_DECLARED_DOWN.bit, sevContained, none, 0, none, false⟩]
        evs := [⟨9, 2, 12, .guy, n, none, 64, 0⟩], pair := { s.dev.pair with out := m.pair.out, sent := m.pair.sent, wire := m.pair.wire } } ∧ (∀ q < 4, m.outRing q = s.mach.outRing q))) ∧
  (∀ (s : State) (port : Fin 2) (i : Instr) (n : Nat) (g : GuyPort), n = port.val → g = s.mach.guy n →
    (i = .guyRetrainTimeout port ∧ g.retrain = true ∨ i = .downWindowEnd port ∧ s.mach.guyUp n = true ∧ s.mach.act R.GUY_CTL_DOWN_COUNT n < g.window) →
    Does i s (fun m =>
      m.get R.GUY_STATUS_UP n = 0 ∧ m.get R.GUY_STATUS_ACTIVE n = 0 ∧ m.get R.GUY_STATUS_FAIL_CAUSE n = 4 ∧ m.get R.GUY_STATUS_TRAINING n = 1 ∧
      m.guy n = { g with acked := (g.next + 0xFFFF) % 2 ^ 16, trained := false, retrain := false, grant := none, window := 0, nak := false } ∧ TblBut s.dev.guys [n] m.guys ∧
      (s.mach.guyUp (1 - n) = false → s.mach.pairState = 3 → m.pairState = 4 ∧ (s.mach.mode = 4 → m.mode = 6)) ∧
      (s.mach.guyUp (1 - n) = true → m.pairState = s.mach.pairState ∧ ∀ q < 4, m.outRing q =
        if (s.mach.guyAny = false ∨ s.mach.streamPort q ≠ m.streamPort q) then
          (s.mach.outRing q).map (fun r => { r with resend := r.resend || decide (r.seq ≤ s.dev.pair.sent.getD q 0) }) else s.mach.outRing q))) ∧
  (∀ (s : State) (port : Fin 2) (n : Nat), n = port.val → s.mach.hon R.HDR_STATUS_COMMIT_PENDING .guy n = false → (s.mach.guy n).window ≤ s.mach.act R.GUY_CTL_DOWN_COUNT n →
    Does (.downWindowEnd port) s (fun m =>
      m.guy n = { s.mach.guy n with window := 0 } ∧ TblBut s.dev.guys [n] m.guys ∧ m = { s.mach with guys := m.guys })) ∧
  (∀ (s : State) (port : Fin 2) (n : Nat), n = port.val → (s.mach.guy n).window ≤ s.mach.act R.GUY_CTL_DOWN_COUNT n →
    Does (.downWindowEnd port) s (fun m =>
      m.guy n = { s.mach.guy n with window := 0 } ∧ TblBut s.dev.guys [n] m.guys ∧ m.hget R.HDR_STATUS_COMMIT_PENDING .guy n = 0 ∧
      m.hget R.HDR_STATUS_COMMIT_COUNT .guy n = (s.mach.hget R.HDR_STATUS_COMMIT_COUNT .guy n + s.mach.hget R.HDR_STATUS_COMMIT_PENDING .guy n) % 2 ^ R.HDR_STATUS_COMMIT_COUNT.w ∧
      PagesBut s [pageOff 12 .guy n] m ∧ m = { s.mach with regs := m.regs, guys := m.guys, active := m.active, staged := m.staged })) ∧
  (∀ (s : State),
    Does .statusRoundTimer s (fun m =>
      (∀ n < 2, m.guy n = if s.mach.guyUp n then { s.mach.guy n with next := ((s.mach.guy n).next + 128) % 2 ^ 16 } else s.mach.guy n) ∧
      TblBut s.dev.guys [0, 1] m.guys ∧ m = { s.mach with guys := m.guys })) ∧
  (∀ (s : State), s.mach.pairState ≠ 3 →
    Does .partnerStatusTimeout s (fun m =>
      m.get R.PKG_PARTNER_VIEW_VALID = 0 ∧ RegsBut s [R.PKG_PARTNER_VIEW_VALID.bits] m ∧ m = { s.mach with regs := m.regs, pair := { s.dev.pair with alive := false } })) ∧
  (∀ (s : State), s.mach.pairState = 3 → s.mach.mode = 4 →
    Does .partnerStatusTimeout s (fun m =>
      Enters s 6 m ∧ m.pairState = 4 ∧ m.get R.PKG_PARTNER_VIEW_VALID = 0 ∧
      RegsBut s [whole R.PKG_MODE_MODE.key, R.PKG_PAIR_STATE_STATE.bits, R.PKG_PARTNER_VIEW_VALID.bits, R.LANT_ALARM_FATAL.bits] m ∧
      m = { s.mach with
        regs := m.regs, evs := m.evs, pins := { s.dev.pins with fatalN := m.pins.fatalN }
        pair := { s.dev.pair with alive := false, syncOut := [], syncAcked := [], syncIn := [], step := 0, cmd := 0 } })) ∧
  (∀ (s : State), s.mach.mode ≠ 0 →
    Does .beaconTimer s (fun m => m = { s.mach with beacon := some (s.fuses.serial, s.mach.mode) })) ∧
  (∀ (s : State) (port : Fin 2) (serial : BitVec 63) (mode : BitVec 4), s.mach.mode ≠ 0 →
    Does (.sidebandBeacon port serial mode) s (fun m =>
      m.get R.GUY_STATUS_SB_PRESENT port.val = 1 ∧ m.get R.GUY_STATUS_PEER_SB_MODE port.val = mode.toNat ∧ m.sbSerial.find port.val = some serial.toNat ∧
      TblBut s.dev.sbSerial [port.val] m.sbSerial ∧ RegsBut s [R.GUY_STATUS_SB_PRESENT.bits port.val, R.GUY_STATUS_PEER_SB_MODE.bits port.val] m ∧
      m = { s.mach with regs := m.regs, sbSerial := m.sbSerial })) ∧
  (∀ (s : State) (port : Fin 2),
    Does (.sbPresentTimeout port) s (fun m =>
      m.get R.GUY_STATUS_SB_PRESENT port.val = 0 ∧ OnlyRegs s [R.GUY_STATUS_SB_PRESENT.bits port.val] m)) ∧
  (∀ (s : State), s.mach.pairState = 3 →
    Does .partnerStatusTimeout s (fun m => m.get R.PKG_PARTNER_VIEW_VALID = 0 ∧ m.pairState = 4 ∧ m.pair.alive = false ∧ m.mode = (if s.mach.mode = 4 then 6 else s.mach.mode))) ∧
  (∀ (s : State) (port : Fin 2) (crc : BitVec 32) (serial : BitVec 63) (majors minor lanes peerPort : Byte) (mode : BitVec 4) (n : Nat) (ok : Bool), n = port.val →
    ok = (Wire.crc32 (frameBytes 5 ⟨false, false, 0, 0, 0, 0⟩ 0 (trainBytes serial.toNat majors.toNat minor.toNat lanes.toNat peerPort.toNat mode.toNat)) == crc.toNat) →
    (ok = true → (s.mach.guyOn n = false ∨ s.mach.on R.GUY_STATUS_TRAINING n = false) → Leaves (.trainFrame port crc serial majors minor lanes peerPort mode) s s.mach) ∧
    (ok = false → Does (.trainFrame port crc serial majors minor lanes peerPort mode) s (fun m =>
      m.get R.GUY_FRAMES_CRC_FAIL n = (s.mach.get R.GUY_FRAMES_CRC_FAIL n + 1) % 2 ^ R.GUY_FRAMES_CRC_FAIL.w ∧ OnlyRegs s [R.GUY_FRAMES_CRC_FAIL.bits n] m))) ∧
  (∀ (s : State) (src : Src) (port : Fin 2) (w : BitVec 5) (n : Nat), n = port.val →
    (MayWrite s src 12 .guy n → s.mach.guyUp n = false → Leaves (.guyRetrain src port) s s.mach) ∧
    (MayWrite s src 12 .guy n → w.toNat ∉ [4, 8, 12, 16] → Does (.widthReqWrite src port w) s (fun m => m = { s.mach with errs := [⟨12, .guy, n, 2, sevCorrected, none, 0, none, false⟩] })) ∧
    ((s.mach.guy n).retrain = false → Leaves (.guyRetrainTimeout port) s s.mach) ∧ (s.mach.mode = 0 → Leaves .beaconTimer s s.mach ∧ ∀ serial mode, Leaves (.sidebandBeacon port serial mode) s s.mach))

/-- R435: a port that trains shows its rate, width, Flit Mode and CXL.mem as its group allows. R437, R448: a root port that drops is down, with SURPRISE_DOWN, and
contained where DPC_EN is 1; every access outstanding to it ends with an error. An error without containment changes nothing. RELEASE_DPC ends the containment; R440: RETRAIN keeps the link up. R436: a device's read
returns the bytes its binding's range set maps, its write stores them, and a write into the interrupt window pends the interrupt at the core. R437: a timed out load
reads all ones, a timed out store that is not acknowledged early is kept for DEVWRITE, and a pitch or a release that times out ends as one whose link is lost. No shelf hangs on the lost port, and what the device reads or writes is held by a compute die.
The clauses say too where such a command changes nothing. -/
def Obligations.PortCommandsComplete : Prop :=
  (∀ (s : State) (port : Fin 64) (rate : Fin 5) (width : Fin 17) (flit cxlmem fl cx : Bool) (p g w r : Nat), p = port.val → g = p / 4 → s.mach.pgOn g = true →
    s.mach.portExists p = true → s.mach.portGet R.PG_PORT_CTL_LINK_DISABLE p ≠ 1 → w = portWidth (s.mach.portLanes p) width.val → w ≠ 0 →
    fl = (if s.mach.portUp p then s.mach.portGet R.PG_PORT_STATUS_FLIT p == 1 else flit || rate.val == 4) →
    cx = (if s.mach.portUp p then s.mach.portGet R.PG_PORT_STATUS_CXLMEM p == 1 else cxlmem && s.mach.on R.PG_CFG_CXL g) →
    r = min (if fl then rate.val else min rate.val 3) (s.mach.get R.PG_CFG_MAX_RATE g) →
    Does (.portLinkUp port rate width flit cxlmem) s (fun m =>
      m.portUp p = true ∧ m.portGet R.PG_PORT_STATUS_RATE p = r ∧ m.portGet R.PG_PORT_STATUS_WIDTH p = w ∧ m.portGet R.PG_PORT_STATUS_PRESENT p = 1 ∧
      m.portGet R.PG_PORT_STATUS_FLIT p = fl.toNat ∧ m.portGet R.PG_PORT_STATUS_CXLMEM p = cx.toNat ∧
      m.pgPort p = { s.mach.pgPort p with retrain := false } ∧ TblBut s.dev.pgDevs [p] m.pgDevs ∧
      (∀ b ∈ [Block.pg, Block.ep], m.hget R.HDR_STATUS_COMMIT_PENDING b g = 0 ∧ m.hget R.HDR_STATUS_COMMIT_COUNT b g =
        (s.mach.hget R.HDR_STATUS_COMMIT_COUNT b g + s.mach.hget R.HDR_STATUS_COMMIT_PENDING b g) % 2 ^ R.HDR_STATUS_COMMIT_COUNT.w) ∧
      (s.mach.hon R.HDR_STATUS_COMMIT_PENDING .pg g = false → s.mach.hon R.HDR_STATUS_COMMIT_PENDING .ep g = false → m.active = s.dev.active ∧ m.staged = s.dev.staged) ∧
      RegsBut s ([R.PG_PORT_STATUS_UP, R.PG_PORT_STATUS_RATE, R.PG_PORT_STATUS_WIDTH, R.PG_PORT_STATUS_PRESENT, R.PG_PORT_STATUS_FLIT, R.PG_PORT_STATUS_CXLMEM].map
        (fun f => (f.at (p % 4)).bits g) ++ [hbits R.HDR_STATUS_COMMIT_PENDING .pg g, hbits R.HDR_STATUS_COMMIT_COUNT .pg g,
          hbits R.HDR_STATUS_COMMIT_PENDING .ep g, hbits R.HDR_STATUS_COMMIT_COUNT .ep g]) m ∧
      m = { s.mach with
        regs := m.regs, pgDevs := m.pgDevs, active := m.active, staged := m.staged
        evs := if s.mach.portUp p then [] else [⟨9, 2, 12, .pg, g, none, 1 + p % 4 * 256, 0⟩] })) ∧
  (∀ (s : State) (port : Fin 64) (dropped : Bool) (p g : Nat) (dpc : Bool), p = port.val → g = p / 4 → s.mach.isUpstream g = false → s.mach.portExists p = true →
    s.mach.portUp p = true → dpc = (s.mach.act (R.PG_PORT_CTL_DPC_EN.at (p % 4)) g == 1) → (dropped = true ∨ dpc = true) →
    (∀ n < 64, s.mach.get (R.TIER_SHELF_CFG_PORT.at n) = p → s.mach.shelfState n ≠ 2 ∧ s.mach.shelfState n ≠ 3) →
    Does (.portLinkDown port dropped) s (fun m =>
      m.portUp p = !dropped ∧ (dropped = true → m.portGet R.PG_PORT_STATUS_CXLMEM p = 0) ∧ m.portContained p = (dpc || s.mach.portContained p) ∧
      m.get R.PG_LINKERR_CONTAINMENTS g = (s.mach.get R.PG_LINKERR_CONTAINMENTS g + (dpc && !s.mach.portContained p).toNat) % 2 ^ R.PG_LINKERR_CONTAINMENTS.w ∧
      m.devq = s.dev.devq.map (fun (d : DevMsg) => if d.port = some p ∧ d.k ≠ 2 then { d with k := 2, err := 2 } else d) ∧
      RegsBut s [(R.PG_PORT_STATUS_UP.at (p % 4)).bits g, (R.PG_PORT_STATUS_CXLMEM.at (p % 4)).bits g, (R.PG_PORT_STATUS_CONTAINED.at (p % 4)).bits g,
        R.PG_LINKERR_CONTAINMENTS.bits g] m ∧
      m = { s.mach with
        regs := m.regs, devq := m.devq
        errs := if dropped then [⟨12, .pg, g, E.PG_SURPRISE_DOWN.bit, sevContained, none, 0, none, false⟩] else []
        evs := if dropped then [⟨9, 2, 12, .pg, g, none, p % 4 * 256, 0⟩] else [] })) ∧
  (∀ (s : State) (port : Fin 64) (dropped : Bool) (p g : Nat) (dpc : Bool), p = port.val → g = p / 4 → s.mach.isUpstream g = false → s.mach.portExists p = true →
    s.mach.portUp p = true → dpc = (s.mach.act (R.PG_PORT_CTL_DPC_EN.at (p % 4)) g == 1) →
    Does (.portLinkDown port dropped) s (fun m =>
      m.portUp p = !dropped ∧ m.portContained p = (dpc || s.mach.portContained p) ∧ (dropped = false → dpc = false → m = s.mach) ∧
      m.get R.PG_LINKERR_CONTAINMENTS g = (s.mach.get R.PG_LINKERR_CONTAINMENTS g + (dpc && !s.mach.portContained p).toNat) % 2 ^ R.PG_LINKERR_CONTAINMENTS.w)) ∧
  (∀ (s : State) (src : Src) (port : Fin 64) (p g : Nat), p = port.val → g = p / 4 → MayWrite s src 12 .pg g → s.mach.portExists p = true →
    Does (.releaseDpc src port) s (fun m =>
      m.portContained p = false ∧ OnlyRegs s [(R.PG_PORT_STATUS_CONTAINED.at (p % 4)).bits g] m)) ∧
  (∀ (s : State) (src : Src) (port : Fin 64) (p : Nat), p = port.val → MayWrite s src 12 .pg (p / 4) → s.mach.portUp p = true →
    Does (.portRetrain src port) s (fun m =>
      m.pgPort p = { s.mach.pgPort p with retrain := true } ∧ TblBut s.dev.pgDevs [p] m.pgDevs ∧ m = { s.mach with pgDevs := m.pgDevs })) ∧
  (∀ (s : State) (port : Fin 64) (rid : BitVec 16) (a : Word) (len : Fin 4097) (p g n spa : Nat), p = port.val → g = p / 4 → s.mach.portUp p = true →
    s.mach.portContained p = false → s.mach.isUpstream g = false → s.mach.pgOn g = true → s.mach.mode ≠ 9 → NoUncore s → s.mach.binding p rid.toNat = some n →
    s.dev.rstale = [] → 0 < len.val → (s.mach.lookup (s.mach.get (R.PG_BIND_RSET.at n) g) a.toNat false).2.toOption = some spa →
    (∀ i < linesIn spa len.val, (s.mach.ownerLine (spa / 64 + i)).map (·.2) = some false) →
    Does (.deviceRequest port rid (.read a len)) s (fun m =>
      m.pgPort p = { s.mach.pgPort p with code := 0, data := ownedBytes s spa len.val } ∧ TblBut s.dev.pgDevs [p] m.pgDevs ∧
      MapBut s ((List.range (linesIn spa len.val)).map (fun i => pageOf ((spa / 64 + i) * 64))) m ∧ Aged s m ∧
      m = { s.mach with pgDevs := m.pgDevs, pmap := m.pmap, mapDirty := m.mapDirty, tierq := m.tierq })) ∧
  (∀ (s : State) (port : Fin 64) (rid : BitVec 16) (a : Word) (d : List Byte) (p g n spa la : Nat) (old : Line), p = port.val → g = p / 4 → s.mach.portUp p = true →
    s.mach.portContained p = false → s.mach.isUpstream g = false → s.mach.pgOn g = true → s.mach.mode ≠ 9 → NoUncore s → s.mach.on R.PG_MSIWIN_V g = false → s.mach.binding p rid.toNat = some n → Idle s →
    s.dev.rstale = [] → (s.mach.lookup (s.mach.get (R.PG_BIND_RSET.at n) g) a.toNat true).2.toOption = some spa → 0 < d.length → spa % 64 + d.length ≤ 64 →
    Target s (spa / 64) la old →
    Does (.deviceRequest port rid (.write a d)) s (fun m =>
      Stored s [(spa / 64, la, putIn old spa d)] m ∧ m.pgPort p = { s.mach.pgPort p with code := 0, data := [] } ∧ TblBut s.dev.pgDevs [p] m.pgDevs ∧
      TblBut s.dev.slots (memSlots s [(spa / 64, la, old)]) m.slots ∧ Touched s (spa / 64) m ∧ RegsBut s [R.HOME_SF_STATUS_OCCUPIED.bits (homeOf spa)] m ∧
      m = { s.mach with
        regs := m.regs, pgDevs := m.pgDevs, slots := m.slots, lines := m.lines, filter := m.filter, lineMeta := m.lineMeta, wr := m.wr, errs := m.errs
        pmap := m.pmap, mapDirty := m.mapDirty, tierq := m.tierq })) ∧
  (∀ (s : State) (port : Fin 64) (rid : BitVec 16) (a : Word) (data : BitVec 15) (p g n cid : Nat), p = port.val → g = p / 4 → s.mach.portUp p = true →
    s.mach.portContained p = false → s.mach.isUpstream g = false → s.mach.pgOn g = true → s.mach.mode ≠ 9 → s.mach.on R.PG_MSIWIN_V g = true →
    s.mach.get R.PG_MSIWIN_BASE g * 4096 ≤ a.toNat → a.toNat < s.mach.get R.PG_MSIWIN_BASE g * 4096 + 4096 → s.mach.binding p rid.toNat = some n →
    s.mach.get (R.PG_BIND_IRQ_OK.at n) g = 1 → cid = data.toNat % 512 → cid / 32 < 12 → cid % 32 < s.fuses.coresPerDie → s.mach.dieUp (cid / 32) = true →
    Does (.deviceRequest port rid (.write a (bytesOf 4 data.toNat))) s (fun m =>
      m.sreg cid 0x032 = Nat.lor (s.mach.sreg cid 0x032) (2 ^ (data.toNat / 512)) % 2 ^ 64 ∧ (∀ n, n ≠ 0x032 → m.sreg cid n = s.mach.sreg cid n) ∧
      (m.core cid).run = (if (s.mach.core cid).run = .waiting then .running else (s.mach.core cid).run) ∧
      m.core cid = { s.mach.core cid with sr := (m.core cid).sr, run := (m.core cid).run } ∧ (∀ k, k ≠ cid → m.core k = s.mach.core k) ∧
      m.pgPort p = { s.mach.pgPort p with code := 0, data := [] } ∧ TblBut s.dev.pgDevs [p] m.pgDevs ∧ m = { s.mach with cores := m.cores, pgDevs := m.pgDevs })) ∧
  (∀ (s : State) (port : Fin 64) (d : DevMsg) (r : List DevMsg) (c rd : Nat), takeFirst (fun d : DevMsg => d.k != 2 && d.port == some port.val) s.dev.devq = some (d, r) →
    c = d.cid → d.rd = some rd → s.mach.dieUp (dieOf c) = true → (s.mach.core c).run ≠ .stopped → (s.mach.core c).run ≠ .parked → d.lg < 4 → bitsOf (s.mach.sreg c 0x101) 0 8 = 0 →
    Does (.completionTimeout (.device port)) s (fun m =>
      m.gpr c rd = (2 ^ (8 * 2 ^ d.lg) - 1) % 2 ^ 64 ∧ (∀ x, x ≠ rd → m.gpr c x = s.mach.gpr c x) ∧
      m.core c = { s.mach.core c with g := (m.core c).g, pc := (s.mach.core c).pc + BitVec.ofNat 64 d.ilen } ∧ (∀ k, k ≠ c → m.core k = s.mach.core k) ∧
      m = { s.mach with
        cores := m.cores, devq := r
        errs := (match d.port with | some p => [⟨12, .pg, p / 4, 69, sevContained, some d.spa, p % 4, none, false⟩] | none => []) ++
          [⟨12, .pg, port.val / 4, E.PG_COMPLETION_TIMEOUT.bit, sevContained, none, 0, none, false⟩] })) ∧
  (∀ (s : State) (port : Fin 64) (d : DevMsg) (r : List DevMsg) (c : Nat), takeFirst (fun d : DevMsg => d.k != 2 && d.port == some port.val) s.dev.devq = some (d, r) →
    c = d.cid → d.rd = none → d.ne = true → s.mach.dieUp (dieOf c) = true → (s.mach.core c).run ≠ .stopped → (s.mach.core c).run ≠ .parked → (s.mach.core c).dfail = none →
    Does (.completionTimeout (.device port)) s (fun m =>
      m.core c = { s.mach.core c with trk := (s.mach.core c).trk.erase ⟨d.spa, d.lg, d.pl⟩, dfail := some ⟨d.spa, 1, d.lg, d.pl, 0⟩ } ∧ (∀ k, k ≠ c → m.core k = s.mach.core k) ∧
      m = { s.mach with cores := m.cores, devq := r, errs := [⟨12, .pg, port.val / 4, E.PG_COMPLETION_TIMEOUT.bit, sevContained, none, 0, none, false⟩] })) ∧
  (∀ (s : State) (shelf : Fin 64) (n g back : Nat) (format : Bool), n = shelf.val → s.dev.pitch.find n = some (format, g) → back = (s.mach.shelf n).before →
    Does (.completionTimeout (.pitch shelf)) s (fun m =>
      m.shelfState n = back % 2 ^ R.TIER_SHELF_STAT_STATE.w ∧ m.get R.PG_SHELF_PITCH_BUSY g = 0 ∧ m.get R.PG_SHELF_PITCH_RESULT g = 2 ∧ m.pitch = s.dev.pitch.erase n ∧
      m.shelf n = (if back = 0 then noShelf else s.mach.shelf n) ∧ TblBut s.dev.shelves [n] m.shelves ∧
      RegsBut s [R.PG_SHELF_PITCH_BUSY.bits g, R.PG_SHELF_PITCH_RESULT.bits g, (R.TIER_SHELF_STAT_STATE.at n).bits] m ∧
      m = { s.mach with
        regs := m.regs, shelves := m.shelves, pitch := m.pitch, evs := [⟨4, 2, 12, .tier, 0, none, n + back * 256, (s.mach.shelf n).ident⟩]
        errs := [⟨12, .pg, s.mach.get (R.TIER_SHELF_CFG_PORT.at n) / 4, E.PG_COMPLETION_TIMEOUT.bit, sevContained, none, 0, none, false⟩] })) ∧
  (∀ (s : State) (shelf : Fin 64) (n : Nat), n = shelf.val → s.mach.shelfState n = 3 → (s.mach.shelf n).phase = 4 → (∀ r ∈ s.dev.journal, r.shelf ≠ n) → (∀ r ∈ s.dev.shelfReads, r.shelf ≠ n) →
    Does (.completionTimeout (.release shelf)) s (fun m => m.shelfState n = 5)) ∧
  (∀ (s : State) (shelf : Fin 64) (page : BitVec 36) (u : Fin 8), (∃ r ∈ s.dev.shelfReads, r.shelf = shelf.val ∧ r.page = page.toNat * 4096 ∧ r.unit = u.val ∧ r.req.isSome = true) →
    Does (.completionTimeout (.unit shelf page u)) s (fun m =>
      ⟨12, .pg, s.mach.get (R.TIER_SHELF_CFG_PORT.at shelf.val) / 4, E.PG_COMPLETION_TIMEOUT.bit, sevContained, none, 0, none, false⟩ ∈ m.errs)) ∧
  (∀ (s : State) (src : Src) (port : Fin 64) (rate : Fin 5) (width : Fin 17) (flit cxlmem dropped : Bool) (rid : BitVec 16) (req : DevReq) (shelf : Fin 64) (p g : Nat),
    p = port.val → g = p / 4 →
    (s.mach.pgOn g = false ∨ s.mach.portExists p = false ∨ s.mach.portGet R.PG_PORT_CTL_LINK_DISABLE p = 1 ∨ portWidth (s.mach.portLanes p) width.val = 0 →
      Leaves (.portLinkUp port rate width flit cxlmem) s s.mach) ∧
    (s.mach.isUpstream g = true ∨ s.mach.portExists p = false ∨ s.mach.portUp p = false → Leaves (.portLinkDown port dropped) s s.mach) ∧
    (MayWrite s src 12 .pg g → s.mach.portExists p = false → Leaves (.releaseDpc src port) s s.mach) ∧
    (MayWrite s src 12 .pg g → s.mach.portUp p = false → Leaves (.portRetrain src port) s s.mach) ∧
    (s.mach.portUp p = false ∨ s.mach.portContained p = true ∨ s.mach.isUpstream g = true ∨ s.mach.pgOn g = false ∨ s.mach.mode = 9 →
      Does (.deviceRequest port rid req) s (fun m =>
        m.pgPort p = { s.mach.pgPort p with code := 0, data := [] } ∧ TblBut s.dev.pgDevs [p] m.pgDevs ∧ m = { s.mach with pgDevs := m.pgDevs })) ∧
    ((∀ d ∈ s.dev.devq, d.k = 2 ∨ d.port ≠ some p) → Leaves (.completionTimeout (.device port)) s s.mach) ∧
    (s.dev.pitch.find shelf.val = none → Leaves (.completionTimeout (.pitch shelf)) s s.mach) ∧
    (s.mach.shelfState shelf.val ≠ 3 ∨ (s.mach.shelf shelf.val).phase ≠ 4 → Leaves (.completionTimeout (.release shelf)) s s.mach)) ∧
  (∀ (s : State) (port : Fin 64) (rid : BitVec 16) (req : DevReq) (p g : Nat), p = port.val → g = p / 4 → s.mach.portUp p = true → s.mach.portContained p = false →
    s.mach.isUpstream g = false → s.mach.pgOn g = true → s.mach.mode ≠ 9 → s.mach.on R.PG_MSIWIN_V g = false → s.mach.binding p rid.toNat = none →
    Does (.deviceRequest port rid req) s (fun m =>
      m.pgPort p = { s.mach.pgPort p with code := (match req with | .read .. => 1 | _ => 0), data := [] } ∧ TblBut s.dev.pgDevs [p] m.pgDevs ∧
      m = { s.mach with pgDevs := m.pgDevs, errs := [⟨12, .pg, g, E.PG_UNBOUND_RID.bit, sevContained, none, 0, none, false⟩] }))

/-- R444: SHELF_PITCH.GO, or a trained port of an Asleep or Lost shelf with AUTOPITCH, starts the pitch of an Empty, Asleep or Lost shelf of the group while every TIER
block is READY: BUSY 1, state Pitching. R443: a returning shelf whose label holds becomes Awake, its Dormant pages Stable and its journal records sent; a link that is
lost returns the shelf to its former state with RESULT 2. R260: each change is one SHELF_STATE event. Nothing waits for the shelf here, and it holds no page.
The clauses say too where such a command changes nothing. -/
def Obligations.PitchCommandsComplete : Prop :=
  (∀ (s : State) (src : Src) (group : Fin 16) (shelf : Fin 64) (format : Bool) (g n st : Nat), g = group.val → n = shelf.val → MayWrite s src 12 .pg g →
    s.mach.mode ≠ 9 → s.mach.pgHeld g = false → (s.mach.mode ≠ 2 ∨ s.dev.repitch.contains n = true) → s.mach.on R.PG_SHELF_PITCH_BUSY g = false → s.mach.get (R.TIER_SHELF_CFG_PORT.at n) / 4 = g → s.mach.allTiersReady = true → st = s.mach.shelfState n → st ∈ [0, 4, 5] →
    Does (.shelfPitch src group shelf format) s (fun m =>
      m.shelfState n = 1 ∧ m.shelf n = { s.mach.shelf n with before := st } ∧ TblBut s.dev.shelves [n] m.shelves ∧ m.pitch.find n = some (format, g) ∧
      TblBut s.dev.pitch [n] m.pitch ∧ m.get R.PG_SHELF_PITCH_SHELF g = n ∧ m.get R.PG_SHELF_PITCH_FORMAT g = format.toNat ∧ m.get R.PG_SHELF_PITCH_BUSY g = 1 ∧
      RegsBut s [R.PG_SHELF_PITCH_SHELF.bits g, R.PG_SHELF_PITCH_FORMAT.bits g, R.PG_SHELF_PITCH_BUSY.bits g, (R.TIER_SHELF_STAT_STATE.at n).bits] m ∧
      m = { s.mach with regs := m.regs, shelves := m.shelves, pitch := m.pitch, evs := [⟨4, 2, 12, .tier, 0, none, n + 256, (s.mach.shelf n).ident⟩] })) ∧
  (∀ (s : State) (src : Src) (group : Fin 16) (shelf : Fin 64) (format : Bool) (g n r : Nat), g = group.val → n = shelf.val → MayWrite s src 12 .pg g →
    s.mach.on R.PG_SHELF_PITCH_BUSY g = false →
    (s.mach.get (R.TIER_SHELF_CFG_PORT.at n) / 4 ≠ g ∧ r = 12 ∨
      s.mach.get (R.TIER_SHELF_CFG_PORT.at n) / 4 = g ∧ r = 1 ∧ (s.mach.mode = 9 ∨ s.mach.pgHeld g = true ∨ s.mach.mode = 2 ∧ s.dev.repitch.contains n = false ∨ s.mach.allTiersReady = false ∨ s.mach.shelfState n ∉ [0, 4, 5])) →
    Does (.shelfPitch src group shelf format) s (fun m =>
      m.get R.PG_SHELF_PITCH_RESULT g = r ∧ m.get R.PG_SHELF_PITCH_SHELF g = n ∧ m.get R.PG_SHELF_PITCH_FORMAT g = format.toNat ∧
      OnlyRegs s [R.PG_SHELF_PITCH_SHELF.bits g, R.PG_SHELF_PITCH_FORMAT.bits g, R.PG_SHELF_PITCH_RESULT.bits g] m)) ∧
  (∀ (s : State) (shelf : Fin 64) (n p st : Nat), n = shelf.val → p = s.mach.get (R.TIER_SHELF_CFG_PORT.at n) → s.mach.portUp p = true → s.mach.portGet R.PG_PORT_STATUS_CXLMEM p = 1 →
    st = s.mach.shelfState n → st ∈ [4, 5] → s.mach.mode ≠ 9 → s.mach.pgHeld (p / 4) = false → (s.mach.mode ≠ 2 ∨ s.dev.repitch.contains n = true) →
    (s.mach.on (R.TIER_SHELF_CFG_AUTOPITCH.at n) = true ∨ s.dev.repitch.contains n = true) → s.mach.allTiersReady = true → s.mach.on R.PG_SHELF_PITCH_BUSY (p / 4) = false →
    Does (.autopitch shelf) s (fun m =>
      m.shelfState n = 1 ∧ m.shelf n = { s.mach.shelf n with before := st } ∧ TblBut s.dev.shelves [n] m.shelves ∧ m.pitch.find n = some (false, p / 4) ∧
      TblBut s.dev.pitch [n] m.pitch ∧ m.get R.PG_SHELF_PITCH_BUSY (p / 4) = 1 ∧ RegsBut s [R.PG_SHELF_PITCH_BUSY.bits (p / 4), (R.TIER_SHELF_STAT_STATE.at n).bits] m ∧
      m = { s.mach with regs := m.regs, shelves := m.shelves, pitch := m.pitch, evs := [⟨4, 2, 12, .tier, 0, none, n + 256, (s.mach.shelf n).ident⟩] })) ∧
  (∀ (s : State) (shelf : Fin 64) (f : ShelfFound) (n g p back cap r : Nat) (format gone : Bool) (b : List Byte), n = shelf.val → s.mach.mode ≠ 9 →
    s.dev.pitch.find n = some (format, g) → back = (s.mach.shelf n).before → p = s.mach.get (R.TIER_SHELF_CFG_PORT.at n) → cap = f.capGib.toNat →
    b = (f.label ++ List.replicate 64 0).take 64 → gone = (f.linkLost || !s.mach.portUp p || s.mach.portContained p) →
    (gone = true ∧ r = 2 ∨ gone = false ∧ s.mach.portGet R.PG_PORT_STATUS_CXLMEM p = 0 ∧ r = 3 ∨
      gone = false ∧ s.mach.portGet R.PG_PORT_STATUS_CXLMEM p ≠ 0 ∧ (cap = 0 ∨ 2048 < cap) ∧ r = 4 ∨
      gone = false ∧ s.mach.portGet R.PG_PORT_STATUS_CXLMEM p ≠ 0 ∧ 0 < cap ∧ cap ≤ 2048 ∧ back = 0 ∧
        (format = false ∧ r = 5 ∨ format = true ∧ s.mach.pairState ≠ 0 ∧ Wire.nat b 0 4 = 0x5EEDF07E ∧
          Wire.nat b 16 8 % 2 ^ 63 = s.mach.get R.PKG_PAIR_PEER_SERIAL ∧ r = 6)) →
    Does (.shelfPitchDone shelf f) s (fun m =>
      m.shelfState n = back % 2 ^ R.TIER_SHELF_STAT_STATE.w ∧ m.get R.PG_SHELF_PITCH_BUSY g = 0 ∧ m.get R.PG_SHELF_PITCH_RESULT g = r ∧ m.pitch = s.dev.pitch.erase n ∧
      m.shelf n = (if back = 0 then noShelf else s.mach.shelf n) ∧ TblBut s.dev.shelves [n] m.shelves ∧
      RegsBut s [R.PG_SHELF_PITCH_BUSY.bits g, R.PG_SHELF_PITCH_RESULT.bits g, (R.TIER_SHELF_STAT_STATE.at n).bits] m ∧
      m = { s.mach with regs := m.regs, shelves := m.shelves, pitch := m.pitch, evs := [⟨4, 2, 12, .tier, 0, none, n + back * 256, (s.mach.shelf n).ident⟩] })) ∧
  (∀ (s : State) (shelf : Fin 64) (f : ShelfFound) (n g p cap k : Nat) (format : Bool) (b : List Byte), Idle s → s.mach.mode ≠ 9 → k = 12 + (b.getD 6 0).toNat % 2 → n = shelf.val → s.dev.pitch.find n = some (format, g) →
    f.linkLost = false → p = s.mach.get (R.TIER_SHELF_CFG_PORT.at n) → s.mach.portUp p = true → s.mach.portContained p = false → s.mach.portGet R.PG_PORT_STATUS_CXLMEM p = 1 →
    cap = f.capGib.toNat → 0 < cap → cap ≤ 2048 → b = (f.label ++ List.replicate 64 0).take 64 → (s.mach.shelf n).before ∈ [4, 5] → s.mach.labelCheck n cap b = 0 →
    s.mach.shelfPages n = [] → (∀ r ∈ s.dev.journal, r.shelf ≠ n) →
    Does (.shelfPitchDone shelf f) s (fun m =>
      m.shelfState n = 2 ∧ m.get (R.TIER_SHELF_STAT_CAP_GIB.at n) = cap % 2 ^ R.TIER_SHELF_STAT_CAP_GIB.w ∧ m.get (R.TIER_SHELF_STAT_WAKE_PEND.at n) = 0 ∧
      m.get R.PG_SHELF_PITCH_BUSY g = 0 ∧ m.get R.PG_SHELF_PITCH_RESULT g = 0 ∧ m.pitch = s.dev.pitch.erase n ∧ m.repitch = s.dev.repitch.filter (· != n) ∧
      m.shelf n = { s.mach.shelf n with mapped := true, sleepcap := s.mach.get (R.TIER_SHELF_CFG_SLEEPCAP.at n) == 1, phase := 0 } ∧
      TblBut s.dev.shelves [n] m.shelves ∧ (∀ i < 64, m.byte (hdm n i) = b.getD i 0) ∧ WritesOnly s (fun x => hdm n 0 ≤ x ∧ x < hdm n 64) m ∧
      m.journal = s.dev.journal ∧ (m.slot k).key = (s.mach.slot k).key ∧ (m.slot k).use = satAdd 48 (s.mach.slot k).use 1 ∧ TblBut s.dev.slots [k] m.slots ∧
      PagesBut s ([0, 1, 2, 3].map (pageOff 12 .tier) ++ [pageOff 12 .pg g, pageOff 12 .ciph 0]) m ∧
      m = { s.mach with
        regs := m.regs, shelves := m.shelves, pitch := m.pitch, repitch := m.repitch, journal := m.journal, wr := m.wr, slots := m.slots, errs := m.errs
        evs := [⟨4, 2, 12, .tier, 0, none, n + 512, (s.mach.shelf n).ident⟩] })) ∧
  (∀ (s : State) (shelf : Fin 64) (f : ShelfFound) (n g p cap : Nat) (format : Bool) (b : List Byte), s.mach.mode ≠ 9 → n = shelf.val → s.dev.pitch.find n = some (format, g) →
    f.linkLost = false → p = s.mach.get (R.TIER_SHELF_CFG_PORT.at n) → s.mach.portUp p = true → s.mach.portContained p = false → s.mach.portGet R.PG_PORT_STATUS_CXLMEM p = 1 →
    cap = f.capGib.toNat → 0 < cap → cap ≤ 2048 → b = (f.label ++ List.replicate 64 0).take 64 →
    ((s.mach.shelf n).before ≠ 0 ∧ s.mach.labelCheck n cap b = 0 ∨
      (s.mach.shelf n).before = 0 ∧ format = true ∧ s.mach.smapFits cap = true ∧
        (s.mach.pairState = 0 ∨ Wire.nat b 0 4 ≠ 0x5EEDF07E ∨ Wire.nat b 16 8 % 2 ^ 63 ≠ s.mach.get R.PKG_PAIR_PEER_SERIAL)) →
    Does (.shelfPitchDone shelf f) s (fun m =>
      m.shelfState n = 2 ∧ m.get (R.TIER_SHELF_STAT_CAP_GIB.at n) = cap % 2 ^ R.TIER_SHELF_STAT_CAP_GIB.w ∧
      m.get R.PG_SHELF_PITCH_BUSY g = 0 ∧ m.get R.PG_SHELF_PITCH_RESULT g = 0 ∧ m.pitch = s.dev.pitch.erase n ∧ n ∉ m.repitch ∧ (m.shelf n).mapped = true)) ∧
  (∀ (s : State) (src : Src) (group : Fin 16) (shelf : Fin 64) (format : Bool) (f : ShelfFound) (g n : Nat), g = group.val → n = shelf.val →
    (MayWrite s src 12 .pg g → s.mach.on R.PG_SHELF_PITCH_BUSY g = true → Does (.shelfPitch src group shelf format) s (fun m =>
      m.get R.PG_SHELF_PITCH_SHELF g = n ∧ m.get R.PG_SHELF_PITCH_FORMAT g = format.toNat ∧ OnlyRegs s [R.PG_SHELF_PITCH_SHELF.bits g, R.PG_SHELF_PITCH_FORMAT.bits g] m)) ∧
    (s.mach.mode = 9 ∨ s.dev.pitch.find n = none → Leaves (.shelfPitchDone shelf f) s s.mach) ∧
    (s.mach.mode = 9 ∨ s.mach.portUp (s.mach.get (R.TIER_SHELF_CFG_PORT.at n)) = false ∨ s.mach.shelfState n ∉ [4, 5] → Leaves (.autopitch shelf) s s.mach))

/-- R452, R461: a request to an Active logical device at an address its tenant's range set maps reads the line or writes its masked bytes; one to a logical device
that is not Active is refused with poison, a refusal record and both DROPS counts. R463: a hot reset or FLR clears the function's state and a fundamental reset that
of the group's, and each is counted; R465: an upstream link that drops is down, with SURPRISE_DOWN, and up with its rate, width and modes when it trains (R435); the host's writes
still waiting then get no completion. R468: a release marks a Draining device released. Where all of the machine is said of a request, a compute die holds its line.
The clauses say too where such a command changes nothing. -/
def Obligations.HostMemoryAndResetsComplete : Prop :=
  (∀ (s : State) (group : Fin 16) (ld : Fin 64) (dpa : BitVec 64) (data : Line) (mask : BitVec 64) (k t a spa : Nat) (l : Line), Idle s → NoUncore s → k = ldOf group ld → s.mach.ldThere k = true →
    s.mach.ldState k = 2 → s.mach.boundTo k = some t → s.dev.rstale = [] → a = dpa.toNat / 64 * 64 → viewed s t a false = some spa → s.mach.ownerLine (spa / 64) = some (l, false) →
    Does (.hostMemRequest group ld false dpa data mask) s (fun m =>
      m.ldFn k = { s.mach.ldFn k with resp := some ⟨false, a, l, false⟩ } ∧ TblBut s.dev.lds [k] m.lds ∧ Touched s (spa / 64) m ∧ m = { s.mach with lds := m.lds, pmap := m.pmap, mapDirty := m.mapDirty, tierq := m.tierq })) ∧
  (∀ (s : State) (group : Fin 16) (ld : Fin 64) (dpa : BitVec 64) (data : Line) (mask : BitVec 64) (k t a spa : Nat), Idle s → k = ldOf group ld → s.mach.ldThere k = true →
    s.mach.ldState k = 2 → s.mach.boundTo k = some t → s.dev.rstale = [] → a = dpa.toNat / 64 * 64 → viewed s t a false = some spa →
    Does (.hostMemRequest group ld false dpa data mask) s (fun m =>
      (m.ldFn k).resp.map (fun r => (r.write, r.dpa)) = some (false, a) ∧ TblBut s.dev.lds [k] m.lds)) ∧
  (∀ (s : State) (group : Fin 16) (ld : Fin 64) (dpa : BitVec 64) (data : Line) (mask : BitVec 64) (k t a spa la : Nat) (old : Line), Idle s → NoUncore s → k = ldOf group ld →
    s.mach.ldThere k = true → s.mach.mode ≠ 8 → s.mach.ldState k = 2 → s.mach.boundTo k = some t → s.dev.rstale = [] → a = dpa.toNat / 64 * 64 → viewed s t a true = some spa →
    Target s (spa / 64) la old →
    Does (.hostMemRequest group ld true dpa data mask) s (fun m =>
      Stored s [(spa / 64, la, Mach.mergeLine old data mask.toNat)] m ∧ m.ldFn k = { s.mach.ldFn k with resp := some ⟨true, a, 0, false⟩ } ∧ TblBut s.dev.lds [k] m.lds ∧
      TblBut s.dev.slots (memSlots s [(spa / 64, la, old)]) m.slots ∧ Touched s (spa / 64) m ∧ RegsBut s [R.HOME_SF_STATUS_OCCUPIED.bits (homeOf spa)] m ∧
      m = { s.mach with
        regs := m.regs, lds := m.lds, slots := m.slots, lines := m.lines, filter := m.filter, lineMeta := m.lineMeta, wr := m.wr, errs := m.errs
        pmap := m.pmap, mapDirty := m.mapDirty, tierq := m.tierq })) ∧
  (∀ (s : State) (group : Fin 16) (ld : Fin 64) (write : Bool) (dpa : BitVec 64) (data : Line) (mask : BitVec 64) (k a : Nat) (x : LdFn), k = ldOf group ld → s.mach.ldThere k = true →
    (s.mach.mode ≠ 8 ∨ write = false) → s.mach.ldState k ≠ 2 → a = dpa.toNat / 64 * 64 → x = s.mach.ldFn k →
    Does (.hostMemRequest group ld write dpa data mask) s (fun m =>
      m.ldFn k = { x with
        resp := some ⟨write, a, 0, !write⟩, dropsM := (x.dropsM + 1) % 2 ^ 32, nextHandle := (x.nextHandle + 1) % 2 ^ 16
        logs := x.logs ++ [⟨1, x.nextHandle, true, a, 20, write.toNat, 0⟩]
        pba := (m.ldFn k).pba, lastMsg := (m.ldFn k).lastMsg, msgs := (m.ldFn k).msgs } ∧
      (x.policy / 256 % 4 ≠ 1 ∨ x.msixOn = false → (m.ldFn k).pba = x.pba ∧ (m.ldFn k).lastMsg = x.lastMsg ∧ (m.ldFn k).msgs = x.msgs) ∧
      TblBut s.dev.lds [k] m.lds ∧ m.get R.EP_DROPS_REFUSED_MEM group.val = (s.mach.get R.EP_DROPS_REFUSED_MEM group.val + 1) % 2 ^ R.EP_DROPS_REFUSED_MEM.w ∧
      RegsBut s [R.EP_DROPS_REFUSED_MEM.bits group.val] m ∧
      m = { s.mach with regs := m.regs, lds := m.lds, errs := [⟨12, .ep, group.val, 17, sevCorrected, none, 0, none, false⟩] })) ∧
  (∀ (s : State) (group : Fin 16) (ld : Fin 64) (write : Bool) (dpa : BitVec 64) (data : Line) (mask : BitVec 64) (k t a c : Nat) (x : LdFn), k = ldOf group ld →
    s.mach.ldThere k = true → (s.mach.mode ≠ 8 ∨ write = false) → s.mach.ldState k = 2 → s.mach.boundTo k = some t → a = dpa.toNat / 64 * 64 → x = s.mach.ldFn k →
    s.dev.rstale = [] → (match (s.mach.lookup (s.mach.tenant t).rset a write).2 with | .error e => e == c | .ok _ => false) = true →
    Does (.hostMemRequest group ld write dpa data mask) s (fun m =>
      m.ldFn k = { x with
        resp := some ⟨write, a, 0, !write⟩, dropsM := (x.dropsM + 1) % 2 ^ 32, nextHandle := (x.nextHandle + 1) % 2 ^ 16
        logs := x.logs ++ [⟨1, x.nextHandle, true, a, c, write.toNat, 0⟩]
        pba := (m.ldFn k).pba, lastMsg := (m.ldFn k).lastMsg, msgs := (m.ldFn k).msgs } ∧
      TblBut s.dev.lds [k] m.lds ∧ m.get R.EP_DROPS_REFUSED_MEM group.val = (s.mach.get R.EP_DROPS_REFUSED_MEM group.val + 1) % 2 ^ R.EP_DROPS_REFUSED_MEM.w ∧
      RegsBut s [R.EP_DROPS_REFUSED_MEM.bits group.val] m ∧ TblBut s.dev.rfaults [(s.mach.tenant t).rset] m.rfaults ∧
      (m.rfaults.find (s.mach.tenant t).rset).isSome = true ∧
      m = { s.mach with regs := m.regs, lds := m.lds, rfaults := m.rfaults, evs := m.evs, errs := [⟨12, .ep, group.val, 17, sevCorrected, none, 0, none, false⟩] })) ∧
  (∀ (s : State) (group : Fin 16) (g : Nat), g = group.val → s.mach.isUpstream g = true →
    Does (.fundamentalReset group) s (fun m =>
      m.get R.EP_RESETS_FUNDAMENTAL g = (s.mach.get R.EP_RESETS_FUNDAMENTAL g + 1) % 2 ^ R.EP_RESETS_FUNDAMENTAL.w ∧
      (∀ i < 4, m.portUp (4 * g + i) = false ∧ (s.mach.portUp (4 * g + i) = true → m.portGet R.PG_PORT_STATUS_CXLMEM (4 * g + i) = 0)) ∧
      (∀ k, m.ldFn k = if k / 64 = g then Wiped (s.mach.ldFn k) none none else s.mach.ldFn k) ∧
      (∀ q < 4, m.tq q = { s.mach.tq q with held := (m.tq q).held } ∧ (m.tq q).held.map (·.line) = (s.mach.tq q).held.map (·.line)) ∧
      (∀ q < 4, (m.outRing q).map (·.body) = (s.mach.outRing q).map (·.body)) ∧ m.pair.owed.length ≤ s.dev.pair.owed.length ∧
      (s.dev.pair.owed = [] → (∀ q < 4, (s.mach.tq q).held = [] ∧ s.mach.outRing q = []) → (∀ q, m.tq q = s.mach.tq q) ∧ ∀ q < 4, m.outRing q = []) ∧
      RegsBut s (R.EP_RESETS_FUNDAMENTAL.bits g :: [0, 1, 2, 3].flatMap (fun i => [(R.PG_PORT_STATUS_UP.at i).bits g, (R.PG_PORT_STATUS_CXLMEM.at i).bits g])) m ∧
      m = { s.mach with
        regs := m.regs, lds := m.lds, tierq := m.tierq, pair := { s.dev.pair with out := m.pair.out, owed := m.pair.owed }
        evs := ([3, 2, 1, 0].filter (fun i => s.mach.portUp (4 * g + i))).map (fun i => ⟨9, 2, 12, .pg, g, none, i * 256, 0⟩) })) ∧
  (∀ (s : State) (group : Fin 16) (ld : Fin 64) (k : Nat), k = ldOf group ld → s.mach.ldThere k = true →
    Does (.hotReset group ld) s (fun m =>
      m.get R.EP_RESETS_HOT group.val = (s.mach.get R.EP_RESETS_HOT group.val + 1) % 2 ^ R.EP_RESETS_HOT.w ∧
      m.ldFn k = Wiped (s.mach.ldFn k) none none ∧ TblBut s.dev.lds [k] m.lds ∧ RegsBut s [R.EP_RESETS_HOT.bits group.val] m ∧ m = { s.mach with regs := m.regs, lds := m.lds })) ∧
  (∀ (s : State) (group : Fin 16) (ld : Fin 64) (k : Nat), k = ldOf group ld → s.mach.ldThere k = true → (∀ t ∈ s.mach.boundTo k, s.mach.ldField R.EP_LD_MGR k = 1) →
    Does (.flr group ld) s (fun m =>
      m.get R.EP_RESETS_FLR group.val = (s.mach.get R.EP_RESETS_FLR group.val + 1) % 2 ^ R.EP_RESETS_FLR.w ∧
      (∀ j, m.ldFn j = { (if j = k then Wiped (s.mach.ldFn k) (s.mach.ldFn k).hdm (s.mach.ldFn k).resp else s.mach.ldFn j) with
        change := (m.ldFn j).change, cat := (m.ldFn j).cat }) ∧
      RegsBut s [R.EP_RESETS_FLR.bits group.val] m ∧ m = { s.mach with regs := m.regs, lds := m.lds })) ∧
  (∀ (s : State) (group : Fin 16) (ld : Fin 64) (k t : Nat), k = ldOf group ld → s.mach.ldThere k = true → s.mach.boundTo k = some t → s.mach.ldField R.EP_LD_MGR k ≠ 1 →
    Does (.flr group ld) s (fun m =>
      m.get R.EP_RESETS_FLR group.val = (s.mach.get R.EP_RESETS_FLR group.val + 1) % 2 ^ R.EP_RESETS_FLR.w ∧
      m.ldFn k = { Wiped (s.mach.ldFn k) (s.mach.ldFn k).hdm (s.mach.ldFn k).resp with flr := true } ∧ TblBut s.dev.lds [k] m.lds ∧
      m.tenant t = { s.mach.tenant t with state := 2 } ∧ TblBut s.dev.tenants [t] m.tenants)) ∧
  (∀ (s : State) (port : Fin 64) (p g : Nat), p = port.val → g = p / 4 → s.mach.isUpstream g = true → s.mach.portUp p = true →
    Does (.upstreamSurpriseDown port) s (fun m =>
      m.portUp p = false ∧ m.portGet R.PG_PORT_STATUS_CXLMEM p = 0 ∧ m.get R.EP_RESETS_SURPRISE g = (s.mach.get R.EP_RESETS_SURPRISE g + 1) % 2 ^ R.EP_RESETS_SURPRISE.w ∧
      (∀ q < 4, m.tq q = { s.mach.tq q with held := (m.tq q).held } ∧ (m.tq q).held.map (·.line) = (s.mach.tq q).held.map (·.line)) ∧
      (∀ q < 4, (m.outRing q).map (·.body) = (s.mach.outRing q).map (·.body)) ∧ m.pair.owed.length ≤ s.dev.pair.owed.length ∧
      (s.dev.pair.owed = [] → (∀ q < 4, (s.mach.tq q).held = [] ∧ s.mach.outRing q = []) → (∀ q, m.tq q = s.mach.tq q) ∧ ∀ q < 4, m.outRing q = []) ∧
      RegsBut s [(R.PG_PORT_STATUS_UP.at (p % 4)).bits g, (R.PG_PORT_STATUS_CXLMEM.at (p % 4)).bits g, R.EP_RESETS_SURPRISE.bits g] m ∧
      m = { s.mach with
        regs := m.regs, tierq := m.tierq, pair := { s.dev.pair with out := m.pair.out, owed := m.pair.owed }
        errs := [⟨12, .ep, g, 16, sevContained, none, 0, none, false⟩], evs := [⟨9, 2, 12, .pg, g, none, p % 4 * 256, 0⟩] })) ∧
  (∀ (s : State) (port : Fin 64) (rate : Fin 5) (width : Fin 17) (flit mld fl cx : Bool) (p g w r : Nat), p = port.val → g = p / 4 → s.mach.isUpstream g = true →
    s.mach.pgOn g = true → s.mach.portExists p = true → s.mach.portGet R.PG_PORT_CTL_LINK_DISABLE p ≠ 1 → w = portWidth (s.mach.portLanes p) width.val → w ≠ 0 →
    fl = (if s.mach.portUp p then s.mach.portGet R.PG_PORT_STATUS_FLIT p == 1 else flit || rate.val == 4) →
    cx = (if s.mach.portUp p then s.mach.portGet R.PG_PORT_STATUS_CXLMEM p == 1 else s.mach.on R.PG_CFG_CXL g) →
    r = min (if fl then rate.val else min rate.val 3) (s.mach.get R.PG_CFG_MAX_RATE g) →
    Does (.upstreamLinkUp port rate width flit mld) s (fun m =>
      m.portUp p = true ∧ m.portGet R.PG_PORT_STATUS_RATE p = r ∧ m.portGet R.PG_PORT_STATUS_WIDTH p = w ∧ m.portGet R.PG_PORT_STATUS_PRESENT p = 1 ∧
      m.portGet R.PG_PORT_STATUS_FLIT p = fl.toNat ∧ m.portGet R.PG_PORT_STATUS_CXLMEM p = cx.toNat ∧
      m.pgPort p = { s.mach.pgPort p with retrain := false, mld := mld } ∧ TblBut s.dev.pgDevs [p] m.pgDevs ∧
      (s.mach.hon R.HDR_STATUS_COMMIT_PENDING .pg g = false → s.mach.hon R.HDR_STATUS_COMMIT_PENDING .ep g = false → m.active = s.dev.active ∧ m.staged = s.dev.staged) ∧
      RegsBut s ([R.PG_PORT_STATUS_UP, R.PG_PORT_STATUS_RATE, R.PG_PORT_STATUS_WIDTH, R.PG_PORT_STATUS_PRESENT, R.PG_PORT_STATUS_FLIT, R.PG_PORT_STATUS_CXLMEM].map
        (fun f => (f.at (p % 4)).bits g) ++ [hbits R.HDR_STATUS_COMMIT_PENDING .pg g, hbits R.HDR_STATUS_COMMIT_COUNT .pg g,
          hbits R.HDR_STATUS_COMMIT_PENDING .ep g, hbits R.HDR_STATUS_COMMIT_COUNT .ep g]) m ∧
      m = { s.mach with
        regs := m.regs, pgDevs := m.pgDevs, active := m.active, staged := m.staged
        evs := if s.mach.portUp p then [] else [⟨9, 2, 12, .pg, g, none, 1 + p % 4 * 256, 0⟩] })) ∧
  (∀ (s : State) (src : Src) (group : Fin 16) (ld : Fin 64) (k : Nat) (i : Instr), k = ldOf group ld → (s.mach.ldFn k).draining = true →
    (i = .hostRelease group ld ∧ s.mach.ldThere k = true ∨ i = .forceRelease src group ld ∧ MayWrite s src 12 .ep group.val) →
    Does i s (fun m =>
      m.ldFn k = { s.mach.ldFn k with released := true } ∧ TblBut s.dev.lds [k] m.lds ∧ m = { s.mach with lds := m.lds })) ∧
  (∀ (s : State) (src : Src) (group : Fin 16) (ld port : Fin 64) (write : Bool) (dpa : BitVec 64) (data : Line) (mask : BitVec 64) (rate : Fin 5) (width : Fin 17)
    (flit mld : Bool) (k g : Nat), k = ldOf group ld → g = port.val / 4 →
    (s.mach.ldThere k = false ∨ s.mach.mode = 8 ∧ write = true → Leaves (.hostMemRequest group ld write dpa data mask) s s.mach) ∧
    (s.mach.isUpstream group.val = false → Leaves (.fundamentalReset group) s s.mach) ∧
    (s.mach.ldThere k = false → Leaves (.hotReset group ld) s s.mach ∧ Leaves (.flr group ld) s s.mach ∧ Leaves (.hostRelease group ld) s s.mach) ∧
    (s.mach.isUpstream g = false ∨ s.mach.portUp port.val = false → Leaves (.upstreamSurpriseDown port) s s.mach) ∧
    (s.mach.isUpstream g = false → Leaves (.upstreamLinkUp port rate width flit mld) s s.mach) ∧
    ((s.mach.ldFn k).draining = false → Leaves (.hostRelease group ld) s s.mach ∧ (MayWrite s src 12 .ep group.val → Leaves (.forceRelease src group ld) s s.mach)))

/-- R457: each mailbox command of a logical device on a link that is up has its answer, and nothing but the function's mailbox state changes: the capacity of R452, the
event records held or those named removed, the interrupt policy, the time set and gone by since. What the spec leaves open of an answer is a free value. R450: the FM-owned
device of a multi-logical port answers likewise. R466: an LTR message goes out when its value has changed and the interval has passed. R454–R456: a host's configuration
write; R358, R455: its write in a tenant's doorbell page sets TAIL, HEAD or CONSENT where the device decodes the page and is not Standby, and nothing elsewhere. Set LD Allocations and commands that are not listed are answered as unsupported.
The clauses say too where such a command changes nothing. -/
def Obligations.MailboxAndConfigurationComplete : Prop :=
  (∀ (s : State) (group : Fin 16) (ld : Fin 64) (log : Fin 4) (handles : List (BitVec 16)) (policy : BitVec 32) (ns : Word) (opcode : BitVec 16) (i : Instr) (k : Nat) (x y : LdFn),
    k = ldOf group ld → s.mach.ldThere k = true → x = s.mach.ldFn k →
    (i = .identifyMemoryDevice group ld ∧ y = { x with mail := .identify (s.mach.shownCapacity k) } ∨
      i = .getEventRecords group ld log ∧ y = { x with mail := .records (x.logs.filter (fun e => e.log == log.val)) } ∨
      i = .clearEventRecords group ld log handles ∧
        y = { x with mail := .done, logs := x.logs.filter (fun e => !(e.log == log.val && (handles.map BitVec.toNat).contains e.handle)) } ∨
      i = .getEventInterruptPolicy group ld ∧ y = { x with mail := .policy x.policy } ∨
      i = .setEventInterruptPolicy group ld policy ∧ y = { x with mail := .done, policy := policy.toNat } ∨
      i = .getTimestamp group ld ∧ y = { x with mail := .time (if x.stamp = 0 then 0 else x.stamp + (s.dev.time + 2 ^ 48 - x.stampAt) % 2 ^ 48 * 5 / 12) } ∨
      i = .setTimestamp group ld ns ∧ y = { x with mail := .done, stamp := ns.toNat, stampAt := s.dev.time } ∨
      i = .unsupportedCommand group ld opcode ∧ y = { x with mail := .unsupported }) →
    Does i s (fun m => m.ldFn k = y ∧ TblBut s.dev.lds [k] m.lds ∧ m = { s.mach with lds := m.lds })) ∧
  (∀ (s : State) (group : Fin 16) (ld : Fin 64) (i : Instr) (k : Nat), k = ldOf group ld → s.mach.ldThere k = true →
    i ∈ [Instr.getHealthInfo group ld, Instr.getSupportedLogs group ld, Instr.getLog group ld] →
    Does i s (fun m =>
      m.ldFn k = { s.mach.ldFn k with mail := .open (Config.freeWord s.dev.free) } ∧ TblBut s.dev.lds [k] m.lds ∧ m = { s.mach with lds := m.lds, free := s.dev.free + 1 })) ∧
  (∀ (s : State) (port : Fin 64) (i : Instr) (p : Nat) (a : MailAnswer), p = port.val → s.mach.isUpstream (p / 4) = true → s.mach.portUp p = true → (s.mach.pgPort p).mld = true →
    s.mach.mode ≠ 9 →
    (i, a) ∈ [(Instr.getLdInfo port, .ldInfo ((s.mach.fmUnits p).foldl (· + ·) 0 * 2 ^ 28) 16), (Instr.getLdAllocations port, .allocations (s.mach.fmUnits p)),
      (Instr.setLdAllocations port, .unsupported)] →
    Does i s (fun m => m.pgPort p = { s.mach.pgPort p with mail := a } ∧ TblBut s.dev.pgDevs [p] m.pgDevs ∧ m = { s.mach with pgDevs := m.pgDevs })) ∧
  (∀ (s : State) (group : Fin 16) (ld : Fin 64) (k : Nat) (x : LdFn), k = ldOf group ld → x = s.mach.ldFn k → s.mach.ldThere k = true → x.ltrEn = true → s.mach.ltrValue k ≠ x.ltrLast →
    (match x.ltrAt with
      | none => true
      | some t => decide (max 1 (s.mach.act R.EP_LTR_CTL_MIN_INTERVAL_US (k / 64)) * 2400 ≤ (s.dev.time + 2 ^ 48 - t) % 2 ^ 48)) = true →
    Does (.ltrSend group ld) s (fun m =>
      m.ldFn k = { x with ltrLast := s.mach.ltrValue k, ltrSent := (x.ltrSent + 1) % 2 ^ 16, ltrAt := some s.dev.time } ∧ TblBut s.dev.lds [k] m.lds ∧ m = { s.mach with lds := m.lds })) ∧
  (∀ (s : State) (group : Fin 16) (ld : Fin 64) (w : HostWrite) (k : Nat) (x y : LdFn), k = ldOf group ld → s.mach.ldThere k = true → x = s.mach.ldFn k → x.flr = false → (match w with | .doorbell .. => false | _ => true) = true →
    y = (match w with
      | .command mse bme => { x with mse := mse, bme := bme }
      | .bar n v => { x with bars := x.bars.ins n.val (barValue n.val v.toNat) }
      | .rom v => { x with bars := x.bars.ins 6 (barValue 6 v.toNat) }
      | .msixControl on mask => { x with msixOn := on, msixMask := mask }
      | .vector n a d mask => if x.mse then { x with msix := x.msix.ins n.toNat (a.toNat, d.toNat, mask) } else x
      | .ltrEnable on => { x with ltrEn := on }
      | .hdm base size => if x.mse then { x with hdm := some (base.toNat, size.toNat) } else x
      | .power d3 => { x with d3 := d3 }
      | .doorbell .. => x) →
    Does (.hostConfigWrite group ld w) s (fun m =>
      m.ldFn k = { y with pba := (m.ldFn k).pba, lastMsg := (m.ldFn k).lastMsg, msgs := (m.ldFn k).msgs } ∧ (∀ v ∈ (m.ldFn k).pba, v ∈ x.pba) ∧
      (x.pba = [] ∨ (match w with | .msixControl .. => false | .vector .. => false | _ => true) = true → m.ldFn k = y) ∧ TblBut s.dev.lds [k] m.lds ∧ m = { s.mach with lds := m.lds })) ∧
  (∀ (s : State) (group : Fin 16) (ld : Fin 64) (off : BitVec 23) (lg : Fin 4) (v : Word) (k t : Nat) (x : LdFn), k = ldOf group ld → s.mach.ldThere k = true → x = s.mach.ldFn k →
    t = off.toNat / 0x1000 →
    (x.flr = true ∨ x.mse = false ∨ x.d3 = true ∨ off.toNat % 2 ^ lg.val ≠ 0 ∨ s.mach.decodesPage k t = false ∨ s.mach.ldState k = 1 ∨ (s.mach.tenant t).state = 0 ∨ 0xF08 ≤ off.toNat % 0x1000) →
    Does (.hostConfigWrite group ld (.doorbell off lg v)) s (fun m => m = s.mach)) ∧
  (∀ (s : State) (group : Fin 16) (ld : Fin 64) (off : BitVec 23) (lg : Fin 4) (v : Word) (k t n : Nat) (x : LdFn), k = ldOf group ld → s.mach.ldThere k = true → x = s.mach.ldFn k →
    t = off.toNat / 0x1000 → x.flr = false → x.mse = true → x.d3 = false → off.toNat % 2 ^ lg.val = 0 → s.mach.decodesPage k t = true → s.mach.ldState k ≠ 1 → (s.mach.tenant t).state ≠ 0 →
    (off.toNat % 0x1000 = 0xF00 ∧ 2 ≤ lg.val ∨ 1 ≤ lg.val ∧ off.toNat % 8 = 0 ∧ s.mach.localQueue t (off.toNat % 0x1000 / 16) = some n ∧ off.toNat % 0x1000 < 0xF00 ∧
      (off.toNat / 8 % 2 = 0 ∨ Idle s ∧ (s.mach.queue n).held = [] ∧ (s.mach.queue n).state ≠ 2)) →
    Does (.hostConfigWrite group ld (.doorbell off lg v)) s (fun m =>
      m = (if off.toNat % 0x1000 = 0xF00 then { s.mach with tenants := m.tenants } else { s.mach with queues := m.queues }) ∧
      (off.toNat % 0x1000 = 0xF00 → m.tenant t = { s.mach.tenant t with consent := bitsOf v.toNat 17 1 == 1 } ∧ TblBut s.dev.tenants [t] m.tenants) ∧
      (off.toNat % 0x1000 ≠ 0xF00 →
        m.queue n = (if off.toNat / 8 % 2 = 0 then { s.mach.queue n with tail := v.toNat % 2 ^ 16 } else { s.mach.queue n with cqHead := v.toNat % 2 ^ 16 }) ∧
        ∀ j, j ≠ n → m.queue j = s.mach.queue j))) ∧
  (∀ (s : State) (group : Fin 16) (ld port : Fin 64) (log : Fin 4) (handles : List (BitVec 16)) (policy : BitVec 32) (ns : Word) (opcode : BitVec 16) (w : HostWrite)
    (i : Instr) (k p : Nat), k = ldOf group ld → p = port.val →
    (s.mach.ldThere k = false → i ∈ [.identifyMemoryDevice group ld, .getEventRecords group ld log, .clearEventRecords group ld log handles, .getEventInterruptPolicy group ld,
      .setEventInterruptPolicy group ld policy, .getTimestamp group ld, .setTimestamp group ld ns, .unsupportedCommand group ld opcode, .ltrSend group ld, .hostConfigWrite group ld w] →
      Leaves i s s.mach) ∧
    (s.mach.isUpstream (p / 4) = false ∨ s.mach.portUp p = false ∨ (s.mach.pgPort p).mld = false ∨ s.mach.mode = 9 →
      Leaves (.getLdInfo port) s s.mach ∧ Leaves (.getLdAllocations port) s s.mach ∧ Leaves (.setLdAllocations port) s s.mach) ∧
    ((s.mach.ldFn k).ltrEn = false ∨ s.mach.ltrValue k = (s.mach.ldFn k).ltrLast → Leaves (.ltrSend group ld) s s.mach) ∧
    ((s.mach.ldFn k).flr = true → Leaves (.hostConfigWrite group ld w) s s.mach))

/-- R506: the end of a coalescing window empties the table and gives each counted entry one SEQ and one Notice record, on the package ring where it is enabled and has
room, and each path and class that dropped records one DROPPED event. R504: the sideband's answers, and ACK_EVENTS frees the records up to a SEQ. R505: an
acknowledged alarm releases ALERT_N. R507: a cleared bank or the cleared general region holds no slot. R502: RING_HEAD. R483, R487: a header word that cannot be corrected is
Fatal; R484: TCTL.CLEAR empties the trace. All of the machine is said for windows whose entries name no tenant, and for a RING_HEAD with
no incident being replayed; the clauses after them hold in every case. The clauses say too where such a command changes nothing. -/
def Obligations.LanternCommandsComplete : Prop :=
  (∀ (s : State), s.mach.ringOn = false → (∀ c ∈ s.dev.lant.coal, c.tenant = none) →
    Does .coalesceWindowEnd s (fun m =>
      m.get R.LANT_SEQ_NEXT = (s.mach.get R.LANT_SEQ_NEXT + (s.dev.lant.coal.filter (fun c => c.count != 0)).length) % 2 ^ R.LANT_SEQ_NEXT.w ∧
      RegsBut s [R.LANT_SEQ_NEXT.bits] m ∧
      m = { s.mach with
        regs := m.regs, lant := { s.dev.lant with coal := [], dropped := [] }
        evs := s.dev.lant.dropped.reverse.map (fun d => ⟨10, 1, 12, .lant, 0, none, d.1 + 4 * d.2.toNat, 0⟩) })) ∧
  (∀ (s : State) (c : CoalEntry) (spa la t : Nat) (old : Line) (r : EventRec), Idle s → NoUncore s → s.mach.ringOn = true → s.dev.lant.replaying = false →
    s.dev.lant.coal = [c] → s.dev.lant.dropped = [] → c.count ≠ 0 → c.tenant = none → s.mach.ringTakes 2 = true → s.dev.lant.ringStopped = false →
    t = s.mach.get R.LANT_RING_TAIL_TAIL → spa = s.mach.get R.LANT_RING_BASE * 4096 + 32 * t → Target s (spa / 64) la old →
    r = ⟨c.typ, 2, c.sev, s.mach.on R.LANT_RING_TAIL_PHASE, true, false, false, c.cause, s.mach.get R.LANT_SEQ_NEXT, s.dev.time, c.source, none, c.count, c.detail, c.addr⟩ →
    Does .coalesceWindowEnd s (fun m =>
      Stored s [(spa / 64, la, putIn old spa r.bytes)] m ∧ m.get R.LANT_SEQ_NEXT = (s.mach.get R.LANT_SEQ_NEXT + 1) % 2 ^ R.LANT_SEQ_NEXT.w ∧
      m.get R.LANT_RING_TAIL_TAIL = (if t + 1 = s.mach.ringSize then 0 else (t + 1) % 2 ^ R.LANT_RING_TAIL_TAIL.w) ∧
      m.get R.LANT_RING_TAIL_PHASE = (if t + 1 = s.mach.ringSize then 1 - s.mach.get R.LANT_RING_TAIL_PHASE else s.mach.get R.LANT_RING_TAIL_PHASE) ∧
      TblBut s.dev.slots (memSlots s [(spa / 64, la, old)]) m.slots ∧
      Touched s (spa / 64) m ∧ RegsBut s [R.LANT_SEQ_NEXT.bits, R.LANT_RING_TAIL_TAIL.bits, R.LANT_RING_TAIL_PHASE.bits, R.HOME_SF_STATUS_OCCUPIED.bits (homeOf spa)] m ∧
      m = { s.mach with
        regs := m.regs, lant := { s.dev.lant with coal := [] }, slots := m.slots, lines := m.lines, filter := m.filter, lineMeta := m.lineMeta, wr := m.wr, errs := m.errs
        pmap := m.pmap, mapDirty := m.mapDirty, tierq := m.tierq })) ∧
  (∀ (s : State),
    Does .coalesceWindowEnd s (fun m =>
      m.lant.coal = [] ∧ m.get R.LANT_SEQ_NEXT = (s.mach.get R.LANT_SEQ_NEXT + (s.dev.lant.coal.filter (fun c => c.count != 0)).length) % 2 ^ R.LANT_SEQ_NEXT.w ∧
      (∀ d ∈ s.dev.lant.dropped, ⟨10, 1, 12, .lant, 0, none, d.1 + 4 * d.2.toNat, 0⟩ ∈ m.evs))) ∧
  (∀ (s : State) (slot : BitVec 11) (i : Instr) (a : SbAnswer), s.mach.mode ≠ 0 →
    (i = .getEvents ∧ a = .events (s.dev.lant.sbq.take 8) ∨
      i = .getStatus ∧ a = .status [putBits (s.mach.reg R.PKG_MODE_MODE.key) 10 1
          (decide (s.mach.get R.PKG_STRUCK_MASK_DIES ≠ 0 ∧ 3 ≤ s.mach.mode ∧ s.mach.mode ≤ 7)).toNat,
        s.mach.reg R.PKG_STRUCK_MASK_DIES.key, s.mach.reg R.PKG_PAIR_STATE_STATE.key, s.mach.reg R.PKG_RESET_CAUSE_LAST.key, s.mach.reg R.LANT_STORE_STAT_CUR.key] ∨
      i = .getStore slot ∧ a = .slots ((List.range 32).map (fun j => (s.dev.lant.store.find ((slot.toNat + j) % 2048)).elim (List.replicate 32 0) EventRec.bytes))) →
    Does i s (fun m => m = { s.mach with lant := { s.dev.lant with answer := a } })) ∧
  (∀ (s : State) (seq : BitVec 32), s.mach.mode ≠ 0 →
    Does (.ackEvents seq) s (fun m =>
      m = { s.mach with lant := { s.dev.lant with sbq := s.dev.lant.sbq.dropWhile (fun r => (seq.toNat + 2 ^ 32 - r.seq) % 2 ^ 32 < 2 ^ 31) } })) ∧
  (∀ (s : State) (src : Src) (i : Instr), (i = .ackAlarm ∧ s.mach.mode ≠ 0 ∨ i = .alertPendClear src ∧ MayWrite s src 12 .lant 0) →
    Does i s (fun m =>
      m.get R.LANT_ALARM_ALERT_PEND = 0 ∧ RegsBut s [R.LANT_ALARM_ALERT_PEND.bits] m ∧ m = { s.mach with regs := m.regs, pins := { s.dev.pins with alertN := true } })) ∧
  (∀ (s : State) (src : Src) (i : Instr) (lo hi : Nat) (fs : List Fld), MayWrite s src 12 .lant 0 →
    (i, lo, hi, fs) ∈ [(Instr.clearBank0 src, 32, 736, [R.LANT_STORE_STAT_COUNT0]), (Instr.clearBank1 src, 736, 1440, [R.LANT_STORE_STAT_COUNT1]),
      (Instr.clearGeneral src, 1440, 2048, [R.LANT_STORE_STAT_GEN_WPTR, R.LANT_STORE_STAT_GEN_WRAPPED])] → (∀ e ∈ s.dev.lant.store, e.1 < 2048) →
    Does i s (fun m =>
      (∀ k, m.lant.store.find k = if lo ≤ k ∧ k < hi then none else s.dev.lant.store.find k) ∧ (∀ f ∈ fs, m.get f = 0) ∧ RegsBut s (fs.map (fun f => f.bits)) m ∧
      m = { s.mach with regs := m.regs, lant := { s.dev.lant with store := m.lant.store } })) ∧
  (∀ (s : State) (src : Src) (head : BitVec 20), MayWrite s src 12 .lant 0 → s.dev.lant.replaying = false →
    Does (.ringHeadWrite src head) s (fun m => m.get R.LANT_RING_HEAD_HEAD = head.toNat ∧ OnlyRegs s [R.LANT_RING_HEAD_HEAD.bits] m)) ∧
  (∀ (s : State) (src : Src) (head : BitVec 20), MayWrite s src 12 .lant 0 →
    Does (.ringHeadWrite src head) s (fun m => m.get R.LANT_RING_HEAD_HEAD = head.toNat ∧ (s.dev.lant.replaying = false → m.get R.LANT_RING_TAIL_TAIL = s.mach.get R.LANT_RING_TAIL_TAIL))) ∧
  (∀ (s : State) (die : Fin 13) (inst : Fin 4), inst.val < instances s.fuses die.val .fab → (die.val = 12 ∨ s.mach.dieUp die.val = true) →
    Does (.meshHeaderError die inst) s (fun m => m = { s.mach with errs := [⟨die.val, .fab, inst.val, E.FAB_HEADER_UNCORRECTABLE.bit, sevFatal, none, 0, none, false⟩] })) ∧
  (∀ (s : State) (src : Src) (die : Fin 13) (inst : Fin 4) (k : Nat), MayWrite s src die.val .fab inst.val → k = (die.val * 4 + inst.val) * 2048 →
    Does (.traceClear src die inst) s (fun m =>
      (∀ i, m.trace.find i = if k ≤ i ∧ i < k + 2048 then none else s.dev.trace.find i) ∧
      m.get R.FAB_TSTAT_WPTR inst.val die.val = 0 ∧ m.get R.FAB_TSTAT_FULL inst.val die.val = 0 ∧ m.get R.FAB_TSTAT_DROPPED inst.val die.val = 0 ∧
      RegsBut s [R.FAB_TSTAT_WPTR.bits inst.val die.val, R.FAB_TSTAT_FULL.bits inst.val die.val, R.FAB_TSTAT_DROPPED.bits inst.val die.val] m ∧
      m = { s.mach with regs := m.regs, trace := m.trace })) ∧
  (∀ (s : State) (slot : BitVec 11) (seq : BitVec 32) (die : Fin 13) (inst : Fin 4) (i : Instr),
    (s.mach.mode = 0 → i ∈ [.getEvents, .ackEvents seq, .getStatus, .getStore slot, .ackAlarm] → Leaves i s s.mach) ∧
    (instances s.fuses die.val .fab ≤ inst.val ∨ die.val ≠ 12 ∧ s.mach.dieUp die.val = false → Leaves (.meshHeaderError die inst) s s.mach))

/-- R515, R522: a counter that passes its end goes on from the remainder, sets its OVF bit, and pends PM_IRQ's interrupt or freezes the counters where asked. R518: the
interval ends: an instruction is tagged and a new interval drawn, with jitter as a free value, or the interval waits for the tagged one in flight and is counted.
R519, R520: its record goes to the ring at TAIL, or is dropped and counted where the ring is full. R524: a snapshot copies the four counters of its page at its time.
The clauses say too where such a command changes nothing. -/
def Obligations.PerformanceCommandsComplete : Prop :=
  (∀ (s : State) (c : Cid) (n : Fin 8) (rest : BitVec 6) (k g ovf irq : Nat), k = cidOf c → s.mach.dieUp c.die.val = true → g = s.mach.sreg k 0x101 →
    ovf = s.mach.sreg k 0x102 → irq = s.mach.sreg k 0x103 → bitsOf g n.val 1 = 1 →
    Does (.pmCounterOverflow c n rest) s (fun m =>
      m.sreg k (0x120 + n.val) = rest.toNat ∧ m.sreg k 0x102 = (if ovf / 2 ^ n.val % 2 = 1 then ovf else ovf + 2 ^ n.val) ∧
      m.sreg k 0x032 = (if irq / 64 % 2 = 1 then Nat.lor (s.mach.sreg k 0x032) (2 ^ (irq % 64)) % 2 ^ 64 else s.mach.sreg k 0x032) ∧
      m.sreg k 0x101 = (if g / 2 ^ 10 % 2 = 1 then g / 2 ^ 10 * 2 ^ 10 else g) ∧
      (∀ r, r ∉ [0x120 + n.val, 0x102, 0x032, 0x101] → m.sreg k r = s.mach.sreg k r) ∧
      m.core k = { s.mach.core k with sr := (m.core k).sr, run := if irq / 64 % 2 = 1 ∧ (s.mach.core k).run = .waiting then .running else (s.mach.core k).run } ∧
      (∀ j, j ≠ k → m.core j = s.mach.core j) ∧ m = { s.mach with cores := m.cores })) ∧
  (∀ (s : State) (die : Fin 13) (inst : Fin 4) (n : Fin 4) (rest : BitVec 9) (i d ovf : Nat), i = inst.val → d = die.val → i < instances s.fuses d .pmu →
    (d = 12 ∨ s.mach.dieUp d = true) → bitsOf (s.mach.get R.PMU_UGLOBAL_EN i d) n.val 1 = 1 → ovf = s.mach.get R.PMU_UGLOBAL_OVF i d →
    Does (.uncoreOverflow die inst n rest) s (fun m =>
      m.get (R.PMU_UCNT_COUNT.at n.val) i d = rest.toNat ∧ m.get R.PMU_UGLOBAL_OVF i d = (if ovf / 2 ^ n.val % 2 = 1 then ovf else ovf + 2 ^ n.val) ∧
      m.get R.PMU_UGLOBAL_EN i d = (if s.mach.on R.PMU_UGLOBAL_FREEZE_ON_OVF i d then 0 else s.mach.get R.PMU_UGLOBAL_EN i d) ∧
      OnlyRegs s [(R.PMU_UCNT_COUNT.at n.val).bits i d, R.PMU_UGLOBAL_OVF.bits i d, R.PMU_UGLOBAL_EN.bits i d] m)) ∧
  (∀ (s : State) (c : Cid) (k n : Nat) (j : Bool), k = cidOf c → s.mach.issuing k = true → c.core.val < s.fuses.coresPerDie → s.mach.tagOn k = true → (s.mach.core k).tag.flight = none →
    n = bitsOf (s.mach.sreg k 0x140) 1 5 → j = (bitsOf (s.mach.sreg k 0x140) 6 1 == 1) →
    Does (.tagSelect c) s (fun m =>
      m.core k = { s.mach.core k with
        tag := { (s.mach.core k).tag with
          flight := some ((s.mach.core k).pl, s.mach.sreg k 0x104), wait := false
          interval := if j then 2 ^ n - 2 ^ (n - 4) + (Config.freeWord s.dev.free).toNat % 2 ^ (n - 3) else 2 ^ n } } ∧
      (∀ i, i ≠ k → m.core i = s.mach.core i) ∧ m = { s.mach with cores := m.cores, free := if j then s.dev.free + 1 else s.dev.free })) ∧
  (∀ (s : State) (c : Cid) (k d : Nat) (f : Nat × Nat), k = cidOf c → s.mach.issuing k = true → c.core.val < s.fuses.coresPerDie → s.mach.tagOn k = true → (s.mach.core k).tag.flight = some f → (s.mach.core k).tag.wait = false →
    d = s.mach.sreg k 0x144 →
    Does (.tagSelect c) s (fun m =>
      m.sreg k 0x144 = d % 2 ^ 32 + (d / 2 ^ 32 + 1) % 2 ^ 32 * 2 ^ 32 ∧ (∀ r, r ≠ 0x144 → m.sreg k r = s.mach.sreg k r) ∧
      m.core k = { s.mach.core k with sr := (m.core k).sr, tag := { (s.mach.core k).tag with wait := true } } ∧
      (∀ i, i ≠ k → m.core i = s.mach.core i) ∧ m = { s.mach with cores := m.cores })) ∧
  (∀ (s : State) (c : Cid) (r : TagRec) (k pl tn ring size tail ph spa la : Nat) (old : Line) (x : CoreSt), NoUncore s → k = cidOf c → x = s.mach.core k →
    x.tag.flight = some (pl, tn) → x.tag.wait = false → ring = s.mach.sreg k 0x141 → size = 2 ^ bitsOf ring 0 5 → tail = s.mach.sreg k 0x143 % 2 ^ 16 →
    ph = bitsOf (s.mach.sreg k 0x143) 16 1 → (tail + 1 + size - s.mach.sreg k 0x142 % size) % size ≠ 0 → spa = bitsOf ring 12 36 * 4096 + 64 * tail → Target s (spa / 64) la old →
    Does (.tagRecord c r) s (fun m =>
      Stored s [(spa / 64, la, BitVec.ofNat 512 (ofBytes (tagHead r x.tag.seq ph tn pl ++ tagBody r (s.mach.sreg k 0x100))))] m ∧
      m.sreg k 0x143 = (if tail + 1 = size then (1 - ph) * 2 ^ 16 else tail + 1 + ph * 2 ^ 16) ∧ (∀ n, n ≠ 0x143 → m.sreg k n = s.mach.sreg k n) ∧
      m.core k = { x with sr := (m.core k).sr, tag := { x.tag with flight := none, seq := (x.tag.seq + 1) % 2 ^ 32 } } ∧ (∀ j, j ≠ k → m.core j = s.mach.core j) ∧
      TblBut s.dev.slots (memSlots s [(spa / 64, la, old)]) m.slots ∧ Touched s (spa / 64) m ∧ RegsBut s [R.HOME_SF_STATUS_OCCUPIED.bits (homeOf spa)] m ∧
      m = { s.mach with
        regs := m.regs, cores := m.cores, slots := m.slots, lines := m.lines, filter := m.filter, lineMeta := m.lineMeta, wr := m.wr, errs := m.errs
        pmap := m.pmap, mapDirty := m.mapDirty, tierq := m.tierq })) ∧
  (∀ (s : State) (c : Cid) (r : TagRec) (k size d : Nat) (f : Nat × Nat) (x : CoreSt), k = cidOf c → x = s.mach.core k → x.tag.flight = some f → x.tag.wait = false →
    size = 2 ^ bitsOf (s.mach.sreg k 0x141) 0 5 → (s.mach.sreg k 0x143 % 2 ^ 16 + 1 + size - s.mach.sreg k 0x142 % size) % size = 0 → d = s.mach.sreg k 0x144 →
    Does (.tagRecord c r) s (fun m =>
      m.sreg k 0x144 = d / 2 ^ 32 * 2 ^ 32 + (d + 1) % 2 ^ 32 ∧ (∀ n, n ≠ 0x144 → m.sreg k n = s.mach.sreg k n) ∧
      m.core k = { x with sr := (m.core k).sr, tag := { x.tag with flight := none, seq := (x.tag.seq + 1) % 2 ^ 32 } } ∧ (∀ j, j ≠ k → m.core j = s.mach.core j) ∧
      m = { s.mach with cores := m.cores })) ∧
  (∀ (s : State) (c : Cid) (r : TagRec) (k : Nat) (f : Nat × Nat) (x : CoreSt), k = cidOf c → x = s.mach.core k → x.tag.flight = some f →
    Does (.tagRecord c r) s (fun m =>
      (m.core k).tag.seq = (x.tag.seq + 1) % 2 ^ 32 ∧ (m.core k).tag.wait = false ∧ (x.tag.wait = false ∨ s.mach.tagOn k = false → (m.core k).tag.flight = none) ∧
      (x.tag.wait = true → m.tagOn k = true → (m.core k).tag.flight = some (x.pl, s.mach.sreg k 0x104)) ∧ (∀ j, j ≠ k → m.core j = s.mach.core j))) ∧
  (∀ (s : State) (die : Fin 13) (inst : Fin 4) (i d : Nat), i = inst.val → d = die.val → i < instances s.fuses d .pmu → (d = 12 ∨ s.mach.dieUp d = true) →
    s.mach.on R.PMU_SNAP_AT_ARM i d = true → (s.dev.time + 2 ^ 48 - s.mach.get R.PMU_SNAP_AT_TIME i d) % 2 ^ 48 < 2 ^ 47 →
    Does (.pmuSnapshot die inst) s (fun m =>
      (∀ n < 4, m.get (R.PMU_USNAP_COUNT.at n) i d = s.mach.get (R.PMU_UCNT_COUNT.at n) i d) ∧ m.get R.PMU_SNAP_TIME_TIME i d = s.dev.time % 2 ^ R.PMU_SNAP_TIME_TIME.w ∧
      m.get R.PMU_SNAP_STAT_DONE i d = 1 ∧ m.get R.PMU_SNAP_AT_ARM i d = 0 ∧
      m.get R.PMU_SNAP_STAT_LATE i d = (if s.dev.time = s.mach.get R.PMU_SNAP_AT_TIME i d then s.mach.get R.PMU_SNAP_STAT_LATE i d else 1) ∧
      OnlyRegs s ([0, 1, 2, 3].map (fun n => (R.PMU_USNAP_COUNT.at n).bits i d) ++ [R.PMU_SNAP_TIME_TIME.bits i d, R.PMU_SNAP_STAT_DONE.bits i d,
        R.PMU_SNAP_STAT_LATE.bits i d, R.PMU_SNAP_AT_ARM.bits i d]) m)) ∧
  (∀ (s : State) (c : Cid) (r : TagRec) (n : Fin 8) (u inst : Fin 4) (rest : BitVec 6) (urest : BitVec 9) (die : Fin 13) (k i d : Nat),
    k = cidOf c → i = inst.val → d = die.val →
    (s.mach.dieUp c.die.val = false ∨ bitsOf (s.mach.sreg k 0x101) n.val 1 = 0 → Leaves (.pmCounterOverflow c n rest) s s.mach) ∧
    (instances s.fuses d .pmu ≤ i ∨ d ≠ 12 ∧ s.mach.dieUp d = false ∨ bitsOf (s.mach.get R.PMU_UGLOBAL_EN i d) u.val 1 = 0 → Leaves (.uncoreOverflow die inst u urest) s s.mach) ∧
    (s.mach.issuing k = false ∨ s.fuses.coresPerDie ≤ c.core.val ∨ s.mach.tagOn k = false → Leaves (.tagSelect c) s s.mach) ∧
    ((s.mach.core k).tag.flight = none → Leaves (.tagRecord c r) s s.mach) ∧
    (instances s.fuses d .pmu ≤ i ∨ d ≠ 12 ∧ s.mach.dieUp d = false ∨ s.mach.on R.PMU_SNAP_AT_ARM i d = false ∨
      2 ^ 47 ≤ (s.dev.time + 2 ^ 48 - s.mach.get R.PMU_SNAP_AT_TIME i d) % 2 ^ 48 → Leaves (.pmuSnapshot die inst) s s.mach))

/-- R533–R535: an evaluation takes the readings, moves the caps by one step as its thresholds ask, and gives each core the larger of its two caps. R528, R531, R536: AVS_FAULT
is Contained, RAIL_LOST and THERMTRIP are Fatal. R544: a second of service accrues at the hottest valid temperature (the rounding is the model's, log 36), and the count is saved.
R538, R539: the TAP holds the instruction a code selects; Capture-DR takes the identification, the lands, the bypass bit or the insertion bits, those of struck and parked
dies held at 0. R223: corrected reads older than the window leave a device's count. Where all of the machine is said of an evaluation, no reading reaches ALERT_C; one that
reaches it raises OVERTEMP, once until it has fallen below (R535). With no valid temperature the second accrues at a free value.
The clauses say too where such a command changes nothing. -/
def Obligations.ElectricalCommandsComplete : Prop :=
  (∀ (s : State) (temps : List (Fin 13 × BitVec 16)) (T : Nat → Int) (thr low : Int), 2 ≤ s.mach.mode → temps.all (fun t => decide (t.2.toInt < 16 * (min 120 (s.mach.act R.PKG_THERM_CTL_ALERT_C) : Nat))) = true →
    (∀ k < 13, T k = ((temps.find? (fun t => t.1.val == k)).map (fun t => t.2.toInt)).getD (s.mach.tempOf k)) → thr = 16 * (min 105 (s.mach.act R.PKG_THERM_CTL_THROTTLE_C) : Nat) →
    low = thr - 16 * (s.mach.act R.PKG_THERM_CTL_HYST_C : Nat) → s.fuses.coresPerDie ≤ 20 → (∀ d < 12, s.dev.tcap.getD d 0 ≤ 3) → (∀ k ∈ s.mach.capped, s.dev.pcap.getD k 0 ≤ 3) →
    Does (.thermalControlTick temps) s (fun m =>
      (∀ k < 13, m.tempOf k = T k ∧ m.get (R.PKG_DIE_TEMP_VALID.at k) = (temps.any (fun t => t.1.val == k)).toNat) ∧
      (∀ d < 12, m.tcap.getD d 0 = if s.mach.dieUp d = false then 0
        else if thr ≤ T d ∨ thr ≤ T 12 then min 3 (s.dev.tcap.getD d 0 + 1) else if T d < low ∧ T 12 < low then s.dev.tcap.getD d 0 - 1 else s.dev.tcap.getD d 0) ∧
      (∀ c, m.pcap.getD c 0 = if c ∈ s.mach.capped then s.dev.pcap.getD c 0 else 0) ∧
      (∀ d < 12, s.mach.dieUp d = true → ∀ i < s.fuses.coresPerDie, bitsOf (m.get R.CLK_PSTATE_CAP 0 d) (2 * i) 2 =
        if 32 * d + i ∈ s.mach.capped then max (m.tcap.getD d 0) (m.pcap.getD (32 * d + i) 0) else 0) ∧
      m.get R.PKG_POWER_STATUS_CAP_STEPS = (s.mach.get R.PKG_POWER_STATUS_CAP_STEPS +
        ((List.range 12).filter (fun d => s.mach.dieUp d && decide (thr ≤ T d ∨ thr ≤ T 12) && decide (s.dev.tcap.getD d 0 < 3))).length) % 2 ^ R.PKG_POWER_STATUS_CAP_STEPS.w ∧
      m.get R.PKG_POWER_STATUS_HOT = (decide (∃ d ∈ List.range 12, m.tcap.getD d 0 ≠ 0)).toNat ∧
      m.get R.PKG_POWER_STATUS_LIMITING = (decide (∃ c ∈ s.mach.capped, m.pcap.getD c 0 ≠ 0)).toNat ∧
      RegsBut s ([R.PKG_POWER_STATUS_CAP_STEPS.bits, R.PKG_POWER_STATUS_HOT.bits, R.PKG_POWER_STATUS_LIMITING.bits] ++
        (List.range 13).flatMap (fun k => [(R.PKG_DIE_TEMP_TEMP.at k).bits, (R.PKG_DIE_TEMP_VALID.at k).bits]) ++ (List.range 12).map (fun d => R.CLK_PSTATE_CAP.bits 0 d)) m ∧
      m = { s.mach with regs := m.regs, tcap := m.tcap, pcap := m.pcap })) ∧
  (∀ (s : State) (temps : List (Fin 13 × BitVec 16)), 2 ≤ s.mach.mode →
    Does (.thermalControlTick temps) s (fun m =>
      ∀ k < 13, m.get (R.PKG_DIE_TEMP_VALID.at k) = (temps.any (fun t => t.1.val == k)).toNat ∧
        ∀ t ∈ temps.find? (fun t => t.1.val == k), m.tempOf k = t.2.toInt ∧
          (16 * (min 120 (s.mach.act R.PKG_THERM_CTL_ALERT_C) : Nat) ≤ t.2.toInt →
            (s.mach.on (R.PKG_DIE_TEMP_VALID.at k) = false ∨ s.mach.tempOf k < 16 * (min 120 (s.mach.act R.PKG_THERM_CTL_ALERT_C) : Nat)) →
            ⟨12, .pkg, 0, E.PKG_OVERTEMP.bit, sevContained, none, k, none, false⟩ ∈ m.errs))) ∧
  (∀ (s : State) (power : BitVec 16) (limit lo hi : Nat) (cap : Nat → Nat), 2 ≤ s.mach.mode → s.fuses.coresPerDie ≤ 20 →
    limit = 8 * max s.fuses.tdpMin (min s.fuses.tdpMax (s.mach.act R.PKG_POWER_LIMIT_LIMIT_W)) → (∀ c ∈ s.mach.capped, cap c = s.dev.pcap.getD c 0 ∧ cap c ≤ 3) →
    lo = s.mach.capped.foldl (fun a c => min a (cap c)) 3 → hi = s.mach.capped.foldl (fun a c => max a (cap c)) 0 → (∀ d < 12, s.dev.tcap.getD d 0 ≤ 3) →
    Does (.powerControlTick power) s (fun m =>
      m.get R.PKG_POWER_STATUS_POWER = power.toNat % 2 ^ R.PKG_POWER_STATUS_POWER.w ∧
      (∀ c ∈ s.mach.capped, m.pcap.getD c 0 =
        if limit < power.toNat then (if cap c = lo ∧ lo < 3 then lo + 1 else cap c)
        else if power.toNat * 100 < limit * 95 then (if cap c = hi then hi - 1 else cap c) else cap c) ∧
      (∀ c, c ∉ s.mach.capped → m.pcap.getD c 0 = 0) ∧ (∀ d < 12, m.tcap.getD d 0 = if s.mach.dieUp d then s.dev.tcap.getD d 0 else 0) ∧
      (∀ d < 12, s.mach.dieUp d = true → ∀ i < s.fuses.coresPerDie, bitsOf (m.get R.CLK_PSTATE_CAP 0 d) (2 * i) 2 =
        if 32 * d + i ∈ s.mach.capped then max (m.tcap.getD d 0) (m.pcap.getD (32 * d + i) 0) else 0) ∧
      m.get R.PKG_POWER_STATUS_CAP_STEPS = (s.mach.get R.PKG_POWER_STATUS_CAP_STEPS +
        (if limit < power.toNat ∧ lo < 3 then (s.mach.capped.filter (fun c => cap c == lo)).length else 0)) % 2 ^ R.PKG_POWER_STATUS_CAP_STEPS.w ∧
      m.get R.PKG_POWER_STATUS_HOT = (decide (∃ d ∈ List.range 12, m.tcap.getD d 0 ≠ 0)).toNat ∧
      m.get R.PKG_POWER_STATUS_LIMITING = (decide (∃ c ∈ s.mach.capped, m.pcap.getD c 0 ≠ 0)).toNat ∧
      RegsBut s ([R.PKG_POWER_STATUS_POWER.bits, R.PKG_POWER_STATUS_CAP_STEPS.bits, R.PKG_POWER_STATUS_HOT.bits, R.PKG_POWER_STATUS_LIMITING.bits] ++
        (List.range 12).map (fun d => R.CLK_PSTATE_CAP.bits 0 d)) m ∧
      m = { s.mach with
        regs := m.regs, tcap := m.tcap, pcap := m.pcap
        errs := if limit < power.toNat ∧ lo < 3 ∧ (∀ c ∈ s.mach.capped, cap c = 0) then [⟨12, .pkg, 0, E.PKG_POWER_LIMITING.bit, sevCorrected, none, 0, none, false⟩] else [] })) ∧
  (∀ (s : State), s.mach.mode ≠ 0 →
    Does .thermtrip s (fun m =>
      m = { s.mach with pins := { s.dev.pins with thermtripN := false }, errs := [⟨12, .pkg, 0, E.PKG_THERMTRIP.bit, sevFatal, none, 0, none, false⟩] })) ∧
  (∀ (s : State), s.mach.mode ≠ 0 →
    Does .avsFault s (fun m => m = { s.mach with errs := [⟨12, .pkg, 0, E.PKG_AVS_FAULT.bit, sevContained, none, 0, none, false⟩] })) ∧
  (∀ (s : State) (rail : Rail), s.dev.pins.pwrgood = true →
    (match rail with | .cd k => bitsOf (s.mach.get R.PKG_DIE_STATE_PARKED) k.val 1 == 0 && s.dev.dieOp.getD k.val 0 != 4 | _ => true) = true →
    Does (.railLost rail) s (fun m =>
      m = { s.mach with
        railsLost := if s.dev.railsLost.contains rail then s.dev.railsLost else s.dev.railsLost ++ [rail]
        errs := [⟨12, .pkg, 0, E.PKG_RAIL_LOST.bit, sevFatal, none, (match rail with | .cd k => k.val | .iod => 12 | .ser => 13 | .serA => 14 | .ddr => 15), none, false⟩] })) ∧
  (∀ (s : State) (t : Int) (f : Nat), 2 ≤ s.mach.mode → (∃ k ∈ List.range 13, s.mach.on (R.PKG_DIE_TEMP_VALID.at k) = true ∧ s.mach.tempOf k = t) →
    (∀ k < 13, s.mach.on (R.PKG_DIE_TEMP_VALID.at k) = true → s.mach.tempOf k ≤ t) → f = s.dev.lifeFrac + lifeRate t →
    Does .lifeAccrual s (fun m =>
      m.lifeFrac = f % (225 * 2 ^ 48) ∧ m.get R.PKG_LIFE_USED_EQ = (s.mach.get R.PKG_LIFE_USED_EQ + f / (225 * 2 ^ 48)) % 2 ^ R.PKG_LIFE_USED_EQ.w ∧
      RegsBut s [R.PKG_LIFE_USED_EQ.bits] m ∧ m = { s.mach with regs := m.regs, lifeFrac := m.lifeFrac })) ∧
  (∀ (s : State), 2 ≤ s.mach.mode → (∀ k < 13, s.mach.on (R.PKG_DIE_TEMP_VALID.at k) = false) →
    Does .lifeAccrual s (fun m =>
      m.lifeFrac = (s.dev.lifeFrac + lifeRate ((Config.freeWord s.dev.free).setWidth 16).toInt) % (225 * 2 ^ 48) ∧
      m.get R.PKG_LIFE_USED_EQ = (s.mach.get R.PKG_LIFE_USED_EQ +
        (s.dev.lifeFrac + lifeRate ((Config.freeWord s.dev.free).setWidth 16).toInt) / (225 * 2 ^ 48)) % 2 ^ R.PKG_LIFE_USED_EQ.w ∧
      RegsBut s [R.PKG_LIFE_USED_EQ.bits] m ∧ m = { s.mach with regs := m.regs, lifeFrac := m.lifeFrac, free := s.dev.free + 1 })) ∧
  (∀ (s : State), 2 ≤ s.mach.mode →
    Does .lifeSave s (fun m => m = { s.mach with lifeSaved := s.mach.get R.PKG_LIFE_USED_EQ })) ∧
  (∀ (s : State) (code : Byte) (i : Instr) (x : TapInsn), s.mach.tapOn = true →
    (i, x) ∈ [(Instr.tapReset, .idcode), (Instr.tapIdcode, .idcode), (Instr.tapSamplePreload, .samplePreload), (Instr.tapExtest, .extest), (Instr.tapClamp, .clamp),
      (Instr.tapHighz, .highz), (Instr.tapIjtag, .ijtag),
      (Instr.tapBypass code, match code.toNat with
        | 1 => .idcode | 2 => .samplePreload | 3 => .extest | 4 => .clamp | 5 => .highz | 0x20 => .ijtag | _ => TapInsn.bypass)] →
    Does i s (fun m => m = { s.mach with tap := { s.dev.tap with insn := x } })) ∧
  (∀ (s : State) (data : List Bool) (held ins k : Nat), s.mach.tapOn = true → held = Nat.lor (s.mach.get R.PKG_STRUCK_MASK_DIES) (s.mach.get R.PKG_DIE_STATE_PARKED) →
    ins = s.mach.get R.TAP_SEGMENTS_INSERTED - Nat.land (s.mach.get R.TAP_SEGMENTS_INSERTED) held →
    k = (match s.dev.tap.insn with
      | .idcode => 0 | .samplePreload => 1 | .extest => if s.mach.mode = 11 then 1 else 3
      | .ijtag => if s.mach.mode = 11 ∨ s.mach.on R.TAP_ACCESS_INSTR_EN = true then 2 else 3 | _ => 3) →
    Does (.captureDr data) s (fun m =>
      m.tap = { s.dev.tap with
        captured := (match k with
          | 0 => .id (s.fuses.iodRev % 16 * 2 ^ 28 + 0x9240 * 2 ^ 12 + 0x6AD * 2 + 1) | 1 => .lands s.dev.pins (Config.freeWord s.dev.free)
          | 2 => .network (ins + s.mach.get R.TAP_SEGMENTS_IOD_INSERTED * 2 ^ 12) | _ => .bypass)
        boundary := if k = 1 then data else s.dev.tap.boundary } ∧
      m.get R.TAP_SEGMENTS_HELD = held ∧
      (k ≠ 2 → m.get R.TAP_SEGMENTS_INSERTED = ins ∧ m.get R.TAP_SEGMENTS_IOD_INSERTED = s.mach.get R.TAP_SEGMENTS_IOD_INSERTED) ∧
      (k = 2 → m.get R.TAP_SEGMENTS_IOD_INSERTED = (data.getD 12 false).toNat ∧
        ∀ j < 12, bitsOf (m.get R.TAP_SEGMENTS_INSERTED) j 1 = if bitsOf held j 1 = 1 then 0 else (data.getD (11 - j) false).toNat) ∧
      RegsBut s [R.TAP_SEGMENTS_HELD.bits, R.TAP_SEGMENTS_INSERTED.bits, R.TAP_SEGMENTS_IOD_INSERTED.bits] m ∧
      m = { s.mach with regs := m.regs, tap := m.tap, free := if k = 1 then s.dev.free + 1 else s.dev.free })) ∧
  (∀ (s : State) (ch : Fin 16) (n : Fin 80) (old : BitVec 16),
    Does (.eraseWindowExpiry ch n old) s (fun m =>
      m.get (R.DDR_DEVCOUNT_COUNT.at n.val) ch.val = (if s.mach.act R.DDR_ECC_CTL_ERASE_WINDOW_H ch.val = 0 then s.mach.get (R.DDR_DEVCOUNT_COUNT.at n.val) ch.val
        else s.mach.get (R.DDR_DEVCOUNT_COUNT.at n.val) ch.val - old.toNat) ∧
      OnlyRegs s [(R.DDR_DEVCOUNT_COUNT.at n.val).bits ch.val] m)) ∧
  (∀ (s : State) (temps : List (Fin 13 × BitVec 16)) (power : BitVec 16) (rail : Rail) (code : Byte) (data : List Bool) (i : Instr),
    (s.mach.mode < 2 → i ∈ [.thermalControlTick temps, .powerControlTick power, .lifeAccrual, .lifeSave] → Leaves i s s.mach) ∧
    (s.mach.mode = 0 → i ∈ [.thermtrip, .avsFault] → Leaves i s s.mach) ∧
    (s.dev.pins.pwrgood = false ∨ (match rail with | .cd k => bitsOf (s.mach.get R.PKG_DIE_STATE_PARKED) k.val 1 == 1 || s.dev.dieOp.getD k.val 0 == 4 | _ => false) = true →
      Leaves (.railLost rail) s s.mach) ∧
    (s.mach.tapOn = false → i ∈ [.tapReset, .tapIdcode, .tapSamplePreload, .tapExtest, .tapClamp, .tapHighz, .tapIjtag, .tapBypass code, .captureDr data] → Leaves i s s.mach))

/-- The step at a state whose queue has a command at its front is that command on the state with the queue's rest. On an empty queue
package time goes on by one cycle, modulo 2^48, the partner view's AGE stays at 0xFFFF once it has reached it (R68), and nothing else
changes: the model's choice (log 6). -/
def Obligations.StepRunsFrontCommand : Prop :=
  (∀ (c : Instr) (rest : List Instr) (s : State), step { s with pending := c :: rest } = exec c { s with pending := rest }) ∧
  (∀ s : State, s.pending = [] → step s = .next { s with dev := { s.dev with
      time := (s.dev.time + 1) % 2 ^ 48
      statusAt := s.dev.statusAt.filter (fun a => statusAge ((s.dev.time + 1) % 2 ^ 48) a != 0xFFFF) } })

/-- Every command answers a next state in every state: no command stops the package. None changes the queue or the fused values. -/
def Obligations.EveryCommandCompletes : Prop :=
  ∀ (c : Instr) (s : State), ∃ t, exec c s = .next t ∧ t.pending = s.pending ∧ t.fuses = s.fuses

/-- After power-on the package is in AUX with no command waiting, nothing stored, every die up by STRUCK_MASK's reset value, no key slot
filled, no tenant and no queue, every counter at 0 and no core running. FATAL_N and ALERT_N are released. That storage reads 0 is the
model's choice (log 1), as are the values of pins and internal tables that the spec does not give (log 2) and the fused values (log 4). -/
def Obligations.ResetState : Prop :=
  (State.reset.pending = [] ∧ State.reset.mem = [] ∧ State.reset.mach.mode = 1 ∧ State.reset.mach.get R.PKG_MODE_PREV_MODE = 0 ∧
      State.reset.mach.get R.PKG_MODE_TRANSITIONS = 0 ∧ State.reset.dev.pins.fatalN = true ∧ State.reset.dev.pins.alertN = true ∧
      State.reset.dev.time = 0) ∧
  (∀ n, (State.reset.mach.core n).run = .parked ∧ (State.reset.mach.slot n).state = 0 ∧ (State.reset.mach.tenant n).state = 0 ∧
      (State.reset.mach.queue n).state = 0 ∧ State.reset.mach.byte n = 0) ∧
  (∀ (die : Fin 14) (b : Block) (inst : Fin 64), instances Fuses.reset die.val b > inst.val →
      State.reset.mach.reg (pageOff die.val b inst.val) = blockCode b + inst.val * 2 ^ 6 + die.val * 2 ^ 12 + 0xF07E * 2 ^ 32)

/-- The state after power-on meets the invariant that every step keeps. -/
def Obligations.ResetMeetsInvariant : Prop :=
  Inv State.reset.fuses State.reset

/-- Every step of a state that meets the invariant answers a next state that meets it: storage lists its bytes at strictly rising addresses
and no byte at the value an unlisted one reads as, whatever the command writes, and the fused values never change. -/
def Obligations.EveryStepKeepsInvariant : Prop :=
  ∀ (fu : Fuses) (s : State), Inv fu s → ∃ t, step s = .next t ∧ Inv fu t

/-- R214: bit i of the home quadrant is the exclusive or of bits 12 + i, 20 + i, 28 + i, 36 + i and 44 + i of the address, so that there are
four quadrants, and all addresses of one 4 KiB page have one home. -/
def Obligations.HomeQuadrantOfPages : Prop :=
  (∀ spa i, i < 2 → (homeOf spa).testBit i =
      Bool.xor (spa.testBit (12 + i)) (Bool.xor (spa.testBit (20 + i)) (Bool.xor (spa.testBit (28 + i))
        (Bool.xor (spa.testBit (36 + i)) (spa.testBit (44 + i)))))) ∧
  (∀ spa, homeOf spa < 4) ∧
  (∀ a b, a / 4096 = b / 4096 → homeOf a = homeOf b)

/-- R215: the quadrant-local line number; a quadrant and the address bits from 14 up give bits 13 and 12 back, so that two lines of one
quadrant with one number are one line. -/
def Obligations.QuadrantLineNumbers : Prop :=
  (∀ spa, qlineOf spa = spa / 2 ^ 14 % 2 ^ 34 * 64 + spa / 2 ^ 6 % 2 ^ 6) ∧
  (∀ a b, a / 2 ^ 14 = b / 2 ^ 14 → homeOf a = homeOf b → a / 2 ^ 12 = b / 2 ^ 12) ∧
  (∀ a b, a < 2 ^ 48 → b < 2 ^ 48 → homeOf a = homeOf b → qlineOf a = qlineOf b → a / 64 = b / 64)

/-- R67: while PARTNER_VIEW.VALID is 0 every address of die 13 reads as all ones, for every source and with nothing raised; and so does a
core's load of it that has reached the I/O die. -/
def Obligations.PartnerPagesReadOnes : Prop :=
  (∀ (s : State) (src : Src) (a : BitVec 28), a.toNat / 0x1000000 = 13 → s.mach.on R.PKG_PARTNER_VIEW_VALID = false →
      s.mach.ctlRead src a.toNat = (s.mach, allOnes)) ∧
  (∀ (s : State) (c : Cid) (port : Option (Fin 64)) (d : DevMsg), s.mach.devNext (cidOf c) = some d → d.k = 0 →
      0xFF000D000000 ≤ d.spa → d.spa < 0xFF000E000000 → s.mach.on R.PKG_PARTNER_VIEW_VALID = false →
      Does (.devRd c port) s (fun m =>
        m = s.mach.devSwap d { d with k := 2, data := devPart d.spa d.lg allOnes, err := 0 }))

/-- R40, R41: a read by a source below the highest level returns 0, and a write by it, or by anyone but the management controller to a page
of class MC, is discarded. Either raises the page's ACCESS error and changes nothing else. -/
def Obligations.AccessClassesHold : Prop :=
  (∀ (s : State) (pl : Fin 3) (a : BitVec 28) (b : Block), pl.val < 2 → blockOfCode (a.toNat / 0x40000 % 0x40) = some b →
      a.toNat / 0x1000000 ≤ 12 → (a.toNat / 0x1000000 < 12 → s.mach.dieUp (a.toNat / 0x1000000) = true) →
      a.toNat / 0x1000 % 0x40 < instances s.fuses (a.toNat / 0x1000000) b →
      s.mach.ctlRead (.core pl) a.toNat =
        ({ s.mach with errs := [⟨a.toNat / 0x1000000, b, a.toNat / 0x1000 % 0x40, 1, sevCorrected, none, 0, none, false⟩] }, 0)) ∧
  (∀ (s : State) (src : Src) (a : BitVec 28) (h : Half) (v : Word) (b : Block), 2 ≤ s.mach.mode → a.toNat % 8 = 0 →
      blockOfCode (a.toNat / 0x40000 % 0x40) = some b →
      a.toNat / 0x1000000 ≤ 12 → (a.toNat / 0x1000000 < 12 → s.mach.dieUp (a.toNat / 0x1000000) = true) →
      a.toNat / 0x1000 % 0x40 < instances s.fuses (a.toNat / 0x1000000) b →
      (isHigh src = false ∨ ((b = .mgmt ∨ b = .tap) ∧ isMc src = false)) →
      Does (.registerWrite src (.control a) h v) s (fun m =>
        m = { s.mach with errs := [⟨a.toNat / 0x1000000, b, a.toNat / 0x1000 % 0x40, 1, sevCorrected, none, 0, none, false⟩] }))

/-- R491, R492, R500: an error takes the next SEQ and sets its ERR_STATUS bit. It fills FIRST and LATEST where FIRST is not VALID; else FIRST
stays, OVERFLOW counts, and LATEST changes only for a severity at least its own. Errors of one cycle are taken in the order of R492, none
of them lost. -/
def Obligations.ErrorRecordsFill : Prop :=
  (∀ (m : Mach) (e : ErrRec) (k : Nat), RealErr e → k = pageOff e.die e.blk e.inst + recBase e.blk → m.reg k % 2 = 0 →
      RecordAt (m.recordErr e).1 k e (m.get R.LANT_SEQ_NEXT) m.time ∧
        RecordAt (m.recordErr e).1 (k + 0x20) e (m.get R.LANT_SEQ_NEXT) m.time ∧
        (m.recordErr e).1.reg (k + 0x40) = m.reg (k + 0x40)) ∧
  (∀ (m : Mach) (e : ErrRec) (k : Nat), RealErr e → k = pageOff e.die e.blk e.inst + recBase e.blk → m.reg k % 2 = 1 →
      (∀ i < 4, (m.recordErr e).1.reg (k + 8 * i) = m.reg (k + 8 * i)) ∧
        (m.recordErr e).1.reg (k + 0x40) = satAdd 32 (m.reg (k + 0x40)) 1 ∧
        (bitsOf (m.reg (k + 0x20)) 1 2 ≤ e.sev → RecordAt (m.recordErr e).1 (k + 0x20) e (m.get R.LANT_SEQ_NEXT) m.time) ∧
        (e.sev < bitsOf (m.reg (k + 0x20)) 1 2 → ∀ i < 4, (m.recordErr e).1.reg (k + 0x20 + 8 * i) = m.reg (k + 0x20 + 8 * i))) ∧
  (∀ (m : Mach) (e : ErrRec) (k : Nat), RealErr e → k = pageOff e.die e.blk e.inst →
      (m.recordErr e).1.get R.LANT_SEQ_NEXT = (m.get R.LANT_SEQ_NEXT + 1) % 2 ^ 32 ∧ (m.recordErr e).2.1 = m.get R.LANT_SEQ_NEXT ∧
        (∀ i < 64, ((m.recordErr e).1.reg (k + 0x28)).testBit i = (decide (i = e.cause) || (m.reg (k + 0x28)).testBit i)) ∧
        (∀ j, j ≠ R.LANT_SEQ_NEXT.key → j ≠ k + 0x28 → j ∉ (List.range 9).map (fun i => k + recBase e.blk + 8 * i) →
          (m.recordErr e).1.reg j = m.reg j)) ∧
  (∀ l : List ErrRec, (sortErrs l).Perm l ∧ (sortErrs l).Pairwise (fun a b => errBefore a b = true))

/-- R489, R494, R488: a masked error below Fatal is recorded and no more; one that a page's handling covers is counted in its coalescing
entry and raises no alarm. A Contained or Deferred one that is escalated goes, with the ring off, to the general area and the sideband and
asserts ALERT_N. An escalated Fatal one, masked or not, takes the package to FROZEN with FATAL_N asserted, and its record goes to the bank. -/
def Obligations.ErrorsReact : Prop :=
  (∀ (m : Mach) (e : ErrRec), m.errs = [e] → m.evs = [] → e.sev < 3 → m.maskedErr e = true →
      m.flush 4096 = (({ m with errs := [] } : Mach).recordErr e).1) ∧
  (∀ (m : Mach) (e : ErrRec) (k : Nat), m.errs = [e] → m.evs = [] → e.sev < 3 → m.maskedErr e = false →
      k = pageOff e.die e.blk e.inst + recBase e.blk → m.reg k % 2 = 1 → e.sev ≤ bitsOf (m.reg (k + 0x20)) 1 2 → m.lant.coal.length < 64 →
      (∀ c ∈ m.lant.coal, c.source = sourceOf e.die e.blk e.inst → c.typ = 1 → c.cause ≠ e.cause) →
      m.flush 4096 = { (({ m with errs := [] } : Mach).recordErr e).1 with
        lant := { m.lant with coal := m.lant.coal ++
          [⟨sourceOf e.die e.blk e.inst, 1, e.cause, 1, e.addr.getD 0, e.info % 2 ^ 32, e.tenant, e.sev, false⟩] } }) ∧
  (∀ (m : Mach) (e : ErrRec) (v : EventRec), m.errs = [e] → m.evs = [] → (e.sev = 1 ∨ e.sev = 2) → m.maskedErr e = false →
      m.reg (pageOff e.die e.blk e.inst + recBase e.blk) % 2 = 0 → m.second = none → m.ringOn = false → m.lant.trings = [] → m.mode ≠ 0 →
      m.lant.sbq.length < 224 → v = m.errEvent e (m.get R.LANT_SEQ_NEXT) →
      (m.flush 4096).pins = { m.pins with alertN := false } ∧ (m.flush 4096).get R.LANT_ALARM_ALERT_PEND = 1 ∧
        (m.flush 4096).lant = { m.lant with
          store := m.lant.store.ins (1440 + m.get R.LANT_STORE_STAT_GEN_WPTR) v, sbq := m.lant.sbq ++ [v] } ∧
        (m.flush 4096).get R.LANT_STORE_STAT_GEN_WPTR =
          (if m.get R.LANT_STORE_STAT_GEN_WPTR = 607 then 0 else (m.get R.LANT_STORE_STAT_GEN_WPTR + 1) % 2 ^ 10) ∧
        (m.flush 4096).mode = m.mode ∧ (m.flush 4096).wr = m.wr) ∧
  (∀ (m : Mach) (e : ErrRec), m.errs = [e] → m.evs = [] → e.sev = 3 → m.reg (pageOff e.die e.blk e.inst + recBase e.blk) % 2 = 0 →
      m.second = none → m.ringOn = false → m.lant.trings = [] → m.mode ∈ [2, 3, 4, 5, 6, 7, 8, 10, 11] →
      (m.flush 4096).mode = 9 ∧ (m.flush 4096).pins.fatalN = false ∧ (m.flush 4096).frozenCause = m.fcause) ∧
  (∀ (m : Mach) (e : ErrRec) (n : Nat), e.sev = 3 → m.reg (pageOff e.die e.blk e.inst + recBase e.blk) % 2 = 0 → m.maskedErr e = false →
      m.lant.incident = true → m.ringOn = false → m.lant.trings = [] → m.mode ∈ [2, 3, 4, 5, 6, 7, 8, 10, 11] →
      n = m.bankCount (m.get R.LANT_STORE_STAT_CUR) → n < 704 →
      (m.raiseErr e false).1.lant.store.find (bankBase (m.get R.LANT_STORE_STAT_CUR) + n) = some (m.errEvent e (m.get R.LANT_SEQ_NEXT)) ∧
        (m.raiseErr e false).1.bankCount (m.get R.LANT_STORE_STAT_CUR) = n + 1 ∧ (m.raiseErr e false).2 = true)

/-- R69, R77, R208: entering FROZEN sets MODE, PREV_MODE and FATAL_N, halts every core with its store buffer discarded, ends every transaction,
clears the snoop filters and the caches of the compute dies, and puts every trained channel into self-refresh. -/
def Obligations.FrozenStopsThePackage : Prop :=
  ∀ (m : Mach) (c : Nat), m.mode ∈ [2, 3, 4, 5, 6, 7, 8, 10, 11] →
    (m.enterFrozen c).mode = 9 ∧ (m.enterFrozen c).get R.PKG_MODE_PREV_MODE = m.mode ∧ (m.enterFrozen c).pins.fatalN = false ∧
      (m.enterFrozen c).frozenCause = c ∧ (m.enterFrozen c).get R.LANT_ALARM_FATAL = 1 ∧
      (∀ k, ((m.enterFrozen c).core k).run ≠ .running ∧ ((m.enterFrozen c).core k).run ≠ .waiting ∧ ((m.enterFrozen c).core k).sb = []) ∧
      (m.enterFrozen c).net = [] ∧ (m.enterFrozen c).htx = [] ∧ (m.enterFrozen c).filter = [] ∧ (m.enterFrozen c).lines = [] ∧
      (∀ ch < 16, m.on R.DDR_TRAIN_TRAINED ch = true → (m.enterFrozen c).on R.DDR_TRAIN_SELF_REFRESH ch = true)

/-- R479, R480: the hop codes of routes A and B are codes 1 to 4, as many as the routers lie apart, and lead from one router to the other. Route
A passes the router at the target's column and its own row, route B the one at its own column and the target's row. The word of ten 3-bit
codes gives each hop's code, the first hop lowest. -/
def Obligations.RoutesReachTheirRouter : Prop :=
  (∀ (a b : Nat × Nat) (r : Bool), (routePath a (routeCodes a b r)).getLast? = some b ∧
      (∀ c ∈ routeCodes a b r, 1 ≤ c ∧ c ≤ 4) ∧
      (routeCodes a b r).length = (max a.1 b.1 - min a.1 b.1) + (max a.2 b.2 - min a.2 b.2) ∧
      (if r then (a.1, b.2) else (b.1, a.2)) ∈ routePath a (routeCodes a b r)) ∧
  (∀ (l : List Nat) (i : Nat), l.length ≤ 10 → (∀ c ∈ l, c < 8) → routeWord l / 8 ^ i % 8 = l.getD i 0)

/-- R154: with no stale copy in use, the lowest-numbered valid block that covers the address decides, by its permissions and its target; none
is NO_BLOCK; an address of 2^48 or more is ADDR_WIDTH. Whatever copies are in use, an address given back is in managed space and outside
the control region, and the lookup changes nothing but the counter of free values. -/
def Obligations.RangeLookupTakesLowestBlock : Prop :=
  (∀ (m : Mach) (set a : Nat) (w : Bool), 2 ^ 48 ≤ a → m.lookup set a w = (m, .error rfWidth)) ∧
  (∀ (m : Mach) (set a : Nat) (w : Bool), a < 2 ^ 48 → m.rstale = [] → (∀ n < 8, ¬ Covers (m.rblock set n) a) →
      m.lookup set a w = (m, .error rfNoBlock)) ∧
  (∀ (m : Mach) (set a : Nat) (w : Bool) (n spa : Nat) (b : RBlock), a < 2 ^ 48 → m.rstale = [] → n < 8 → b = m.rblock set n → Covers b a →
      (∀ j < n, ¬ Covers (m.rblock set j) a) → spa = b.target + (a - b.base) →
      m.lookup set a w = (m,
        if w = false ∧ b.r = false then .error rfRead
        else if w = true ∧ b.w = false then .error rfWrite
        else if inControl spa = true then .error rfControl
        else if m.managed spa = false then .error rfOutside
        else .ok spa)) ∧
  (∀ (m : Mach) (set a spa : Nat) (w : Bool), (m.lookup set a w).2.toOption = some spa →
      a < 2 ^ 48 ∧ m.managed spa = true ∧ inControl spa = false ∧ (m.lookup set a w).1 = { m with free := (m.lookup set a w).1.free })
end

