-- ==== Sys2Proof/Laws/Table.lean ====
section
/-! SUPPORT. Laws of the sparse tables and of bit fields of numbers. -/
namespace Sys2Proof
variable {α : Type}

theorem Tbl.find_ins_same (t : Tbl α) (k : Nat) (v : α) : (Tbl.ins t k v).find k = some v := by
  induction t with
  | nil => simp [Tbl.ins, Tbl.find]
  | cons e r ih =>
    obtain ⟨k', v'⟩ := e
    simp only [Tbl.ins]
    split
    · simp [Tbl.find]
    · split
      · simp [Tbl.find]
      · simp only [Tbl.find]; rw [if_neg (by omega), ih]

theorem Tbl.find_ins_other (t : Tbl α) {k j : Nat} (v : α) (h : j ≠ k) : (Tbl.ins t k v).find j = t.find j := by
  induction t with
  | nil => simp [Tbl.ins, Tbl.find, Ne.symm h]
  | cons e r ih =>
    obtain ⟨k', v'⟩ := e
    simp only [Tbl.ins]
    split
    · simp [Tbl.find, Ne.symm h]
    · split
      · next h2 => simp [Tbl.find, Ne.symm h, ← h2]
      · simp only [Tbl.find]; split <;> simp_all

theorem Tbl.getD_ins_same (t : Tbl α) (k : Nat) (v d : α) : (Tbl.ins t k v).getD k d = v := by
  simp [Tbl.getD, Tbl.find_ins_same]

theorem Tbl.getD_ins_other (t : Tbl α) {k j : Nat} (v d : α) (h : j ≠ k) : (Tbl.ins t k v).getD j d = t.getD j d := by
  simp [Tbl.getD, Tbl.find_ins_other t v h]

theorem Tbl.find_erase_other (t : Tbl α) {k j : Nat} (h : j ≠ k) : (Tbl.erase t k).find j = t.find j := by
  induction t with
  | nil => rfl
  | cons e r ih =>
    obtain ⟨k', v'⟩ := e
    unfold Tbl.erase at ih ⊢
    by_cases h2 : k' = k
    · simp [h2, Tbl.find, Ne.symm h, ih]
    · simp [h2, Tbl.find, ih]

theorem Tbl.find_erase_same (t : Tbl α) (k : Nat) : (Tbl.erase t k).find k = none := by
  induction t with
  | nil => rfl
  | cons e r ih =>
    obtain ⟨k', v'⟩ := e
    unfold Tbl.erase at ih ⊢
    by_cases h2 : k' = k
    · simp [h2, ih]
    · simp [h2, Tbl.find, ih]

theorem Tbl.getD_put_same [DecidableEq α] (t : Tbl α) (k : Nat) (v d : α) : (Tbl.put t k v d).getD k d = v := by
  unfold Tbl.put Tbl.getD
  split
  · next h => rw [Tbl.find_erase_same, h]; rfl
  · rw [Tbl.find_ins_same]; rfl

theorem Tbl.find_put_other [DecidableEq α] (t : Tbl α) {k j : Nat} (v d : α) (h : j ≠ k) : (Tbl.put t k v d).find j = t.find j := by
  unfold Tbl.put
  split
  · exact Tbl.find_erase_other t h
  · exact Tbl.find_ins_other t v h

theorem Tbl.getD_put_other [DecidableEq α] (t : Tbl α) {k j : Nat} (v d d' : α) (h : j ≠ k) : (Tbl.put t k v d).getD j d' = t.getD j d' := by
  unfold Tbl.getD
  rw [Tbl.find_put_other t v d h]

/-! ### Bit fields -/

theorem bitsOf_lt (v lo w : Nat) : bitsOf v lo w < 2 ^ w := Nat.mod_lt _ (Nat.two_pow_pos w)

theorem bitsOf_eq_testBit (v lo w i : Nat) : (bitsOf v lo w).testBit i = (decide (i < w) && v.testBit (lo + i)) := by
  simp [bitsOf, Nat.testBit_mod_two_pow, Nat.testBit_div_two_pow, Nat.add_comm]

theorem putBits_eq (v lo w x : Nat) :
    putBits v lo w x = 2 ^ lo * (2 ^ w * (v / 2 ^ (lo + w)) + x % 2 ^ w) + v % 2 ^ lo := by
  unfold putBits
  rw [Nat.pow_add]
  generalize v / (2 ^ lo * 2 ^ w) = a
  generalize x % 2 ^ w = b
  simp only [Nat.mul_add, Nat.mul_comm, Nat.mul_left_comm]
  omega

theorem putBits_testBit (v lo w x i : Nat) :
    (putBits v lo w x).testBit i = if i < lo then v.testBit i else if i < lo + w then x.testBit (i - lo) else v.testBit i := by
  rw [putBits_eq, Nat.testBit_two_pow_mul_add _ (Nat.mod_lt _ (Nat.two_pow_pos lo))]
  split
  · simp [Nat.testBit_mod_two_pow, *]
  · rw [Nat.testBit_two_pow_mul_add _ (Nat.mod_lt _ (Nat.two_pow_pos w))]
    split
    · rw [if_pos (by omega), Nat.testBit_mod_two_pow]; simp_all
    · rw [if_neg (by omega), Nat.testBit_div_two_pow]; congr 1; omega

/-- A field reads back what was put there. -/
theorem bitsOf_putBits_same (v lo w x : Nat) : bitsOf (putBits v lo w x) lo w = x % 2 ^ w := by
  apply Nat.eq_of_testBit_eq
  intro i
  rw [bitsOf_eq_testBit, putBits_testBit, Nat.testBit_mod_two_pow]
  by_cases h : i < w
  · rw [if_neg (by omega), if_pos (by omega)]; simp [h]
  · simp [h]

/-- A field that does not overlap keeps its value. -/
theorem bitsOf_putBits_other (v lo w x lo' w' : Nat) (h : lo' + w' ≤ lo ∨ lo + w ≤ lo') :
    bitsOf (putBits v lo w x) lo' w' = bitsOf v lo' w' := by
  apply Nat.eq_of_testBit_eq
  intro i
  rw [bitsOf_eq_testBit, bitsOf_eq_testBit, putBits_testBit]
  by_cases hi : i < w'
  · simp only [hi, decide_true, Bool.true_and]
    split
    · rfl
    · split
      · omega
      · rfl
  · simp [hi]

theorem putBits_lt {v lo w x n : Nat} (hv : v < 2 ^ n) (h : lo + w ≤ n) : putBits v lo w x < 2 ^ n := by
  apply Nat.lt_pow_two_of_testBit
  intro i hi
  rw [putBits_testBit, if_neg (by omega), if_neg (by omega)]
  exact Nat.testBit_lt_two_pow (Nat.lt_of_lt_of_le hv (Nat.pow_le_pow_right (by omega) hi))

end Sys2Proof
end

