-- ==== Sys2Proof/Laws/State.lean ====
section
/-! SUPPORT. The small laws of the state, the working machine and its registers. -/
namespace Sys2Proof.Machine

/-! ### State -/

@[simp] theorem State.close_pending (s : State) (m : Mach) : (s.close m).pending = s.pending := rfl
@[simp] theorem State.close_fuses (s : State) (m : Mach) : (s.close m).fuses = s.fuses := rfl
@[simp] theorem State.close_dev (s : State) (m : Mach) : (s.close m).dev = m.toDev := rfl
@[simp] theorem State.close_mem (s : State) (m : Mach) : (s.close m).mem = s.mem.commit m.wr := rfl
@[simp] theorem State.mach_toDev (s : State) : s.mach.toDev = s.dev := rfl
@[simp] theorem State.mach_fuses (s : State) : s.mach.fuses = s.fuses := rfl
@[simp] theorem State.mach_base (s : State) : s.mach.base = s.mem := rfl
@[simp] theorem State.mach_wr (s : State) : s.mach.wr = [] := rfl
@[simp] theorem State.mach_errs (s : State) : s.mach.errs = [] := rfl
@[simp] theorem State.mach_evs (s : State) : s.mach.evs = [] := rfl
@[simp] theorem State.mach_fcause (s : State) : s.mach.fcause = 1 := rfl
@[simp] theorem State.mach_second (s : State) : s.mach.second = none := rfl
@[simp] theorem State.tick_pending (s : State) : s.tick.pending = s.pending := rfl
@[simp] theorem State.tick_fuses (s : State) : s.tick.fuses = s.fuses := rfl
@[simp] theorem State.tick_mem (s : State) : s.tick.mem = s.mem := rfl
@[simp] theorem State.tick_time (s : State) : s.tick.dev.time = (s.dev.time + 1) % 2 ^ 48 := rfl

/-- A machine that raised nothing goes through the Lantern paths unchanged. -/
theorem Mach.flush_quiet (m : Mach) (n : Nat) (he : m.errs = []) (hv : m.evs = []) : m.flush n = m := by
  cases n with
  | zero => rfl
  | succ n => simp [Mach.flush, he, hv]

namespace Mach

/-! ### Registers -/

theorem setReg_eq (m : Mach) (k v : Nat) : m.setReg k v = { m with regs := m.regs.ins k (BitVec.ofNat 64 v) } := rfl

theorem reg_setReg_same (m : Mach) (k v : Nat) : (m.setReg k v).reg k = v % 2 ^ 64 := by
  simp [reg, setReg, Tbl.find_ins_same]

theorem reg_setReg_other (m : Mach) {k j : Nat} (v : Nat) (h : j ≠ k) : (m.setReg k v).reg j = m.reg j := by
  simp [reg, setReg, Tbl.find_ins_other _ _ h]

theorem set_eq (m : Mach) (f : Fld) (v inst die : Nat) :
    m.set f v inst die = { m with regs := m.regs.ins (f.key inst die) (BitVec.ofNat 64 (putBits (m.reg (f.key inst die)) f.lo f.w v)) } := rfl

theorem reg_set_other (m : Mach) (f : Fld) (v inst die : Nat) {k : Nat} (h : k ≠ f.key inst die) :
    (m.set f v inst die).reg k = m.reg k := reg_setReg_other m _ h

theorem bitsOf_word {x lo w : Nat} (h : lo + w ≤ 64) : bitsOf (x % 2 ^ 64) lo w = bitsOf x lo w := by
  apply Nat.eq_of_testBit_eq
  intro i
  rw [bitsOf_eq_testBit, bitsOf_eq_testBit]
  by_cases hi : i < w
  · rw [Nat.testBit_mod_two_pow]; simp [hi, show lo + i < 64 by omega]
  · simp [hi]

/-- A field reads back what was written. -/
theorem get_set_same (m : Mach) (f : Fld) (v inst die : Nat) (h : f.lo + f.w ≤ 64) :
    (m.set f v inst die).get f inst die = v % 2 ^ f.w := by
  show bitsOf ((m.setReg _ _).reg _) f.lo f.w = _
  rw [reg_setReg_same, bitsOf_word h, bitsOf_putBits_same]

/-- A field of another register keeps its value. -/
theorem get_set_other (m : Mach) (f g : Fld) (v inst die inst' die' : Nat) (h : g.key inst' die' ≠ f.key inst die) :
    (m.set f v inst die).get g inst' die' = m.get g inst' die' := by
  show bitsOf ((m.setReg (f.key inst die) _).reg (g.key inst' die')) g.lo g.w = bitsOf (m.reg (g.key inst' die')) g.lo g.w
  rw [reg_setReg_other m _ h]

/-- Another field of the same register keeps its value. -/
theorem get_set_field (m : Mach) (f g : Fld) (v inst die inst' die' : Nat) (h : g.key inst' die' = f.key inst die)
    (hg : g.lo + g.w ≤ 64) (hd : g.lo + g.w ≤ f.lo ∨ f.lo + f.w ≤ g.lo) :
    (m.set f v inst die).get g inst' die' = m.get g inst' die' := by
  show bitsOf ((m.setReg _ _).reg (g.key inst' die')) g.lo g.w = bitsOf (m.reg (g.key inst' die')) g.lo g.w
  rw [h]
  show bitsOf ((m.setReg (f.key inst die) _).reg (f.key inst die)) g.lo g.w = _
  rw [reg_setReg_same, bitsOf_word hg, bitsOf_putBits_other _ _ _ _ _ _ hd]
  rfl

/-! ### Registers of different pages, or at different offsets, are different registers -/

theorem blockCode_lt (b : Block) : blockCode b < 64 := by cases b <;> decide

theorem key_inj {f g : Fld} {i d j e : Nat} (hi : i < 64) (hj : j < 64) (hf : f.off < 0x1000) (hg : g.off < 0x1000)
    (h : f.key i d = g.key j e) : d = e ∧ blockCode f.blk = blockCode g.blk ∧ i = j ∧ f.off = g.off := by
  have h1 := blockCode_lt f.blk
  have h2 := blockCode_lt g.blk
  unfold Fld.key pageOff at h
  omega

theorem key_ne_field {f g : Fld} {i d j e : Nat}
    (hb : (blockCode f.blk, f.off) ≠ (blockCode g.blk, g.off) ∧ f.off < 0x1000 ∧ g.off < 0x1000) (hi : i < 64) (hj : j < 64) :
    f.key i d ≠ g.key j e := by
  intro h
  obtain ⟨_, a, _, c⟩ := key_inj hi hj hb.2.1 hb.2.2 h
  exact hb.1 (by rw [a, c])

theorem key_ne_page {f g : Fld} {i d j e : Nat} (hb : f.off < 0x1000 ∧ g.off < 0x1000) (hi : i < 64) (hj : j < 64)
    (hij : i ≠ j ∨ d ≠ e) : f.key i d ≠ g.key j e := by
  intro h
  obtain ⟨a, _, b, _⟩ := key_inj hi hj hb.1 hb.2 h
  omega

theorem get_congr {m n : Mach} (f : Fld) (inst die : Nat) (h : m.reg (f.key inst die) = n.reg (f.key inst die)) :
    m.get f inst die = n.get f inst die := by
  show bitsOf _ _ _ = bitsOf _ _ _
  rw [show pageOff die f.blk inst + f.off = f.key inst die from rfl, h]

end Mach
end Sys2Proof.Machine
end

