-- ==== Sys2Proof/Laws/Memory.lean ====
section
/-! SUPPORT. The laws of storage: what a byte reads as after a write, and that every write keeps the canonical form. -/
namespace Sys2Proof
variable {α : Type}

theorem Tbl.risingFrom_mono {t : Tbl α} {a b : Nat} (h : a ≤ b) (ht : Tbl.risingFrom b t = true) : Tbl.risingFrom a t = true := by
  cases t with
  | nil => rfl
  | cons e r =>
    simp only [Tbl.risingFrom, Bool.and_eq_true, decide_eq_true_eq] at ht ⊢
    exact ⟨by omega, ht.2⟩

theorem Tbl.rising_of_risingFrom {t : Tbl α} {a : Nat} (ht : Tbl.risingFrom a t = true) : Tbl.rising t = true := by
  cases t with
  | nil => rfl
  | cons e r =>
    simp only [Tbl.risingFrom, Bool.and_eq_true] at ht
    exact ht.2

theorem Tbl.risingFrom_ins {t : Tbl α} {a k : Nat} (v : α) (hk : a < k) (ht : Tbl.risingFrom a t = true) :
    Tbl.risingFrom a (Tbl.ins t k v) = true := by
  induction t generalizing a with
  | nil => simp [Tbl.ins, Tbl.risingFrom, hk]
  | cons e r ih =>
    obtain ⟨k', v'⟩ := e
    simp only [Tbl.risingFrom, Bool.and_eq_true, decide_eq_true_eq] at ht
    simp only [Tbl.ins]
    split
    · simp [Tbl.risingFrom, *]
    · split
      · simp_all [Tbl.risingFrom]
      · simp only [Tbl.risingFrom, Bool.and_eq_true, decide_eq_true_eq]
        exact ⟨ht.1, ih (by omega) ht.2⟩

theorem Tbl.rising_ins {t : Tbl α} (k : Nat) (v : α) (ht : Tbl.rising t = true) : Tbl.rising (Tbl.ins t k v) = true := by
  cases t with
  | nil => rfl
  | cons e r =>
    obtain ⟨k', v'⟩ := e
    simp only [Tbl.rising] at ht
    simp only [Tbl.ins]
    split
    · simp [Tbl.rising, Tbl.risingFrom, *]
    · split
      · simp_all [Tbl.rising]
      · exact Tbl.risingFrom_ins v (by omega) ht

theorem Tbl.risingFrom_filter {t : Tbl α} {a : Nat} (p : Nat × α → Bool) (ht : Tbl.risingFrom a t = true) :
    Tbl.risingFrom a (List.filter p t) = true := by
  induction t generalizing a with
  | nil => rfl
  | cons e r ih =>
    simp only [Tbl.risingFrom, Bool.and_eq_true, decide_eq_true_eq] at ht
    rw [List.filter_cons]
    split
    · simp only [Tbl.risingFrom, Bool.and_eq_true, decide_eq_true_eq]
      exact ⟨ht.1, ih ht.2⟩
    · exact ih (Tbl.risingFrom_mono (by omega) ht.2)

theorem Tbl.rising_filter {t : Tbl α} (p : Nat × α → Bool) (ht : Tbl.rising t = true) : Tbl.rising (List.filter p t) = true := by
  cases t with
  | nil => rfl
  | cons e r =>
    rw [List.filter_cons]
    split
    · exact Tbl.risingFrom_filter p ht
    · exact Tbl.rising_of_risingFrom (Tbl.risingFrom_filter p ht)

theorem Tbl.mem_ins {t : Tbl α} {k : Nat} {v : α} {e : Nat × α} (h : e ∈ Tbl.ins t k v) : e = (k, v) ∨ e ∈ t := by
  induction t with
  | nil => simpa [Tbl.ins] using h
  | cons x r ih =>
    obtain ⟨k', v'⟩ := x
    simp only [Tbl.ins] at h
    split at h
    · simpa using h
    · split at h
      · simp only [List.mem_cons] at h ⊢
        rcases h with h | h
        · exact .inl h
        · exact .inr (.inr h)
      · simp only [List.mem_cons] at h ⊢
        rcases h with h | h
        · exact .inr (.inl h)
        · rcases ih h with h | h
          · exact .inl h
          · exact .inr (.inr h)

/-- A write of one key keeps the canonical form. -/
theorem Tbl.wf_put [DecidableEq α] {t : Tbl α} {d : α} (k : Nat) (v : α) (h : Tbl.wf t d = true) : Tbl.wf (Tbl.put t k v d) d = true := by
  simp only [Tbl.wf, Bool.and_eq_true, List.all_eq_true, decide_eq_true_eq] at h ⊢
  unfold Tbl.put
  split
  · exact ⟨Tbl.rising_filter _ h.1, fun x hx => h.2 x (List.mem_filter.mp hx).1⟩
  · next hv =>
    refine ⟨Tbl.rising_ins k v h.1, fun x hx => ?_⟩
    rcases Tbl.mem_ins hx with rfl | hx
    · exact hv
    · exact h.2 x hx

namespace Machine

@[simp] theorem Memory.wf_nil : Memory.wf [] = true := rfl

theorem Memory.wf_put {m : Memory} (a : Nat) (b : Byte) (h : m.wf = true) : (m.put a b).wf = true := Tbl.wf_put a b h

/-- Every store of a command keeps the canonical form: all of them go through this one operation. -/
theorem Memory.wf_commit {m : Memory} (l : List Host.Cell) (h : m.wf = true) : (m.commit l).wf = true := by
  induction l with
  | nil => exact h
  | cons c r ih => exact Memory.wf_put c.1 c.2 ih

theorem State.wf_reset : State.reset.mem.wf = true := rfl

theorem Memory.get_put_same (m : Memory) (a : Nat) (b : Byte) : (m.put a b).get a = b := Tbl.getD_put_same m a b 0

theorem Memory.get_put_other (m : Memory) {a x : Nat} (b : Byte) (h : x ≠ a) : (m.put a b).get x = m.get x := by
  show Tbl.getD (Tbl.put m a b 0) x 0 = Tbl.getD m x 0
  unfold Tbl.getD
  rw [Tbl.find_put_other m b 0 h]

/-- A byte reads as the newest write of it, else as before. -/
theorem Memory.get_commit (m : Memory) (l : List Host.Cell) (a : Nat) :
    (m.commit l).get a = match l.find? (fun c => c.1 == a) with
      | some c => c.2
      | none => m.get a := by
  induction l with
  | nil => rfl
  | cons c r ih =>
    obtain ⟨x, b⟩ := c
    show ((m.commit r).put x b).get a = _
    by_cases h : x = a
    · subst h
      rw [Memory.get_put_same, List.find?_cons_of_pos (by simp)]
    · rw [Memory.get_put_other _ _ (Ne.symm h), ih, List.find?_cons_of_neg (by simpa using h)]

/-- What the next state's storage holds is what the command saw last. -/
theorem State.get_close (s : State) (m : Mach) (h : m.base = s.mem) (a : Nat) : (s.close m).mem.get a = m.byte a := by
  show (s.mem.commit m.wr).get a = _
  rw [Memory.get_commit, ← h]
  rfl

namespace Mach

theorem byte_setByte_same (m : Mach) (a : Nat) (b : Byte) : (m.setByte a b).byte a = b := by
  simp [byte, setByte]

theorem byte_setByte_other (m : Mach) {a x : Nat} (b : Byte) (h : x ≠ a) : (m.setByte a b).byte x = m.byte x := by
  simp [byte, setByte, Ne.symm h]

theorem byte_setBytes_other (m : Mach) (l : List Byte) {a x : Nat} (h : x < a ∨ a + l.length ≤ x) :
    (m.setBytes a l).byte x = m.byte x := by
  induction l generalizing m a with
  | nil => rfl
  | cons b r ih =>
    simp only [List.length_cons] at h
    rw [setBytes, ih _ (by omega), byte_setByte_other _ _ (by omega)]

theorem byte_setBytes_same (m : Mach) (l : List Byte) (a i : Nat) (h : i < l.length) : (m.setBytes a l).byte (a + i) = l[i] := by
  induction l generalizing m a i with
  | nil => simp at h
  | cons b r ih =>
    rw [setBytes]
    cases i with
    | zero => rw [byte_setBytes_other _ _ (by omega)]; simp [byte_setByte_same]
    | succ i =>
      rw [show a + (i + 1) = a + 1 + i by omega, ih _ _ _ (by simpa using h)]
      simp

end Mach

/-- Every command answers a next state: what it leaves of the queue and of the fused values, and storage in its form. -/
theorem State.cmd_eq (s : State) (f : Mach → Mach) : s.cmd f = .next (s.close (f s.mach).leave) := rfl

end Machine
end Sys2Proof
end

