-- ==== Sys2Proof/Laws/Write.lean ====
section
/-! SUPPORT. A write that a source may make takes effect. -/
namespace Sys2Proof.Machine
namespace Mach

theorem instances_le (fu : Fuses) (die : Nat) (b : Block) : instances fu die b ≤ 20 := by
  unfold instances
  split
  · cases b <;> simp [Nat.min_le_left]
  · split
    · cases b <;> simp
    · split
      · cases b <;> simp
      · simp

theorem writable_of {s : State} {src : Src} {die : Nat} {b : Block} {inst : Nat} (h : MayWrite s src die b inst) (hd : Bool) :
    s.mach.writable src ⟨Fin.ofNat 16 die, b, Fin.ofNat 64 inst⟩ hd = (s.mach, true) := by
  obtain ⟨hon, hthere, hhere, hup, hhigh, hmc, hsound⟩ := h
  have hi : inst < 64 := Nat.lt_of_lt_of_le hthere (Nat.le_trans (instances_le _ _ _) (by omega))
  have hde : die % 16 = die := Nat.mod_eq_of_lt (Nat.lt_trans hhere (by omega))
  have hie : inst % 64 = inst := Nat.mod_eq_of_lt hi
  have h1 : ¬(s.mach.mode = 0 ∨ s.mach.mode = 1 ∧ (!isMc src) = true) := by
    have := hon; omega
  have h2 : (!populated s.fuses die b inst) = false := by simp [populated, hthere]
  have h3 : ¬(die < 12 ∧ (!s.mach.dieUp die) = true) := by
    rintro ⟨a, c⟩
    rw [hup a] at c
    exact absurd c (by decide)
  have h4 : ¬ die = 13 := by have := hhere; omega
  have h5 : ((b == .mgmt || b == .tap) && !isMc src) = false := by
    cases hm : (b == .mgmt || b == .tap) with
    | false => rfl
    | true => rw [hmc (by simpa using hm)]; rfl
  unfold writable
  simp only [Fin.val_ofNat, hde, hie, State.mach_fuses, h2, h5, hhigh, hsound]
  rw [if_neg h1]
  simp only [Bool.false_eq_true, if_false, Bool.not_true, Bool.or_self, Bool.and_false]
  rw [if_neg h3, if_neg h4]

/-- A page a source may write takes a block-specific register write. -/
theorem guarded_of {s : State} {src : Src} {die : Nat} {b : Block} {inst : Nat} (h : MayWrite s src die b inst) (f : Mach → Mach) :
    s.mach.guarded src die b inst f = f s.mach := by
  unfold guarded
  rw [writable_of h]

end Mach

/-- A running core issues. -/
theorem Mach.issue_of {s : State} {c : Cid} (h : Runs s c) (f : Nat → Mach → Mach) : s.mach.issue c f = f (Mach.cidOf c) s.mach := by
  obtain ⟨⟨h1, h2, h3, h4⟩, h5⟩ := h
  simp [Mach.issue, Mach.ready, h1, h2, h3, h4, h5]

/-- A command's effect, named: what `exec` leaves where the command is one effect on the working machine. -/
theorem leaves_of {c : Instr} {s : State} {f : Mach → Mach} {m : Mach} (h : exec c s = s.cmd f) (hm : f s.mach = m) : Leaves c s m := by
  unfold Leaves
  rw [h, ← hm]
  rfl

end Sys2Proof.Machine
end

