-- ==== Sys2Proof/Laws/Ops.lean ====
section
/-! SUPPORT. One law for each shared operation of the working machine: what it writes and what it leaves. -/
namespace Sys2Proof.Machine
namespace Mach

/-! ### Errors, events and free values -/

theorem err_eq (m : Mach) (e : ErrBit) (sev inst die : Nat) (addr : Option Nat) (info : Nat) (t : Option Nat) :
    m.err e sev inst die addr info t = { m with errs := ⟨die, e.blk, inst, e.bit, sev, addr, info, t, false⟩ :: m.errs } := rfl

theorem errCause_eq (m : Mach) (b : Block) (cause sev inst die : Nat) (addr : Option Nat) (info : Nat) (t : Option Nat) :
    m.errCause b cause sev inst die addr info t =
      { m with errs := ⟨die, b, inst, cause, sev, addr, info, t, false⟩ :: m.errs } := rfl

theorem ev_eq (m : Mach) (typ cls : Nat) (b : Block) (detail addr inst die : Nat) (t : Option Nat) :
    m.ev typ cls b detail addr inst die t = { m with evs := ⟨typ, cls, die, b, inst, t, detail, addr⟩ :: m.evs } := rfl

theorem fresh_eq (m : Mach) : m.fresh = ({ m with free := m.free + 1 }, Config.freeWord m.free) := rfl

theorem takeSeq_eq (m : Mach) : m.takeSeq = (m.set R.LANT_SEQ_NEXT (m.get R.LANT_SEQ_NEXT + 1), m.get R.LANT_SEQ_NEXT) := rfl

@[simp] theorem errs_setReg (m : Mach) (k v : Nat) : (m.setReg k v).errs = m.errs := rfl
@[simp] theorem evs_setReg (m : Mach) (k v : Nat) : (m.setReg k v).evs = m.evs := rfl
@[simp] theorem errs_set (m : Mach) (f : Fld) (v i d : Nat) : (m.set f v i d).errs = m.errs := rfl
@[simp] theorem evs_set (m : Mach) (f : Fld) (v i d : Nat) : (m.set f v i d).evs = m.evs := rfl
@[simp] theorem reg_err (m : Mach) (e : ErrBit) (sev inst die : Nat) (addr : Option Nat) (info : Nat) (t : Option Nat) (k : Nat) :
    (m.err e sev inst die addr info t).reg k = m.reg k := rfl
@[simp] theorem reg_ev (m : Mach) (typ cls : Nat) (b : Block) (detail addr inst die : Nat) (t : Option Nat) (k : Nat) :
    (m.ev typ cls b detail addr inst die t).reg k = m.reg k := rfl
@[simp] theorem reg_setByte (m : Mach) (a : Nat) (b : Byte) (k : Nat) : (m.setByte a b).reg k = m.reg k := rfl

/-! ### Counters -/

theorem get_add_same (m : Mach) (f : Fld) (n inst die : Nat) (h : f.lo + f.w ≤ 64) :
    (m.add f n inst die).get f inst die = (m.get f inst die + n) % 2 ^ f.w := get_set_same m f _ inst die h

theorem reg_add_other (m : Mach) (f : Fld) (n inst die : Nat) {k : Nat} (h : k ≠ f.key inst die) :
    (m.add f n inst die).reg k = m.reg k := reg_set_other m f _ inst die h

theorem get_addSat_same (m : Mach) (f : Fld) (n inst die : Nat) (h : f.lo + f.w ≤ 64) :
    (m.addSat f n inst die).get f inst die = satAdd f.w (m.get f inst die) n := by
  have hp : 0 < 2 ^ f.w := Nat.two_pow_pos _
  rw [addSat, get_set_same m f _ inst die h]
  exact Nat.mod_eq_of_lt (by unfold satAdd; omega)

theorem reg_addSat_other (m : Mach) (f : Fld) (n inst die : Nat) {k : Nat} (h : k ≠ f.key inst die) :
    (m.addSat f n inst die).reg k = m.reg k := reg_set_other m f _ inst die h

theorem hget_hset_same (m : Mach) (f : Fld) (b : Block) (v inst die : Nat) (h : f.lo + f.w ≤ 64) :
    (m.hset f b v inst die).hget f b inst die = v % 2 ^ f.w := get_set_same m { f with blk := b } v inst die h

theorem reg_hset_other (m : Mach) (f : Fld) (b : Block) (v inst die : Nat) {k : Nat} (h : k ≠ hkey f b inst die) :
    (m.hset f b v inst die).reg k = m.reg k := reg_set_other m { f with blk := b } v inst die h

/-! ### Tables of the package, by their one reader and one writer -/

theorem core_setCore_same (m : Mach) (k : Nat) (c : CoreSt) : (m.setCore k c).core k = c := Tbl.getD_ins_same _ _ _ _
theorem core_setCore_other (m : Mach) {k j : Nat} (c : CoreSt) (h : j ≠ k) : (m.setCore k c).core j = m.core j :=
  Tbl.getD_ins_other _ _ _ h
theorem core_modCore_same (m : Mach) (k : Nat) (f : CoreSt → CoreSt) : (m.modCore k f).core k = f (m.core k) := core_setCore_same _ _ _
theorem core_modCore_other (m : Mach) {k j : Nat} (f : CoreSt → CoreSt) (h : j ≠ k) : (m.modCore k f).core j = m.core j :=
  core_setCore_other _ _ h
theorem pcOf_setPc (m : Mach) (k v : Nat) : (m.setPc k v).pcOf k = v % 2 ^ 64 := by
  unfold pcOf setPc
  rw [core_modCore_same]
  exact BitVec.toNat_ofNat _ _
theorem sreg_setSreg_same (m : Mach) (k n v : Nat) : (m.setSreg k n v).sreg k n = v % 2 ^ 64 := by
  unfold sreg setSreg
  rw [core_modCore_same]
  simp [Tbl.find_ins_same]
theorem sreg_setSreg_other (m : Mach) {k n j i : Nat} (v : Nat) (h : j ≠ k ∨ i ≠ n) : (m.setSreg k n v).sreg j i = m.sreg j i := by
  unfold sreg setSreg
  by_cases hj : j = k
  · subst hj
    rw [core_modCore_same]
    simp [Tbl.find_ins_other _ _ (h.resolve_left (fun x => x rfl))]
  · rw [core_modCore_other _ _ hj]

theorem tenant_setTenant_same (m : Mach) (t : Nat) (x : Tenant) : (m.setTenant t x).tenant t = x := Tbl.getD_ins_same _ _ _ _
theorem tenant_setTenant_other (m : Mach) {t u : Nat} (x : Tenant) (h : u ≠ t) : (m.setTenant t x).tenant u = m.tenant u :=
  Tbl.getD_ins_other _ _ _ h
theorem guy_setGuy_same (m : Mach) (n : Nat) (g : GuyPort) : (m.setGuy n g).guy n = g := Tbl.getD_ins_same _ _ _ _
theorem guy_setGuy_other (m : Mach) {n k : Nat} (g : GuyPort) (h : k ≠ n) : (m.setGuy n g).guy k = m.guy k :=
  Tbl.getD_ins_other _ _ _ h
theorem metaOf_setMeta_same (m : Mach) (a : Nat) (x : LineMeta) : (m.setMeta a x).metaOf a = x := Tbl.getD_put_same _ _ _ _
theorem metaOf_setMeta_other (m : Mach) {a b : Nat} (x : LineMeta) (h : b / 64 ≠ a / 64) : (m.setMeta a x).metaOf b = m.metaOf b := by
  show Tbl.getD _ _ _ = Tbl.getD _ _ _
  unfold Tbl.getD
  rw [show (m.setMeta a x).lineMeta = m.lineMeta.put (a / 64) x _ from rfl, Tbl.find_put_other _ _ _ h]

theorem slot_setSlot_same (m : Mach) (n : Nat) (x : Slot) : (m.setSlot n x).slot n = x := Tbl.getD_put_same _ _ _ _
theorem slot_setSlot_other (m : Mach) {n k : Nat} (x : Slot) (h : k ≠ n) : (m.setSlot n x).slot k = m.slot k :=
  Tbl.getD_put_other _ _ _ _ h
theorem queue_setQueue_same (m : Mach) (n : Nat) (x : Queue) : (m.setQueue n x).queue n = x := Tbl.getD_put_same _ _ _ _
theorem queue_setQueue_other (m : Mach) {n k : Nat} (x : Queue) (h : k ≠ n) : (m.setQueue n x).queue k = m.queue k :=
  Tbl.getD_put_other _ _ _ _ h
theorem pipe_setPipe_same (m : Mach) (q p : Nat) (x : Pipe) : (m.setPipe q p x).pipe q p = x := Tbl.getD_put_same _ _ _ _
theorem pipe_setPipe_other (m : Mach) {q p r k : Nat} (x : Pipe) (h : r * 8 + k ≠ q * 8 + p) : (m.setPipe q p x).pipe r k = m.pipe r k :=
  Tbl.getD_put_other _ _ _ _ h
theorem hylEnd_setHyl_same (m : Mach) (k : Nat) (x : HylEnd) : (m.setHyl k x).hylEnd k = x := Tbl.getD_ins_same _ _ _ _
theorem hylEnd_setHyl_other (m : Mach) {k j : Nat} (x : HylEnd) (h : j ≠ k) : (m.setHyl k x).hylEnd j = m.hylEnd j :=
  Tbl.getD_ins_other _ _ _ h
theorem pgPort_setPg_same (m : Mach) (p : Nat) (x : PgPort) : (m.setPg p x).pgPort p = x := Tbl.getD_put_same _ _ _ _
theorem pgPort_setPg_other (m : Mach) {p k : Nat} (x : PgPort) (h : k ≠ p) : (m.setPg p x).pgPort k = m.pgPort k :=
  Tbl.getD_put_other _ _ _ _ h
theorem ldFn_setLd_same (m : Mach) (k : Nat) (x : LdFn) : (m.setLd k x).ldFn k = x := Tbl.getD_put_same _ _ _ _
theorem ldFn_setLd_other (m : Mach) {k j : Nat} (x : LdFn) (h : j ≠ k) : (m.setLd k x).ldFn j = m.ldFn j :=
  Tbl.getD_put_other _ _ _ _ h
theorem tq_setTq_same (m : Mach) (q : Nat) (x : TierQ) : (m.setTq q x).tq q = x := Tbl.getD_ins_same _ _ _ _
theorem tq_setTq_other (m : Mach) {q k : Nat} (x : TierQ) (h : k ≠ q) : (m.setTq q x).tq k = m.tq k :=
  Tbl.getD_ins_other _ _ _ h
theorem shelf_setShelf_same (m : Mach) (n : Nat) (x : Shelf) : (m.setShelf n x).shelf n = x := Tbl.getD_put_same _ _ _ _
theorem shelf_setShelf_other (m : Mach) {n k : Nat} (x : Shelf) (h : k ≠ n) : (m.setShelf n x).shelf k = m.shelf k :=
  Tbl.getD_put_other _ _ _ _ h

/-! ### The page map (R241) -/

@[simp] theorem pmap_dirtyMap (m : Mach) (page : Nat) : (m.dirtyMap page).pmap = m.pmap := by
  unfold dirtyMap
  simp only []
  split <;> rfl
@[simp] theorem tierq_dirtyMap (m : Mach) (page : Nat) : (m.dirtyMap page).tierq = m.tierq := by
  unfold dirtyMap
  simp only []
  split <;> rfl

/-- An entry reads back as it was written. -/
theorem entry_setEntry_same (m : Mach) (page e : Nat) : (m.setEntry page e).entry page = e % 2 ^ 64 := by
  have key (x : Mach) : (({ x with pmap := x.pmap.put (page / 4096) (BitVec.ofNat 64 e) (BitVec.ofNat 64 (x.bareEntry (homeOf page))) } : Mach).dirtyMap
      page).entry page = e % 2 ^ 64 := by
    unfold entry bareEntry tq
    rw [tierq_dirtyMap, pmap_dirtyMap]
    exact congrArg BitVec.toNat (Tbl.getD_put_same _ _ _ _) |>.trans (BitVec.toNat_ofNat _ _)
  exact key _

theorem send_eq (m : Mach) (g : Msg) : m.send g = { m with net := m.net ++ [g] } := rfl

/-! ### Waiting entries of a die's line -/

theorem dl_setDl_same (m : Mach) (d l : Nat) (x : DieLine) (h : ¬(x.st = .i ∧ x.wait = [] ∧ x.snq = [])) : (m.setDl d l x).dl d l = x := by
  unfold dl setDl
  rw [if_neg h]
  exact Tbl.getD_ins_same _ _ _ _

theorem lines_setDl_other (m : Mach) (d l : Nat) (x : DieLine) {k : Nat} (h : k ≠ lineKey d l) :
    (m.setDl d l x).lines.find k = m.lines.find k := by
  unfold setDl
  show (if _ then _ else _ : Tbl DieLine).find k = _
  split
  · exact Tbl.find_erase_other _ h
  · exact Tbl.find_ins_other _ _ h

/-! ### Modes -/

theorem get_ev (m : Mach) (typ cls : Nat) (b : Block) (detail addr inst die : Nat) (t : Option Nat) (f : Fld) (i d : Nat) :
    (m.ev typ cls b detail addr inst die t).get f i d = m.get f i d := rfl
theorem get_pins (m : Mach) (p : Pins) (f : Fld) (i d : Nat) : ({ m with pins := p } : Mach).get f i d = m.get f i d := rfl

/-- Entering a mode sets MODE. -/
theorem mode_enterMode (m : Mach) (n : Nat) : (m.enterMode n).mode = n % 16 := by
  unfold mode enterMode
  simp only []
  rw [get_ev, get_set_other _ _ _ _ _ _ _ _ (show R.PKG_MODE_MODE.key ≠ R.LANT_ALARM_FATAL.key by decide), get_pins,
    get_set_field _ R.PKG_MODE_DRAINED R.PKG_MODE_MODE _ _ _ _ _ rfl (by decide) (by decide), add,
    get_set_field _ R.PKG_MODE_TRANSITIONS R.PKG_MODE_MODE _ _ _ _ _ rfl (by decide) (by decide),
    get_set_same _ _ _ _ _ (by decide)]
  rfl

/-- Entering a mode writes PKG.MODE and ALARM.FATAL alone. -/
theorem reg_enterMode_other (m : Mach) (n : Nat) {k : Nat} (h1 : k ≠ R.PKG_MODE_MODE.key) (h2 : k ≠ R.LANT_ALARM_FATAL.key) :
    (m.enterMode n).reg k = m.reg k := by
  unfold enterMode
  simp only [reg_ev]
  rw [reg_set_other _ _ _ _ _ h2]
  have hp (x : Mach) (p : Pins) : ({ x with pins := p } : Mach).reg k = x.reg k := rfl
  rw [hp, reg_set_other _ R.PKG_MODE_DRAINED _ _ _ h1, reg_add_other _ R.PKG_MODE_TRANSITIONS _ _ _ h1,
    reg_set_other _ R.PKG_MODE_MODE _ _ _ h1, reg_set_other _ R.PKG_MODE_PREV_MODE _ _ _ h1]

end Mach
end Sys2Proof.Machine
end

