-- ==== Sys2Proof/Tests/Slice0.lean ====
section
/-! SUPPORT. The model's own tests: every well-formedness check refuses an ill-formed command, single steps on small states, and
for each statement states and operands that meet its assumptions. -/
namespace Sys2Proof.Tests
set_option linter.unusedVariables false
set_option Elab.async false
set_option synthInstance.maxSize 4096
set_option synthInstance.maxHeartbeats 400000
open Sys2Proof Sys2Proof.Machine Sys2Proof.Machine.Mach

/-- A state made from another by an edit of its working machine. -/
def edit (s : State) (f : Mach → Mach) : State := { s with dev := (f s.mach).toDev, mem := s.mem.commit (f s.mach).wr }

/-- A state with fields of the I/O die's first instances set. -/
def sets (s : State) (l : List (Fld × Nat)) : State := edit s (fun m => l.foldl (fun m e => m.set e.1 e.2) m)

/-- The package right after power-on, in another mode. -/
def inMode (n : Nat) : State := sets State.reset [(R.PKG_MODE_MODE, n)]

/-- Registers of the first n pages of a block of the I/O die, by offset and value. -/
def rows (b : Block) (n : Nat) (f : Nat → List (Nat × Nat)) : Tbl Word :=
  (List.range n).flatMap (fun i => (f i).map (fun e => (pageOff 12 b i + e.1, BitVec.ofNat 64 e.2)))

/-- A package that serves: SOLO with coherence version 2, all dies up, all blocks of the I/O die READY and enabled, DDR mapped and
trained. Each list has STATUS at 0x10 and CONTROL at 0x18. -/
def up : State := { State.reset with dev := { Dev.reset with
  regs :=
    rows .pkg 1 (fun _ => [(0x10, 1), (0x100, 3), (0x110, 0), (0x128, 2 ^ 51 + 0xFFF), (0x138, 0), (0x218, 32)]) ++
    rows .clk 1 (fun _ => [(0x10, 1), (0x100, 3)]) ++ rows .hyl 12 (fun _ => [(0x100, 1)]) ++
    rows .home 4 (fun _ => [(0x10, 1)]) ++ rows .msc 4 (fun _ => [(0x10, 1)]) ++
    rows .ddr 16 (fun c => [(0x10, 33), (0x18, 1), (0x108, 2 + c % 4 * 4 + 2 ^ 24), (0x110, 1)]) ++
    rows .rake 4 (fun _ => [(0x10, 33), (0x18, 1)]) ++ rows .tier 4 (fun _ => [(0x10, 33), (0x18, 1), (0x100, 1)]) ++
    rows .codec 4 (fun _ => [(0x10, 33), (0x18, 1)]) ++ rows .bulk 4 (fun _ => [(0x10, 33), (0x18, 1)]) ++
    rows .ten 1 (fun _ => [(0x10, 1)]) ++ rows .ciph 4 (fun _ => [(0x10, 33), (0x18, 1)]) ++
    rows .seed 1 (fun _ => [(0x10, 1), (0x148, 1)]) ++ rows .pg 16 (fun _ => [(0x10, 33), (0x18, 1)])
  onPclk := true
  pins := { Dev.reset.pins with pwrgood := true, pkgResetN := true } } }

/-- Core 0 of CD0 runs at PL2 from 0x1000. -/
def run : State := edit up (fun m => m.releaseCore 0 0x1000)

/-- Core 0 runs at another level. -/
def runAt (pl : Nat) : State := edit run (fun m => m.modCore 0 (fun c => { c with pl := pl }))

/-- CD0 holds line 0x40 in a state, all its bytes 0x11. -/
def hold (st : LSt) (s : State) : State :=
  edit s (fun m => m.setDl 0 0x40 { noLine with st := st, data := BitVec.ofNat 512 (0x11 * ((2 ^ 512 - 1) / 255)) })


/-- A key of the bytes 0 to 31 with ALG 1 wrapped under the key of the bytes 0 to 31 (R332). -/
def wrapped : List Nat :=
  [80, 228, 241, 223, 75, 236, 110, 218, 159, 79, 38, 151, 190, 218, 21, 100, 179, 21, 177, 154, 250, 88, 245, 137, 166, 165, 119, 12, 100, 6, 38, 23,
   225, 90, 156, 34, 165, 161, 216, 13, 75, 40, 39, 47, 139, 147, 45, 47, 103, 73, 141, 252, 122, 86, 164, 109]

/-- One step of the unwrapping of six blocks under the key of the bytes 0 to 31. -/
def unwrapStep (s : List Nat × List (List Nat)) (k : Nat) : List Nat × List (List Nat) :=
  let t := 6 * 6 - 1 - k
  let i := t % 6
  let b := Crypto.aesDec (List.range 32) (Crypto.xorL s.1 (Crypto.beBytes 8 (t + 1)) ++ s.2.getD i [])
  (b.take 8, s.2.set i (b.drop 8))

theorem unwrap_first : (List.range' 0 9).foldl unwrapStep (wrapped.take 8, Crypto.chunks 8 (wrapped.drop 8)) =
    ([166, 225, 227, 108, 88, 132, 104, 15], [[187, 82, 10, 230, 251, 243, 57, 190], [198, 55, 167, 64, 22, 60, 29, 193], [65, 88, 147, 167, 17, 214, 240, 118], [231, 50, 223, 73, 139, 217, 104, 246], [86, 83, 213, 190, 122, 153, 89, 109], [4, 239, 109, 117, 220, 205, 139, 87]]) := by decide +kernel

theorem unwrap_second : (List.range' 9 9).foldl unwrapStep ([166, 225, 227, 108, 88, 132, 104, 15], [[187, 82, 10, 230, 251, 243, 57, 190], [198, 55, 167, 64, 22, 60, 29, 193], [65, 88, 147, 167, 17, 214, 240, 118], [231, 50, 223, 73, 139, 217, 104, 246], [86, 83, 213, 190, 122, 153, 89, 109], [4, 239, 109, 117, 220, 205, 139, 87]]) =
    ([97, 234, 130, 185, 76, 120, 176, 114], [[22, 136, 159, 61, 50, 109, 69, 61], [105, 77, 139, 59, 72, 201, 25, 153], [51, 149, 150, 249, 117, 57, 206, 167], [137, 87, 231, 4, 102, 227, 172, 106], [67, 246, 137, 113, 143, 110, 240, 233], [90, 128, 50, 103, 108, 195, 180, 5]]) := by decide +kernel

theorem unwrap_third : (List.range' 18 9).foldl unwrapStep ([97, 234, 130, 185, 76, 120, 176, 114], [[22, 136, 159, 61, 50, 109, 69, 61], [105, 77, 139, 59, 72, 201, 25, 153], [51, 149, 150, 249, 117, 57, 206, 167], [137, 87, 231, 4, 102, 227, 172, 106], [67, 246, 137, 113, 143, 110, 240, 233], [90, 128, 50, 103, 108, 195, 180, 5]]) =
    ([21, 214, 224, 112, 216, 10, 17, 142], [[163, 179, 173, 222, 48, 204, 148, 137], [207, 79, 31, 99, 5, 152, 100, 169], [52, 116, 136, 155, 87, 189, 11, 146], [200, 186, 169, 126, 252, 113, 158, 228], [244, 81, 136, 222, 26, 35, 114, 83], [13, 238, 67, 3, 92, 174, 16, 154]]) := by decide +kernel

theorem unwrap_fourth : (List.range' 27 9).foldl unwrapStep ([21, 214, 224, 112, 216, 10, 17, 142], [[163, 179, 173, 222, 48, 204, 148, 137], [207, 79, 31, 99, 5, 152, 100, 169], [52, 116, 136, 155, 87, 189, 11, 146], [200, 186, 169, 126, 252, 113, 158, 228], [244, 81, 136, 222, 26, 35, 114, 83], [13, 238, 67, 3, 92, 174, 16, 154]]) =
    ([166, 166, 166, 166, 166, 166, 166, 166], [[0, 1, 2, 3, 4, 5, 6, 7], [8, 9, 10, 11, 12, 13, 14, 15], [16, 17, 18, 19, 20, 21, 22, 23], [24, 25, 26, 27, 28, 29, 30, 31], [1, 0, 1, 0, 0, 0, 0, 0], [0, 0, 0, 0, 0, 0, 0, 0]]) := by decide +kernel

/-- What the wrapped key unwraps to. -/
theorem wrapped_opens : Crypto.kwUnwrap (List.range 32) wrapped = some (List.range 32 ++ [1, 0, 1, 0] ++ List.replicate 12 0) := by
  have e (k : List Nat) (b : List Nat) (n : Nat) (h : b.length / 8 - 1 = n) : Crypto.kwUnwrap k b =
      (let r := (List.range (6 * n)).foldl (fun (s : List Nat × List (List Nat)) j =>
        let t := 6 * n - 1 - j
        let i := t % n
        let b := Crypto.aesDec k (Crypto.xorL s.1 (Crypto.beBytes 8 (t + 1)) ++ s.2.getD i [])
        (b.take 8, s.2.set i (b.drop 8))) (b.take 8, Crypto.chunks 8 (b.drop 8))
      if r.1 = Crypto.kwIv then some r.2.flatten else none) := by subst h; rfl
  rw [e _ _ 6 (by decide)]
  have h : (List.range 36).foldl unwrapStep (wrapped.take 8, Crypto.chunks 8 (wrapped.drop 8)) = ([166, 166, 166, 166, 166, 166, 166, 166], [[0, 1, 2, 3, 4, 5, 6, 7], [8, 9, 10, 11, 12, 13, 14, 15], [16, 17, 18, 19, 20, 21, 22, 23], [24, 25, 26, 27, 28, 29, 30, 31], [1, 0, 1, 0, 0, 0, 0, 0], [0, 0, 0, 0, 0, 0, 0, 0]]) := by
    rw [show List.range 36 = List.range' 0 9 ++ (List.range' 9 9 ++ (List.range' 18 9 ++ List.range' 27 9)) from by decide, List.foldl_append,
      List.foldl_append, List.foldl_append, unwrap_first, unwrap_second, unwrap_third, unwrap_fourth]
  have h' : ∀ r : List Nat × List (List Nat), r = ([166, 166, 166, 166, 166, 166, 166, 166], [[0, 1, 2, 3, 4, 5, 6, 7], [8, 9, 10, 11, 12, 13, 14, 15], [16, 17, 18, 19, 20, 21, 22, 23], [24, 25, 26, 27, 28, 29, 30, 31], [1, 0, 1, 0, 0, 0, 0, 0], [0, 0, 0, 0, 0, 0, 0, 0]]) →
      (if r.1 = Crypto.kwIv then some r.2.flatten else none) = some (List.range 32 ++ [1, 0, 1, 0] ++ List.replicate 12 0) := by
    intro r hr; subst hr; decide
  exact h' _ h

/-- A descriptor's 64 bytes (R363). -/
def desc (op cctl len src dst aux ivctl aad : Nat) : List Byte :=
  bytesOf 6 op ++ bytesOf 2 cctl ++ bytesOf 4 0 ++ bytesOf 4 len ++ bytesOf 8 src ++ bytesOf 8 dst ++ bytesOf 4 aux ++ bytesOf 4 ivctl ++ bytesOf 8 0 ++
    bytesOf 8 aad ++ bytesOf 8 0

/-- Queue 3 of tenant 5 in quadrant 0 has accepted one descriptor. The tenant sees the first 2 MiB of memory; page 0x1000 lies in Bed,
and CD0 holds its lines 0 to 3, 0x1100 plus 0x11 times its number in each. Key 0 is a 256-bit key. -/
def work (b : List Byte) : State := edit up (fun m =>
  let m : Mach := (m.setTenant 5 ⟨1, false, false, 0, 0, false, 1, 1, 3, 0, 0, 0, some 20 :: List.replicate 7 none, List.replicate 8 0, 100, 100, 100, 0, 0, 0, 0⟩).setEntry 0x1000
    (attrs (eMove entryReset tierBed 0x4100000 0 false) 5 false false false)
  let m : Mach := (m.setSlot 20 ⟨1, 1, 0xF, 5, false, 1, 0, 0, 0, 0, (List.range 32).map (BitVec.ofNat 8)⟩).setQueue 3
    { noQueue with state := 1, live := [{ newDesc b 0 5 with logged := true, waitAck := false }] }
  let m : Mach := [0, 1, 2, 3].foldl (fun (m : Mach) i => m.setDl 0 (0x40 + i) { noLine with st := .e, data := BitVec.ofNat 512 (0x1100 + 0x11 * i) }) m
  { m with rblocks := [(8, ⟨true, true, true, 0, 0, 0⟩)], frames := [(0x4100000, 256)] })

/-- A pair whose partner's durable region is the first GiB of its memory, seen here from 1 GiB up: its page 0 lies in Bed, with CD0
holding line 5, page 2 is None, the log of its queue 3 is at 0x100, and the inbound rings hold the records given. -/
def window (l : List (Nat × MRec)) : State :=
  edit (sets up [(R.PKG_PAIR_STATE_STATE, 2), (R.PKG_PAIR_MWINDOW_BASE_GIB, 1), (R.PKG_PAIR_MWINDOW_SIZE_GIB, 1)]) (fun m =>
    let m : Mach := ((m.setEntry 0x40000000 (eMove entryReset tierBed 0x4100000 0 false)).setEntry 0x40002000 3).setDl 0 0x1000005 { noLine with st := .e, data := 0x77 }
    { m with frames := [(0x4100000, 256)], pair := { m.pair with peerSize := 1, inb := l, shQueue := [(3, .queue 3 1 [6, 0, 0, 0, 0x100])] } })

/-- A host's link at port 12 of group 3 is up, and LD 0 there is presented; tenant 5 of `work` is of KIND 1, bound to it and attached. -/
def hosted : State := edit (work []) (fun m =>
  let m : Mach := (((m.set R.PG_CFG_ROLE 1 3).set (R.EP_LD_V.at 0) 1 3).set R.PG_PORT_STATUS_UP 1 3).setTenant 5 { m.tenant 5 with kind := 1, attached := true, ld := 12 }
  { m with lds := [(192, { ldReset with mse := true, stamp := 7 })] })

/-- Port 5 of group 1 trained as a root port, function 0x100 behind it bound to tenant 5's range set. -/
def rooted : State := edit (work []) (fun m =>
  let m : Mach := ((m.set R.PG_CFG_SPLIT 3 1).set (R.PG_PORT_STATUS_UP.at 1) 1 1).set (R.PG_BIND_V.at 2) 1 1
  let m : Mach := ((m.set (R.PG_BIND_PORT.at 2) 1 1).set (R.PG_BIND_RID.at 2) 0x100 1).set (R.PG_BIND_RID_MASK.at 2) 0xFFFF 1
  (m.set (R.PG_BIND_RSET.at 2) 1 1).set (R.PG_BIND_IRQ_OK.at 2) 1 1)

/-- A verification key, and a chunk of three bytes with its tag under it; the tag is that of AES-256-GCM computed apart. -/
def fwSlot : Slot := ⟨4, 1, 2 ^ useFw, 0, true, 0, 0, 0, 0, 0, (List.range 32).map (BitVec.ofNat 8)⟩
def fwChunk : Chunk := ⟨0, [1, 2, 3], [7, 60, 229, 90, 2, 16, 151, 126, 228, 56, 125, 22, 33, 255, 221, 111].map (BitVec.ofNat 8)⟩

/-! ### Well-formedness: for each check, a command it refuses -/

def cfg7 : TenantCfg := ⟨0, false, 1, 1, 0, 0, 0, 0, List.replicate 7 none, 0, 0, 0⟩
def hdr0 : FrameHdr := ⟨false, false, 0, 0, 0, 0⟩

theorem test_wf_config : Instr.wf (.mcImageVerified false 1 [] 0 [(4, 0)]) = false := by decide
theorem test_wf_chunk : Instr.wf (.bootImageVerified false 1 0 [⟨0, [1], [2]⟩]) = false := by decide
theorem test_wf_errs_twice : Instr.wf (.memRd 0 0 [(3, 1), (3, 2)]) = false := by decide
theorem test_wf_errs_zero : Instr.wf (.rakeRead 0 [(3, 0)] [] false) = false := by decide
theorem test_wf_load : Instr.wf (.load ⟨0, 0⟩ 1 0 3 .data 0) = false := by decide
theorem test_wf_store : Instr.wf (.store ⟨0, 0⟩ 1 0 3 0) = false := by decide
theorem test_wf_create : Instr.wf (.tenCreate .mc 5 cfg7) = false := by decide
theorem test_wf_resize : Instr.wf (.tenResize .mc 5 cfg7) = false := by decide
theorem test_wf_hello : Instr.wf (.hello ⟨1, 1, 0, 0, 0, 0, 0, [], [], [], [1], [], 0⟩) = false := by decide
theorem test_wf_batch : Instr.wf (.mirrorBatch 0 ⟨0, 0, [], [1]⟩) = false := by decide
theorem test_wf_flit : Instr.wf (.hylarFlit 0 true [1] 0 0) = false := by decide
theorem test_wf_data : Instr.wf (.dataFrame 0 hdr0 0 [1]) = false := by decide
theorem test_wf_ack : Instr.wf (.ackFrame 0 hdr0 (List.replicate 15 (0, 0))) = false := by decide
theorem test_wf_status : Instr.wf (.statusFrame 0 hdr0 .pkg 0 0 [1]) = false := by decide
theorem test_wf_device_read : Instr.wf (.deviceRequest 0 0 (.read 0 0)) = false := by decide
theorem test_wf_device_write : Instr.wf (.deviceRequest 0 0 (.write 0 [])) = false := by decide
theorem test_wf_pitch : Instr.wf (.shelfPitchDone 0 ⟨false, 1, [1]⟩) = false := by decide
theorem test_wf_temps : Instr.wf (.thermalControlTick [(2, 1), (2, 2)]) = false := by decide
theorem test_wf_good : Instr.wf (.memRd 0 0 [(3, 1), (4, 2)]) = true := by decide

/-! ### Single operations, the expected results worked out from the spec's rules by hand -/

/-- What a next state gives; false for the rest. -/
def after (o : Out) (p : Mach → Bool) : Bool :=
  match o with
  | .next t => p t.mach
  | _ => false

/-- The two worked encodings of R122: DURSYNC into g7, and LD.ACQ of 8 bytes from the address in g9 into g3. -/
theorem test_decode_worked : decodeSystem ⟨0, 0⟩ 0xF44000E0 = some (.dursync ⟨0, 0⟩ 7) ∧
    decodeSystem ⟨0, 0⟩ 0xF5848063 = some (.ldAcq ⟨0, 0⟩ 9 3 3) := by decide

/-- R121 and R122 bit by bit: SRW of register 0x041 from g5 (111101 100001 0001000001 00101 00000), TLBI.VA of g2 under the tag in g6
(111101 010000 00010 00110 00000 00000), and a FENCE.ALL with an unused bit set, which names nothing. -/
theorem test_decode_bits : decodeSystem ⟨1, 2⟩ 0b11110110000100010000010010100000 = some (.srw ⟨1, 2⟩ 0x041 5) ∧
    decodeSystem ⟨1, 2⟩ 0b11110101000000010001100000000000 = some (.tlbiVa ⟨1, 2⟩ 2 6) ∧
    decodeSystem ⟨1, 2⟩ 0b11110100000000000000000000000001 = none := by decide

/-- R214: bits 13:12 xor bits 21:20. -/
theorem test_home : homeOf 0x3000 = 3 ∧ homeOf 0x103FFF = 2 := by decide
/-- R417: the CRC-32 of the nine digits, most significant bit first, the check value the standard gives for it. -/
theorem test_crc : Wire.crc32 [0x31, 0x32, 0x33, 0x34, 0x35, 0x36, 0x37, 0x38, 0x39] = 0xFC891918 := by decide +kernel
/-- R36: a store to ID changes nothing; R44: ID of the PKG page of die 12. -/
theorem test_id : (up.mach.ctlRead .mc 0xC000000).2 = 0xF07E0000C000 := by decide +kernel
/-- R41: a refused read gives 0. -/
theorem test_id_low : (up.mach.ctlRead (.core 1) 0xC000000).2 = 0 := by decide +kernel
/-- R112, R40: a load of a line held gives its bytes in the register's low part. -/
theorem test_load : after (exec (.load ⟨0, 0⟩ 5 0x1008 2 .data 4) (hold .e (edit run (fun m => m.setSreg 0 0x041 0))))
    (fun m => m.gpr 0 5 == 0x11111111 && m.pcOf 0 == 0x1004) = true := by decide +kernel
/-- R133, R144: with translation enabled, an address with a bit of [63:56] set takes WALK SEG_INVALID, with EADDR holding it whole. -/
theorem test_load_seg : after (exec (.load ⟨0, 0⟩ 5 0x0100000000001008 2 .data 4) (hold .e (edit run (fun m => m.setSreg 0 0x041 1))))
    (fun m => bitsOf (m.sreg 0 0x022) 0 6 == 8 && bitsOf (m.sreg 0 0x022) 8 4 == 2 && m.sreg 0 0x023 == 0x0100000000001008) = true := by decide +kernel
/-- R118: a store to a line not held asks for ownership and leaves the pc. -/
theorem test_store_waits : after (exec (.store ⟨0, 0⟩ 5 0x9008 2 4) (edit run (fun m => m.setSreg 0 0x041 0)))
    (fun m => m.net.any (fun g => g.k == .rdOwn && g.line == 0x240) && (m.core 0).sb.isEmpty) = true := by decide +kernel
/-- R48, R49: ENABLE cleared on TIER 2 leaves ENABLED until the block has stopped. -/
theorem test_disable : after (exec (.blockDisable .mc ⟨12, .tier, 2⟩) up)
    (fun m => !m.hon R.HDR_CONTROL_ENABLE .tier 2 && m.hon R.HDR_STATUS_ENABLED .tier 2) = true := by decide +kernel
/-- R83, R73: PWRGOOD falling puts the package into AUX. -/
theorem test_cold : after (exec (.coldReset .pwrgood) up) (fun m => m.mode == 1 && m.get R.PKG_RESET_CAUSE_LAST == 2) = true := by
  decide +kernel
/-- R77, R207, R505, R509: an injected Fatal error ends in FROZEN with FATAL_N low. -/
theorem test_frozen : after (exec (.errorInject .mc ⟨12, .hyl, 3⟩ 0x10000) (sets up [(R.LANT_INJECT_EN, 1), (R.LANT_INJECT_FATAL_OK, 1)]))
    (fun m => m.mode == 9 && !m.pins.fatalN && m.frozenCause == 1) = true := by decide +kernel
/-- R486: a tick of package time on an empty queue. -/
theorem test_tick : after (step State.reset) (fun m => m.time == 1) = true := by decide +kernel

/-! ### What the statements assume holds somewhere -/

/-- What the clauses of ClockCommandsComplete assume holds somewhere. -/
theorem witness_ClockCommandsComplete :
    ((fun (s : State) (noEdge : Bool) =>
      2 ≤ s.mach.mode ∧ (noEdge = true → (s.mach.on R.CLK_ROOT_STATUS_HOLDOVER && !s.mach.on R.CLK_ROOT_STATUS_REFCLK_OK) = false) ∧ (noEdge = false → s.mach.on R.CLK_ROOT_STATUS_LOCKED = true)) up true) ∧
    ((fun s : State =>
      s.mach.mode = 2 ∧ s.dev.bring = 1) (edit (inMode 2) (fun m => { m with bring := 1 }))) ∧
    ((fun s : State =>
      s.mach.mode = 10 ∧ s.mach.on R.CLK_ROOT_STATUS_HOLDOVER = true) (sets State.reset [(R.PKG_MODE_MODE, 10), (R.CLK_ROOT_STATUS_HOLDOVER, 1)])) ∧
    ((fun (s : State) (src : Src) (die : Fin 12) (v : Word) =>
      MayWrite s src die.val .clk 0) up .mc 3 5) ∧
    ((fun (s : State) (die : Fin 12) (core : Fin 20) =>
      s.mach.dieUp die.val = true ∧ core.val < s.fuses.coresPerDie) (edit up (fun m => m.releaseCore 371 64)) 11 19) := by
  decide +kernel

/-- What the clauses of EnableBitsComplete assume holds somewhere. -/
theorem witness_EnableBitsComplete :
    ((fun (s : State) (src : Src) (p : PageId) =>
      MayHead s src p.die.val p.blk p.inst.val ∧ p.die.val = 12 ∧ hasEnable p.blk = true ∧ p.blk ≠ .guy ∧ p.blk ≠ .lant ∧ s.mach.hon R.HDR_CONTROL_ENABLE p.blk p.inst.val = false ∧ s.mach.hon R.HDR_STATUS_STRUCK p.blk p.inst.val = false ∧ s.mach.keptOff p.blk p.inst.val = false) (edit up (fun m => m.hset R.HDR_CONTROL_ENABLE .tier 0 0)) .mc ⟨12, .tier, 0⟩) ∧
    ((fun (s : State) (src : Src) (p : PageId) =>
      MayHead s src p.die.val p.blk p.inst.val ∧ p.die.val ≠ 12 ∨ hasEnable p.blk = false ∨ s.mach.hon R.HDR_CONTROL_ENABLE p.blk p.inst.val = true ∨ s.mach.hon R.HDR_STATUS_STRUCK p.blk p.inst.val = true ∨ s.mach.keptOff p.blk p.inst.val = true) up .mc ⟨12, .home, 0⟩) ∧
    ((fun (s : State) (src : Src) (p : PageId) =>
      MayHead s src p.die.val p.blk p.inst.val ∧ p.die.val = 12 ∧ hasEnable p.blk = true ∧ s.mach.hon R.HDR_CONTROL_ENABLE p.blk p.inst.val = true) up .mc ⟨12, .tier, 3⟩) ∧
    ((fun (s : State) (src : Src) (p : PageId) =>
      MayHead s src p.die.val p.blk p.inst.val ∧ p.die.val ≠ 12 ∨ hasEnable p.blk = false ∨ s.mach.hon R.HDR_CONTROL_ENABLE p.blk p.inst.val = false) up .mc ⟨12, .home, 0⟩) ∧
    ((fun (s : State) (src : Src) (p : PageId) (v : Bool) =>
      MayHead s src p.die.val p.blk p.inst.val ∧ p.die.val = 12 ∧ hasEnable p.blk = true ∧ (p.blk = .guy → v = true ∨ s.mach.mirrorSends = false)) up .mc ⟨12, .bulk, 0⟩ true) ∧
    ((fun (s : State) (src : Src) (p : PageId) =>
      MayHead s src p.die.val p.blk p.inst.val ∧ p.die.val = 12 ∧ p.blk = .guy) up .mc ⟨12, .guy, 0⟩) ∧
    ((fun (s : State) (src : Src) (p : PageId) (v : Bool) =>
      MayHead s src p.die.val p.blk p.inst.val ∧ p.die.val ≠ 12 ∨ hasEnable p.blk = false) up .mc ⟨12, .home, 0⟩ true) ∧
    ((fun (s : State) (p : PageId) =>
      p.die.val = 12 ∧ p.inst.val < instances s.fuses 12 p.blk ∧ 2 ≤ s.mach.mode ∧ hasEnable p.blk = true ∧ s.mach.hon R.HDR_CONTROL_ENABLE p.blk p.inst.val = true ∧ s.mach.hon R.HDR_STATUS_ENABLED p.blk p.inst.val = false ∧ s.mach.hon R.HDR_STATUS_STRUCK p.blk p.inst.val = false ∧ s.mach.keptOff p.blk p.inst.val = false) (edit up (fun m => m.hset R.HDR_STATUS_ENABLED .tier 0 2)) ⟨12, .tier, 2⟩) ∧
    ((fun (s : State) (p : PageId) =>
      p.die.val = 12 ∧ p.inst.val < instances s.fuses 12 p.blk ∧ s.mach.mode ≠ 0 ∧ hasEnable p.blk = true ∧ p.blk ≠ .guy ∧ p.blk ≠ .pg ∧ s.mach.hon R.HDR_CONTROL_ENABLE p.blk p.inst.val = false ∧ s.mach.hon R.HDR_STATUS_ENABLED p.blk p.inst.val = true ∧ s.mach.workDone p.blk p.inst.val = true) (edit up (fun m => m.hset R.HDR_CONTROL_ENABLE .ciph 0 1)) ⟨12, .ciph, 1⟩) ∧
    ((fun (s : State) (src : Src) (p : PageId) =>
      MayHead s src p.die.val p.blk p.inst.val ∧ p.die.val = 12 ∧ p.blk = .guy ∧ s.mach.hon R.HDR_CONTROL_ENABLE p.blk p.inst.val = false ∧ s.mach.hon R.HDR_STATUS_STRUCK p.blk p.inst.val = false) (edit up (fun m => (m.hset R.HDR_CONTROL_ENABLE .guy 0 1).hset R.HDR_STATUS_READY .guy 1 1)) .mc ⟨12, .guy, 1⟩) ∧
    ((fun (s : State) (src : Src) (p : PageId) (go : Bool) =>
      MayHead s src p.die.val p.blk p.inst.val ∧ p.die.val = 12 ∧ p.blk = .lant ∧ s.mach.hon R.HDR_CONTROL_ENABLE p.blk p.inst.val = false ∧ s.mach.hon R.HDR_STATUS_STRUCK p.blk p.inst.val = false ∧ go = s.mach.on R.LANT_STORE_STAT_UNREPLAYED ∧ (go = true → s.mach.ringTakes 0 = false ∧ s.dev.lant.replayed < s.mach.bankCount (s.mach.get R.LANT_STORE_STAT_CUR))) up .mc ⟨12, .lant, 0⟩ false) ∧
    ((fun (s : State) (p : PageId) =>
      p.die.val = 12 ∧ p.inst.val < instances s.fuses 12 p.blk ∧ s.mach.mode ≠ 0 ∧ (p.blk = .guy ∨ p.blk = .pg) ∧ s.mach.hon R.HDR_CONTROL_ENABLE p.blk p.inst.val = false ∧ s.mach.hon R.HDR_STATUS_ENABLED p.blk p.inst.val = true ∧ s.mach.workDone p.blk p.inst.val = true ∧ (p.blk = .guy → s.mach.on R.GUY_STATUS_UP p.inst.val = false) ∧ (p.blk = .pg → ∀ i < 4, s.mach.portUp (4 * p.inst.val + i) = false)) (edit up (fun m => m.hset R.HDR_CONTROL_ENABLE .pg 0 5)) ⟨12, .pg, 5⟩) ∧
    ((fun (s : State) (p : PageId) =>
      p.die.val = 12 ∧ p.inst.val < instances s.fuses 12 .guy ∧ s.mach.mode ≠ 0 ∧ p.blk = .guy ∧ s.mach.hon R.HDR_CONTROL_ENABLE p.blk p.inst.val = false ∧ s.mach.hon R.HDR_STATUS_ENABLED p.blk p.inst.val = true ∧ s.mach.workDone .guy p.inst.val = true ∧ s.mach.on R.GUY_STATUS_UP p.inst.val = true ∧ (s.mach.pairState = 0 ∨ s.mach.pairState = 5 ∨ s.mach.pairState = 6)) (edit (sets up [(R.GUY_STATUS_UP, 1)]) (fun m => ((m.hset R.HDR_CONTROL_ENABLE .guy 0).hset R.HDR_STATUS_ENABLED .guy 1).setGuy 0 { noGuy with next := 7, acked := 6 })) ⟨12, .guy, 0⟩) ∧
    ((fun (s : State) (p : PageId) (g : Nat) =>
      g = p.inst.val ∧ p.die.val = 12 ∧ g < instances s.fuses 12 .pg ∧ s.mach.mode ≠ 0 ∧ p.blk = .pg ∧ s.mach.hon R.HDR_CONTROL_ENABLE p.blk p.inst.val = false ∧ s.mach.hon R.HDR_STATUS_ENABLED p.blk p.inst.val = true ∧ s.mach.workDone .pg g = true ∧ s.mach.isUpstream g = true ∨ (∀ i < 4, s.mach.shelvesAt (4 * g + i) = [])) (edit (edit up (fun m => m.portSet R.PG_PORT_STATUS_UP 22 1)) (fun m => m.hset R.HDR_CONTROL_ENABLE .pg 0 5)) ⟨12, .pg, 5⟩ 5) := by
  decide +kernel

/-- What the clauses of CommitGoAndCancel assume holds somewhere. -/
theorem witness_CommitGoAndCancel :
    ((fun (s : State) (src : Src) (p : PageId) =>
      MayHead s src p.die.val p.blk p.inst.val) up .mc ⟨12, .lant, 0⟩) ∧
    ((fun (s : State) (p : PageId) (g : Nat) =>
      g = pageOff p.die.val p.blk p.inst.val ∧ (p.die.val = 12 ∨ s.mach.dieUp p.die.val = true) ∧ p.inst.val < instances s.fuses p.die.val p.blk ∧ s.mach.mode ≠ 0 ∧ s.mach.hon R.HDR_STATUS_COMMIT_PENDING p.blk p.inst.val p.die.val = true ∧ ¬(s.mach.enabledBlk p.die.val p.blk p.inst.val = true ∧ p.blk ∈ [Block.core, .guy, .pg, .ep])) (edit up (fun m => m.commitGo 12 .lant 0)) ⟨12, .lant, 0⟩ (pageOff 12 .lant 0)) ∧
    ((fun (s : State) (src : Src) (p : PageId) =>
      MayHead s src p.die.val p.blk p.inst.val ∧ s.mach.hon R.HDR_STATUS_COMMIT_PENDING p.blk p.inst.val p.die.val = true) (edit up (fun m => m.commitGo 12 .lant 0)) .mc ⟨12, .lant, 0⟩) ∧
    ((fun (s : State) (src : Src) (p : PageId) =>
      MayHead s src p.die.val p.blk p.inst.val ∧ s.mach.hon R.HDR_STATUS_COMMIT_PENDING p.blk p.inst.val p.die.val = false) up .mc ⟨12, .lant, 0⟩) ∧
    ((fun (s : State) (src : Src) (p : PageId) (v : Word) =>
      MayHead s src p.die.val p.blk p.inst.val ∧ v.toNat % 4 = 3) up .mc ⟨12, .lant, 0⟩ 3) := by
  decide +kernel

/-- What the clauses of RegisterCommandsComplete assume holds somewhere. -/
theorem witness_RegisterCommandsComplete :
    ((fun (s : State) (src : Src) (v : Word) =>
      MayWrite s src 12 .lant 0) up .mc 5) ∧
    ((fun (s : State) (src : Src) (die : Fin 13) (b : Block) (inst : Fin 64) (off k : Nat) (v : Word) =>
      MayWrite s src die.val b inst.val ∧ off < 0x1000 ∧ off % 8 = 0 ∧ acting b off = false ∧ s.mach.noReg die.val b inst.val off = false ∧ k = pageOff die.val b inst.val + off ∧ (∀ e ∈ fieldsOf b, e.here off = true → e.acc = .rw → s.mach.reservedEnc die.val e.f (s.mach.coreBits e.f (bitsOf v.toNat e.f.lo e.f.w)) = false ∧ (e.cls = .locked → s.mach.enabledBlk die.val b inst.val = false))) up .mc 12 .lant 0 R.LANT_INJECT_ADDR_ADDR.off R.LANT_INJECT_ADDR_ADDR.key 0x1234567) ∧
    ((fun (s : State) (src : Src) (c : Cid) (h : Half) (v : Word) =>
      Runs s c ∧ 1 ≤ (s.mach.core (cidOf c)).pl) (edit up (fun m => m.releaseCore 0 64)) .mc ⟨0, 0⟩ .whole 7) ∧
    ((fun (s : State) (src : Src) (c : Cid) (n : BitVec 10) (h : Half) (v : Word) =>
      Runs s c ∧ sregKnown n.toNat = true ∧ writeLevel n.toNat ≤ (s.mach.core (cidOf c)).pl) (edit up (fun m => m.releaseCore 0 64)) .mc ⟨0, 0⟩ 0x010 .whole 0x12345) ∧
    ((fun (s : State) (src : Src) (p : PageId) =>
      MayHead s src p.die.val p.blk p.inst.val ∧ s.mach.resetHonoured p.die.val p.blk p.inst.val = true) (sets up [(R.PKG_MODE_MODE, 11)]) .mc ⟨12, .fab, 2⟩) ∧
    ((fun (s : State) (src : Src) (p : PageId) =>
      MayHead s src p.die.val p.blk p.inst.val ∧ s.mach.resetHonoured p.die.val p.blk p.inst.val = false) up .mc ⟨12, .ten, 0⟩) ∧
    ((fun (s : State) (src : Src) (p : PageId) (n bit sev : Nat) =>
      MayHead s src p.die.val p.blk p.inst.val ∧ n = p.inst.val ∧ (s.mach.mode = 11 ∨ s.mach.on R.LANT_INJECT_EN = true ∧ (sev ≠ sevFatal ∨ s.mach.on R.LANT_INJECT_FATAL_OK = true)) ∧ (bit, sev) ∈ errBits p.blk ∧ (p.blk, bit) ∉ [(Block.seed, 16), (.lant, 16), (.pkg, 16), (.ddr, 17), (.ciph, 16)] ∧ ((p.blk, bit) = (Block.guy, 16) → s.mach.guyUp n = false) ∧ ((p.blk, bit) = (Block.hyl, 16) → p.die.val ≠ 12 ∨ s.mach.on R.HYL_LINK_STATUS_UP n = false) ∧ ((p.blk, bit) = (Block.pg, 18) → s.mach.isUpstream n = true ∨ s.mach.upPort n = none) ∧ ((p.blk, bit) = (Block.pg, 17) → s.dev.devq = []) ∧ ((p.blk, bit) = (Block.ep, 16) → s.mach.upPort n = none) ∧ ((p.blk, bit) = (Block.codec, 18) → s.dev.moves = [] ∧ s.dev.queues = []) ∧ ((p.blk, bit) = (Block.ten, 18) → (s.mach.tenant (s.mach.get R.LANT_INJECT_ADDR_ADDR % 2 ^ 11)).state ≠ 1) ∧ ((p.blk, bit) = (Block.bulk, 16) → s.dev.queues = [])) (sets up [(R.LANT_INJECT_EN, 1)]) .mc ⟨12, .fab, 1⟩ 1 16 0) ∧
    ((fun (s : State) (src : Src) (p : PageId) (bit sev : Nat) =>
      MayHead s src p.die.val p.blk p.inst.val ∧ p.die.val = 12 ∧ (s.mach.mode = 11 ∨ s.mach.on R.LANT_INJECT_EN = true ∧ (sev ≠ sevFatal ∨ s.mach.on R.LANT_INJECT_FATAL_OK = true)) ∧ (bit, sev) ∈ errBits p.blk ∧ (p.blk, bit) ∈ [(Block.seed, 16), (.lant, 16), (.pkg, 16)]) (sets up [(R.LANT_INJECT_EN, 1)]) .mc ⟨12, .seed, 0⟩ 16 2) ∧
    ((fun (s : State) (src : Src) (p : PageId) (c q mate : Nat) (warm : Bool) =>
      MayHead s src 12 p.blk p.inst.val ∧ p.die.val = 12 ∧ p.blk = .ddr ∧ c = p.inst.val ∧ q = c / 4 ∧ mate = 4 * q + (c % 4 + 2) % 4 ∧ (s.mach.mode = 11 ∨ s.mach.on R.LANT_INJECT_EN = true ∧ s.mach.on R.LANT_INJECT_FATAL_OK = true) ∧ warm = (decide (s.mach.mode = 2) && decide (3 ≤ s.mach.get R.PKG_RESET_CAUSE_LAST))) (sets up [(R.LANT_INJECT_EN, 1), (R.LANT_INJECT_FATAL_OK, 1)]) .mc ⟨12, .ddr, 5⟩ 5 1 7 false) ∧
    ((fun (s : State) (src : Src) (p : PageId) =>
      MayHead s src 12 p.blk p.inst.val ∧ p.die.val = 12 ∧ p.blk = .ciph ∧ (s.mach.mode = 11 ∨ s.mach.on R.LANT_INJECT_EN = true) ∧ s.dev.pipes = []) (sets up [(R.LANT_INJECT_EN, 1)]) .mc ⟨12, .ciph, 1⟩) := by
  decide +kernel

/-- What the clauses of UnpopulatedPagesReadOnes assume holds somewhere. -/
theorem witness_UnpopulatedPagesReadOnes :
    ((fun (s : State) (src : Src) (a : BitVec 28) =>
      (∀ b ∈ blockOfCode (a.toNat / 0x40000 % 0x40), instances s.fuses (a.toNat / 0x1000000) b ≤ a.toNat / 0x1000 % 0x40)) up .mc 0xF000000) ∧
    ((fun (s : State) (src : Src) (a : BitVec 28) (h : Half) (v : Word) =>
      (∀ b ∈ blockOfCode (a.toNat / 0x40000 % 0x40), instances s.fuses (a.toNat / 0x1000000) b ≤ a.toNat / 0x1000 % 0x40)) up .mc 0xF000000 .whole 5) := by
  decide +kernel

/-- What the clauses of AbsentDiesReadOnes assume holds somewhere. -/
theorem witness_AbsentDiesReadOnes :
    ((fun (s : State) (src : Src) (a : BitVec 28) =>
      a.toNat / 0x1000000 < 12 ∧ s.mach.dieUp (a.toNat / 0x1000000) = false) (sets up [(R.PKG_READY_CD, 0xFF7)]) .mc 0x3000000) ∧
    ((fun (s : State) (src : Src) (a : BitVec 28) (h : Half) (v : Word) =>
      a.toNat / 0x1000000 < 12 ∧ s.mach.dieUp (a.toNat / 0x1000000) = false) (sets up [(R.PKG_READY_CD, 0xFF7)]) .mc 0x3000000 .whole 5) ∧
    ((fun (s : State) (c : Cid) (port : Option (Fin 64)) (d : DevMsg) =>
      s.mach.devNext (cidOf c) = some d ∧ d.k = 0 ∧ 0xFF0000000000 ≤ d.spa ∧ d.spa < 0xFF000C000000 ∧ s.mach.dieUp ((d.spa - 0xFF0000000000) / 0x1000000) = false) (edit (sets up [(R.PKG_READY_CD, 0xFF7)]) (fun m => { m with devq := [⟨0, 0, 0xFF0003000000, 3, 0, some 1, 4, false, 0, 2, none⟩] })) ⟨0, 0⟩ none ⟨0, 0, 0xFF0003000000, 3, 0, some 1, 4, false, 0, 2, none⟩) := by
  decide +kernel

/-- What the clauses of PowerAndColdReset assume holds somewhere. -/
theorem witness_PowerAndColdReset :
    ((fun (s : State) =>
      s.mach.mode = 0) (inMode 0)) ∧
    ((fun (s : State) =>
      s.mach.mode ≠ 0) up) ∧
    ((fun (s : State) (pin : ResetPin) =>
      s.mach.mode ≠ 0) up .pkgResetN) := by
  decide +kernel

/-- What the clauses of BringupAndServe assume holds somewhere. -/
theorem witness_BringupAndServe :
    ((fun (s : State) =>
      s.mach.mode = 1 ∧ (s.dev.pins.pwrgood && s.dev.pins.pkgResetN) = false ∧ s.mach.on R.LANT_STORE_STAT_UNREPLAYED = false) State.reset) ∧
    ((fun (s : State) (src : Src) =>
      MayWrite s src 12 .pkg 0 ∧ s.mach.mode = 2 ∧ s.mach.hon R.HDR_STATUS_READY .mgmt = true ∧ s.mach.get R.PKG_READY_CD ≠ 0 ∧ s.mach.hon R.HDR_STATUS_READY .ten = true ∧ s.dev.durWaits = [] ∧ (s.mach.pairState = 4 → s.dev.pair.step ≠ 0 ∨ s.mach.guyAny = false)) (edit (sets up [(R.PKG_MODE_MODE, 2)]) (fun m => m.hset R.HDR_STATUS_READY .mgmt 1)) .mc) ∧
    ((fun (s : State) (src : Src) =>
      MayWrite s src 12 .pkg 0 ∧ s.mach.mode = 2 ∧ (s.mach.hon R.HDR_STATUS_READY .mgmt = false ∨ s.mach.get R.PKG_READY_CD = 0 ∨ s.mach.hon R.HDR_STATUS_READY .ten = false)) (inMode 2) .mc) ∧
    ((fun (s : State) (src : Src) =>
      MayWrite s src 12 .pkg 0 ∧ s.mach.mode = 7) (sets up [(R.PKG_MODE_MODE, 7)]) .mc) ∧
    ((fun (s : State) (src : Src) =>
      MayWrite s src 12 .pkg 0 ∧ s.mach.mode = 3) up .mc) ∧
    ((fun (s : State) (src : Src) =>
      MayWrite s src 12 .pkg 0 ∧ s.mach.mode = 2 ∧ s.dev.bring ≠ 0) (edit (sets up [(R.PKG_MODE_MODE, 2)]) (fun m => { m with bring := 6 })) .mc) ∧
    ((fun (s : State) (src : Src) =>
      MayWrite s src 12 .pkg 0 ∧ s.mach.mode = 3 ∧ s.mach.get R.PKG_DIE_CTL_PARK = 0 ∧ s.dev.dieOp = [] ∧ s.dev.lines = [] ∧ (∀ e ∈ s.dev.cores, e.2.sb = [] ∧ e.2.dwl = [])) up .mc) := by
  decide +kernel

/-- What the clauses of DrainAndReturn assume holds somewhere. -/
theorem witness_DrainAndReturn :
    ((fun (s : State) (src : Src) =>
      MayWrite s src 12 .pkg 0 ∧ 3 ≤ s.mach.mode ∧ s.mach.mode ≤ 7) up .mc) ∧
    ((fun (s : State) =>
      s.mach.mode = 8 ∧ s.mach.drained = true) (sets up [(R.PKG_MODE_MODE, 8)])) ∧
    ((fun (s : State) (src : Src) (code : BitVec 4) =>
      MayWrite s src 12 .pkg 0 ∧ s.mach.mode = 8 ∧ code.toNat = s.mach.get R.PKG_MODE_PREV_MODE ∧ (3 ≤ code.toNat ∧ code.toNat ≤ 7) ∧ (code = 7 → s.mach.get R.PKG_DIE_CTL_PARK = 0xFFE) ∧ ¬(code = 4 ∧ (s.mach.get R.PKG_PAIR_STATE_STATE = 4 ∨ s.mach.get R.PKG_PAIR_STATE_STATE = 0)) ∧ ¬(code ∈ [3#4, 5, 6] ∧ s.mach.get R.PKG_PAIR_STATE_STATE = 3) ∧ ¬(code = 6 ∧ s.mach.get R.PKG_PAIR_STATE_STATE = 4 ∧ s.mach.on R.PKG_PAIR_STATE_FENCE_OUT = true ∧ s.dev.pair.deciding = false) ∧ (code = 6 → s.mach.pairState = 4 → s.dev.pair.step ≠ 0 ∨ s.mach.guyAny = false) ∧ s.dev.pair.owed = [] ∧ Idle s) (sets up [(R.PKG_MODE_MODE, 8), (R.PKG_MODE_PREV_MODE, 3)]) .mc 3) ∧
    ((fun (s : State) (src : Src) (code : BitVec 4) =>
      MayWrite s src 12 .pkg 0 ∧ s.mach.mode = 8 ∧ code.toNat = s.mach.get R.PKG_MODE_PREV_MODE ∧ (code = 4 ∧ (s.mach.get R.PKG_PAIR_STATE_STATE = 4 ∨ s.mach.get R.PKG_PAIR_STATE_STATE = 0) ∨ code ∈ [3#4, 5, 6] ∧ s.mach.get R.PKG_PAIR_STATE_STATE = 3) ∧ (s.mach.pairState = 4 → s.dev.pair.step ≠ 0 ∨ s.mach.guyAny = false) ∧ s.dev.pair.owed = [] ∧ Idle s) (sets up [(R.PKG_MODE_MODE, 8), (R.PKG_MODE_PREV_MODE, 4)]) .mc 4) ∧
    ((fun (s : State) (src : Src) =>
      MayWrite s src 12 .pkg 0 ∧ (s.mach.mode = 8 ∧ s.mach.on R.PKG_MODE_DRAINED = true ∨ s.mach.mode = 9 ∧ s.mach.get R.PKG_MODE_PREV_MODE ≠ 11) ∧ s.dev.filter = [] ∧ s.dev.msc = [] ∧ s.dev.mapDirty = [] ∧ s.dev.tenCmd.map (·.1) ≠ some 5) (sets up [(R.PKG_MODE_MODE, 8), (R.PKG_MODE_DRAINED, 1)]) .mc) ∧
    ((fun (s : State) (src : Src) =>
      MayWrite s src 12 .pkg 0 ∧ s.mach.mode = 8 ∧ s.mach.get R.PKG_MODE_PREV_MODE = 7 ∧ s.mach.on (R.PKG_DIE_CTL_PARK.bit 0) = false ∧ (∀ k < 12, 0 < k → s.mach.dieUp k = false ∧ s.mach.dieOpOf k = 0) ∧ s.dev.pair.owed = [] ∧ Idle s) (sets up [(R.PKG_MODE_MODE, 8), (R.PKG_MODE_PREV_MODE, 7), (R.PKG_READY_CD, 1)]) .mc) ∧
    ((fun (s : State) (src : Src) =>
      MayWrite s src 12 .pkg 0 ∧ s.mach.mode = 8 ∧ s.mach.on R.PKG_MODE_DRAINED = true ∧ s.dev.filter = [] ∧ s.dev.msc = [] ∧ s.dev.journal = [] ∧ s.dev.mapDirty = [] ∧ (∀ e ∈ s.dev.cores, e.2.sb = [])) (sets up [(R.PKG_MODE_MODE, 8), (R.PKG_MODE_DRAINED, 1)]) .mc) ∧
    ((fun (s : State) =>
      s.mach.mode = 10 ∧ s.mach.on R.CLK_ROOT_STATUS_HOLDOVER = false ∧ s.mach.on R.LANT_STORE_STAT_UNREPLAYED = false ∧ (∀ n < 64, s.mach.shelfState n ∉ [1, 2, 3])) (inMode 10)) := by
  decide +kernel

/-- What the clauses of DieControlComplete assume holds somewhere. -/
theorem witness_DieControlComplete :
    ((fun (s : State) (src : Src) (dies : BitVec 12) =>
      MayWrite s src 12 .pkg 0 ∧ s.dev.lines = [] ∧ (∀ e ∈ s.dev.cores, e.2.sb = [] ∧ e.2.dwl = [])) up .mc 5) ∧
    ((fun (s : State) (src : Src) (dies : BitVec 12) =>
      MayWrite s src 12 .pkg 0 ∧ s.mach.get R.PKG_COMPAT_COH_VER ≠ 0) (sets up [(R.PKG_STRUCK_MASK_DIES, 4), (R.PKG_READY_CD, 0xFFB)]) .mc 0x80C) ∧
    ((fun (s : State) (src : Src) (dies : BitVec 12) =>
      MayWrite s src 12 .pkg 0 ∧ s.dev.dieOp = [] ∧ s.dev.lines = [] ∧ (∀ e ∈ s.dev.cores, e.2.sb = [] ∧ e.2.dwl = [])) up .mc 0x802) ∧
    ((fun (s : State) (src : Src) (dies : BitVec 12) =>
      MayWrite s src 12 .pkg 0 ∧ s.dev.dieOp = [] ∧ s.mach.mode ≠ 7) (sets up [(R.PKG_DIE_CTL_PARK, 6), (R.PKG_DIE_STATE_PARKED, 6), (R.PKG_READY_CD, 0xFF9)]) .mc 0x802) ∧
    ((fun (s : State) (die : Fin 12) =>
      (s.mach.dieOpOf die.val = 1 ∨ s.mach.dieOpOf die.val = 2) ∧ (s.mach.dieUp die.val = false ∨ s.mach.dieQuiet die.val = true) ∧ (∀ e ∈ s.dev.filter, die.val ∉ e.2.pres) ∧ ¬(s.mach.dieOpOf die.val = 1 ∧ s.mach.mode = 2 ∧ s.mach.get R.PKG_BOOT_BOOT_DIE = die.val)) (edit (sets up [(R.PKG_DIE_STATE_BUSY, 8)]) (fun m => { m with dieOp := [(3, 1)] })) 3) ∧
    ((fun (s : State) (die : Fin 12) =>
      s.mach.dieOpOf die.val = 1 ∧ (s.mach.dieUp die.val = false ∨ s.mach.dieQuiet die.val = true) ∧ (∀ e ∈ s.dev.filter, die.val ∉ e.2.pres) ∧ s.mach.mode = 2 ∧ s.mach.get R.PKG_BOOT_BOOT_DIE = die.val) (edit (sets up [(R.PKG_MODE_MODE, 2), (R.PKG_BOOT_BOOT_DIE, 3)]) (fun m => { m with dieOp := [(3, 1)] })) 3) := by
  decide +kernel

/-- What the clauses of BringupStepsComplete assume holds somewhere. -/
theorem witness_BringupStepsComplete :
    ((fun (s : State) =>
      s.mach.mode = 2 ∧ s.dev.bring = 2 ∧ s.mach.get R.SEED_DRBG_FAILS = 0) (edit (inMode 2) (fun m => { m with bring := 2 }))) ∧
    ((fun (s : State) (copyB : Bool) (chunks : List Chunk) (version : BitVec 16) (config : List (BitVec 28 × Word)) =>
      s.mach.mode = 2 ∧ s.dev.bring = (if copyB then 13 else 3) ∧ FwGood s chunks ∧ config.all (fun e => e.1.toNat % 0x1000 == 0x18) = true) (edit (inMode 2) (fun m => { m.setSlot 0 fwSlot with bring := 3 })) false [fwChunk] 0x1234 [(0x30C0018, 1)]) ∧
    ((fun (s : State) (copyB : Bool) (version : BitVec 16) (config : List (BitVec 28 × Word)) =>
      s.mach.mode = 2 ∧ s.dev.bring = (if copyB then 13 else 3)) (edit (inMode 2) (fun m => { m with bring := 3 })) false 0x1234 [(0x30C0018, 1), (BitVec.ofNat 28 R.LANT_INJECT_ADDR_ADDR.key, 77)]) ∧
    ((fun (s : State) (major : Byte) (chunks : List Chunk) (version : BitVec 16) (config : List (BitVec 28 × Word)) (n fails : Nat) =>
      s.mach.mode = 2 ∧ FwBad s major chunks n fails ∧ s.dev.bring = 3) (edit (inMode 2) (fun m => { m.setSlot 0 fwSlot with bring := 3 })) 1 [fwChunk, { fwChunk with tag := [] }] 1 [] 2 1) ∧
    ((fun (s : State) (major : Byte) (chunks : List Chunk) (version : BitVec 16) (config : List (BitVec 28 × Word)) (n fails : Nat) =>
      s.mach.mode = 2 ∧ FwBad s major chunks n fails ∧ s.dev.bring = 13 ∧ s.dev.lant.sbq.length < 256) (edit (inMode 2) (fun m => { m with bring := 13 })) 2 [] 1 [] 0 0) ∧
    ((fun (s : State) (copyB : Bool) (minor : Byte) (chunks : List Chunk) (image : List Byte) =>
      s.mach.mode = 2 ∧ s.dev.bring = (if copyB then 15 else 5) ∧ s.dev.config = [] ∧ s.mach.get R.PKG_RESET_CAUSE_LAST < 3 ∧ FwGood s chunks ∧ image = (chunks.flatMap (fun c => (s.mach.fwOpen c).getD [])).take (2 ^ 22)) (edit (inMode 2) (fun m => { m.setSlot 0 fwSlot with bring := 5 })) false 7 [fwChunk] [15, 190, 182]) ∧
    ((fun (s : State) (copyB : Bool) (major minor : Byte) (chunks : List Chunk) (n fails : Nat) =>
      s.mach.mode = 2 ∧ FwBad s major chunks n fails ∧ s.dev.bring = (if copyB then 15 else 5) ∧ s.dev.lant.sbq.length < 256) (edit (inMode 2) (fun m => { m with bring := 5 })) false 2 7 [] 0 0) ∧
    ((fun (s : State) (src : Src) =>
      MayWrite s src 12 .pkg 0) (edit up (fun m => m.setBytes (2 ^ 48 - 1) [1, 2])) .mc) := by
  decide +kernel

/-- What the clauses of ReadyCommandsComplete assume holds somewhere. -/
theorem witness_ReadyCommandsComplete :
    ((fun (s : State) (die : Fin 12) (rev : BitVec 4) (h1 h2 : Bool) (tx rx : Fin 8) =>
      s.mach.get R.PKG_COMPAT_COH_VER ≠ 0 ∧ s.mach.mode ≠ 9 ∧ s.mach.on R.HYL_LINK_STATUS_TRAINING die.val = true ∧ s.mach.on R.HYL_LINK_STATUS_UP die.val = false ∧ tx.val ≤ 4 ∧ rx.val ≤ 4 ∧ (if s.mach.get R.PKG_COMPAT_COH_VER = 2 then h2 else h1) = true) (edit up (fun m => (m.set R.HYL_LINK_STATUS_UP 0 3).set R.HYL_LINK_STATUS_TRAINING 1 3)) 3 2 true true 4 0) ∧
    ((fun (s : State) (die : Fin 12) (r : TrainResult) =>
      s.mach.get R.PKG_COMPAT_COH_VER ≠ 0 ∧ s.mach.mode ≠ 9 ∧ s.mach.on R.HYL_LINK_STATUS_TRAINING die.val = true ∧ s.mach.on R.HYL_LINK_STATUS_UP die.val = false ∧ r ∈ [TrainResult.failed .noModule, .failed .repair, .failed .fwdClock]) (edit up (fun m => (m.set R.HYL_LINK_STATUS_UP 0 3).set R.HYL_LINK_STATUS_TRAINING 1 3)) 3 (.failed .fwdClock)) ∧
    ((fun (s : State) (die : Fin 12) (rev : BitVec 4) (h1 h2 : Bool) (tx rx : Fin 8) =>
      s.mach.get R.PKG_COMPAT_COH_VER ≠ 0 ∧ s.mach.mode ≠ 9 ∧ s.mach.on R.HYL_LINK_STATUS_TRAINING die.val = true ∧ s.mach.on R.HYL_LINK_STATUS_UP die.val = false ∧ (4 < tx.val ∨ 4 < rx.val ∨ (if s.mach.get R.PKG_COMPAT_COH_VER = 2 then h2 else h1) = false)) (edit up (fun m => (m.set R.HYL_LINK_STATUS_UP 0 3).set R.HYL_LINK_STATUS_TRAINING 1 3)) 3 2 true false 4 0) ∧
    ((fun (s : State) (die : Fin 12) =>
      s.mach.get R.PKG_COMPAT_COH_VER ≠ 0 ∧ s.mach.mode ≠ 9 ∧ ¬(s.mach.mode = 2 ∧ s.mach.on R.PKG_BOOT_WINDOW_VALID = true ∧ s.mach.get R.PKG_BOOT_BOOT_DIE = 15) ∧ s.mach.on R.HYL_LINK_STATUS_UP die.val = true ∧ s.mach.on (R.PKG_READY_CD.bit die.val) = false ∧ s.mach.on (R.PKG_DIE_CTL_PARK.bit die.val) = false) (sets up [(R.PKG_READY_CD, 0xFF7), (R.PKG_STRUCK_MASK_DIES, 8)]) 3) ∧
    ((fun (s : State) (die : Fin 12) =>
      s.mach.get R.PKG_COMPAT_COH_VER ≠ 0 ∧ s.mach.mode = 2 ∧ s.mach.on R.HYL_LINK_STATUS_UP die.val = true ∧ s.mach.on (R.PKG_READY_CD.bit die.val) = false ∧ s.mach.on (R.PKG_DIE_CTL_PARK.bit die.val) = false ∧ s.mach.on R.PKG_BOOT_WINDOW_VALID = true ∧ s.mach.get R.PKG_BOOT_BOOT_DIE = 15 ∧ (s.mach.core (32 * die.val)).run = .parked) (sets up [(R.PKG_MODE_MODE, 2), (R.PKG_READY_CD, 0), (R.PKG_STRUCK_MASK_DIES, 0xFFF), (R.PKG_BOOT_WINDOW_VALID, 1), (R.PKG_BOOT_BOOT_DIE, 15)]) 11) ∧
    ((fun (s : State) (die : Fin 12) =>
      s.mach.get R.PKG_COMPAT_COH_VER ≠ 0 ∧ s.mach.mode ≠ 9 ∧ s.mach.on R.HYL_LINK_STATUS_UP die.val = true ∧ s.mach.on (R.PKG_READY_CD.bit die.val) = false ∧ s.mach.on (R.PKG_DIE_CTL_PARK.bit die.val) = true) (sets up [(R.PKG_READY_CD, 0xFF7), (R.PKG_STRUCK_MASK_DIES, 8), (R.PKG_DIE_CTL_PARK, 8)]) 3) ∧
    ((fun (s : State) (ch : DdrChan) =>
      s.mach.get R.PKG_COMPAT_COH_VER ≠ 0 ∧ s.mach.mode ≠ 9 ∧ s.mach.chanUsed ch.n.val = true ∧ s.mach.hon R.HDR_STATUS_READY .seed = true ∧ s.mach.hon R.HDR_STATUS_READY .ddr ch.n.val = false ∧ dimmOk ch.dimm = true) (edit up (fun m => (m.hset R.HDR_STATUS_READY .ddr 0 3).set R.DDR_TRAIN_SELF_REFRESH 1 3)) ⟨3, ⟨true, true, 10, 64, 2⟩⟩) ∧
    ((fun (s : State) (ch : DdrChan) =>
      s.mach.get R.PKG_COMPAT_COH_VER ≠ 0 ∧ s.mach.mode ≠ 9 ∧ s.mach.chanUsed ch.n.val = true ∧ s.mach.hon R.HDR_STATUS_READY .seed = true ∧ s.mach.hon R.HDR_STATUS_READY .ddr ch.n.val = false ∧ (ch.dimm.registered = false ∨ ch.dimm.x4 = false ∨ ch.dimm.devices ≠ 10 ∨ ch.dimm.gib ∉ [32#16, 64, 128, 256] ∨ ch.dimm.ranks ∉ [1#4, 2])) (edit up (fun m => (m.hset R.HDR_STATUS_READY .ddr 0 3).set R.DDR_TRAIN_SELF_REFRESH 1 3)) ⟨3, ⟨true, true, 10, 48, 2⟩⟩) ∧
    ((fun (s : State) (g : Fin 16) =>
      s.mach.get R.PKG_COMPAT_COH_VER ≠ 0 ∧ s.mach.mode ≠ 9 ∧ s.mach.hon R.HDR_CONTROL_ENABLE .pg g.val = true) up 15) ∧
    ((fun (s : State) (port : Fin 2) =>
      s.mach.get R.PKG_COMPAT_COH_VER ≠ 0 ∧ 2 ≤ s.mach.mode ∧ s.mach.mode ≠ 9 ∧ s.mach.hon R.HDR_CONTROL_ENABLE .guy port.val = true ∧ s.mach.hon R.HDR_STATUS_ENABLED .guy port.val = false ∧ s.mach.hon R.HDR_STATUS_STRUCK .guy port.val = false) (edit up (fun m => m.hset R.HDR_CONTROL_ENABLE .guy 1 1)) 1) ∧
    ((fun (s : State) (q : Fin 4) =>
      s.mach.get R.PKG_COMPAT_COH_VER ≠ 0 ∧ s.mach.mode ≠ 9 ∧ (s.mach.get R.PKG_RESET_CAUSE_LAST < 3 ∨ s.dev.moves = [] ∧ s.dev.queues = [] ∧ s.mach.on (R.SEED_REKEY_PAGE_VALID.at q.val) = false ∧ (s.mach.tq q.val).poisonLater = [] ∧ s.mach.on (R.LANT_STORE_STAT_PARTIAL.bit q.val) = false) ∧ s.mach.quadReady q.val = true ∧ s.mach.poolLo q.val < s.mach.poolHi q.val ∧ Idle s) up 1) ∧
    ((fun (s : State) =>
      s.mach.get R.PKG_COMPAT_COH_VER ≠ 0 ∧ s.mach.mode ≠ 9) up) := by
  decide +kernel

/-- What the clauses of LoadsComplete assume holds somewhere. -/
theorem witness_LoadsComplete :
    ((fun (s : State) (c : Cid) (rd : Fin 32) (va : Word) (lg : Fin 7) (kind : LoadKind) (ilen : Fin 17) (spa : Nat) =>
      Runs s c ∧ NoCount s c ∧ lg.val ≤ 3 ∧ kind ∈ [LoadKind.data, .speculative] ∧ Reaches (Alone s c (.load rd.val lg.val va.toNat kind ilen.val false)) c .load va.toNat spa 0 ∧ va.toNat % 4096 + 2 ^ lg.val ≤ 4096 ∧ spa % 64 + 2 ^ lg.val ≤ 64 ∧ Holds s c (spa / 64) ∧ c.core.val ∈ (s.mach.dl c.die.val (spa / 64)).l2 ∧ (c.core.val, false, va.toNat / 4096 % 2) ∈ (s.mach.dl c.die.val (spa / 64)).l1) (edit (hold .s run) (fun m => (m.modCore 0 (fun c => { c with sb := [⟨0x100A, 2, 0xABCD, 0, 2⟩] })).setDl 0 0x40 { m.dl 0 0x40 with l2 := [0, 3], l1 := [(0, false, 1)] })) ⟨0, 0⟩ 5 0x1008 3 .data 4 0x1008) ∧
    ((fun (s : State) (c : Cid) (rd : Fin 32) (va : Word) (lg : Fin 7) (kind : LoadKind) (ilen : Fin 17) (bs : List Nat) =>
      Runs s c ∧ kind ∈ [LoadKind.data, .speculative, .atomic] ∧ ReachesAll (Alone s c (.load rd.val lg.val va.toNat kind ilen.val false)) c (if kind = .atomic then .atomic else .load) va.toNat (2 ^ lg.val) bs 0 ∧ (∀ a ∈ bs, Holds s c (a / 64) ∧ (kind = .atomic → Owns s c (a / 64)))) (edit (hold .m run) (fun m => m.setSreg 0 0x101 0)) ⟨0, 0⟩ 5 0x1008 3 .atomic 4 ((List.range 8).map (0x1008 + ·))) ∧
    ((fun (s : State) (c : Cid) (va : Word) (lg : Fin 7) (ilen : Fin 17) (rd : Fin 32) (spa : Nat) =>
      Runs s c ∧ Reaches s.mach c .fetch va.toNat spa 0 ∧ va.toNat % 4096 + 2 ^ lg.val ≤ 4096 ∧ spa % 64 + 2 ^ lg.val ≤ 64 ∧ Holds s c (spa / 64) ∧ c.core.val ∈ (s.mach.dl c.die.val (spa / 64)).l2 ∧ (c.core.val, true, va.toNat / 4096 % 2) ∈ (s.mach.dl c.die.val (spa / 64)).l1) (edit (hold .s run) (fun m => m.setDl 0 0x40 { m.dl 0 0x40 with l2 := [0, 3], l1 := [(0, true, 1)] })) ⟨0, 0⟩ 0x1008 2 4 0 0x1008) ∧
    ((fun (s : State) (c : Cid) (va : Word) (lg : Fin 7) (ilen : Fin 17) (rd : Fin 32) (spa : Nat) =>
      Runs s c ∧ Reaches s.mach c .fetch va.toNat spa 0 ∧ va.toNat % 4096 + 2 ^ lg.val ≤ 4096 ∧ spa % 64 + 2 ^ lg.val ≤ 64 ∧ Holds s c (spa / 64)) (hold .s run) ⟨0, 0⟩ 0x1008 2 4 0 0x1008) ∧
    ((fun (s : State) (c : Cid) (rd : Fin 32) (va : Word) (lg : Fin 7) (ilen : Fin 17) (spa : Nat) (a : Access) =>
      Runs s c ∧ NoCount s c ∧ NoUncore s ∧ a = .load rd.val lg.val va.toNat .data ilen.val false ∧ Reaches (Alone s c a) c .load va.toNat spa 0 ∧ va.toNat % 4096 + 2 ^ lg.val ≤ 4096 ∧ spa % 64 + 2 ^ lg.val ≤ 64 ∧ s.mach.dl c.die.val (spa / 64) = noLine ∧ spa / 64 % 64 = 63 ∧ s.mach.flushing c.die.val (spa / 64) = false) run ⟨0, 0⟩ 5 0x1FC8 3 4 0x1FC8 (.load 5 3 0x1FC8 .data 4 false)) ∧
    ((fun (s : State) (c : Cid) (rd : Fin 32) (va : Word) (lg : Fin 7) (kind : LoadKind) (ilen : Fin 17) (spa : Nat) (a : Access) =>
      Runs s c ∧ a = .load rd.val lg.val va.toNat kind ilen.val false ∧ kind ∈ [LoadKind.data, .speculative, .atomic] ∧ Reaches (Alone s c a) c (if kind = .atomic then .atomic else .load) va.toNat spa 0 ∧ va.toNat % 4096 + 2 ^ lg.val ≤ 4096 ∧ spa % 64 + 2 ^ lg.val ≤ 64 ∧ (s.mach.dl c.die.val (spa / 64)).st = .i ∧ s.mach.flushing c.die.val (spa / 64) = false) run ⟨0, 0⟩ 5 0x1008 3 .speculative 4 0x1008 (.load 5 3 0x1008 .speculative 4 false)) ∧
    ((fun (s : State) (c : Cid) (rd : Fin 32) (va : Word) (lg : Fin 7) (ilen : Fin 17) (spa mt : Nat) =>
      Runs s c ∧ (s.mach.core (cidOf c)).sb = [] ∧ Reaches (Alone s c (.load rd.val lg.val va.toNat .data ilen.val false)) c .load va.toNat spa mt ∧ va.toNat % 4096 + 2 ^ lg.val ≤ 4096 ∧ 2 ≤ mt ∧ alignFault spa va.toNat lg.val mt false = none) run ⟨0, 0⟩ 5 0xFF000C000128 3 4 0xFF000C000128 3) ∧
    ((fun (s : State) (c : Cid) (rd : Fin 32) (va : Word) (lg : Fin 7) (ilen : Fin 17) (spa : Nat) =>
      Runs s c ∧ NoCount s c ∧ (s.mach.core (cidOf c)).sb = [] ∧ lg.val ≤ 3 ∧ Reaches (Alone s c (.load rd.val lg.val va.toNat .data ilen.val false)) c .load va.toNat spa 1 ∧ va.toNat % 4096 + 2 ^ lg.val ≤ 4096 ∧ (0xFF0010000000 ≤ spa ∧ spa + 2 ^ lg.val ≤ 0xFF0010400000)) (edit run (fun m => (m.set R.PKG_BOOT_WINDOW_VALID 1).setByte (2 ^ 48 + 5) 0x77)) ⟨0, 0⟩ 5 0xFF0010000004 2 4 0xFF0010000004) ∧
    ((fun (s : State) (c : Cid) (a d : Fin 32) (x : Fin 4) (va spa : Nat) =>
      Runs s c ∧ NoCount s c ∧ va = s.mach.gpr (cidOf c) a.val ∧ va % 2 ^ x.val = 0 ∧ Reaches (Alone s c (.load d.val x.val va .data 4 true)) c .load va spa 0 ∧ spa % 64 + 2 ^ x.val ≤ 64 ∧ Holds s c (spa / 64) ∧ c.core.val ∈ (s.mach.dl c.die.val (spa / 64)).l2 ∧ (c.core.val, false, va / 4096 % 2) ∈ (s.mach.dl c.die.val (spa / 64)).l1) (edit (hold .m run) (fun m => (m.setGpr 0 7 0x1010).setDl 0 0x40 { m.dl 0 0x40 with l2 := [0], l1 := [(0, false, 1)] })) ⟨0, 0⟩ 7 7 2 0x1010 0x1010) ∧
    ((fun (s : State) (c : Cid) (a d : Fin 32) (x : Fin 4) (va spa : Nat) =>
      Runs s c ∧ va = s.mach.gpr (cidOf c) a.val ∧ va % 2 ^ x.val = 0 ∧ Reaches (Alone s c (.load d.val x.val va .data 4 true)) c .load va spa 0 ∧ spa % 64 + 2 ^ x.val ≤ 64 ∧ Holds s c (spa / 64)) (edit (hold .s run) (fun m => m.setGpr 0 7 0x1010)) ⟨0, 0⟩ 7 8 3 0x1010 0x1010) ∧
    ((fun (s : State) (c : Cid) (rd lg va ilen spa : Nat) (kind : LoadKind) (acq : Bool) =>
      Ready s c ∧ lg ≤ 3 ∧ kind ≠ .fetch ∧ (s.mach.core (cidOf c)).flight = [⟨.load rd lg va kind ilen acq, .dropped⟩] ∧ va % 2 ^ lg = 0 ∧ Reaches (Alone s c (.load rd lg va .data ilen acq)) c .load va spa 0 ∧ spa % 64 + 2 ^ lg ≤ 64 ∧ Holds s c (spa / 64)) (edit (hold .s run) (fun m => m.setFlight 0 [⟨.load 3 3 0x1008 .speculative 4 false, .dropped⟩])) ⟨0, 0⟩ 3 3 0x1008 4 0x1008 .speculative false) ∧
    ((fun (s : State) (c : Cid) (rd lg va ilen spa : Nat) (kind : LoadKind) (acq : Bool) =>
      Ready s c ∧ kind ≠ .fetch ∧ (s.mach.core (cidOf c)).flight = [⟨.load rd lg va kind ilen acq, .dropped⟩] ∧ Reaches (Alone s c (.load rd lg va .data ilen acq)) c .load va spa 0 ∧ va % 2 ^ lg = 0 ∧ va % 4096 + 2 ^ lg ≤ 4096 ∧ spa % 64 + 2 ^ lg ≤ 64 ∧ (s.mach.dl c.die.val (spa / 64)).st = .i ∧ s.mach.flushing c.die.val (spa / 64) = false) (edit run (fun m => m.setFlight 0 [⟨.load 3 3 0x1008 .speculative 4 false, .dropped⟩])) ⟨0, 0⟩ 3 3 0x1008 4 0x1008 .speculative false) ∧
    ((fun (s : State) (c : Cid) (rd : Fin 32) (va : Word) (lg : Fin 7) (ilen : Fin 17) =>
      Runs s c ∧ NoCount s c ∧ (s.mach.core (cidOf c)).sb = [] ∧ lg.val ≤ 3 ∧ s.mach.hon R.HDR_STATUS_COMMIT_PENDING .core c.core.val c.die.val = false ∧ s.mach.sreg (cidOf c) 0x041 % 2 = 1 ∧ 2 ^ 56 ≤ va.toNat) (edit run (fun m => m.setSreg 0 0x041 1)) ⟨0, 0⟩ 5 0x100000000001008 3 4) := by
  decide +kernel

/-- What the clauses of StoresComplete assume holds somewhere. -/
theorem witness_StoresComplete :
    ((fun (s : State) (c : Cid) (rs : Fin 32) (va : Word) (lg : Fin 7) (ilen : Fin 17) (spa : Nat) =>
      Runs s c ∧ NoCount s c ∧ lg.val ≤ 3 ∧ (s.mach.core (cidOf c)).sb.length < 64 ∧ Reaches (s.mach.setFlight (cidOf c) []) c .store va.toNat spa 0 ∧ va.toNat % 4096 + 2 ^ lg.val ≤ 4096 ∧ spa % 64 + 2 ^ lg.val ≤ 64 ∧ Owns s c (spa / 64) ∧ InL1 s c (spa / 64) va.toNat) (edit (hold .m run) (fun m => (m.setGpr 0 7 0x1234567812345678).setDl 0 0x40 { m.dl 0 0x40 with l2 := [0], l1 := [(0, false, 1)] })) ⟨0, 0⟩ 7 0x1004 2 4 0x1004) ∧
    ((fun (s : State) (c : Cid) (rs : Fin 32) (va : Word) (lg : Fin 7) (ilen : Fin 17) (bs : List Nat) =>
      Runs s c ∧ lg.val ≤ 3 ∧ (s.mach.core (cidOf c)).sb.length + 8 ≤ 64 ∧ ReachesAll (s.mach.setFlight (cidOf c) []) c .store va.toNat (2 ^ lg.val) bs 0 ∧ (∀ a ∈ bs, Owns s c (a / 64))) (edit (hold .m run) (fun m => (m.setGpr 0 7 0x1234567812345678).setDl 0 0x41 (m.dl 0 0x40))) ⟨0, 0⟩ 7 0x103E 2 4 [0x103E, 0x103F, 0x1040, 0x1041]) ∧
    ((fun (s : State) (c : Cid) (rs : Fin 32) (va : Word) (lg : Fin 7) (ilen : Fin 17) (spa : Nat) (st : LSt) =>
      Runs s c ∧ NoCount s c ∧ NoUncore s ∧ Reaches (s.mach.setFlight (cidOf c) []) c .store va.toNat spa 0 ∧ va.toNat % 4096 + 2 ^ lg.val ≤ 4096 ∧ spa % 64 + 2 ^ lg.val ≤ 64 ∧ spa / 64 % 64 = 63 ∧ (s.mach.dl c.die.val (spa / 64)).st = st ∧ st ∈ [LSt.i, .s, .o] ∧ (s.mach.dl c.die.val (spa / 64)).wait = [] ∧ s.mach.flushing c.die.val (spa / 64) = false) run ⟨0, 0⟩ 7 0x1FC4 2 4 0x1FC4 .i) ∧
    ((fun (s : State) (c : Cid) (rs : Fin 32) (va : Word) (lg : Fin 7) (ilen : Fin 17) (spa : Nat) (st : LSt) =>
      Runs s c ∧ Reaches (s.mach.setFlight (cidOf c) []) c .store va.toNat spa 0 ∧ va.toNat % 4096 + 2 ^ lg.val ≤ 4096 ∧ spa % 64 + 2 ^ lg.val ≤ 64 ∧ (s.mach.dl c.die.val (spa / 64)).st = st ∧ st ∈ [LSt.i, .s, .o] ∧ s.mach.flushing c.die.val (spa / 64) = false) (hold .o run) ⟨0, 0⟩ 7 0x1004 2 4 0x1004 .o) ∧
    ((fun (s : State) (c : Cid) (rs : Fin 32) (va : Word) (lg : Fin 7) (ilen : Fin 17) (spa mt : Nat) =>
      Runs s c ∧ NoCount s c ∧ (s.mach.core (cidOf c)).sb = [] ∧ (s.mach.core (cidOf c)).trk.length < 16 ∧ Reaches (s.mach.setFlight (cidOf c) []) c .store va.toNat spa mt ∧ va.toNat % 4096 + 2 ^ lg.val ≤ 4096 ∧ mt ∈ [2, 3] ∧ alignFault spa va.toNat lg.val mt false = none) (edit run (fun m => m.setGpr 0 7 8)) ⟨0, 0⟩ 7 0xFF000C000108 3 4 0xFF000C000108 3) ∧
    ((fun (s : State) (c : Cid) (rs : Fin 32) (va : Word) (lg : Fin 7) (ilen : Fin 17) (spa mt : Nat) =>
      Runs s c ∧ 16 ≤ (s.mach.core (cidOf c)).trk.length ∧ Reaches (s.mach.setFlight (cidOf c) []) c .store va.toNat spa mt ∧ va.toNat % 4096 + 2 ^ lg.val ≤ 4096 ∧ mt ∈ [2, 3] ∧ alignFault spa va.toNat lg.val mt false = none) (edit run (fun m => m.modCore 0 (fun c => { c with trk := List.replicate 16 ⟨0xFF0030000000, 3, 2⟩ }))) ⟨0, 0⟩ 7 0xFF000C000108 3 4 0xFF000C000108 3) ∧
    ((fun (s : State) (c : Cid) (a b : Fin 32) (x : Fin 4) (va spa : Nat) =>
      Runs s c ∧ NoCount s c ∧ (s.mach.core (cidOf c)).sb = [] ∧ va = s.mach.gpr (cidOf c) a.val ∧ va % 2 ^ x.val = 0 ∧ Reaches (s.mach.setFlight (cidOf c) []) c .store va spa 0 ∧ spa % 64 + 2 ^ x.val ≤ 64 ∧ s.mach.canStore (cidOf c) (spa / 64) = true ∧ InL1 s c (spa / 64) va ∧ (s.mach.dl c.die.val (spa / 64)).poison = false ∧ (s.mach.dl c.die.val (spa / 64)).dur = false) (edit (hold .e run) (fun m => ((m.setGpr 0 7 0xABCD).setGpr 0 8 0x1010).setDl 0 0x40 { m.dl 0 0x40 with l2 := [0], l1 := [(0, false, 1)] })) ⟨0, 0⟩ 8 7 1 0x1010 0x1010) ∧
    ((fun (s : State) (c : Cid) (a b : Fin 32) (x : Fin 4) (va spa : Nat) =>
      Runs s c ∧ (s.mach.core (cidOf c)).sb = [] ∧ va = s.mach.gpr (cidOf c) a.val ∧ va % 2 ^ x.val = 0 ∧ Reaches (s.mach.setFlight (cidOf c) []) c .store va spa 0 ∧ spa % 64 + 2 ^ x.val ≤ 64 ∧ Owns s c (spa / 64)) (edit (hold .e run) (fun m => (m.setGpr 0 7 0xABCD).setGpr 0 8 0x1010)) ⟨0, 0⟩ 8 7 1 0x1010 0x1010) ∧
    ((fun (s : State) (c : Cid) (index : Fin 64) (e : SbEntry) =>
      s.mach.dieUp c.die.val = true ∧ (s.mach.core (cidOf c)).sb[index.val]? = some e ∧ (∀ x ∈ (s.mach.core (cidOf c)).sb.take index.val, x.spa / 64 ≠ e.spa / 64) ∧ e.mtype = 0 ∧ s.mach.canStore (cidOf c) (e.spa / 64) = true ∧ e.spa % 64 + e.n ≤ 64 ∧ (1 ≤ e.n ∧ e.n ≤ 8) ∧ c.core.val ∈ (s.mach.dl c.die.val (e.spa / 64)).l2 ∧ (s.mach.dl c.die.val (e.spa / 64)).poison = false ∧ (s.mach.dl c.die.val (e.spa / 64)).dur = false) (edit (hold .e run) (fun m => (m.setDl 0 0x40 { m.dl 0 0x40 with l2 := [0, 3] }).modCore 0 (fun c => { c with sb := [⟨0x1040, 8, 5, 0, 2⟩, ⟨0x1010, 4, 0xA0B0C0D0, 0, 2⟩] }))) ⟨0, 0⟩ 1 ⟨0x1010, 4, 0xA0B0C0D0, 0, 2⟩) ∧
    ((fun (s : State) (c : Cid) (index : Fin 64) (e : SbEntry) =>
      s.mach.dieUp c.die.val = true ∧ (s.mach.core (cidOf c)).sb[index.val]? = some e ∧ (∀ x ∈ (s.mach.core (cidOf c)).sb.take index.val, x.spa / 64 ≠ e.spa / 64) ∧ e.mtype = 0 ∧ s.mach.canStore (cidOf c) (e.spa / 64) = true ∧ e.spa % 64 + e.n ≤ 64 ∧ (1 ≤ e.n ∧ e.n ≤ 8)) (edit (hold .e run) (fun m => (m.setDl 0 0x40 { m.dl 0 0x40 with dur := true }).modCore 0 (fun c => { c with sb := [⟨0x1010, 4, 0xA0B0C0D0, 0, 2⟩] }))) ⟨0, 0⟩ 0 ⟨0x1010, 4, 0xA0B0C0D0, 0, 2⟩) ∧
    ((fun (s : State) (c : Cid) (index : Fin 64) (e : SbEntry) (st : LSt) =>
      s.mach.dieUp c.die.val = true ∧ (s.mach.core (cidOf c)).sb[index.val]? = some e ∧ (∀ x ∈ (s.mach.core (cidOf c)).sb.take index.val, x.spa / 64 ≠ e.spa / 64) ∧ e.mtype = 0 ∧ (s.mach.dl c.die.val (e.spa / 64)).st = st ∧ st ∈ [LSt.i, .s, .o] ∧ s.mach.flushing c.die.val (e.spa / 64) = false ∧ s.mach.asleep (pageOf e.spa) = false) (edit run (fun m => m.modCore 0 (fun c => { c with sb := [⟨0x1010, 4, 0xA0B0C0D0, 0, 2⟩] }))) ⟨0, 0⟩ 0 ⟨0x1010, 4, 0xA0B0C0D0, 0, 2⟩ .i) := by
  decide +kernel

/-- What the clauses of FencesAndDursyncComplete assume holds somewhere. -/
theorem witness_FencesAndDursyncComplete :
    ((fun (s : State) (c : Cid) =>
      Runs s c ∧ NoCount s c ∧ (s.mach.core (cidOf c)).sb = [] ∧ s.mach.fenceDone (cidOf c) = true) run ⟨0, 0⟩) ∧
    ((fun (s : State) (c : Cid) =>
      Runs s c ∧ NoCount s c ∧ (s.mach.core (cidOf c)).sb = [] ∧ s.mach.fenceDone (cidOf c) = false) (edit run (fun m => m.modCore 0 (fun c => { c with maint := [0x40] }))) ⟨0, 0⟩) ∧
    ((fun (s : State) (c : Cid) =>
      Runs s c ∧ (s.mach.drainAll (cidOf c)).fenceDone (cidOf c) = true) (edit (hold .e run) (fun m => m.modCore 0 (fun c => { c with sb := [⟨0x1010, 4, 5, 0, 2⟩] }))) ⟨0, 0⟩) ∧
    ((fun (s : State) (c : Cid) =>
      Runs s c ∧ NoCount s c) run ⟨0, 0⟩) ∧
    ((fun (s : State) (c : Cid) (e : SbEntry) =>
      Runs s c ∧ NoCount s c ∧ (s.mach.core (cidOf c)).sb = [e] ∧ e.mtype = 0 ∧ s.mach.canStore (cidOf c) (e.spa / 64) = true ∧ e.spa % 64 + e.n ≤ 64 ∧ (1 ≤ e.n ∧ e.n ≤ 8) ∧ c.core.val ∈ (s.mach.dl c.die.val (e.spa / 64)).l2 ∧ (s.mach.dl c.die.val (e.spa / 64)).poison = false ∧ (s.mach.dl c.die.val (e.spa / 64)).dur = false) (edit (hold .e run) (fun m => (m.setDl 0 0x40 { m.dl 0 0x40 with l2 := [0, 3] }).modCore 0 (fun c => { c with sb := [⟨0x1010, 4, 0xA0B0C0D0, 0, 2⟩] }))) ⟨0, 0⟩ ⟨0x1010, 4, 0xA0B0C0D0, 0, 2⟩) ∧
    ((fun (s : State) (c : Cid) =>
      Runs s c) (edit run (fun m => m.modCore 0 (fun c => { c with sb := [⟨0x1010, 4, 5, 0, 2⟩] }))) ⟨0, 0⟩) ∧
    ((fun (s : State) (c : Cid) =>
      Runs s c ∧ NoCount s c ∧ (s.mach.core (cidOf c)).sb = [] ∧ s.mach.fenceDone (cidOf c) = true ∧ (s.mach.core (cidOf c)).trk = [] ∧ (∀ d ∈ s.dev.devq, d.cid = cidOf c → d.k = 1 → d.port ≠ none) ∧ (s.mach.core (cidOf c)).dfail = none) run ⟨0, 0⟩) ∧
    ((fun (s : State) (c : Cid) (f : DevFail) =>
      Runs s c ∧ NoCount s c ∧ (s.mach.core (cidOf c)).sb = [] ∧ s.mach.fenceDone (cidOf c) = true ∧ (s.mach.core (cidOf c)).trk = [] ∧ (∀ d ∈ s.dev.devq, d.cid = cidOf c → d.k = 1 → d.port ≠ none) ∧ (s.mach.core (cidOf c)).dfail = some f ∧ (s.mach.core (cidOf c)).pl = 2 ∧ s.mach.hon R.HDR_STATUS_COMMIT_PENDING .core c.core.val c.die.val = false) (edit run (fun m => m.modCore 0 (fun c => { c with dfail := some ⟨0xFF0030000000, 1, 3, 0, 2⟩ }))) ⟨0, 0⟩ ⟨0xFF0030000000, 1, 3, 0, 2⟩) ∧
    ((fun (s : State) (c : Cid) (d : Fin 32) =>
      Runs s c ∧ s.mach.mode ≠ 8 ∧ (s.mach.core (cidOf c)).sb = [] ∧ (s.mach.core (cidOf c)).dwl = [] ∧ (s.mach.core (cidOf c)).sync = none) run ⟨0, 0⟩ 3) ∧
    ((fun (s : State) (c : Cid) (d : Fin 32) (l : Nat) =>
      Runs s c ∧ NoCount s c ∧ s.mach.mode ≠ 8 ∧ (s.mach.core (cidOf c)).sb = [] ∧ (s.mach.core (cidOf c)).dwl = [l] ∧ (s.mach.core (cidOf c)).dwPend = [] ∧ (s.mach.core (cidOf c)).dwCount = [] ∧ (s.mach.core (cidOf c)).sync = none ∧ (s.mach.dl c.die.val l).poison = false) (edit (hold .m run) (fun m => m.modCore 0 (fun c => { c with dwl := [0x40] }))) ⟨0, 0⟩ 3 0x40) ∧
    ((fun (s : State) (c : Cid) (d : Fin 32) =>
      Runs s c ∧ s.mach.mode = 8 ∧ (s.mach.core (cidOf c)).sync = none) (sets run [(R.PKG_MODE_MODE, 8)]) ⟨0, 0⟩ 3) ∧
    ((fun (s : State) (c : Cid) (d : Fin 32) (y : SyncSt) =>
      Runs s c ∧ s.mach.mode ≠ 8 ∧ (s.mach.core (cidOf c)).sb = [] ∧ (s.mach.core (cidOf c)).dwl = [] ∧ (s.mach.core (cidOf c)).dwCount = [] ∧ (s.mach.core (cidOf c)).sync = some y) (edit run (fun m => m.modCore 0 (fun c => { c with sync := some ⟨[1, 2], 5, false⟩ }))) ⟨0, 0⟩ 3 ⟨[1, 2], 5, false⟩) ∧
    ((fun (s : State) (c : Cid) (y : SyncSt) =>
      NoCount s c ∧ (s.mach.core (cidOf c)).sync = some y ∧ y.homes = [] ∧ y.here = true) (edit run (fun m => m.modCore 0 (fun c => { c with sync := some ⟨[], 5, true⟩, lost := some 0x40 }))) ⟨0, 0⟩ ⟨[], 5, true⟩) := by
  decide +kernel

/-- What the clauses of CacheMaintenanceAndTlbi assume holds somewhere. -/
theorem witness_CacheMaintenanceAndTlbi :
    ((fun (s : State) (c : Cid) (a : Fin 32) (x : DieLine) (spa : Nat) =>
      Runs s c ∧ Reaches (s.mach.setFlight (cidOf c) []) c .load (s.mach.gpr (cidOf c) a.val) spa 0 ∧ x = s.mach.dl c.die.val (spa / 64) ∧ x.st ∈ [LSt.m, .o] ∧ s.mach.flushing c.die.val (spa / 64) = false ∧ (∀ e ∈ (s.mach.core (cidOf c)).sb, e.spa / 64 ≠ spa / 64) ∧ x.writers = []) (edit (hold .m run) (fun m => m.setGpr 0 7 0x1010)) ⟨0, 0⟩ 7 ((hold .m run).mach.dl 0 0x40) 0x1010) ∧
    ((fun (s : State) (c : Cid) (a : Fin 32) (x : DieLine) (spa : Nat) =>
      Runs s c ∧ (s.mach.core (cidOf c)).pl = 2 ∧ Reaches (s.mach.setFlight (cidOf c) []) c .inv (s.mach.gpr (cidOf c) a.val) spa 0 ∧ x = s.mach.dl c.die.val (spa / 64) ∧ x.st ∈ [LSt.m, .o, .e, .s] ∧ s.mach.flushing c.die.val (spa / 64) = false ∧ (∀ e ∈ (s.mach.core (cidOf c)).sb, e.spa / 64 ≠ spa / 64)) (edit (hold .m run) (fun m => ((m.setGpr 0 7 0x1010).setDl 0 0x40 { m.dl 0 0x40 with writers := [0] }).modCore 0 (fun c => { c with dwl := [0x40, 0x41] }))) ⟨0, 0⟩ 7 { (hold .m run).mach.dl 0 0x40 with writers := [0] } 0x1010) ∧
    ((fun (s : State) (c : Cid) (a : Fin 32) (x : DieLine) (spa : Nat) =>
      Runs s c ∧ Reaches (s.mach.setFlight (cidOf c) []) c .load (s.mach.gpr (cidOf c) a.val) spa 0 ∧ x = s.mach.dl c.die.val (spa / 64) ∧ x.st ∈ [LSt.m, .o, .e, .s] ∧ s.mach.flushing c.die.val (spa / 64) = false ∧ (∀ e ∈ (s.mach.core (cidOf c)).sb, e.spa / 64 ≠ spa / 64) ∧ x.writers = []) (edit (hold .o run) (fun m => m.setGpr 0 7 0x1010)) ⟨0, 0⟩ 7 ((hold .o run).mach.dl 0 0x40) 0x1010) ∧
    ((fun (s : State) (c : Cid) (a : Fin 32) (i : Instr) (op : Nat) (x : DieLine) (spa : Nat) =>
      Runs s c ∧ (i, op) ∈ [(Instr.clnL c a, 0), (.invL c a, 1), (.clninvL c a, 2)] ∧ (op = 1 → (s.mach.core (cidOf c)).pl = 2) ∧ Reaches (s.mach.setFlight (cidOf c) []) c (if op = 1 then .inv else .load) (s.mach.gpr (cidOf c) a.val) spa 0 ∧ x = s.mach.dl c.die.val (spa / 64) ∧ isStableSt x.st = true ∧ s.mach.flushing c.die.val (spa / 64) = false ∧ (∀ e ∈ (s.mach.core (cidOf c)).sb, e.spa / 64 ≠ spa / 64) ∧ (op ≠ 1 → x.writers = []) ∧ (if op = 0 then x.st ≠ .m ∧ x.st ≠ .o else x.st = .i)) (edit (hold .e run) (fun m => m.setGpr 0 7 0x1010)) ⟨0, 0⟩ 7 (.clnL ⟨0, 0⟩ 7) 0 ((hold .e run).mach.dl 0 0x40) 0x1010) ∧
    ((fun (s : State) (c : Cid) (a : Fin 32) (i : Instr) (op : Nat) (x : DieLine) (spa : Nat) =>
      Runs s c ∧ NoCount s c ∧ (i, op) ∈ [(Instr.clnL c a, 0), (.clninvL c a, 2)] ∧ Reaches (s.mach.setFlight (cidOf c) []) c .load (s.mach.gpr (cidOf c) a.val) spa 0 ∧ x = s.mach.dl c.die.val (spa / 64) ∧ isStableSt x.st = true ∧ s.mach.flushing c.die.val (spa / 64) = false ∧ (∀ e ∈ (s.mach.core (cidOf c)).sb, e.spa / 64 ≠ spa / 64) ∧ x.writers = [cidOf c] ∧ x.poison = false ∧ spa / 64 ∉ (s.mach.core (cidOf c)).dwPend) (edit (hold .m run) (fun m => (m.setGpr 0 7 0x1010).setDl 0 0x40 { m.dl 0 0x40 with writers := [0] })) ⟨0, 0⟩ 7 (.clnL ⟨0, 0⟩ 7) 0 { (hold .m run).mach.dl 0 0x40 with writers := [0] } 0x1010) ∧
    ((fun (s : State) (c : Cid) (a : Fin 32) (i : Instr) (op spa mt : Nat) =>
      Runs s c ∧ NoCount s c ∧ (i, op) ∈ [(Instr.clnL c a, 0), (.invL c a, 1), (.clninvL c a, 2)] ∧ (op = 1 → (s.mach.core (cidOf c)).pl = 2) ∧ Reaches (s.mach.setFlight (cidOf c) []) c (if op = 1 then .inv else .load) (s.mach.gpr (cidOf c) a.val) spa mt ∧ mt ≠ 0) (edit run (fun m => m.setGpr 0 7 0xFF000C000000)) ⟨0, 0⟩ 7 (.clnL ⟨0, 0⟩ 7) 0 0xFF000C000000 3) ∧
    ((fun (s : State) (c : Cid) (a : Fin 32) (i : Instr) (op spa : Nat) =>
      Runs s c ∧ (i, op) ∈ [(Instr.clnL c a, 0), (.invL c a, 1), (.clninvL c a, 2)] ∧ (op = 1 → (s.mach.core (cidOf c)).pl = 2) ∧ Reaches (s.mach.setFlight (cidOf c) []) c (if op = 1 then .inv else .load) (s.mach.gpr (cidOf c) a.val) spa 0 ∧ (isStableSt (s.mach.dl c.die.val (spa / 64)).st = false ∨ s.mach.flushing c.die.val (spa / 64) = true)) (edit (hold .isd run) (fun m => m.setGpr 0 7 0x1010)) ⟨0, 0⟩ 7 (.clninvL ⟨0, 0⟩ 7) 2 0x1010) ∧
    ((fun (s : State) (c : Cid) (a b : Fin 32) (i : Instr) (op tag off : Nat) =>
      Runs s c ∧ (s.mach.core (cidOf c)).pl = 2 ∧ (s.mach.core (cidOf c)).sb = [] ∧ (i, op, tag, off) ∈ [(Instr.tlbiVa c a b, 0, s.mach.gpr (cidOf c) b.val % 2 ^ 16, s.mach.gpr (cidOf c) a.val % 2 ^ 48), (.tlbiTag c a, 1, s.mach.gpr (cidOf c) a.val % 2 ^ 16, 0), (.tlbiAll c, 2, 0, 0)]) (edit run (fun m => m.setGpr 0 7 0x12345)) ⟨0, 0⟩ 7 8 (.tlbiTag ⟨0, 0⟩ 7) 1 0x2345 0) ∧
    ((fun (s : State) (c : Cid) (a b : Fin 32) (w : Nat) (m0 : Mach) =>
      Runs s c ∧ (s.mach.core (cidOf c)).pl = 1 ∧ (s.mach.core (cidOf c)).sb = [] ∧ m0 = s.mach.setFlight (cidOf c) [] ∧ (m0.walkRead (cidOf c) (bitsOf (s.mach.sreg (cidOf c) 0x040) 12 36 * 4096 + 16 * bitsOf (s.mach.gpr (cidOf c) a.val) 48 8) 0xF 0xF (s.mach.gpr (cidOf c) a.val)).1 = m0 ∧ (m0.walkRead (cidOf c) (bitsOf (s.mach.sreg (cidOf c) 0x040) 12 36 * 4096 + 16 * bitsOf (s.mach.gpr (cidOf c) a.val) 48 8) 0xF 0xF (s.mach.gpr (cidOf c) a.val)).2.toOption = some w) (edit (hold .s (runAt 1)) (fun m => (((m.setGpr 0 7 5).setSreg 0 0x040 0x1000).setDl 0 0x40 { m.dl 0 0x40 with l2 := [0] }))) ⟨0, 0⟩ 7 8 0x1111111111111111 (edit (hold .s (runAt 1)) (fun m => (((m.setGpr 0 7 5).setSreg 0 0x040 0x1000).setDl 0 0x40 { m.dl 0 0x40 with l2 := [0] }))).mach) ∧
    ((fun (s : State) (die : Fin 12) (g : Msg) (t : Tlbi) =>
      s.dev.net.find? (fun g => g.k == .tlbiReq && g.dst == die.val) = some g ∧ s.dev.tlbis.find? (fun t => t.id == g.aux) = some t ∧ (∀ e ∈ s.dev.cores, e.2.sb = [] ∧ e.2.maint = [] ∧ bitsOf (s.mach.sreg e.1 0x101) 0 8 = 0) ∧ (∀ d ∈ s.dev.devq, d.rd = none)) (edit run (fun m => { m.modCore 0 (fun c => { c with tlb := [⟨5, 0, 4096, 0, 15, 0⟩, ⟨6, 0, 4096, 0, 15, 0⟩], segc := [(0, (5 * 2 ^ 48 + 1, 1))] }) with tlbis := [⟨1, 32, 1, 5, 0, [0, 1], [0, 1], true⟩], net := [{ k := .tlbiReq, src := 1, dst := 0, line := 2 ^ 42, aux := 1 }] })) 0 { k := .tlbiReq, src := 1, dst := 0, line := 2 ^ 42, aux := 1 } ⟨1, 32, 1, 5, 0, [0, 1], [0, 1], true⟩) ∧
    ((fun (s : State) (die : Fin 12) (g : Msg) (t : Tlbi) =>
      s.dev.net.find? (fun g => g.k == .tlbiReq && g.dst == die.val) = some g ∧ s.dev.tlbis.find? (fun t => t.id == g.aux) = some t ∧ (∃ e ∈ s.dev.cores, e.1 / 32 = die.val ∧ e.1 % 32 < 20 ∧ s.dev.cores.find e.1 = some e.2 ∧ (e.2.maint ≠ [] ∨ s.mach.devLoading e.1 = true))) (edit run (fun m => { m.modCore 0 (fun c => { c with maint := [0x40] }) with tlbis := [⟨1, 32, 1, 5, 0, [0, 1], [0, 1], true⟩], net := [{ k := .tlbiReq, src := 1, dst := 0, line := 2 ^ 42, aux := 1 }] })) 0 { k := .tlbiReq, src := 1, dst := 0, line := 2 ^ 42, aux := 1 } ⟨1, 32, 1, 5, 0, [0, 1], [0, 1], true⟩) ∧
    ((fun (s : State) (die : Fin 12) (g : Msg) (t : Tlbi) =>
      s.dev.net.find? (fun g => g.k == .tlbiAck && g.src == die.val) = some g ∧ s.dev.tlbis.find? (fun t => t.id == g.aux) = some t ∧ t.acks.filter (· != die.val) ≠ []) (edit run (fun m => { m with tlbis := [⟨1, 0, 1, 5, 0, [], [0, 1], true⟩], net := [{ k := .tlbiAck, src := 1, dst := 12, line := 2 ^ 42, aux := 1 }] })) 1 { k := .tlbiAck, src := 1, dst := 12, line := 2 ^ 42, aux := 1 } ⟨1, 0, 1, 5, 0, [], [0, 1], true⟩) ∧
    ((fun (s : State) (die : Fin 12) (g : Msg) (t : Tlbi) =>
      s.dev.net.find? (fun g => g.k == .tlbiAck && g.src == die.val) = some g ∧ s.dev.tlbis.find? (fun t => t.id == g.aux) = some t ∧ t.acks.filter (· != die.val) = [] ∧ bitsOf (s.mach.sreg t.cid 0x101) 0 8 = 0) (edit run (fun m => { m with tlbis := [⟨1, 0, 1, 5, 0, [], [1], true⟩], net := [{ k := .tlbiAck, src := 1, dst := 12, line := 2 ^ 42, aux := 1 }] })) 1 { k := .tlbiAck, src := 1, dst := 12, line := 2 ^ 42, aux := 1 } ⟨1, 0, 1, 5, 0, [], [1], true⟩) ∧
    ((fun (s : State) (c : Cid) (a b : Fin 32) (i : Instr) =>
      Runs s c ∧ NoCount s c ∧ (s.mach.core (cidOf c)).sb = [] ∧ s.mach.hon R.HDR_STATUS_COMMIT_PENDING .core c.core.val c.die.val = false ∧ (i ∈ [Instr.invL c a, .tlbiTag c a, .tlbiAll c] ∧ (s.mach.core (cidOf c)).pl < 2 ∨ i ∈ [Instr.tlbiVa c a b, .eret c, .waitInsn c] ∧ (s.mach.core (cidOf c)).pl < 1)) (runAt 0) ⟨0, 0⟩ 7 8 (.tlbiVa ⟨0, 0⟩ 7 8)) := by
  decide +kernel

/-- What the clauses of SystemRegistersComplete assume holds somewhere. -/
theorem witness_SystemRegistersComplete :
    ((fun (s : State) (c : Cid) (sreg : BitVec 10) (d : Fin 32) =>
      Runs s c ∧ NoCount s c ∧ sregKnown sreg.toNat = true ∧ s.mach.readLevel (cidOf c) sreg.toNat ≤ (s.mach.core (cidOf c)).pl) run ⟨0, 0⟩ 0x030 5) ∧
    ((fun (s : State) (c : Cid) (sreg : BitVec 10) (d : Fin 32) =>
      Runs s c ∧ NoCount s c ∧ sreg.toNat ∈ [0x011, 0x013, 0x021, 0x023, 0x030, 0x031, 0x100, 0x130, 0x131, 0x132, 0x133, 0x134] ∧ writeLevel sreg.toNat ≤ (s.mach.core (cidOf c)).pl) (edit run (fun m => m.setGpr 0 7 0xABCDEF0123456789)) ⟨0, 0⟩ 0x023 7) ∧
    ((fun (s : State) (c : Cid) (sreg : BitVec 10) (d : Fin 32) (n v g : Nat) =>
      Runs s c ∧ NoCount s c ∧ writeLevel sreg.toNat ≤ (s.mach.core (cidOf c)).pl ∧ g = s.mach.gpr (cidOf c) d.val ∧ n = sreg.toNat ∧ ((n = 0x010 ∨ n = 0x020) ∧ v = g / 4096 * 4096 ∨ (n = 0x014 ∨ n = 0x024) ∧ v = g % 8 ∨ n = 0x041 ∧ v = g % 2 ∨ (n = 0x012 ∨ n = 0x022) ∧ v = g % 2 ^ 18 + bitsOf g 19 29 * 2 ^ 19 ∨ n = 0x103 ∧ v = g % 2 ^ 7 ∨ n = 0x104 ∧ v = g % 2 ^ 11 ∨ n = 0x101 ∧ g % 2 ^ 8 = 0 ∧ bitsOf g 11 2 ≠ 3 ∧ v = g % 2 ^ 16 ∨ (0x110 ≤ n ∧ n ≤ 0x117) ∧ Mach.coreEvent (g % 2 ^ 12) = true ∧ v = g % 2 ^ 14 + bitsOf g 16 11 * 2 ^ 16 + bitsOf g 32 12 * 2 ^ 32 ∨ (0x110 ≤ n ∧ n ≤ 0x117) ∧ Mach.coreEvent (g % 2 ^ 12) = false ∧ v = s.mach.sreg (cidOf c) n % 2 ^ 12 + bitsOf g 12 2 * 2 ^ 12 + bitsOf g 16 11 * 2 ^ 16 + bitsOf g 32 12 * 2 ^ 32 ∨ (0x120 ≤ n ∧ n ≤ 0x127) ∧ v = g % 2 ^ 48 ∨ n = 0x142 ∧ v = g % 2 ^ 16 ∨ n = 0x140 ∧ (10 ≤ bitsOf g 1 5 ∧ bitsOf g 1 5 ≤ 24) ∧ v = g % 2 ^ 10 + (if bitsOf (s.mach.sreg (cidOf c) 0x140) 10 1 = 1 ∧ bitsOf g 10 1 = 0 then 2 ^ 10 else 0) ∨ n = 0x141 ∧ s.mach.sreg (cidOf c) 0x140 % 2 = 0 ∧ (6 ≤ g % 32 ∧ g % 32 ≤ 16) ∧ v = g % 32 + bitsOf g 12 36 * 4096 ∨ n = 0x102 ∧ v = s.mach.sreg (cidOf c) 0x102 - Nat.land (s.mach.sreg (cidOf c) 0x102) (Nat.land g 0xFF) ∨ n = 0x032 ∧ v = s.mach.sreg (cidOf c) 0x032 - Nat.land (s.mach.sreg (cidOf c) 0x032) g)) (edit run (fun m => (m.setGpr 0 7 0xF0).setSreg 0 0x032 0xFF)) ⟨0, 0⟩ 0x032 7 0x032 0xF 0xF0) ∧
    ((fun (s : State) (c : Cid) (sreg : BitVec 10) (d : Fin 32) =>
      Runs s c ∧ NoCount s c ∧ sreg = 0x040 ∧ 1 ≤ (s.mach.core (cidOf c)).pl) (edit run (fun m => m.setGpr 0 7 0x12345)) ⟨0, 0⟩ 0x040 7) ∧
    ((fun (s : State) (c : Cid) (sreg : BitVec 10) (d : Fin 32) =>
      Runs s c ∧ sreg ∈ [0x101#10, 0x140, 0x141] ∧ (s.mach.core (cidOf c)).pl = 2) (edit run (fun m => (m.setGpr 0 7 0x18FF).setSreg 0 0x140 1)) ⟨0, 0⟩ 0x141 7) ∧
    ((fun (s : State) (c : Cid) (sreg : BitVec 10) (d : Fin 32) =>
      Runs s c ∧ NoCount s c ∧ sreg.toNat ∈ [0x000, 0x050, 0x143, 0x144] ∧ writeLevel sreg.toNat ≤ (s.mach.core (cidOf c)).pl) (edit run (fun m => m.setGpr 0 7 0xF1)) ⟨0, 0⟩ 0 7) ∧
    ((fun (s : State) (c : Cid) (sreg : BitVec 10) (d : Fin 32) =>
      Runs s c ∧ NoCount s c ∧ sreg = 0x033 ∧ 1 ≤ (s.mach.core (cidOf c)).pl) (edit run (fun m => m.setGpr 0 7 0xF1)) ⟨0, 0⟩ 0x033 7) ∧
    ((fun (s : State) (c : Cid) (sreg : BitVec 10) (d : Fin 32) (i : Instr) =>
      Runs s c ∧ NoCount s c ∧ (s.mach.core (cidOf c)).sb = [] ∧ s.mach.hon R.HDR_STATUS_COMMIT_PENDING .core c.core.val c.die.val = false ∧ sregKnown sreg.toNat = false ∧ i ∈ [Instr.srr c sreg d, .srw c sreg d]) run ⟨0, 0⟩ 0x0FF 5 (.srw ⟨0, 0⟩ 0x0FF 5)) ∧
    ((fun (s : State) (c : Cid) (sreg : BitVec 10) (d : Fin 32) (i : Instr) =>
      Runs s c ∧ NoCount s c ∧ (s.mach.core (cidOf c)).sb = [] ∧ s.mach.hon R.HDR_STATUS_COMMIT_PENDING .core c.core.val c.die.val = false ∧ sregKnown sreg.toNat = true ∧ (i = .srr c sreg d ∧ (s.mach.core (cidOf c)).pl < s.mach.readLevel (cidOf c) sreg.toNat ∨ i = .srw c sreg d ∧ (s.mach.core (cidOf c)).pl < writeLevel sreg.toNat)) (runAt 1) ⟨0, 0⟩ 0x030 5 (.srr ⟨0, 0⟩ 0x030 5)) ∧
    ((fun (s : State) (c : Cid) (b : Nat) =>
      Runs s c ∧ NoCount s c ∧ s.mach.hon R.HDR_STATUS_COMMIT_PENDING .core c.core.val c.die.val = false ∧ 1 ≤ (s.mach.core (cidOf c)).pl ∧ b = 0x10 * (s.mach.core (cidOf c)).pl) (edit (runAt 1) (fun m => (m.setSreg 0 0x014 4).setSreg 0 0x011 0x2000)) ⟨0, 0⟩ 0x10) ∧
    ((fun (s : State) (c : Cid) (x : Fin 32) =>
      Runs s c ∧ NoCount s c ∧ (s.mach.core (cidOf c)).sb = [] ∧ s.mach.hon R.HDR_STATUS_COMMIT_PENDING .core c.core.val c.die.val = false ∧ (x.val = 1 ∨ x.val = 2) ∧ (s.mach.core (cidOf c)).pl < x.val) (runAt 0) ⟨0, 0⟩ 1) ∧
    ((fun (s : State) (c : Cid) =>
      Runs s c ∧ NoCount s c ∧ 1 ≤ (s.mach.core (cidOf c)).pl) run ⟨0, 0⟩) ∧
    ((fun (s : State) (c : Cid) (word : BitVec 32) =>
      Runs s c ∧ NoCount s c ∧ (s.mach.core (cidOf c)).sb = [] ∧ s.mach.hon R.HDR_STATUS_COMMIT_PENDING .core c.core.val c.die.val = false ∧ undefWord c word = true) run ⟨0, 0⟩ 0xF7F00000) ∧
    ((fun (s : State) (c : Cid) =>
      s.mach.dieUp c.die.val = true ∧ (s.mach.core (cidOf c)).run ∈ [RunState.running, .waiting] ∧ NoCount s c ∧ (s.mach.core (cidOf c)).sb = [] ∧ s.mach.hon R.HDR_STATUS_COMMIT_PENDING .core c.core.val c.die.val = false ∧ (s.mach.core (cidOf c)).ie = true ∧ s.mach.devLoading (cidOf c) = false ∧ Nat.land (s.mach.sreg (cidOf c) 0x032) (s.mach.sreg (cidOf c) 0x031) ≠ 0) (edit run (fun m => ((m.setSreg 0 0x032 1).setSreg 0 0x031 1).modCore 0 (fun c => { c with ie := true, run := .waiting }))) ⟨0, 0⟩) ∧
    ((fun (s : State) (src : Src) (c : Cid) =>
      MayWrite s src c.die.val .core c.core.val ∧ (s.mach.core (cidOf c)).run = .parked ∧ s.mach.mode ≠ 9) (edit up (fun m => (m.set R.CORE_ENTRY_ADDR 0x800 3 1).setSreg 35 0x032 5)) .mc ⟨1, 3⟩) ∧
    ((fun (s : State) (src : Src) (c : Cid) =>
      MayWrite s src c.die.val .core c.core.val ∧ ((s.mach.core (cidOf c)).run ≠ .parked ∨ s.mach.mode = 9)) run .mc ⟨0, 0⟩) ∧
    ((fun (s : State) (src : Src) (c : Cid) (bits : Word) =>
      MayWrite s src c.die.val .core c.core.val) (edit run (fun m => m.modCore 0 (fun c => { c with run := .waiting }))) .mc ⟨0, 0⟩ 0x10) := by
  decide +kernel

/-- What the clauses of DeviceAccessesComplete assume holds somewhere. -/
theorem witness_DeviceAccessesComplete :
    ((fun (s : State) (c : Cid) (port : Option (Fin 64)) (d : DevMsg) =>
      s.mach.devNext (cidOf c) = some d ∧ d.k = 0 ∧ (0xFF0000000000 ≤ d.spa ∧ d.spa < 0xFF0010000000) ∧ d.pl = 2 ∧ d.spa % 8 = 0 ∧ d.lg = 3 ∧ 2 ≤ s.mach.mode ∧ s.mach.mode ≠ 9 ∧ (s.mach.ctlRead (.core 2) (d.spa - 0xFF0000000000)).1.errs = []) (edit run (fun m => { m with devq := [⟨0, 0, 0xFF000C000128, 3, 0, some 5, 4, true, 0, 2, none⟩] })) ⟨0, 0⟩ none ⟨0, 0, 0xFF000C000128, 3, 0, some 5, 4, true, 0, 2, none⟩) ∧
    ((fun (s : State) (c : Cid) (port : Option (Fin 64)) (d : DevMsg) (v : Nat) =>
      s.mach.devNext (cidOf c) = some d ∧ d.k = 0 ∧ s.mach.mode ≠ 9 ∧ ((0xFF0020000000 ≤ d.spa ∧ d.spa < 0xFF0020800000) ∧ v = bitsOf (s.mach.doorbellRead (d.spa - 0xFF0020000000)) (8 * (d.spa % 8)) (8 * 2 ^ d.lg) ∨ (0xFF0010000000 ≤ d.spa ∧ d.spa < 0xFF0010400000) ∧ v = ofBytes ((List.range (2 ^ d.lg)).map (fun i => s.mach.windowByte (d.spa + i))))) (edit (work []) (fun m => { m with devq := [⟨0, 0, 0xFF0020005F00, 3, 0, some 5, 4, true, 0, 2, none⟩] })) ⟨0, 0⟩ none ⟨0, 0, 0xFF0020005F00, 3, 0, some 5, 4, true, 0, 2, none⟩ ((work []).mach.doorbellRead 0x5F00)) ∧
    ((fun (s : State) (c : Cid) (p : Fin 64) (d : DevMsg) =>
      s.mach.devNext (cidOf c) = some d ∧ d.k = 0 ∧ 0xFF0020800000 ≤ d.spa ∧ s.mach.portWaits p.val = false) (edit run (fun m => { m with devq := [⟨0, 0, 0xFF0030000000, 3, 0, some 5, 4, true, 0, 2, none⟩] })) ⟨0, 0⟩ 9 ⟨0, 0, 0xFF0030000000, 3, 0, some 5, 4, true, 0, 2, none⟩) ∧
    ((fun (s : State) (c : Cid) (p : Fin 64) (d : DevMsg) =>
      s.mach.devNext (cidOf c) = some d ∧ 0xFF0020800000 ≤ d.spa ∧ s.mach.portWaits p.val = true) (edit (sets run [(R.PKG_MODE_MODE, 9)]) (fun m => { m with devq := [⟨0, 0, 0xFF0030000000, 3, 0, some 5, 4, true, 0, 2, none⟩] })) ⟨0, 0⟩ 9 ⟨0, 0, 0xFF0030000000, 3, 0, some 5, 4, true, 0, 2, none⟩) ∧
    ((fun (s : State) (c : Cid) (d : DevMsg) =>
      s.mach.devNext (cidOf c) = some d ∧ d.k = 0 ∧ s.mach.mode ≠ 9 ∧ 0xFF0020800000 ≤ d.spa) (edit run (fun m => { m with devq := [⟨0, 0, 0xFF0030000000, 3, 0, some 5, 4, true, 0, 2, none⟩] })) ⟨0, 0⟩ ⟨0, 0, 0xFF0030000000, 3, 0, some 5, 4, true, 0, 2, none⟩) ∧
    ((fun (s : State) (c : Cid) (port : Option (Fin 64)) (d : DevMsg) (a : Nat) =>
      s.mach.devNext (cidOf c) = some d ∧ d.k = 1 ∧ d.pl = 2 ∧ d.lg = 3 ∧ a = R.LANT_INJECT_ADDR_ADDR.key ∧ d.spa = 0xFF0000000000 + a ∧ 2 ≤ s.mach.mode ∧ s.mach.mode ≠ 9 ∧ s.mach.hon R.HDR_STATUS_STRUCK .lant = false) (edit run (fun m => { m with devq := [⟨1, 0, 0xFF0000000000 + R.LANT_INJECT_ADDR_ADDR.key, 3, 77, none, 4, true, 0, 2, none⟩] })) ⟨0, 0⟩ none ⟨1, 0, 0xFF0000000000 + R.LANT_INJECT_ADDR_ADDR.key, 3, 77, none, 4, true, 0, 2, none⟩ R.LANT_INJECT_ADDR_ADDR.key) ∧
    ((fun (s : State) (c : Cid) (p : Fin 64) (d : DevMsg) =>
      s.mach.devNext (cidOf c) = some d ∧ d.k = 1 ∧ d.ne = true ∧ 0xFF0020800000 ≤ d.spa ∧ s.mach.portWaits p.val = false) (edit run (fun m => { m with devq := [⟨1, 0, 0xFF0030000000, 3, 7, none, 4, true, 0, 2, none⟩] })) ⟨0, 0⟩ 9 ⟨1, 0, 0xFF0030000000, 3, 7, none, 4, true, 0, 2, none⟩) ∧
    ((fun (s : State) (c : Cid) (p : Fin 64) (d : DevMsg) =>
      s.mach.devNext (cidOf c) = some d ∧ d.cid = cidOf c ∧ d.k = 1 ∧ d.ne = false ∧ 0xFF0020800000 ≤ d.spa ∧ s.mach.portWaits p.val = false ∧ (s.mach.core (cidOf c)).trk.length < 16) (edit run (fun m => { m with devq := [⟨1, 0, 0xFF0030000000, 3, 7, none, 4, false, 0, 2, none⟩] })) ⟨0, 0⟩ 9 ⟨1, 0, 0xFF0030000000, 3, 7, none, 4, false, 0, 2, none⟩) ∧
    ((fun (s : State) (c : Cid) (d : DevMsg) =>
      s.mach.devNext (cidOf c) = some d ∧ d.k = 1 ∧ s.mach.mode ≠ 9 ∧ 0xFF0020800000 ≤ d.spa ∧ d.cid = cidOf c ∧ (d.ne = true ∨ s.mach.regionForbids d.spa = false)) (edit run (fun m => { m with devq := [⟨1, 0, 0xFF0030000000, 3, 7, none, 4, true, 0, 2, none⟩] })) ⟨0, 0⟩ ⟨1, 0, 0xFF0030000000, 3, 7, none, 4, true, 0, 2, none⟩) ∧
    ((fun (s : State) (c : Cid) (port : Option (Fin 64)) (i : Instr) =>
      s.mach.mode = 9 ∧ i ∈ [Instr.devRd c port, .devWr c port]) (inMode 9) ⟨0, 0⟩ none (.devRd ⟨0, 0⟩ none)) ∧
    ((fun (s : State) (c : Cid) (spa : BitVec 48) (data : Word) (err : Fin 3) (d : DevMsg) (rd : Nat) =>
      NoCount s c ∧ s.dev.devq.find? (fun x => x.cid == cidOf c && x.spa == spa.toNat && (x.k == 2 || x.port.isSome)) = some d ∧ d.cid = cidOf c ∧ d.rd = some rd ∧ d.lg ≤ 3 ∧ (if d.k = 2 then d.err else err.val) = 0 ∧ s.mach.dieUp c.die.val = true ∧ (s.mach.core (cidOf c)).run = .running) (edit run (fun m => { m with devq := [⟨2, 0, 0xFF0030000000, 3, 7, some 5, 4, true, 0, 2, none⟩] })) ⟨0, 0⟩ 0xFF0030000000 9 0 ⟨2, 0, 0xFF0030000000, 3, 7, some 5, 4, true, 0, 2, none⟩ 5) ∧
    ((fun (s : State) (c : Cid) (spa : BitVec 48) (data : Word) (err : Fin 3) (d : DevMsg) (e : Nat) =>
      s.dev.devq.find? (fun x => x.cid == cidOf c && x.spa == spa.toNat && (x.k == 2 || x.port.isSome)) = some d ∧ d.cid = cidOf c ∧ d.rd = none ∧ d.ne = true ∧ e = (if d.k = 2 then d.err else err.val) ∧ e = 0 ∧ s.mach.dieUp c.die.val = true ∧ (s.mach.core (cidOf c)).run = .running) (edit run (fun m => { m.modCore 0 (fun c => { c with trk := [⟨0xFF0030000000, 3, 2⟩] }) with devq := [⟨2, 0, 0xFF0030000000, 3, 0, none, 4, true, 0, 2, none⟩] })) ⟨0, 0⟩ 0xFF0030000000 0 0 ⟨2, 0, 0xFF0030000000, 3, 0, none, 4, true, 0, 2, none⟩ 0) ∧
    ((fun (s : State) (c : Cid) (spa : BitVec 48) (data : Word) (err : Fin 3) (d : DevMsg) (rd : Nat) =>
      NoCount s c ∧ s.dev.devq.find? (fun x => x.cid == cidOf c && x.spa == spa.toNat && (x.k == 2 || x.port.isSome)) = some d ∧ d.cid = cidOf c ∧ d.rd = some rd ∧ d.lg ≤ 3 ∧ (if d.k = 2 then d.err else err.val) ≠ 0 ∧ s.mach.dieUp c.die.val = true ∧ (s.mach.core (cidOf c)).run = .running) (edit run (fun m => { m with devq := [⟨0, 0, 0xFF0030000000, 3, 7, some 5, 4, true, 0, 2, some 9⟩] })) ⟨0, 0⟩ 0xFF0030000000 9 2 ⟨0, 0, 0xFF0030000000, 3, 7, some 5, 4, true, 0, 2, some 9⟩ 5) ∧
    ((fun (s : State) (c : Cid) (spa : BitVec 48) (data : Word) (err : Fin 3) (d : DevMsg) (e : Nat) =>
      s.dev.devq.find? (fun x => x.cid == cidOf c && x.spa == spa.toNat && (x.k == 2 || x.port.isSome)) = some d ∧ d.cid = cidOf c ∧ d.rd = none ∧ d.ne = true ∧ e = (if d.k = 2 then d.err else err.val) ∧ e ≠ 0 ∧ s.mach.dieUp c.die.val = true ∧ (s.mach.core (cidOf c)).run = .running) (edit run (fun m => { m.modCore 0 (fun c => { c with trk := [⟨0xFF0030000000, 3, 2⟩] }) with devq := [⟨2, 0, 0xFF0030000000, 3, 0, none, 4, true, 1, 2, none⟩] })) ⟨0, 0⟩ 0xFF0030000000 0 0 ⟨2, 0, 0xFF0030000000, 3, 0, none, 4, true, 1, 2, none⟩ 1) ∧
    ((fun (s : State) (c : Cid) (spa : BitVec 48) (data : Word) (err : Fin 3) (d : DevMsg) =>
      s.dev.devq.find? (fun x => x.cid == cidOf c && x.spa == spa.toNat && (x.k == 2 || x.port.isSome)) = some d ∧ d.cid = cidOf c ∧ d.rd = none ∧ d.ne = false) (edit run (fun m => { m with devq := [⟨1, 0, 0xFF0030000000, 3, 0, none, 4, false, 0, 2, some 9⟩] })) ⟨0, 0⟩ 0xFF0030000000 0 1 ⟨1, 0, 0xFF0030000000, 3, 0, none, 4, false, 0, 2, some 9⟩) := by
  decide +kernel

/-- What the clauses of CachingRequestsComplete assume holds somewhere. -/
theorem witness_CachingRequestsComplete :
    ((fun (s : State) (p : Packet) (g : Msg) (k : MsgK) (i : Instr) (st : LSt) =>
      AtHome s p.line.toNat ∧ ZeroPage s p.line.toNat ∧ (i, k, st) ∈ [(Instr.rdShared p, MsgK.rdShared, LSt.e), (.rdOwn p, .rdOwn, .m)] ∧ isDie p.src.val = true ∧ s.mach.dieUp p.src.val = true ∧ s.dev.net.find? (fun g => g.k == k && g.src == p.src.val && g.line == p.line.toNat) = some g ∧ g.aux % 2 = 0 ∧ s.dev.filter.find p.line.toNat = none ∧ (s.mach.sfInSet p.line.toNat).length < 16) (edit up (fun m => { m with net := [{ k := .rdShared, src := 3, dst := 73, line := 0x40 }] })) ⟨3, 73, 0, 0x40, 0, false, false, 0, 0, 0⟩ { k := .rdShared, src := 3, dst := 73, line := 0x40 } .rdShared (.rdShared ⟨3, 73, 0, 0x40, 0, false, false, 0, 0, 0⟩) .e) ∧
    ((fun (s : State) (p : Packet) (g : Msg) (k : MsgK) (i : Instr) (st : LSt) (t : HTx) =>
      AtHome s p.line.toNat ∧ BedPage s p.line.toNat ∧ (i, k, st) ∈ [(Instr.rdShared p, MsgK.rdShared, LSt.e), (.rdOwn p, .rdOwn, .m)] ∧ s.mach.isH2 = true ∧ isDie p.src.val = true ∧ s.mach.dieUp p.src.val = true ∧ s.dev.net.find? (fun g => g.k == k && g.src == p.src.val && g.line == p.line.toNat) = some g ∧ g.aux % 2 = 0 ∧ s.dev.filter.find p.line.toNat = none ∧ (s.mach.sfInSet p.line.toNat).length < 16 ∧ s.mach.chanReady (bedLda (eLoc (s.mach.entry (pageOf (p.line.toNat * 64)))) (p.line.toNat * 64)) = true ∧ t = ⟨{ k := k, src := p.src.val, line := p.line.toNat, spec := g.flag }, [], none, none, false, 1, st, 0, false⟩) (edit up (fun m => { m.setEntry 0x1000 (eMove entryReset tierBed 0x4100000 0 false) with net := [{ k := .rdShared, src := 3, dst := 73, line := 0x40 }] })) ⟨3, 73, 0, 0x40, 0, false, false, 0, 0, 0⟩ { k := .rdShared, src := 3, dst := 73, line := 0x40 } .rdShared (.rdShared ⟨3, 73, 0, 0x40, 0, false, false, 0, 0, 0⟩) .e ⟨{ k := .rdShared, src := 3, line := 0x40 }, [], none, none, false, 1, .e, 0, false⟩) ∧
    ((fun (s : State) (p : Packet) (g : Msg) (k : MsgK) (i : Instr) (e : FEnt) (others : List Nat) =>
      AtHome s p.line.toNat ∧ ZeroPage s p.line.toNat ∧ (i, k) ∈ [(Instr.rdShared p, MsgK.rdShared), (.rdOwn p, .rdOwn)] ∧ s.mach.isH2 = true ∧ isDie p.src.val = true ∧ s.mach.dieUp p.src.val = true ∧ s.dev.net.find? (fun g => g.k == k && g.src == p.src.val && g.line == p.line.toNat) = some g ∧ g.aux % 2 = 0 ∧ s.dev.filter.find p.line.toNat = some e ∧ e.st = .s ∧ others = e.pres.filter (· != p.src.val)) (edit up (fun m => { m with net := [{ k := .rdOwn, src := 3, dst := 73, line := 0x40 }], filter := [(0x40, ⟨.s, 0, [1, 2], 0, 1⟩)] })) ⟨3, 73, 0, 0x40, 0, false, false, 0, 0, 0⟩ { k := .rdOwn, src := 3, dst := 73, line := 0x40 } .rdOwn (.rdOwn ⟨3, 73, 0, 0x40, 0, false, false, 0, 0, 0⟩) ⟨.s, 0, [1, 2], 0, 1⟩ [1, 2]) ∧
    ((fun (s : State) (p : Packet) (g : Msg) (k : MsgK) (i : Instr) (e : FEnt) (others : List Nat) =>
      AtHome s p.line.toNat ∧ ZeroPage s p.line.toNat ∧ (i, k) ∈ [(Instr.rdShared p, MsgK.rdShared), (.rdOwn p, .rdOwn)] ∧ s.mach.isH2 = true ∧ isDie p.src.val = true ∧ s.mach.dieUp p.src.val = true ∧ s.dev.net.find? (fun g => g.k == k && g.src == p.src.val && g.line == p.line.toNat) = some g ∧ g.aux % 2 = 0 ∧ s.dev.filter.find p.line.toNat = some e ∧ (e.st = .x ∨ e.st = .o) ∧ e.owner ≠ p.src.val ∧ others = e.pres.filter (· != p.src.val)) (edit up (fun m => { m with net := [{ k := .rdOwn, src := 3, dst := 73, line := 0x40 }], filter := [(0x40, ⟨.o, 1, [1, 2, 3], 0, 1⟩)] })) ⟨3, 73, 0, 0x40, 0, false, false, 0, 0, 0⟩ { k := .rdOwn, src := 3, dst := 73, line := 0x40 } .rdOwn (.rdOwn ⟨3, 73, 0, 0x40, 0, false, false, 0, 0, 0⟩) ⟨.o, 1, [1, 2, 3], 0, 1⟩ [1, 2]) ∧
    ((fun (s : State) (p : Packet) (g : Msg) (k : MsgK) (i : Instr) (e : FEnt) (others inval : List Nat) =>
      AtHome s p.line.toNat ∧ ZeroPage s p.line.toNat ∧ (i, k) ∈ [(Instr.rdShared p, MsgK.rdShared), (.rdOwn p, .rdOwn)] ∧ s.mach.isH2 = false ∧ isDie p.src.val = true ∧ s.mach.dieUp p.src.val = true ∧ s.dev.net.find? (fun g => g.k == k && g.src == p.src.val && g.line == p.line.toNat) = some g ∧ g.aux % 2 = 0 ∧ s.dev.filter.find p.line.toNat = some e ∧ (e.st = .x ∨ e.st = .o) ∧ e.owner ≠ p.src.val ∧ others = e.pres.filter (· != p.src.val) ∧ inval = (if k = .rdShared then [] else others.filter (· != e.owner))) (edit up (fun m => { m.set R.PKG_COMPAT_COH_VER 1 with net := [{ k := .rdOwn, src := 3, dst := 73, line := 0x40 }], filter := [(0x40, ⟨.o, 1, [1, 2, 3], 0, 1⟩)] })) ⟨3, 73, 0, 0x40, 0, false, false, 0, 0, 0⟩ { k := .rdOwn, src := 3, dst := 73, line := 0x40 } .rdOwn (.rdOwn ⟨3, 73, 0, 0x40, 0, false, false, 0, 0, 0⟩) ⟨.o, 1, [1, 2, 3], 0, 1⟩ [1, 2] [2]) ∧
    ((fun (s : State) (p : Packet) (g : Msg) (e : FEnt) (others : List Nat) =>
      AtHome s p.line.toNat ∧ ZeroPage s p.line.toNat ∧ s.mach.isH2 = true ∧ isDie p.src.val = true ∧ s.mach.dieUp p.src.val = true ∧ s.dev.net.find? (fun g => g.k == .upgrade && g.src == p.src.val && g.line == p.line.toNat) = some g ∧ g.aux % 2 = 0 ∧ s.dev.filter.find p.line.toNat = some e ∧ (e.st = .s ∨ e.st = .o) ∧ p.src.val ∈ e.pres ∧ others = e.pres.filter (· != p.src.val)) (edit up (fun m => { m with net := [{ k := .upgrade, src := 3, dst := 73, line := 0x40 }], filter := [(0x40, ⟨.s, 0, [3, 1, 2], 0, 1⟩)] })) ⟨3, 73, 0, 0x40, 0, false, false, 0, 0, 0⟩ { k := .upgrade, src := 3, dst := 73, line := 0x40 } ⟨.s, 0, [3, 1, 2], 0, 1⟩ [1, 2]) ∧
    ((fun (s : State) (p : Packet) (g : Msg) (k : MsgK) (i : Instr) =>
      s.mach.homeUp = true ∧ Idle s ∧ NoUncore s ∧ (∀ t ∈ s.dev.htx, t.req.line ≠ p.line.toNat) ∧ s.mach.isForeign p.line.toNat = true ∧ (i, k) ∈ [(Instr.rdShared p, MsgK.rdShared), (.rdOwn p, .rdOwn), (.upgrade p, .upgrade)] ∧ isDie p.src.val = true ∧ s.mach.dieUp p.src.val = true ∧ s.dev.net.find? (fun g => g.k == k && g.src == p.src.val && g.line == p.line.toNat) = some g) (edit up (fun m => { m with attached := [5], net := [{ k := .rdOwn, src := 3, dst := 73, line := 0x40, flag := true }], filter := [(0x40, ⟨.s, 0, [2], 5, 1⟩)] })) ⟨3, 73, 0, 0x40, 0, false, false, 0, 0, 0⟩ { k := .rdOwn, src := 3, dst := 73, line := 0x40, flag := true } .rdOwn (.rdOwn ⟨3, 73, 0, 0x40, 0, false, false, 0, 0, 0⟩)) := by
  decide +kernel

/-- What the clauses of NonCachingRequestsAndFlush assume holds somewhere. -/
theorem witness_NonCachingRequestsAndFlush :
    ((fun (s : State) (p : Packet) (g : Msg) (e : FEnt) =>
      AtHome s p.line.toNat ∧ ZeroPage s p.line.toNat ∧ s.mach.isH2 = true ∧ 12 ≤ p.src.val ∧ p.src.val < 72 ∧ Flies s .rdCur p g ∧ (s.dev.filter.find p.line.toNat).getD ⟨.i, 0, [], 0, 0⟩ = e) (edit up (fun m => { m with net := [{ k := .rdCur, src := 16, dst := 73, line := 0x40 }] })) ⟨16, 73, 0, 0x40, 0, false, false, 0, 0, 0⟩ { k := .rdCur, src := 16, dst := 73, line := 0x40 } ⟨.i, 0, [], 0, 0⟩) ∧
    ((fun (s : State) (p : Packet) (g : Msg) (a : Nat) =>
      AtHome s p.line.toNat ∧ BedPage s p.line.toNat ∧ 12 ≤ p.src.val ∧ p.src.val < 72 ∧ Flies s .wrLine p g ∧ s.dev.filter.find p.line.toNat = none ∧ eDur (s.mach.entry (pageOf (p.line.toNat * 64))) = false ∧ g.poison = false ∧ a = bedLda (eLoc (s.mach.entry (pageOf (p.line.toNat * 64)))) (p.line.toNat * 64)) (edit up (fun m => { m.setEntry 0x1000 (eMove entryReset tierBed 0x4100000 0 false) with net := [{ k := .wrLine, src := 16, dst := 73, line := 0x41, data := 0x1234 }] })) ⟨16, 73, 0, 0x41, 0, false, false, 0, 0, 0⟩ { k := .wrLine, src := 16, dst := 73, line := 0x41, data := 0x1234 } 0x4100000040) ∧
    ((fun (s : State) (p : Packet) (g : Msg) (e : FEnt) (t : HTx) =>
      AtHome s p.line.toNat ∧ ZeroPage s p.line.toNat ∧ 12 ≤ p.src.val ∧ p.src.val < 72 ∧ Flies s .wrPart p g ∧ s.dev.filter.find p.line.toNat = some e ∧ (e.st = .x ∨ e.st = .o) ∧ e.owner ∈ e.pres ∧ t = ⟨{ k := .wrPart, src := g.src, line := p.line.toNat, data := g.data, mask := g.aux, poison := g.poison }, e.pres.filter (· != e.owner), some e.owner, none, false, 0, .i, 0, false⟩) (edit up (fun m => { m with net := [{ k := .wrPart, src := 16, dst := 73, line := 0x40, data := 0x1234, aux := 3 }], filter := [(0x40, ⟨.o, 1, [1, 2], 0, 1⟩)] })) ⟨16, 73, 0, 0x40, 0, false, false, 0, 0, 0⟩ { k := .wrPart, src := 16, dst := 73, line := 0x40, data := 0x1234, aux := 3 } ⟨.o, 1, [1, 2], 0, 1⟩ ⟨{ k := .wrPart, src := 16, line := 0x40, data := 0x1234, mask := 3 }, [2], some 1, none, false, 0, .i, 0, false⟩) ∧
    ((fun (s : State) (p : Packet) (g : Msg) (op : FlushOp) (k : MsgK) (e : FEnt) (t : HTx) =>
      AtHome s p.line.toNat ∧ ZeroPage s p.line.toNat ∧ isDie p.src.val = true ∧ (op, k) ∈ [(FlushOp.cln, MsgK.flushCln), (.inv, .flushInv), (.clninv, .flushClnInv)] ∧ Flies s k p g ∧ s.dev.filter.find p.line.toNat = some e ∧ (e.st = .x ∨ e.st = .o) ∧ e.owner ≠ p.src.val ∧ e.owner ∈ e.pres ∧ t = (match op with | .cln => ⟨{ k := k, src := p.src.val, line := p.line.toNat, cid := g.aux }, [], some e.owner, none, false, 0, .i, 0, false⟩ | .inv => ⟨{ k := k, src := p.src.val, line := p.line.toNat, cid := g.aux }, e.pres, none, none, false, 0, .i, 0, false⟩ | .clninv => ⟨{ k := k, src := p.src.val, line := p.line.toNat, cid := g.aux }, e.pres.filter (· != e.owner), some e.owner, none, false, 0, .i, 0, false⟩)) (edit up (fun m => { m with net := [{ k := .flushClnInv, src := 3, dst := 73, line := 0x40, aux := 96 }], filter := [(0x40, ⟨.o, 1, [1, 2], 0, 1⟩)] })) ⟨3, 73, 0, 0x40, 0, false, false, 0, 0, 0⟩ { k := .flushClnInv, src := 3, dst := 73, line := 0x40, aux := 96 } .clninv .flushClnInv ⟨.o, 1, [1, 2], 0, 1⟩ ⟨{ k := .flushClnInv, src := 3, line := 0x40, cid := 96 }, [2], some 1, none, false, 0, .i, 0, false⟩) ∧
    ((fun (s : State) (p : Packet) (g : Msg) (op : FlushOp) (k : MsgK) =>
      AtHome s p.line.toNat ∧ ZeroPage s p.line.toNat ∧ isDie p.src.val = true ∧ (op, k) ∈ [(FlushOp.cln, MsgK.flushCln), (.inv, .flushInv), (.clninv, .flushClnInv)] ∧ Flies s k p g ∧ (s.dev.filter.find p.line.toNat = none ∨ op = .cln ∧ ∀ e ∈ s.dev.filter.find p.line.toNat, e.st = .s ∨ e.owner = p.src.val)) (edit up (fun m => { m with net := [{ k := .flushInv, src := 3, dst := 73, line := 0x40, aux := 96 }] })) ⟨3, 73, 0, 0x40, 0, false, false, 0, 0, 0⟩ { k := .flushInv, src := 3, dst := 73, line := 0x40, aux := 96 } .inv .flushInv) := by
  decide +kernel

/-- What the clauses of EvictionsAndDurableWrites assume holds somewhere. -/
theorem witness_EvictionsAndDurableWrites :
    ((fun (s : State) (p : Packet) (g : Msg) (e : FEnt) =>
      AtHome s p.line.toNat ∧ ZeroPage s p.line.toNat ∧ (s.mach.isH2 = true ∨ s.mach.snoopOut p.src.val p.line.toNat = false) ∧ isDie p.src.val = true ∧ Flies s .evict p g ∧ g.flag = false ∧ s.dev.filter.find p.line.toNat = some e ∧ p.src.val ∈ e.pres ∧ e.st ≠ .i) (edit up (fun m => { m with net := [{ k := .evict, src := 3, dst := 73, line := 0x40 }], filter := [(0x40, ⟨.o, 3, [3, 1], 0, 1⟩)] })) ⟨3, 73, 0, 0x40, 0, false, false, 0, 0, 0⟩ { k := .evict, src := 3, dst := 73, line := 0x40 } ⟨.o, 3, [3, 1], 0, 1⟩) ∧
    ((fun (s : State) (p : Packet) (g : Msg) (e : FEnt) =>
      AtHome s p.line.toNat ∧ BedPage s p.line.toNat ∧ (s.mach.isH2 = true ∨ s.mach.snoopOut p.src.val p.line.toNat = false) ∧ isDie p.src.val = true ∧ Flies s .evict p g ∧ g.flag = true ∧ s.dev.filter.find p.line.toNat = some e ∧ e.pres = [p.src.val] ∧ e.st ≠ .i ∧ s.mach.mscDeclines (homeOf (p.line.toNat * 64)) (eTenant (s.mach.entry (pageOf (p.line.toNat * 64)))) = false ∧ (s.mach.mscInSet p.line.toNat).length < s.mach.mscWays (homeOf (p.line.toNat * 64))) (edit up (fun m => { m.setEntry 0x1000 (eMove entryReset tierBed 0x4100000 0 false) with net := [{ k := .evict, src := 3, dst := 73, line := 0x40, data := 0x55, flag := true }], filter := [(0x40, ⟨.x, 3, [3], 0, 1⟩)] })) ⟨3, 73, 0, 0x40, 0, false, false, 0, 0, 0⟩ { k := .evict, src := 3, dst := 73, line := 0x40, data := 0x55, flag := true } ⟨.x, 3, [3], 0, 1⟩) ∧
    ((fun (s : State) (p : Packet) (g : Msg) =>
      AtHome s p.line.toNat ∧ ZeroPage s p.line.toNat ∧ isDie p.src.val = true ∧ Flies s .evict p g ∧ (s.dev.filter.find p.line.toNat = none ∨ s.mach.isH2 = false ∧ s.mach.snoopOut p.src.val p.line.toNat = true)) (edit up (fun m => { m with net := [{ k := .evict, src := 3, dst := 73, line := 0x40 }] })) ⟨3, 73, 0, 0x40, 0, false, false, 0, 0, 0⟩ { k := .evict, src := 3, dst := 73, line := 0x40 }) ∧
    ((fun (s : State) (p : Packet) (g : Msg) (e : FEnt) =>
      AtHome s p.line.toNat ∧ BedPage s p.line.toNat ∧ (s.mach.isH2 = true ∨ s.mach.snoopOut p.src.val p.line.toNat = false) ∧ isDie p.src.val = true ∧ p.flag = false ∧ Flies s .wbDirty p g ∧ s.dev.filter.find p.line.toNat = some e ∧ e.st = .x ∧ e.owner = p.src.val ∧ e.pres = [p.src.val] ∧ eDur (s.mach.entry (pageOf (p.line.toNat * 64))) = false ∧ (s.mach.mscInSet p.line.toNat).length < s.mach.mscWays (homeOf (p.line.toNat * 64))) (edit up (fun m => { m.setEntry 0x1000 (eMove entryReset tierBed 0x4100000 0 false) with net := [{ k := .wbDirty, src := 3, dst := 73, line := 0x40, data := 0x55 }], filter := [(0x40, ⟨.x, 3, [3], 0, 1⟩)] })) ⟨3, 73, 0, 0x40, 0, false, false, 0, 0, 0⟩ { k := .wbDirty, src := 3, dst := 73, line := 0x40, data := 0x55 } ⟨.x, 3, [3], 0, 1⟩) ∧
    ((fun (s : State) (p : Packet) (g : Msg) (e : FEnt) =>
      AtHome s p.line.toNat ∧ BedPage s p.line.toNat ∧ (s.mach.isH2 = true ∨ s.mach.snoopElse p.src.val p.line.toNat = false) ∧ isDie p.src.val = true ∧ p.flag = true ∧ Flies s .wbKeep p g ∧ s.dev.filter.find p.line.toNat = some e ∧ (e.st = .x ∨ e.st = .o) ∧ e.owner = p.src.val ∧ p.src.val ∈ e.pres ∧ eDur (s.mach.entry (pageOf (p.line.toNat * 64))) = false ∧ (s.mach.mscInSet p.line.toNat).length < s.mach.mscWays (homeOf (p.line.toNat * 64))) (edit up (fun m => { m.setEntry 0x1000 (eMove entryReset tierBed 0x4100000 0 false) with net := [{ k := .wbKeep, src := 3, dst := 73, line := 0x40, data := 0x55 }], filter := [(0x40, ⟨.o, 3, [3, 1], 0, 1⟩)] })) ⟨3, 73, 0, 0x40, 0, false, true, 0, 0, 0⟩ { k := .wbKeep, src := 3, dst := 73, line := 0x40, data := 0x55 } ⟨.o, 3, [3, 1], 0, 1⟩) ∧
    ((fun (s : State) (p : Packet) (g : Msg) (k : MsgK) (i : Instr) =>
      AtHome s p.line.toNat ∧ BedPage s p.line.toNat ∧ isDie p.src.val = true ∧ (i, k) ∈ [(Instr.wbDirty p, if p.flag then MsgK.wbKeep else .wbDirty)] ∧ Flies s k p g ∧ (s.dev.filter.find p.line.toNat = none ∨ s.mach.isH2 = false ∧ (if p.flag then s.mach.snoopElse p.src.val p.line.toNat else s.mach.snoopOut p.src.val p.line.toNat) = true)) (edit up (fun m => { m.setEntry 0x1000 (eMove entryReset tierBed 0x4100000 0 false) with net := [{ k := .wbDirty, src := 3, dst := 73, line := 0x40, data := 0x55 }] })) ⟨3, 73, 0, 0x40, 0, false, false, 0, 0, 0⟩ { k := .wbDirty, src := 3, dst := 73, line := 0x40, data := 0x55 } .wbDirty (.wbDirty ⟨3, 73, 0, 0x40, 0, false, false, 0, 0, 0⟩)) ∧
    ((fun (s : State) (p : Packet) (g : Msg) (x : DieLine) =>
      s.mach.homeUp = true ∧ Idle s ∧ isDie p.dst.val = true ∧ s.mach.dieUp p.dst.val = true ∧ Flies s .wbAck p g ∧ g.aux = 0 ∧ x = s.mach.dl p.dst.val p.line.toNat ∧ x.st ∈ [LSt.mia, .oia, .eia, .sia] ∧ x.wait = [] ∧ x.snq = []) (edit (hold .mia up) (fun m => { m with net := [{ k := .wbAck, src := 73, dst := 0, line := 0x40 }] })) ⟨73, 0, 0, 0x40, 0, false, false, 0, 0, 0⟩ { k := .wbAck, src := 73, dst := 0, line := 0x40 } { noLine with st := .mia, data := BitVec.ofNat 512 (0x11 * ((2 ^ 512 - 1) / 255)) }) ∧
    ((fun (s : State) (p : Packet) (g : Msg) (x : DieLine) =>
      s.mach.homeUp = true ∧ Idle s ∧ isDie p.dst.val = true ∧ s.mach.dieUp p.dst.val = true ∧ Flies s .wbAck p g ∧ g.aux = 1 ∧ x = s.mach.dl p.dst.val p.line.toNat ∧ x.st ≠ .i ∧ x.wait = []) (edit (hold .o up) (fun m => { m with net := [{ k := .wbAck, src := 73, dst := 0, line := 0x40, st := .o, aux := 1 }] })) ⟨73, 0, 0, 0x40, 0, false, false, 0, 0, 0⟩ { k := .wbAck, src := 73, dst := 0, line := 0x40, st := .o, aux := 1 } ((hold .o up).mach.dl 0 0x40)) ∧
    ((fun (s : State) (p : Packet) (g : Msg) (a k : Nat) =>
      AtHome s p.line.toNat ∧ BedPage s p.line.toNat ∧ Flies s .durWb p g ∧ g.poison = false ∧ g.aux < 384 ∧ eDur (s.mach.entry (pageOf (p.line.toNat * 64))) = true ∧ s.mach.mirrorFed = false ∧ s.mach.acceptMode ∈ [3, 7] ∧ s.mach.mode = s.mach.acceptMode ∧ (s.mach.mscInSet p.line.toNat).length < s.mach.mscWays (homeOf (p.line.toNat * 64)) ∧ a = bedLda (eLoc (s.mach.entry (pageOf (p.line.toNat * 64)))) (p.line.toNat * 64) ∧ k = g.aux * 4 + homeOf (p.line.toNat * 64)) (edit up (fun m => { m.setEntry 0x1000 (eMove (entryReset + 256) tierBed 0x4100000 0 false) with net := [{ k := .durWb, src := 3, dst := 73, line := 0x41, data := 0x55, aux := 97 }] })) ⟨3, 73, 0, 0x41, 0, false, false, 0, 0, 0⟩ { k := .durWb, src := 3, dst := 73, line := 0x41, data := 0x55, aux := 97 } 0x4100000040 389) ∧
    ((fun (s : State) (p : Packet) (g : Msg) (k : Nat) =>
      s.mach.homeUp = true ∧ Idle s ∧ Flies s .durSync p g ∧ k = g.aux * 4 + g.dst % 4 ∧ s.dev.durGot.getD k 0 = g.n ∧ s.dev.durAcc.getD k 0 = g.n) (edit up (fun m => { m with durGot := [(389, 2)], durAcc := [(389, 2)], net := [{ k := .durSync, src := 3, dst := 73, line := 0, n := 2, aux := 97 }] })) ⟨3, 73, 0, 0, 0, false, false, 0, 0, 0⟩ { k := .durSync, src := 3, dst := 73, line := 0, n := 2, aux := 97 } 389) ∧
    ((fun (s : State) (p : Packet) (g : Msg) (k : Nat) =>
      s.mach.homeUp = true ∧ Idle s ∧ Flies s .durSync p g ∧ k = g.aux * 4 + g.dst % 4 ∧ (s.dev.durGot.getD k 0 ≠ g.n ∨ s.dev.durAcc.getD k 0 ≠ g.n)) (edit up (fun m => { m with durGot := [(389, 2)], durAcc := [(389, 1)], net := [{ k := .durSync, src := 3, dst := 73, line := 0, n := 2, aux := 97 }] })) ⟨3, 73, 0, 0, 0, false, false, 0, 0, 0⟩ { k := .durSync, src := 3, dst := 73, line := 0, n := 2, aux := 97 } 389) ∧
    ((fun (s : State) (p : Packet) (g : Msg) (x : DieLine) =>
      s.mach.homeUp = true ∧ Idle s ∧ isDie p.dst.val = true ∧ Flies s .cmp p g ∧ g.n ∈ [1, 2, 3] ∧ dieOf g.aux = p.dst.val ∧ (g.n = 1 → p.line.toNat ∈ (s.mach.core g.aux).maint) ∧ (g.n = 2 → (s.mach.core g.aux).dwPend.contains p.line.toNat = true) ∧ (g.n = 3 → ∃ y ∈ (s.mach.core g.aux).sync, g.src % 4 ∈ y.homes) ∧ x = s.mach.dl p.dst.val p.line.toNat ∧ x.snq = [] ∧ x.wait = [] ∧ x.st ≠ .i ∧ bitsOf (s.mach.sreg g.aux 0x101) 0 8 = 0) (edit (hold .m run) (fun m => { m.modCore 0 (fun c => { c with maint := [0x40, 0x41], flight := [⟨.cmo 0 7, .waiting [0x40]⟩], dwl := [0x40], dwPend := [0x40], sync := some ⟨[1, 2], 5, true⟩ }) with net := [{ k := .cmp, src := 73, dst := 0, line := 0x40, n := 1 }] })) ⟨73, 0, 0, 0x40, 0, false, false, 0, 0, 0⟩ { k := .cmp, src := 73, dst := 0, line := 0x40, n := 1 } ((hold .m run).mach.dl 0 0x40)) := by
  decide +kernel

/-- What the clauses of SnoopsComplete assume holds somewhere. -/
theorem witness_SnoopsComplete :
    ((fun (s : State) (p : Packet) (g : Msg) (k : MsgK) (i : Instr) (x : DieLine) =>
      s.mach.homeUp = true ∧ Idle s ∧ NoUncore s ∧ isDie p.dst.val = true ∧ s.mach.dieUp p.dst.val = true ∧ (i, k) ∈ [(Instr.snpFwdShared p, MsgK.snpFwdShared), (.snpFwdOwn p, .snpFwdOwn), (.snpShared p, .snpShared), (.snpOwn p, .snpOwn), (.snpInv p, .snpInv), (.snpInvData p, .snpInvData), (.snpCur p, .snpCur)] ∧ Flies s k p g ∧ g.aux ≠ 1 ∧ x = s.mach.dl p.dst.val p.line.toNat ∧ x.writers = [] ∧ x.wait = [] ∧ x.snq = [] ∧ (x.st ∈ [LSt.m, .o, .e] ∨ (k = .snpInv ∧ x.st = .s)) ∧ (k ∈ [MsgK.snpFwdShared, .snpFwdOwn] → s.mach.isH2 = true) ∧ (k ∈ [MsgK.snpShared, .snpOwn] → s.mach.isH2 = false)) (edit (hold .o up) (fun m => { m with net := [{ k := .snpFwdOwn, src := 73, dst := 0, line := 0x40, ackTo := 3, n := 2 }] })) ⟨73, 0, 0, 0x40, 0, false, false, 0, 0, 0⟩ { k := .snpFwdOwn, src := 73, dst := 0, line := 0x40, ackTo := 3, n := 2 } .snpFwdOwn (.snpFwdOwn ⟨73, 0, 0, 0x40, 0, false, false, 0, 0, 0⟩) ((hold .o up).mach.dl 0 0x40)) ∧
    ((fun (s : State) (p : Packet) (g : Msg) (x : DieLine) =>
      s.mach.homeUp = true ∧ Idle s ∧ NoUncore s ∧ isDie p.dst.val = true ∧ s.mach.dieUp p.dst.val = true ∧ Flies s .snpClean p g ∧ x = s.mach.dl p.dst.val p.line.toNat ∧ (x.st = .m ∨ x.st = .o)) (edit (hold .m up) (fun m => { m with net := [{ k := .snpClean, src := 73, dst := 0, line := 0x40, ackTo := 73 }] })) ⟨73, 0, 0, 0x40, 0, false, false, 0, 0, 0⟩ { k := .snpClean, src := 73, dst := 0, line := 0x40, ackTo := 73 } ((hold .m up).mach.dl 0 0x40)) ∧
    ((fun (s : State) (p : Packet) (g : Msg) (k : MsgK) (i : Instr) (x : DieLine) =>
      s.mach.homeUp = true ∧ Idle s ∧ NoUncore s ∧ isDie p.dst.val = true ∧ s.mach.dieUp p.dst.val = true ∧ (i, k) ∈ [(Instr.snpFwdShared p, MsgK.snpFwdShared), (.snpFwdOwn p, .snpFwdOwn), (.snpShared p, .snpShared), (.snpOwn p, .snpOwn), (.snpInv p, .snpInv), (.snpInvData p, .snpInvData), (.snpCur p, .snpCur), (.snpClean p, .snpClean)] ∧ Flies s k p g ∧ x = s.mach.dl p.dst.val p.line.toNat ∧ (x.st = .isd ∨ x.st = .imd)) (edit (hold .imd up) (fun m => { m with net := [{ k := .snpFwdOwn, src := 73, dst := 0, line := 0x40, ackTo := 3, n := 2 }] })) ⟨73, 0, 0, 0x40, 0, false, false, 0, 0, 0⟩ { k := .snpFwdOwn, src := 73, dst := 0, line := 0x40, ackTo := 3, n := 2 } .snpFwdOwn (.snpFwdOwn ⟨73, 0, 0, 0x40, 0, false, false, 0, 0, 0⟩) ((hold .imd up).mach.dl 0 0x40)) ∧
    ((fun (s : State) (die : Fin 12) (line : BitVec 42) (g : Msg) =>
      g ∈ s.dev.net ∧ isSnoop g.k = true ∧ g.dst = die.val ∧ g.line = line.toNat) (edit up (fun m => { m with net := [{ k := .snpFwdOwn, src := 73, dst := 0, line := 0x40, ackTo := 3, n := 2 }] })) 0 0x40 { k := .snpFwdOwn, src := 73, dst := 0, line := 0x40, ackTo := 3, n := 2 }) := by
  decide +kernel

/-- What the clauses of AnswersComplete assume holds somewhere. -/
theorem witness_AnswersComplete :
    ((fun (s : State) (p : Packet) (g : Msg) (x : DieLine) =>
      s.mach.homeUp = true ∧ Idle s ∧ isDie p.dst.val = true ∧ s.mach.dieUp p.dst.val = true ∧ Flies s .data p g ∧ x = s.mach.dl p.dst.val p.line.toNat ∧ (x.st = .isd ∨ x.st = .imd) ∧ x.got = false ∧ x.wait = [] ∧ x.snq = [] ∧ x.pf = [] ∧ x.pf3 = false ∧ g.st ∈ [LSt.s, .e, .m, .o] ∧ g.n ≤ x.acks) (edit (hold .isd up) (fun m => { m with net := [{ k := .data, src := 73, dst := 0, line := 0x40, data := 0x77, st := .e }] })) ⟨73, 0, 0, 0x40, 0, false, false, 0, 0, 0⟩ { k := .data, src := 73, dst := 0, line := 0x40, data := 0x77, st := .e } ((hold .isd up).mach.dl 0 0x40)) ∧
    ((fun (s : State) (p : Packet) (g : Msg) (x : DieLine) (c : Cid) (rd lg va ilen : Nat) (kind : LoadKind) (acq : Bool) (l : List Nat) =>
      s.mach.homeUp = true ∧ Idle s ∧ isDie p.dst.val = true ∧ s.mach.dieUp p.dst.val = true ∧ Flies s .data p g ∧ x = s.mach.dl p.dst.val p.line.toNat ∧ x.st = .isd ∧ x.got = false ∧ x.snq = [] ∧ c.die.val = p.dst.val ∧ kind ∈ [LoadKind.data, .speculative] ∧ x.wait = [(cidOf c, .load rd lg va kind ilen acq)] ∧ g.st ∈ [LSt.s, .e] ∧ g.n ≤ x.acks ∧ g.poison = false ∧ (s.mach.core (cidOf c)).flight = [⟨.load rd lg va kind ilen acq, .waiting l⟩] ∧ (l = [] ∨ l = [p.line.toNat]) ∧ s.mach.sreg (cidOf c) 0x041 % 2 = 0 ∧ (s.mach.core (cidOf c)).sb = [] ∧ lg ≤ 3 ∧ va < 0xFF0000000000 ∧ va % 2 ^ lg = 0 ∧ s.mach.managed va = true ∧ va / 64 = p.line.toNat ∧ s.mach.dirRoom p.dst.val p.line.toNat = true ∧ s.mach.l2Room p.dst.val p.line.toNat c.core.val = true) (edit run (fun m => { (m.setFlight 0 [⟨.load 5 2 0x1004 .data 4 false, .waiting [0x40]⟩]).setDl 0 0x40 { noLine with st := .isd, wait := [(0, .load 5 2 0x1004 .data 4 false)] } with net := [{ k := .data, src := 73, dst := 0, line := 0x40, data := 0x1234567800000077, st := .e }] })) ⟨73, 0, 0, 0x40, 0, false, false, 0, 0, 0⟩ { k := .data, src := 73, dst := 0, line := 0x40, data := 0x1234567800000077, st := .e } { noLine with st := .isd, wait := [(0, .load 5 2 0x1004 .data 4 false)] } ⟨0, 0⟩ 5 2 0x1004 4 .data false [0x40]) ∧
    ((fun (s : State) (p : Packet) (g : Msg) (x : DieLine) =>
      s.mach.homeUp = true ∧ Idle s ∧ isDie p.dst.val = true ∧ s.mach.dieUp p.dst.val = true ∧ Flies s .grant p g ∧ x = s.mach.dl p.dst.val p.line.toNat ∧ x.st = .smd ∧ x.got = false ∧ x.granted ≠ .i ∧ x.wait = [] ∧ x.snq = [] ∧ x.pf = [] ∧ x.pf3 = false) (edit up (fun m => { m.setDl 0 0x40 { noLine with st := .smd, granted := .s, acks := 2 } with net := [{ k := .grant, src := 73, dst := 0, line := 0x40, n := 2 }] })) ⟨73, 0, 0, 0x40, 0, false, false, 0, 0, 0⟩ { k := .grant, src := 73, dst := 0, line := 0x40, n := 2 } { noLine with st := .smd, granted := .s, acks := 2 }) ∧
    ((fun (s : State) (p : Packet) (g : Msg) (x : DieLine) =>
      s.mach.homeUp = true ∧ Idle s ∧ isDie p.dst.val = true ∧ Flies s .invAck p g ∧ x = s.mach.dl p.dst.val p.line.toNat ∧ (x.st = .imd ∨ x.st = .smd) ∧ x.got = false) (edit (hold .imd up) (fun m => { m with net := [{ k := .invAck, src := 2, dst := 0, line := 0x40 }] })) ⟨2, 0, 0, 0x40, 0, false, false, 0, 0, 0⟩ { k := .invAck, src := 2, dst := 0, line := 0x40 } ((hold .imd up).mach.dl 0 0x40)) ∧
    ((fun (s : State) (p : Packet) (g : Msg) (t : HTx) =>
      s.mach.homeUp = true ∧ Idle s ∧ 72 ≤ p.dst.val ∧ Flies s .invAck p g ∧ s.dev.hq = [] ∧ s.dev.htx.find? (fun t => t.req.line == p.line.toNat && t.acks.contains p.src.val) = some t ∧ t.acks.erase p.src.val ≠ []) (edit up (fun m => { m with htx := [⟨{ k := .wrLine, src := 16, line := 0x40 }, [1, 2], none, none, false, 0, .i, 0, false⟩], net := [{ k := .invAck, src := 2, dst := 73, line := 0x40 }] })) ⟨2, 73, 0, 0x40, 0, false, false, 0, 0, 0⟩ { k := .invAck, src := 2, dst := 73, line := 0x40 } ⟨{ k := .wrLine, src := 16, line := 0x40 }, [1, 2], none, none, false, 0, .i, 0, false⟩) ∧
    ((fun (s : State) (p : Packet) (g : Msg) (t : HTx) =>
      s.mach.homeUp = true ∧ Idle s ∧ s.mach.isH2 = false ∧ p.flag = false ∧ 72 ≤ p.dst.val ∧ (∀ x ∈ s.dev.net, ¬(x.k = .snpNone ∧ x.src = p.src.val ∧ x.line = p.line.toNat)) ∧ Flies s .snpData p g ∧ s.dev.htx = [t] ∧ t.req.line = p.line.toNat ∧ t.want = some p.src.val ∧ t.data = none ∧ t.acks = [] ∧ t.cmpAck = false ∧ t.fill = 0 ∧ t.defer = false ∧ (t.req.k = .rdShared ∨ t.req.k = .rdOwn) ∧ t.req.prefetch = false) (edit up (fun m => { m.set R.PKG_COMPAT_COH_VER 1 with htx := [⟨{ k := .rdShared, src := 2, line := 0x40 }, [], some 3, none, false, 0, .s, 0, false⟩], net := [{ k := .snpData, src := 3, dst := 73, line := 0x40, data := 9 }] })) ⟨3, 73, 0, 0x40, 0, false, false, 0, 0, 0⟩ { k := .snpData, src := 3, dst := 73, line := 0x40, data := 9 } ⟨{ k := .rdShared, src := 2, line := 0x40 }, [], some 3, none, false, 0, .s, 0, false⟩) ∧
    ((fun (s : State) (p : Packet) (g : Msg) =>
      s.mach.homeUp = true ∧ Idle s ∧ Flies s .dataCur p g ∧ 12 ≤ p.dst.val ∧ p.dst.val < 72) (edit up (fun m => { m with net := [{ k := .dataCur, src := 3, dst := 16, line := 0x40, data := 9 }] })) ⟨3, 16, 0, 0x40, 0, false, false, 0, 0, 0⟩ { k := .dataCur, src := 3, dst := 16, line := 0x40, data := 9 }) ∧
    ((fun (s : State) (p : Packet) (g : Msg) (t : HTx) =>
      s.mach.homeUp = true ∧ Idle s ∧ Flies s .dataCur p g ∧ 72 ≤ p.dst.val ∧ s.dev.htx = [t] ∧ t.req.line = p.line.toNat ∧ t.want = some p.src.val ∧ t.data = none ∧ t.acks = [] ∧ t.cmpAck = false ∧ t.fill = 0 ∧ t.defer = false ∧ t.req.k = .rdCur) (edit up (fun m => { m with htx := [⟨{ k := .rdCur, src := 16, line := 0x40 }, [], some 3, none, false, 0, .i, 0, false⟩], net := [{ k := .dataCur, src := 3, dst := 73, line := 0x40, data := 9 }] })) ⟨3, 73, 0, 0x40, 0, false, false, 0, 0, 0⟩ { k := .dataCur, src := 3, dst := 73, line := 0x40, data := 9 } ⟨{ k := .rdCur, src := 16, line := 0x40 }, [], some 3, none, false, 0, .i, 0, false⟩) ∧
    ((fun (s : State) (p : Packet) (g : Msg) (t : HTx) =>
      s.mach.homeUp = true ∧ Idle s ∧ Flies s .cmpAck p g ∧ s.dev.htx.find? (fun t => t.req.line == p.line.toNat && t.cmpAck && t.req.src == p.src.val) = some t) (edit up (fun m => { m with htx := [⟨{ k := .rdOwn, src := 3, line := 0x40 }, [], none, none, true, 0, .m, 0, false⟩], net := [{ k := .cmpAck, src := 3, dst := 73, line := 0x40 }] })) ⟨3, 73, 0, 0x40, 0, false, false, 0, 0, 0⟩ { k := .cmpAck, src := 3, dst := 73, line := 0x40 } ⟨{ k := .rdOwn, src := 3, line := 0x40 }, [], none, none, true, 0, .m, 0, false⟩) ∧
    ((fun (s : State) (p : Packet) (g : Msg) (x : DieLine) (c : Cid) (rd lg va ilen : Nat) (acq : Bool) =>
      s.mach.homeUp = true ∧ Idle s ∧ isDie p.dst.val = true ∧ s.mach.dieUp p.dst.val = true ∧ Flies s .refuse p g ∧ g.aux = 0 ∧ x = s.mach.dl p.dst.val p.line.toNat ∧ x.st = .isd ∧ x.snq = [] ∧ c.die.val = p.dst.val ∧ x.wait = [(cidOf c, .load rd lg va .speculative ilen acq)] ∧ (s.mach.core (cidOf c)).flight = [⟨.load rd lg va .speculative ilen acq, .waiting [p.line.toNat]⟩] ∧ NoCount s c ∧ s.mach.sreg (cidOf c) 0x041 % 2 = 0 ∧ lg ≤ 3 ∧ va < 0xFF0000000000 ∧ va % 2 ^ lg = 0 ∧ s.mach.managed va = true ∧ va / 64 = p.line.toNat) (edit run (fun m => { (m.setFlight 0 [⟨.load 5 2 0x1004 .speculative 4 false, .waiting [0x40]⟩]).setDl 0 0x40 { noLine with st := .isd, wait := [(0, .load 5 2 0x1004 .speculative 4 false)] } with net := [{ k := .refuse, src := 73, dst := 0, line := 0x40, n := 3, flag := true }] })) ⟨73, 0, 0, 0x40, 0, false, false, 0, 0, 0⟩ { k := .refuse, src := 73, dst := 0, line := 0x40, n := 3, flag := true } { noLine with st := .isd, wait := [(0, .load 5 2 0x1004 .speculative 4 false)] } ⟨0, 0⟩ 5 2 0x1004 4 false) ∧
    ((fun (s : State) (p : Packet) (g : Msg) (x : DieLine) (c : Cid) (rd lg va ilen : Nat) (acq : Bool) (f : Flt) =>
      s.mach.homeUp = true ∧ Idle s ∧ isDie p.dst.val = true ∧ s.mach.dieUp p.dst.val = true ∧ Flies s .refuse p g ∧ g.aux = 0 ∧ x = s.mach.dl p.dst.val p.line.toNat ∧ x.st = .isd ∧ x.snq = [] ∧ c.die.val = p.dst.val ∧ x.wait = [(cidOf c, .load rd lg va .data ilen acq)] ∧ (s.mach.core (cidOf c)).flight = [⟨.load rd lg va .data ilen acq, .waiting [p.line.toNat]⟩] ∧ NoCount s c ∧ s.mach.sreg (cidOf c) 0x041 % 2 = 0 ∧ lg ≤ 3 ∧ va < 0xFF0000000000 ∧ va % 2 ^ lg = 0 ∧ s.mach.managed va = true ∧ va / 64 = p.line.toNat ∧ g.flag = false ∧ g.n ∈ [1, 2, 3, 4] ∧ f = (if g.n = 1 then fPerm 7 else ⟨0x0C, if g.n = 2 then 4 else if g.n = 3 then 2 else 3, homeOf (p.line.toNat * 64)⟩) ∧ (s.mach.core (cidOf c)).sb = [] ∧ s.mach.hon R.HDR_STATUS_COMMIT_PENDING .core c.core.val c.die.val = false) (edit run (fun m => { (m.setFlight 0 [⟨.load 5 2 0x1004 .data 4 false, .waiting [0x40]⟩]).setDl 0 0x40 { noLine with st := .isd, wait := [(0, .load 5 2 0x1004 .data 4 false)] } with net := [{ k := .refuse, src := 73, dst := 0, line := 0x40, n := 3 }] })) ⟨73, 0, 0, 0x40, 0, false, false, 0, 0, 0⟩ { k := .refuse, src := 73, dst := 0, line := 0x40, n := 3 } { noLine with st := .isd, wait := [(0, .load 5 2 0x1004 .data 4 false)] } ⟨0, 0⟩ 5 2 0x1004 4 false ⟨0x0C, 2, 1⟩) ∧
    ((fun (s : State) (p : Packet) (g : Msg) (x : DieLine) (c : Cid) (op a lvl : Nat) (l : List Nat) (f : Flt) =>
      s.mach.homeUp = true ∧ Idle s ∧ isDie p.dst.val = true ∧ Flies s .refuse p g ∧ g.aux = cidOf c + 1 ∧ (s.mach.core (cidOf c)).flight = [⟨.cmo op a, .waiting (p.line.toNat :: l)⟩] ∧ p.line.toNat ∈ (s.mach.core (cidOf c)).maint ∧ x = s.mach.dl p.dst.val p.line.toNat ∧ x.snq = [] ∧ x.wait = [] ∧ NoCount s c ∧ g.n ∈ [1, 2, 3, 4] ∧ f = (if g.n = 1 then fPerm 7 else ⟨0x0C, if g.n = 2 then 4 else if g.n = 3 then 2 else 3, homeOf (p.line.toNat * 64)⟩) ∧ lvl = s.mach.excLevel (cidOf c) f.cls ∧ (s.mach.core (cidOf c)).sb = [] ∧ s.mach.hon R.HDR_STATUS_COMMIT_PENDING .core c.core.val c.die.val = false) (edit run (fun m => { (m.setFlight 0 [⟨.cmo 2 7, .waiting [0x40]⟩]).modCore 0 (fun c => { c with maint := [0x40] }) with net := [{ k := .refuse, src := 73, dst := 0, line := 0x40, n := 3, aux := 1 }] })) ⟨73, 0, 0, 0x40, 0, false, false, 0, 0, 0⟩ { k := .refuse, src := 73, dst := 0, line := 0x40, n := 3, aux := 1 } noLine ⟨0, 0⟩ 2 7 2 [] ⟨0x0C, 2, 1⟩) := by
  decide +kernel

/-- What the clauses of CachesSweepsAndRangeSets assume holds somewhere. -/
theorem witness_CachesSweepsAndRangeSets :
    ((fun (s : State) (src : Src) =>
      MayWrite s src 12 .ten 0) (sets up [(R.TEN_RSET_SEL_SET, 7)]) .mc) ∧
    ((fun (s : State) (set : BitVec 12) =>
      s.dev.rinv.contains set.toNat = true ∧ s.mach.rangeHeld = false) (edit up (fun m => { m with rinv := [7, 9], rstale := [(1, ⟨true, true, true, 0, 0, 0⟩), (57, ⟨true, true, true, 0, 0, 0⟩)] })) 7) ∧
    ((fun (s : State) (set : BitVec 12) =>
      (s.mach.rangeHeld = true ∨ s.dev.rinv.contains set.toNat = false)) (edit up (fun m => { m with rinv := [7, 9], net := [{ k := .wrLine, src := 16, dst := 73, line := 0x40 }] })) 7) ∧
    ((fun (s : State) (die : Fin 12) (line : BitVec 42) (x : DieLine) (st : LSt) (g : Msg) =>
      s.mach.homeUp = true ∧ s.mach.dieUp die.val = true ∧ x = s.mach.dl die.val line.toNat ∧ x.l3 ≠ none ∧ x.l2 = [] ∧ x.writers = [] ∧ s.mach.flushing die.val line.toNat = false ∧ (x.st, st, g) ∈ [(LSt.m, LSt.mia, ({ k := .wbDirty, src := die.val, dst := agentHome (homeOf (line.toNat * 64)), line := line.toNat, data := x.data, poison := x.poison } : Msg)), (.o, .oia, { k := .wbDirty, src := die.val, dst := agentHome (homeOf (line.toNat * 64)), line := line.toNat, data := x.data, poison := x.poison }), (.e, .eia, { k := .evict, src := die.val, dst := agentHome (homeOf (line.toNat * 64)), line := line.toNat, data := x.data, poison := x.poison, flag := true }), (.s, .sia, { k := .evict, src := die.val, dst := agentHome (homeOf (line.toNat * 64)), line := line.toNat, data := x.data, poison := x.poison, flag := true })]) (edit (hold .e up) (fun m => m.setDl 0 0x40 { m.dl 0 0x40 with l3 := some 5 })) 0 0x40 { noLine with st := .e, l3 := some 5, data := BitVec.ofNat 512 (0x11 * ((2 ^ 512 - 1) / 255)) } .eia ({ k := .evict, src := 0, dst := 73, line := 0x40, data := BitVec.ofNat 512 (0x11 * ((2 ^ 512 - 1) / 255)), flag := true })) ∧
    ((fun (s : State) (die : Fin 12) (line : BitVec 42) (core : Fin 20) (way : Fin 16) (x : DieLine) =>
      s.mach.homeUp = true ∧ s.mach.dieUp die.val = true ∧ NoUncore s ∧ x = s.mach.dl die.val line.toNat ∧ x.st ∈ [LSt.m, .o, .e, .s] ∧ core.val ∈ x.l2 ∧ 32 * die.val + core.val ∉ x.writers ∧ x.l3 = none ∧ s.mach.l3Holds die.val line.toNat way.val = none ∧ s.mach.wayOpen die.val (l3Slice line.toNat) way.val = true) (edit (hold .e up) (fun m => m.setDl 0 0x40 { m.dl 0 0x40 with l2 := [0, 4] })) 0 0x40 4 5 { noLine with st := .e, l2 := [0, 4], data := BitVec.ofNat 512 (0x11 * ((2 ^ 512 - 1) / 255)) }) ∧
    ((fun (s : State) (die : Fin 12) (line : BitVec 42) (o : OfferTo) =>
      s.mach.homeUp = false ∨ s.mach.dieUp die.val = false ∨ (s.mach.dl die.val line.toNat).st = .i) up 0 0x40 .msc) ∧
    ((fun (s : State) (die : Fin 12) (line : BitVec 42) (core : Fin 20) (way : Fin 16) (x : DieLine) =>
      s.mach.homeUp = true ∧ s.mach.dieUp die.val = true ∧ NoUncore s ∧ x = s.mach.dl die.val line.toNat ∧ x.st ∈ [LSt.e, .s] ∧ x.l2 = [core.val] ∧ x.writers = [] ∧ x.l3 = none ∧ s.mach.act R.L3_POLICY_DEAD_EN (l3Slice line.toNat) die.val = 1 ∧ s.mach.flushing die.val line.toNat = false) (edit (hold .e up) (fun m => (m.setDl 0 0x40 { m.dl 0 0x40 with l2 := [4] }))) 0 0x40 4 5 { noLine with st := .e, l2 := [4], data := BitVec.ofNat 512 (0x11 * ((2 ^ 512 - 1) / 255)) }) ∧
    ((fun (s : State) (src : Src) (die : Fin 12) (slice : Fin 20) (value : Word) =>
      MayWrite s src die.val .l3 slice.val ∧ s.dev.pruning.find (die.val * 64 + slice.val) = none) up .mc 2 3 0xC) ∧
    ((fun (s : State) (src : Src) (die : Fin 12) (slice : Fin 20) (value : Word) =>
      MayWrite s src die.val .l3 slice.val ∧ s.dev.pruning.find (die.val * 64 + slice.val) ≠ none) (edit up (fun m => { m with pruning := [(131, (1, true))] })) .mc 2 3 0xC) ∧
    ((fun (s : State) (die : Fin 12) (slice : Fin 20) (g pr : Nat) (down : Bool) =>
      s.mach.dieUp die.val = true ∧ s.dev.pruning.find (die.val * 64 + slice.val) = some (g, down) ∧ (1 ≤ g ∧ g ≤ 3) ∧ pr = s.mach.get R.L3_PRUNE_STATUS_PRUNED slice.val die.val ∧ pr / 2 ^ (g - 1) % 2 = (!down).toNat ∧ (down = true → s.mach.groupLines die.val slice.val g = [] ∧ s.mach.sliceBusy die.val slice.val = false)) (edit up (fun m => { m.set R.L3_PRUNE_REQ_GROUPS 5 3 2 with pruning := [(131, (1, true))] })) 2 3 1 0 true) ∧
    ((fun (s : State) (die : Fin 12) (slice : Fin 20) (g l : Nat) (x : DieLine) =>
      s.mach.dieUp die.val = true ∧ s.dev.pruning.find (die.val * 64 + slice.val) = some (g, true) ∧ s.mach.groupLines die.val slice.val g = [l] ∧ x = s.mach.dl die.val l ∧ x.l2 = [] ∧ x.st ∈ [LSt.m, .o, .e, .s] ∧ x.writers = [] ∧ s.mach.flushing die.val l = false ∧ l < 2 ^ 42) (edit (hold .m up) (fun m => { (m.set R.L3_PRUNE_REQ_GROUPS 1 4).setDl 0 0x40 { m.dl 0 0x40 with l3 := some 5 } with pruning := [(4, (1, true))] })) 0 4 1 0x40 { noLine with st := .m, l3 := some 5, data := BitVec.ofNat 512 (0x11 * ((2 ^ 512 - 1) / 255)) }) ∧
    ((fun (s : State) (die : Fin 12) (slice : Fin 20) =>
      s.mach.dieUp die.val = false ∨ s.dev.pruning.find (die.val * 64 + slice.val) = none ∨ (∃ g ∈ s.dev.pruning.find (die.val * 64 + slice.val), g.2 = true ∧ s.mach.groupLines die.val slice.val g.1 = [] ∧ s.mach.sliceBusy die.val slice.val = true)) up 2 3) ∧
    ((fun (s : State) (src : Src) (q : Fin 4) (t : BitVec 11) (l : Nat) (e : FEnt) =>
      MayWrite s src 12 .home q.val ∧ s.mach.get R.HOME_SWEEP_BUSY q.val = 0 ∧ s.dev.filter = [(l, e)] ∧ e.tenant = t.toNat ∧ homeOf (l * 64) = q.val ∧ e.st = .s ∧ (∀ x ∈ s.dev.htx, x.req.line ≠ l)) (edit up (fun m => { m with filter := [(0x40, ⟨.s, 0, [1, 2], 5, 1⟩)] })) .mc 1 5 0x40 ⟨.s, 0, [1, 2], 5, 1⟩) ∧
    ((fun (s : State) (src : Src) (q : Fin 4) (t : BitVec 11) =>
      MayWrite s src 12 .home q.val ∧ s.mach.on R.HOME_SWEEP_BUSY q.val = true ∨ (∀ e ∈ s.dev.filter, ¬(homeOf (e.1 * 64) = q.val ∧ e.2.tenant = t.toNat))) up .mc 1 5) ∧
    ((fun (s : State) (q : Fin 4) =>
      s.mach.on R.HOME_SWEEP_BUSY q.val = true ∧ Idle s ∧ s.dev.tenCmd = none ∧ s.dev.pair.attaches = [] ∧ s.mach.presented = [] ∧ (∀ e ∈ s.dev.filter, ¬(homeOf (e.1 * 64) = q.val ∧ e.2.tenant = s.dev.sweeping.getD q.val 0))) (edit up (fun m => { (m.set R.HOME_SWEEP_BUSY 1 2).set R.HOME_SWEEP_TENANT 5 2 with sweeping := [(2, 5)], filter := [(0x40, ⟨.s, 0, [1, 2], 5, 1⟩)] })) 2) ∧
    ((fun (s : State) (q : Fin 4) =>
      s.mach.on R.HOME_SWEEP_BUSY q.val = false) up 2) ∧
    ((fun (s : State) (q : Fin 4) (l : Nat) (e : FEnt) =>
      s.mach.on R.HOME_SWEEP_BUSY q.val = true ∧ Idle s ∧ s.dev.filter = [(l, e)] ∧ homeOf (l * 64) = q.val ∧ e.tenant = s.dev.sweeping.getD q.val 0 ∧ (∃ x ∈ s.dev.htx, x.req.line = l)) (edit up (fun m => { m.set R.HOME_SWEEP_BUSY 1 1 with sweeping := [(1, 5)], filter := [(0x40, ⟨.s, 0, [1, 2], 5, 1⟩)], htx := [⟨{ k := .snpInvData, src := 73, line := 0x40 }, [1, 2], none, none, false, 0, .i, 0, false⟩] })) 1 0x40 ⟨.s, 0, [1, 2], 5, 1⟩) := by
  decide +kernel

/-- What the clauses of DdrCommandsComplete assume holds somewhere. -/
theorem witness_DdrCommandsComplete :
    ((fun (s : State) (spa lda : BitVec 48) (a : Nat) =>
      NoUncore s ∧ a = lda.toNat / 64 * 64 ∧ s.mach.homeUp = true ∧ s.mach.chanReady a = true ∧ s.mach.inMap a = false ∧ s.mach.metaOf a = ⟨false, [], some (s.mach.bedEnc (lineOf spa.toNat))⟩) (edit up (fun m => m.writeBed 0x1040 0x4100000040 0x77 false)) 0x1048 0x4100000040 0x4100000040) ∧
    ((fun (s : State) (spa lda : BitVec 48) (a : Nat) =>
      NoUncore s ∧ a = lda.toNat / 64 * 64 ∧ s.mach.homeUp = true ∧ s.mach.chanReady a = true ∧ s.mach.inMap a = false ∧ s.mach.metaOf a = ⟨true, [], none⟩ ∧ (∀ i < 8, s.mach.on (R.DDR_ERASE_V.at i) (s.mach.ldaChan a).1 = false)) (edit up (fun m => m.writeBed 0x1040 0x4100000040 0x77 true)) 0x1048 0x4100000040 0x4100000040) ∧
    ((fun (s : State) (spa lda : BitVec 48) (data : Line) (poison : Bool) (a : Nat) =>
      NoUncore s ∧ a = lda.toNat / 64 * 64 ∧ s.mach.homeUp = true ∧ s.mach.chanReady a = true) up 0x1048 0x4100000040 0x1234 false 0x4100000040) ∧
    ((fun (s : State) (spa lda : BitVec 48) (r : MemResp) (t : HTx) (d : Line) =>
      s.mach.homeUp = true ∧ Idle s ∧ s.mach.isH2 = true ∧ s.dev.memResp.find? (fun r => r.spa / 64 == spa.toNat / 64 && r.lda / 64 == lda.toNat / 64) = some r ∧ r.res = .ok d ∧ s.dev.htx = [t] ∧ t.req.spec = false ∧ t.req.line = spa.toNat / 64 ∧ t.fill = 1 ∧ t.acks = [] ∧ t.want = none ∧ t.defer = false ∧ t.cmpAck = false ∧ (t.req.k = .rdShared ∨ t.req.k = .rdOwn) ∧ s.mach.lineLda (spa.toNat / 64) = some (lda.toNat / 64 * 64) ∧ s.mach.mscLine (spa.toNat / 64) = none) (edit up (fun m => { m.setEntry 0x1000 (eMove entryReset tierBed 0x4100000 0 false) with memResp := [⟨0x1040, 0x4100000040, .ok 5⟩], htx := [⟨{ k := .rdShared, src := 2, line := 0x41 }, [], none, none, false, 1, .e, 0, false⟩] })) 0x1048 0x4100000040 ⟨0x1040, 0x4100000040, .ok 5⟩ ⟨{ k := .rdShared, src := 2, line := 0x41 }, [], none, none, false, 1, .e, 0, false⟩ 5) ∧
    ((fun (s : State) (spa lda : BitVec 48) =>
      s.mach.homeUp = false ∨ s.mach.chanReady (lda.toNat / 64 * 64) = false) (edit up (fun m => m.set R.PKG_MODE_MODE 9)) 0x1048 0x4100000040) ∧
    ((fun (s : State) (spa lda : BitVec 48) =>
      s.mach.homeUp = true ∧ s.dev.memResp.find? (fun r => r.spa / 64 == spa.toNat / 64 && r.lda / 64 == lda.toNat / 64) = none) up 0x1048 0x4100000040) ∧
    ((fun (s : State) (ch : Fin 16) (ranks : BitVec 4) (c q mate a b : Nat) =>
      s.mach.mode = 2 ∧ c = ch.val ∧ s.mach.on R.DDR_TRAIN_TRAINED c = false ∧ s.mach.get R.DDR_MAP_WAYS c = 2 ∧ q = c / 4 ∧ mate = 4 * q + (c % 4 + 2) % 4 ∧ a = 4 * q + (1 - c % 2) ∧ b = a + 2 ∧ s.mach.chanFailed a = false ∧ s.mach.chanFailed b = false) (edit up (fun m => (m.set R.PKG_MODE_MODE 2).set R.DDR_TRAIN_TRAINED 0 5)) 5 3 5 1 7 4 6) ∧
    ((fun (s : State) (src : Src) (ch : Fin 16) (value : Word) (n rank sub dev : Nat) =>
      MayWrite s src 12 .ddr ch.val ∧ rank = bitsOf value.toNat 0 2 ∧ sub = bitsOf value.toNat 2 1 ∧ dev = bitsOf value.toNat 3 4 ∧ n = 2 * rank + sub ∧ bitsOf value.toNat 7 1 = 1 ∧ dev < 10 ∧ s.mach.on (R.DDR_ERASE_V.at n) ch.val = false) up .mc 3 0xCD 3 1 1 9) ∧
    ((fun (s : State) (ch : Fin 16) =>
      s.mach.hon R.HDR_STATUS_READY .ddr ch.val = true) up 4) ∧
    ((fun (s : State) (q : Fin 4) (ecs : List EcsCount) (late : Bool) (i a : Nat) =>
      s.mach.mode ≠ 9 ∧ s.mach.hon R.HDR_STATUS_ENABLED .rake q.val = true ∧ s.mach.hon R.HDR_CONTROL_QUIESCE .rake q.val = false ∧ i = s.mach.get R.RAKE_STATUS_CURSOR q.val ∧ i + 1 < s.mach.rakeLines q.val ∧ a = q.val * s.mach.qsize q.val + 64 * i ∧ s.mach.hon R.HDR_STATUS_READY .ddr (s.mach.ldaChan a).1 = true ∧ s.mach.hon R.HDR_STATUS_STRUCK .ddr (s.mach.ldaChan a).1 = false ∧ (s.mach.metaOf a).poison = false ∧ (s.mach.metaOf a).err = [] ∧ (s.mach.ldaChan a).1 < 16) (edit up (fun m => m.set R.RAKE_STATUS_CURSOR 6 1)) 1 [] false 6 0x4000000180) ∧
    ((fun (s : State) (ch : Fin 16) (ranks : BitVec 4) =>
      s.mach.mode ≠ 2 ∨ s.mach.on R.DDR_TRAIN_TRAINED ch.val = true) up 5 3) ∧
    ((fun (s : State) (src : Src) (ch : Fin 16) (value : Word) =>
      MayWrite s src 12 .ddr ch.val ∧ bitsOf value.toNat 7 1 = 0 ∨ (bitsOf value.toNat 3 4 < 10 ∧ s.mach.on (R.DDR_ERASE_V.at (2 * bitsOf value.toNat 0 2 + bitsOf value.toNat 2 1)) ch.val = true)) up .mc 3 0x4D) ∧
    ((fun (s : State) (ch : Fin 16) =>
      s.mach.hon R.HDR_STATUS_READY .ddr ch.val = false ∧ s.mach.on R.DDR_TRAIN_SELF_REFRESH ch.val = false) (edit up (fun m => m.hset R.HDR_STATUS_READY .ddr 0 3)) 3) ∧
    ((fun (s : State) (q : Fin 4) (ecs : List EcsCount) (late : Bool) =>
      s.mach.mode = 9 ∨ s.mach.hon R.HDR_STATUS_ENABLED .rake q.val = false ∨ s.mach.hon R.HDR_CONTROL_QUIESCE .rake q.val = true) (edit up (fun m => m.hset R.HDR_CONTROL_QUIESCE .rake 1 2)) 2 [] true) := by
  decide +kernel

/-- What the clauses of TierCommandsComplete assume holds somewhere. -/
theorem witness_TierCommandsComplete :
    ((fun (s : State) (src : Src) (q : Fin 4) (page : BitVec 36) (p : Nat) =>
      MayWrite s src 12 .tier q.val ∧ Idle s ∧ s.mach.tierReady q.val = true ∧ s.mach.takesNew .tier q.val = true ∧ s.mach.on R.TIER_CMD_BUSY q.val = false ∧ p = page.toNat * 4096 ∧ homeOf p = q.val ∧ s.mach.managed p = true ∧ s.mach.mapUnreadable p = false) up .mc 1 1 0x1000) ∧
    ((fun (s : State) (src : Src) (q : Fin 4) (page : BitVec 36) (a : PageAttrs) (p e : Nat) =>
      MayWrite s src 12 .tier q.val ∧ Idle s ∧ s.mach.tierReady q.val = true ∧ s.mach.takesNew .tier q.val = true ∧ s.mach.on R.TIER_CMD_BUSY q.val = false ∧ p = page.toNat * 4096 ∧ homeOf p = q.val ∧ s.mach.managed p = true ∧ s.mach.mapUnreadable p = false ∧ e = s.mach.entry p ∧ eState e ∉ [stPromoting, stDemoting, stRekeying] ∧ ¬(eState e = stStable ∧ eTier e = tierNone) ∧ s.mach.mirrorFed = false ∧ ((a.tenant.toNat = eTenant e ∧ a.dur = eDur e) ∨ ((∀ x ∈ s.dev.filter, pageOf (x.1 * 64) ≠ p) ∧ (∀ t ∈ s.dev.htx, pageOf (t.req.line * 64) ≠ p))) ∧ (a.dur = true → s.mach.inDregion p = true ∧ (eDur e = true ∨ ∀ x ∈ s.dev.msc, pageOf (x.1 * 64) ≠ p)) ∧ (eDur e = true → a.dur = true ∨ s.mach.consents (eTenant e) = true) ∧ (a.sleepok = true → s.mach.foreignTenant a.tenant.toNat = false) ∧ (a.pin = true → (ePin e = true ∨ eState e ≠ stStable ∨ eTier e = tierBed) ∧ (s.dev.pmap.filter (fun x => x.1 * 4096 != p && homeOf (x.1 * 4096) == q.val && ePin x.2.toNat && s.mach.acctTenant (x.1 * 4096) == a.tenant.toNat)).length + 1 < share (s.mach.quotaOf a.tenant.toNat tierBed) tierBed)) up .mc 1 1 ⟨0, false, false, true⟩ 0x1000 0xC) ∧
    ((fun (s : State) (src : Src) (q : Fin 4) (page : BitVec 36) (a : PageAttrs) (p e : Nat) =>
      MayWrite s src 12 .tier q.val ∧ Idle s ∧ s.mach.tierReady q.val = true ∧ s.mach.takesNew .tier q.val = true ∧ s.mach.on R.TIER_CMD_BUSY q.val = false ∧ p = page.toNat * 4096 ∧ homeOf p = q.val ∧ s.mach.managed p = true ∧ s.mach.mapUnreadable p = false ∧ e = s.mach.entry p ∧ eState e = stStable ∧ eTier e = tierNone ∧ s.mach.mirrorFed = false ∧ (a.dur = true → s.mach.inDregion p = true)) (edit up (fun m => m.setEntry 0x1000 3)) .mc 1 1 ⟨5, false, true, true⟩ 0x1000 3) ∧
    ((fun (s : State) (src : Src) (q : Fin 4) (page : BitVec 36) (i : Instr) (p e new : Nat) =>
      MayWrite s src 12 .tier q.val ∧ Idle s ∧ s.mach.tierReady q.val = true ∧ s.mach.takesNew .tier q.val = true ∧ s.mach.on R.TIER_CMD_BUSY q.val = false ∧ p = page.toNat * 4096 ∧ homeOf p = q.val ∧ s.mach.managed p = true ∧ s.mach.mapUnreadable p = false ∧ e = s.mach.entry p ∧ s.mach.mirrorFed = false ∧ (∀ x ∈ s.dev.filter, pageOf (x.1 * 64) ≠ p) ∧ (∀ t ∈ s.dev.htx, pageOf (t.req.line * 64) ≠ p) ∧ (i = .tierFree src q page ∧ eState e ∉ [stPromoting, stDemoting, stRekeying] ∧ new = tierNone ∨ i = .tierZero src q page ∧ eState e = stStable ∧ eTier e ≠ tierNone ∧ new = eSetState (eMove e tierBed 0 0 false) stZero)) (edit up (fun m => { m.setEntry 0x1000 (eMove entryReset tierBed 0x4100000 0 false) with frames := [(0x4100000, 256)] })) .mc 1 1 (.tierFree .mc 1 1) 0x1000 (eMove entryReset tierBed 0x4100000 0 false) tierNone) ∧
    ((fun (s : State) (src : Src) (q : Fin 4) (page : BitVec 36) (p e : Nat) =>
      MayWrite s src 12 .tier q.val ∧ Idle s ∧ s.mach.tierReady q.val = true ∧ s.mach.takesNew .tier q.val = true ∧ s.mach.on R.TIER_CMD_BUSY q.val = false ∧ p = page.toNat * 4096 ∧ homeOf p = q.val ∧ s.mach.managed p = true ∧ s.mach.mapUnreadable p = false ∧ e = s.mach.entry p ∧ eState e = stPoisoned ∧ s.mach.mirrorFed = false) (edit up (fun m => { m.setEntry 0x1000 (eSetState (eMove entryReset tierFrame (0x4100000 * 8) 1 false) stPoisoned) with frames := [(0x4100000, 3)] })) .mc 1 1 0x1000 (eSetState (eMove entryReset tierFrame (0x4100000 * 8) 1 false) stPoisoned)) ∧
    ((fun (s : State) (src : Src) (q : Fin 4) (page : BitVec 36) (p e k : Nat) =>
      MayWrite s src 12 .tier q.val ∧ Idle s ∧ s.mach.tierReady q.val = true ∧ s.mach.takesNew .tier q.val = true ∧ s.mach.on R.TIER_CMD_BUSY q.val = false ∧ p = page.toNat * 4096 ∧ homeOf p = q.val ∧ s.mach.managed p = true ∧ s.mach.mapUnreadable p = false ∧ e = s.mach.entry p ∧ eState e = stStable ∧ eTier e = tierFrame ∧ s.mach.bedNow p = true ∧ s.mach.freeMoveSlot q.val = some k) (edit up (fun m => { m.setEntry 0x1000 (eMove entryReset tierFrame (0x4100000 * 8) 1 false) with frames := [(0x4100000, 3)] })) .mc 1 1 0x1000 (eMove entryReset tierFrame (0x4100000 * 8) 1 false) 64) ∧
    ((fun (s : State) (src : Src) (q : Fin 4) (page : BitVec 36) (p e : Nat) =>
      MayWrite s src 12 .tier q.val ∧ Idle s ∧ s.mach.tierReady q.val = true ∧ s.mach.takesNew .tier q.val = true ∧ s.mach.on R.TIER_CMD_BUSY q.val = false ∧ p = page.toNat * 4096 ∧ homeOf p = q.val ∧ s.mach.managed p = true ∧ s.mach.mapUnreadable p = false ∧ e = s.mach.entry p ∧ eState e = stStable ∧ eTier e = tierFrame ∧ s.mach.bedNow p = true ∧ s.mach.freeMoveSlot q.val = none ∧ s.mach.hasFailed p = false) (edit up (fun m => { m.setEntry 0x1000 (eMove entryReset tierFrame (0x4100000 * 8) 1 false) with frames := [(0x4100000, 3)], moves := (List.range 64).map (fun i => (64 + i, promotion 0x5000 entryReset 0x4100000)) })) .mc 1 1 0x1000 (eMove entryReset tierFrame (0x4100000 * 8) 1 false)) ∧
    ((fun (s : State) (src : Src) (q : Fin 4) (page : BitVec 36) (p e k : Nat) =>
      MayWrite s src 12 .tier q.val ∧ Idle s ∧ s.mach.tierReady q.val = true ∧ s.mach.takesNew .tier q.val = true ∧ s.mach.on R.TIER_CMD_BUSY q.val = false ∧ p = page.toNat * 4096 ∧ homeOf p = q.val ∧ s.mach.managed p = true ∧ s.mach.mapUnreadable p = false ∧ e = s.mach.entry p ∧ eState e = stStable ∧ eTier e = tierBed ∧ ePin e = false ∧ s.mach.mirrorFed = false ∧ s.mach.freeMoveSlot q.val = some k ∧ (∀ i < 64, s.mach.ownerLine (p / 64 + i) = some (0, false))) (edit up (fun m => { m.setEntry 0x1000 (eMove entryReset tierBed 0x4100000 0 false) with frames := [(0x4100000, 256)], lines := (List.range 64).map (fun i => (0x40 + i, { noLine with st := .m })) })) .mc 1 1 0x1000 (eMove entryReset tierBed 0x4100000 0 false) 64) ∧
    ((fun (s : State) (src : Src) (q : Fin 4) (page : BitVec 36) (a : PageAttrs) (p : Nat) (i : Instr) =>
      MayWrite s src 12 .tier q.val ∧ Idle s ∧ s.mach.tierReady q.val = true ∧ s.mach.takesNew .tier q.val = true ∧ s.mach.on R.TIER_CMD_BUSY q.val = false ∧ p = page.toNat * 4096 ∧ (homeOf p ≠ q.val ∨ s.mach.managed p = false) ∧ i ∈ [Instr.tierRead src q page, .tierSetAttr src q page a, .tierAlloc src q page a, .tierFree src q page, .tierZero src q page, .tierPromote src q page, .tierDemote src q page 0, .tierClearPoison src q page]) up .mc 2 1 ⟨0, false, false, true⟩ 0x1000 (.tierZero .mc 2 1)) := by
  decide +kernel

/-- What the clauses of MovesAndAgeingComplete assume holds somewhere. -/
theorem witness_MovesAndAgeingComplete :
    ((fun (s : State) (q : Fin 4) (slot : Fin 64) (k : Nat) (v : Move) =>
      s.mach.tierReady q.val = true ∧ s.mach.homeUp = true ∧ Idle s ∧ k = q.val * 64 + slot.val ∧ s.dev.moves.find k = some v ∧ v.promote = true ∧ v.page % 4096 = 0 ∧ homeOf v.page = q.val ∧ v.srcTier = tierShed ∧ v.srcCmp = false ∧ v.dstTier = tierBed ∧ v.units = 255 ∧ (s.mach.tq q.val).deferred = [] ∧ s.mach.on R.LANT_CTL_TRACE_TIER = false ∧ (∀ u < 8, s.mach.unitOk (locShelf v.srcLoc) v.page u false v.srcPlots (locPlace v.srcLoc) = true) ∧ (∀ r ∈ s.dev.shelfReads, r.page ≠ v.page ∨ r.req = none) ∧ (∀ r ∈ s.dev.journal, r.move ≠ some k)) (edit up (fun m => { m.setEntry 0x1000 (eSetState (eMove entryReset tierShed 3 0 false) stPromoting) with frames := [(0x4100000, 256)], moves := [(64, { promotion 0x1000 (eMove entryReset tierShed 3 0 false) 0x4100000 with units := 255, done := 6 })], smap := [(3, 255)], slots := [(12, ⟨1, 1, 64, 0, true, 1, 0, 0, 0, 0, [1, 2]⟩)], tags := (List.range 8).map (fun u => (24 + u, ⟨0, 12, u, [1, 2], 0, 0x1000, u, false, 0⟩)), wr := [(2 ^ 47 + 4 * 4096 + 70, 9)] })) 1 0 64 { promotion 0x1000 (eMove entryReset tierShed 3 0 false) 0x4100000 with units := 255, done := 6 }) ∧
    ((fun (s : State) (q : Fin 4) (slot : Fin 64) (k : Nat) (v : Move) (ls : List Line) =>
      s.mach.tierReady q.val = true ∧ s.mach.homeUp = true ∧ Idle s ∧ NoUncore s ∧ k = q.val * 64 + slot.val ∧ s.dev.moves.find k = some v ∧ v.promote = true ∧ v.page % 4096 = 0 ∧ homeOf v.page = q.val ∧ v.srcTier = tierFrame ∨ v.srcTier = tierShed ∧ v.dstTier = tierBed ∧ (v.srcTier = tierShed → v.units + 1 = 2 ^ unitsOf v.srcCmp v.srcPlots) ∧ (s.mach.tq q.val).deferred = [] ∧ s.mach.on R.LANT_CTL_TRACE_TIER = false ∧ (s.mach.sourcePage v.page v.srcTier v.srcLoc v.srcPlots v.srcCmp).2.1 = some ls ∧ (∀ r ∈ s.dev.shelfReads, r.page ≠ v.page ∨ r.req = none)) (edit up (fun m => { m.setEntry 0x1000 (eSetState (eMove entryReset tierShed 3 0 false) stPromoting) with frames := [(0x4100000, 256)], moves := [(64, { promotion 0x1000 (eMove entryReset tierShed 3 0 false) 0x4100000 with units := 255, done := 6 })], smap := [(3, 255)], slots := [(12, ⟨1, 1, 64, 0, true, 1, 0, 0, 0, 0, [1, 2]⟩)], tags := (List.range 8).map (fun u => (24 + u, ⟨0, 12, u, [1, 2], 0, 0x1000, u, false, 0⟩)), wr := [(2 ^ 47 + 4 * 4096 + 70, 9)] })) 1 0 64 { promotion 0x1000 (eMove entryReset tierShed 3 0 false) 0x4100000 with units := 255, done := 6 } ((List.range 64).map (fun i => BitVec.ofNat 512 (if i = 1 then 9 * 2 ^ 48 else 0)))) ∧
    ((fun (s : State) (q : Fin 4) (slot : Fin 64) (k : Nat) (v : Move) =>
      s.mach.tierReady q.val = true ∧ s.mach.homeUp = true ∧ Idle s ∧ k = q.val * 64 + slot.val ∧ s.dev.moves.find k = some v ∧ v.promote = false ∧ homeOf v.page = q.val ∧ v.srcTier = tierBed ∧ v.dstTier = tierFrame ∧ v.writes = 0 ∧ (s.mach.tq q.val).deferred = [] ∧ s.mach.on R.LANT_CTL_TRACE_TIER = false) (edit up (fun m => { m.setEntry 0x1000 (eSetState (eMove entryReset tierBed 0x4100000 0 false) stDemoting) with frames := [(0x4100000, 256), (0x4100001, 3)], moves := [(64, demotion 0x1000 (eMove entryReset tierBed 0x4100000 0 false) tierFrame (0x4100001 * 8) 1 false)] })) 1 0 64 (demotion 0x1000 (eMove entryReset tierBed 0x4100000 0 false) tierFrame (0x4100001 * 8) 1 false)) ∧
    ((fun (s : State) (q : Fin 4) (slot : Fin 64) =>
      s.mach.tierReady q.val = false ∨ s.dev.moves.find (q.val * 64 + slot.val) = none) up 1 3) ∧
    ((fun (s : State) (q : Fin 4) (p e k : Nat) =>
      s.mach.tierReady q.val = true ∧ s.mach.homeUp = true ∧ s.mach.takesNew .tier q.val = true ∧ Idle s ∧ s.mach.act R.TIER_POLICY_AGE_DEMOTE q.val = 1 ∧ s.dev.pmap = [(p / 4096, BitVec.ofNat 64 e)] ∧ e < 2 ^ 64 ∧ p % 4096 = 0 ∧ homeOf p = q.val ∧ eState e = stStable ∧ eTier e = tierBed ∧ ePin e = false ∧ s.mach.act R.TIER_POLICY_FORCE_AGE q.val ≤ eAge e ∧ s.mach.mirrorFed = false ∧ s.mach.freeMoveSlot q.val = some k ∧ (∀ i < 64, s.mach.ownerLine (p / 64 + i) = some (0, false))) (edit up (fun m => { m.setEntry 0x1000 (eSetAge (eMove entryReset tierBed 0x4100000 0 false) 7) with active := [(pageOff 12 .tier 1 + 0x108, 1024)], frames := [(0x4100000, 256)], lines := (List.range 64).map (fun i => (0x40 + i, { noLine with st := .m })) })) 1 0x1000 (eSetAge (eMove entryReset tierBed 0x4100000 0 false) 7) 64) ∧
    ((fun (s : State) (q : Fin 4) (cause : DemoteCause) =>
      s.mach.takesNew .tier q.val = false) (edit up (fun m => m.hset R.HDR_CONTROL_QUIESCE .tier 1 1)) 1 .watermark) ∧
    ((fun (s : State) (q : Fin 4) =>
      s.mach.tierReady q.val = true ∧ s.mach.takesNew .tier q.val = true) (edit up (fun m => m.setEntry 0x1000 (eSetAge (eMove entryReset tierBed 0x4100000 0 false) 6))) 1) ∧
    ((fun (s : State) (q : Fin 4) (seq : Word) (r : JRec) (k : Nat) (v : Move) =>
      Idle s ∧ s.dev.journal.find? (fun r => r.q == q.val && r.seq == seq.toNat && r.kind != 1 && r.sent) = some r ∧ s.mach.shelfState r.shelf ∈ [2, 3] ∧ r.kind = 0 ∧ r.move = some k ∧ s.dev.moves.find k = some v) (edit up (fun m => { m.setShelfState 2 2 with moves := [(64, { demotion 0x1000 (eMove entryReset tierBed 0x4100000 0 false) tierShed (2 * 2 ^ 32 + 3) 0 false with writes := 72 })], journal := [⟨1, 0x1000, 0, false, 2, 3, 1, 0, 5, some 64, 0, false, 0, true, 0x77⟩] })) 1 5 ⟨1, 0x1000, 0, false, 2, 3, 1, 0, 5, some 64, 0, false, 0, true, 0x77⟩ 64 { demotion 0x1000 (eMove entryReset tierBed 0x4100000 0 false) tierShed (2 * 2 ^ 32 + 3) 0 false with writes := 72 }) ∧
    ((fun (s : State) (shelf : Fin 64) (page : BitVec 36) (unit : Fin 8) (p e k : Nat) (v : Move) =>
      Idle s ∧ p = page.toNat * 4096 ∧ e = s.mach.entry p ∧ s.mach.shelfState shelf.val ∈ [2, 3] ∧ (∃ r ∈ s.dev.shelfReads, r.shelf = shelf.val ∧ r.page = p ∧ r.unit = unit.val) ∧ (∀ r ∈ s.dev.shelfReads, r.shelf = shelf.val → r.page = p → r.unit = unit.val → r.req = none) ∧ eTier e = tierShed ∧ locShelf (eLoc e) = shelf.val ∧ eState e ≠ stPoisoned ∧ eCmp e = false ∧ s.mach.unitOk shelf.val p unit.val false (ePlots e) (locPlace (eLoc e)) = true ∧ s.mach.moveOf p = some (k, v) ∧ s.dev.moves.find k = some v ∧ v.promote = true ∧ v.units / 2 ^ unit.val % 2 = 0) (edit up (fun m => { (m.setEntry 0x1000 (eSetState (eMove entryReset tierShed (2 * 2 ^ 32 + 3) 0 false) stPromoting)).setShelfState 2 2 with moves := [(64, { promotion 0x1000 (eMove entryReset tierShed (2 * 2 ^ 32 + 3) 0 false) 0x4100000 with units := 3 })], slots := [(12, ⟨1, 1, 64, 0, true, 1, 0, 0, 0, 0, [1, 2]⟩)], tags := [(2 * 2 ^ 40 + 26, ⟨0, 12, 5, [1, 2], 0, 0x1000, 2, false, 0⟩)], shelfReads := [⟨2, 0x1000, 2, none, some 64⟩, ⟨2, 0x1000, 3, none, some 64⟩] })) 2 1 2 0x1000 (eSetState (eMove entryReset tierShed (2 * 2 ^ 32 + 3) 0 false) stPromoting) 64 { promotion 0x1000 (eMove entryReset tierShed (2 * 2 ^ 32 + 3) 0 false) 0x4100000 with units := 3 }) ∧
    ((fun (s : State) (shelf : Fin 64) (page : BitVec 36) (unit : Fin 8) (intact : Bool) (q : Fin 4) (seq : Word) =>
      (∀ r ∈ s.dev.shelfReads, ¬(r.shelf = shelf.val ∧ r.page = page.toNat * 4096 ∧ r.unit = unit.val)) ∧ (∀ r ∈ s.dev.journal, ¬(r.q = q.val ∧ r.seq = seq.toNat))) up 2 1 2 true 1 5) := by
  decide +kernel

/-- What the clauses of ShelfCommandsComplete assume holds somewhere. -/
theorem witness_ShelfCommandsComplete :
    ((fun (s : State) (src : Src) (shelf : Fin 64) (i : Instr) (evac : Bool) =>
      MayWrite s src 12 .tier 0 ∧ Idle s ∧ (i, evac) ∈ [(Instr.strikeEvac src shelf, true), (.strikeSleep src shelf, false)] ∧ s.mach.shelfState shelf.val = 2 ∧ s.mach.shelfPages shelf.val = [] ∧ (∀ x ∈ s.dev.moves, moveOn x.2 shelf.val = false)) (edit up (fun m => m.setShelfState 2 2)) .mc 2 (.strikeEvac .mc 2) true) ∧
    ((fun (s : State) (src : Src) (shelf : Fin 64) =>
      MayWrite s src 12 .tier 0 ∧ Idle s ∧ s.mach.shelfState shelf.val = 2 ∧ (∀ x ∈ s.dev.moves, moveOn x.2 shelf.val = false) ∧ (∀ p ∈ s.mach.shelfPages shelf.val, s.mach.cachedDirty p = false ∧ s.mach.foreignTenant (eTenant (s.mach.entry p)) = false)) (edit up (fun m => (m.setShelfState 2 2).setEntry 0x1000 (eMove entryReset tierShed (2 * 2 ^ 32 + 3) 0 false))) .mc 2) ∧
    ((fun (s : State) (shelf : Fin 64) (port : Nat) =>
      s.mach.shelfState shelf.val = 3 ∧ (s.mach.shelf shelf.val).phase = 4 ∧ (s.mach.shelf shelf.val).mapped = false ∧ (∀ r ∈ s.dev.journal, r.shelf ≠ shelf.val) ∧ (∀ r ∈ s.dev.shelfReads, r.shelf ≠ shelf.val) ∧ (∀ t ∈ s.dev.tags, t.1 / 2 ^ 40 ≠ shelf.val) ∧ port = s.mach.get (R.TIER_SHELF_CFG_PORT.at shelf.val)) (edit up (fun m => (m.setShelfState 2 3).setShelf 2 { noShelf with phase := 4, ident := 77 })) 2 0) ∧
    ((fun (s : State) (shelf : Fin 64) (port : Nat) =>
      Idle { s with dev := { s.dev with shelves := s.dev.shelves.erase shelf.val } } ∧ s.mach.shelfState shelf.val = 3 ∧ (s.mach.shelf shelf.val).phase = 4 ∧ (∀ r ∈ s.dev.journal, r.shelf ≠ shelf.val) ∧ (∀ r ∈ s.dev.shelfReads, r.shelf ≠ shelf.val) ∧ port = s.mach.get (R.TIER_SHELF_CFG_PORT.at shelf.val) ∧ (∀ x ∈ s.dev.moves, moveOn x.2 shelf.val = false)) (edit up (fun m => { (m.setShelfState 2 3).setShelf 2 { noShelf with phase := 4 } with pmap := [], tierq := [] })) 2 0) ∧
    ((fun (s : State) (src : Src) (shelf : Fin 64) =>
      MayWrite s src 12 .tier 0 ∧ Idle s ∧ s.mach.shelfState shelf.val ∈ [4, 5] ∧ s.mach.mirrorFed = false ∧ (∀ x ∈ s.dev.moves, x.2.page ∈ s.mach.shelfPages shelf.val → x.2.done = 0)) (edit up (fun m => { (m.setShelfState 2 5).setEntry 0x1000 (eSetState (eMove entryReset tierShed (2 * 2 ^ 32 + 3) 0 false) stPromoting) with moves := [(64, promotion 0x1000 (eMove entryReset tierShed (2 * 2 ^ 32 + 3) 0 false) 0x4100000)] })) .mc 2) ∧
    ((fun (s : State) (src : Src) (shelf : Fin 64) =>
      MayWrite s src 12 .tier 0 ∧ Idle s ∧ s.mach.shelfState shelf.val ∈ [4, 5] ∧ s.mach.mirrorFed = false ∧ (∀ x ∈ s.dev.moves, x.2.page ∉ s.mach.shelfPages shelf.val) ∧ (s.mach.shelf shelf.val).mapped = false) (edit up (fun m => (m.setShelfState 2 5).setEntry 0x1000 (eSetState (eMove entryReset tierShed (2 * 2 ^ 32 + 3) 0 false) stDormant))) .mc 2) ∧
    ((fun (s : State) (shelf : Fin 64) =>
      Idle s ∧ s.mach.shelfState shelf.val ∈ [2, 3] ∧ (∀ x ∈ s.dev.moves, moveOn x.2 shelf.val = false) ∧ (∀ r ∈ s.dev.shelfReads, r.shelf ≠ shelf.val)) (edit up (fun m => (m.setShelfState 2 2).setEntry 0x1000 (eMove entryReset tierShed (2 * 2 ^ 32 + 3) 0 false))) 2) ∧
    ((fun (s : State) (src : Src) (shelf : Fin 64) =>
      MayWrite s src 12 .tier 0 ∧ Idle s ∧ s.mach.shelfState shelf.val ∈ [0, 1]) up .mc 2) := by
  decide +kernel

/-- What the clauses of SeedCommandsComplete assume holds somewhere. -/
theorem witness_SeedCommandsComplete :
    ((fun (s : State) (src : Src) (slot : BitVec 12) (attr : BitVec 25) (fixed : Option (BitVec 32)) (n alg : Nat) =>
      MayWrite s src 12 .seed 0 ∧ Idle s ∧ s.mach.seedReady = true ∧ n = slot.toNat ∧ 16 ≤ n ∧ (s.mach.slot n).state = 0 ∧ alg = bitsOf attr.toNat 0 3 ∧ alg ≤ 4 ∧ alg ≠ 2 ∧ bitsOf attr.toNat 8 3 = 0 ∧ s.mach.on R.SEED_DRBG_HEALTHY = true ∧ s.mach.durableTenant (bitsOf attr.toNat 13 11) = false) up .mc 20 (1 + 3 * 8 + 5 * 2 ^ 13) (some 7) 20 1) ∧
    ((fun (s : State) (src : Src) (slot : BitVec 12) (attr : BitVec 25) (fixed : Option (BitVec 32)) (n : Nat) =>
      MayWrite s src 12 .seed 0 ∧ Idle s ∧ s.mach.seedReady = true ∧ n = slot.toNat ∧ 16 ≤ n ∧ n % 2 = 0 ∧ (s.mach.slot n).state = 0 ∧ (s.mach.slot (n + 1)).state = 0 ∧ bitsOf attr.toNat 0 3 = 2 ∧ bitsOf attr.toNat 8 3 = 0 ∧ s.mach.on R.SEED_DRBG_HEALTHY = true ∧ s.mach.durableTenant (bitsOf attr.toNat 13 11) = false) up .mc 20 (2 + 3 * 8 + 5 * 2 ^ 13) (some 7) 20) ∧
    ((fun (s : State) (src : Src) (slot kek : BitVec 12) (addr : BitVec 42) (n k l a : Nat) (old : Line) =>
      MayWrite s src 12 .seed 0 ∧ Idle s ∧ NoUncore s ∧ s.mach.seedReady = true ∧ n = slot.toNat ∧ k = kek.toNat ∧ l = addr.toNat ∧ 16 ≤ n ∧ ((s.mach.slot n).state = 1 ∨ (s.mach.slot n).state = 2) ∧ has (s.mach.slot n).usage useExport = true ∧ s.mach.kekOk k useWrap = true ∧ (s.mach.slot k).limit = 0 ∧ k ≠ n ∧ (s.mach.slot n).key.length ≤ 32 ∧ Target s l a old ∧ s.mach.memSlot (pageOf (l * 64)) (l % 64) ∉ [k, n]) (edit up (fun m => (((m.setEntry 0x1000 (eMove entryReset tierBed 0x4100000 0 false)).setSlot 17 ⟨1, 1, 2 ^ useWrap, 0, false, 0, 0, 0, 0, 0, (List.range 32).map (BitVec.ofNat 8)⟩).setSlot 20 ⟨1, 1, 2 ^ useExport, 0, false, 0, 0, 0, 0, 0, (List.range 32).map (BitVec.ofNat 8)⟩).setDl 0 0x41 { noLine with st := .e, data := 0x77 })) .mc 20 17 0x41 20 17 0x41 0x4100000040 0x77) ∧
    ((fun (s : State) (src : Src) (slot : BitVec 12) (i : Instr) (n : Nat) (x : Slot) =>
      MayWrite s src 12 .seed 0 ∧ Idle s ∧ s.mach.seedReady = true ∧ n = slot.toNat ∧ 16 ≤ n ∧ (i = .seedRetire src slot ∧ (s.mach.slot n).state = 1 ∧ x = { s.mach.slot n with state := 2 } ∨ i = .seedDestroy src slot ∧ (s.mach.slot n).state ≠ 0 ∧ (s.mach.slot n).state ≠ 4 ∧ s.mach.durableTenant (s.mach.slot n).owner = false ∧ x = ⟨0, 0, 0, 0, false, ((s.mach.slot n).gen + 1) % 2 ^ 16, 0, 0, 0, 0, []⟩)) (edit up (fun m => m.setSlot 20 ⟨1, 1, 1, 0, false, 3, 0, 0, 0, 0, [1]⟩)) .mc 20 (.seedRetire .mc 20) 20 ⟨2, 1, 1, 0, false, 3, 0, 0, 0, 0, [1]⟩) ∧
    ((fun (s : State) (src : Src) (slot : BitVec 12) (n : Nat) =>
      MayWrite s src 12 .seed 0 ∧ Idle s ∧ s.mach.seedReady = true ∧ n = slot.toNat ∧ 16 ≤ n ∧ (s.mach.slot n).state = 0 ∧ s.mach.durableTenant (s.mach.slot n).owner = false) up .mc 20 20) ∧
    ((fun (s : State) (slot : BitVec 12) (n : Nat) =>
      n = slot.toNat ∧ (s.mach.slot n).state ≠ 0 ∧ (s.mach.slot n).state ≠ 4) (edit up (fun m => m.setSlot 20 ⟨1, 1, 1, 0, false, 3, 0, 0, 0, 0, [1]⟩)) 20 20) ∧
    ((fun (s : State) (slot : BitVec 12) =>
      (s.mach.slot slot.toNat).state = 0 ∨ (s.mach.slot slot.toNat).state = 4) up 20) := by
  decide +kernel

/-- What the clauses of KeyRotationsComplete assume holds somewhere. -/
theorem witness_KeyRotationsComplete :
    ((fun (s : State) (src : Src) (i : Instr) (n : Nat) =>
      n = 10 - 2 * s.mach.get R.SEED_MEMROT_CUR ∧ (i = .memrotGo src ∧ MayWrite s src 12 .seed 0 ∨ i = .memrotAuto ∧ s.mach.on R.SEED_MEMROT_AUTO = true ∧ s.mach.get R.SEED_MEMROT_AT_USE ≠ 0 ∧ s.mach.get R.SEED_MEMROT_AT_USE ≤ (s.mach.slot (8 + 2 * s.mach.get R.SEED_MEMROT_CUR)).use) ∧ s.mach.on R.SEED_MEMROT_ACTIVE = false ∧ (∀ q < 4, s.mach.tierReady q = true) ∧ (s.mach.slot n).state = 0 ∧ (s.mach.slot (n + 1)).state = 0 ∧ s.mach.on R.SEED_DRBG_HEALTHY = true) up .mc (.memrotGo .mc) 10) ∧
    ((fun (s : State) (q : Fin 4) (i e : Nat) (d : Bool) =>
      Quiet s ∧ s.mach.on R.SEED_SHEDROT_ACTIVE = false ∧ s.mach.on R.SEED_MEMROT_ACTIVE = true ∧ s.mach.tierReady q.val = true ∧ i = s.mach.get (R.SEED_MEMROT_CUR_CURSOR.at q.val) ∧ i + 1 < s.mach.mapEntries ∧ e = s.mach.entry (pageAt q.val i) ∧ d = (!s.mach.mapUnreadable (pageAt q.val i) && (eState e == stPromoting || eState e == stDemoting)) ∧ (s.mach.mapUnreadable (pageAt q.val i) = true ∨ ¬(eState e = stStable ∧ (eTier e = tierBed ∨ eTier e = tierFrame)))) (sets up [(R.SEED_MEMROT_ACTIVE, 1)]) 0 0 0xC false) ∧
    ((fun (s : State) (q : Fin 4) (i e p f cur : Nat) =>
      Quiet s ∧ s.mach.on R.SEED_SHEDROT_ACTIVE = false ∧ s.mach.on R.SEED_MEMROT_ACTIVE = true ∧ s.mach.tierReady q.val = true ∧ i = s.mach.get (R.SEED_MEMROT_CUR_CURSOR.at q.val) ∧ i + 1 < s.mach.mapEntries ∧ p = pageAt q.val i ∧ e = s.mach.entry p ∧ s.mach.mapUnreadable p = false ∧ eState e = stStable ∧ eTier e = tierBed ∧ (s.mach.tq q.val).poisonLater.contains p = false ∧ f = eLoc e * 4096 ∧ cur = s.mach.get R.SEED_MEMROT_CUR ∧ (∀ j < 64, s.mach.metaOf (f + 64 * j) = ⟨false, [], some ⟨(s.mach.slot (8 + 2 * cur)).key ++ (s.mach.slot (9 + 2 * cur)).key, (p / 64 + j) * 4⟩⟩)) ((fun (b : State) (l : Nat) => edit (sets b [(R.SEED_MEMROT_ACTIVE, 1)]) (fun m => forN 64 (fun j m => m.setMeta (l * 4096 + 64 * j) ⟨false, [], some ⟨(m.slot 8).key ++ (m.slot 9).key, (pageAt 1 0 / 64 + j) * 4⟩⟩) (m.setEntry (pageAt 1 0) (eMove entryReset tierBed l 0 false)))) up 0x4100000) 1 0 (eMove entryReset tierBed 0x4100000 0 false) (pageAt 1 0) (0x4100000 * 4096) 0) ∧
    ((fun (s : State) (q : Fin 4) (i e p f cur : Nat) =>
      Quiet s ∧ s.mach.on R.SEED_SHEDROT_ACTIVE = false ∧ s.mach.on R.SEED_MEMROT_ACTIVE = true ∧ s.mach.tierReady q.val = true ∧ i = s.mach.get (R.SEED_MEMROT_CUR_CURSOR.at q.val) ∧ i + 1 < s.mach.mapEntries ∧ p = pageAt q.val i ∧ e = s.mach.entry p ∧ s.mach.mapUnreadable p = false ∧ eState e = stStable ∧ eTier e = tierFrame ∧ (s.mach.tq q.val).poisonLater.contains p = false ∧ f = eLoc e * 512 ∧ cur = s.mach.get R.SEED_MEMROT_CUR ∧ (∀ u < ePlots e + 1, ∀ j < 8, s.mach.metaOf (f + 512 * u + 64 * j) = ⟨false, [], some ⟨(s.mach.slot (8 + 2 * cur)).key ++ (s.mach.slot (9 + 2 * cur)).key, 1 + u * 4 + p / 4096 * 64⟩⟩)) ((fun (b : State) (l : Nat) => edit (sets b [(R.SEED_MEMROT_ACTIVE, 1)]) (fun m => forN 16 (fun j m => m.setMeta (l * 512 + 64 * j) ⟨false, [], some ⟨(m.slot 8).key ++ (m.slot 9).key, 1 + j / 8 * 4 + pageAt 1 0 / 4096 * 64⟩⟩) (m.setEntry (pageAt 1 0) (eMove entryReset tierFrame l 1 false)))) up 0x20800000) 1 0 (eMove entryReset tierFrame 0x20800000 1 false) (pageAt 1 0) (0x20800000 * 512) 0) ∧
    ((fun (s : State) (q : Fin 4) =>
      s.mach.on R.SEED_MEMROT_ACTIVE = false ∧ Idle s) up 1) ∧
    ((fun (s : State) (src : Src) (i : Instr) (n old : Nat) =>
      n = 13 - s.mach.get R.SEED_SHEDROT_CUR ∧ old = s.mach.get R.SEED_SHEDROT_CUR ∧ (i = .shedrotGo src ∧ MayWrite s src 12 .seed 0 ∨ i = .shedrotAuto ∧ s.mach.on R.SEED_SHEDROT_AUTO = true ∧ s.mach.get R.SEED_SHEDROT_AT_USE ≠ 0 ∧ s.mach.get R.SEED_SHEDROT_AT_USE ≤ (s.mach.slot s.mach.shedSlot).use) ∧ Idle s ∧ (s.mach.slot n).state = 0 ∧ s.mach.on R.SEED_DRBG_HEALTHY = true ∧ s.mach.mirrorFed = false ∧ (∀ k < 64, s.mach.shelfState k ≠ 2) ∧ s.mach.get (R.SEED_SHED_UNITS_UNITS.at old) ≠ 0) (sets up [(R.SEED_SHED_UNITS_UNITS, 3)]) .mc (.shedrotGo .mc) 13 0) ∧
    ((fun (s : State) (src : Src) (n : Nat) =>
      MayWrite s src 12 .seed 0 ∧ n = s.mach.get R.SEED_MEMROT_CUR ∧ n < 2 ∧ (s.mach.on R.SEED_MEMROT_ACTIVE = true ∨ s.mach.on R.SEED_DRBG_HEALTHY = false ∨ (s.mach.slot (10 - 2 * n)).state ≠ 0)) (edit up (fun m => m.setSlot 10 ⟨1, 2, 256, 0, true, 1, 0, 0, 0, 0, [1]⟩)) .mc 0) := by
  decide +kernel

/-- What the clauses of QueuesAndPipesComplete assume holds somewhere. -/
theorem witness_QueuesAndPipesComplete :
    ((fun (s : State) (tenant : BitVec 11) (index : BitVec 8) (tail : BitVec 16) (n : Nat) =>
      s.mach.localQueue tenant.toNat index.toNat = some n) (work []) 5 0 9 3) ∧
    ((fun (s : State) (tenant : BitVec 11) (index : BitVec 8) (head : BitVec 16) (n : Nat) =>
      s.mach.localQueue tenant.toNat index.toNat = some n ∧ (s.mach.queue n).held = [] ∧ (s.mach.queue n).state ≠ 2 ∧ Idle s) (work []) 5 0 9 3) ∧
    ((fun (s : State) (tenant : BitVec 11) (index : BitVec 8) =>
      s.mach.localQueue tenant.toNat index.toNat = none) up 5 0) ∧
    ((fun (s : State) (src : Src) (queue : BitVec 13) (i : Instr) (n : Nat) (x : Queue) =>
      MayWrite s src 12 .ten 0 ∧ n = queue.toNat ∧ (∀ t, s.mach.queueOwner n = some t → s.mach.durableTenant t = false) ∧ (i = .queueStart src queue ∧ (s.mach.queue n).state = 0 ∧ x = { s.mach.queue n with state := 1, halt := 0 } ∨ i = .queueStop src queue ∧ ((s.mach.queue n).state = 1 ∨ (s.mach.queue n).state = 3) ∧ x = { s.mach.queue n with state := if queueBusy (s.mach.queue n) = false ∧ (s.mach.queue n).live = [] then 0 else 2 })) up .mc 4 (.queueStart .mc 4) 4 { noQueue with state := 1 }) ∧
    ((fun (s : State) (src : Src) (queue : BitVec 13) (i : Instr) =>
      MayWrite s src 12 .ten 0 ∧ (i = .queueStart src queue ∧ (s.mach.queue queue.toNat).state ≠ 0 ∨ i = .queueStop src queue ∧ (s.mach.queue queue.toNat).state ≠ 1 ∧ (s.mach.queue queue.toNat).state ≠ 3)) up .mc 5 (.queueStop .mc 5)) ∧
    ((fun (s : State) (queue : BitVec 13) =>
      Idle s ∧ (s.mach.queueOwner queue.toNat = none ∨ (s.mach.queue queue.toNat).state ≠ 1 ∨ (s.mach.queue queue.toNat).head = (s.mach.queue queue.toNat).tail % (s.mach.queue queue.toNat).size)) up 5) ∧
    ((fun (s : State) (queue : BitVec 13) (n t spa aspa la : Nat) (l old : Line) (x : Queue) (d : Desc) (ent : List Byte) (ws : List (Nat × Nat × Line)) =>
      n = queue.toNat ∧ s.mach.queueOwner n = some t ∧ x = s.mach.queue n ∧ Idle s ∧ NoUncore s ∧ x.state = 1 ∧ (s.mach.tenant t).state = 1 ∧ x.head ≠ x.tail % x.size ∧ s.mach.bulkReady x.quad = true ∧ s.mach.takesNew .bulk x.quad = true ∧ s.mach.takesWork t x.quad = true ∧ (∀ e ∈ x.live, e.waitAck = false) ∧ s.mach.durableTenant t = false ∧ s.dev.rstale = [] ∧ (s.mach.lookup (s.mach.tenant t).rset (x.sq + 64 * x.head) false).2.toOption = some spa ∧ s.mach.ownerLine (spa / 64) = some (l, false) ∧ d = newDesc (bytesOf 64 l.toNat) (s.mach.tenant t).gen t ∧ d.field 4 2 = (s.mach.tenant t).gen ∧ d.seq = x.nextSeq ∧ 0 < d.op ∧ d.op ≤ 0x0E ∧ bitsOf d.ivctl 5 1 = 0 ∧ ent = d.bytes ++ bytesOf 4 1 ++ bytesOf 2 d.gen ++ bytesOf 2 0 ++ d.iv ++ bytesOf 12 0 ++ bytesOf 32 0 ∧ logAt x d.seq % 64 = 0 ∧ (∀ i < 2, BedPage s (logAt x d.seq / 64 + i) ∧ s.mach.lineBusy (logAt x d.seq / 64 + i) = false ∧ eDur (s.mach.entry (pageOf ((logAt x d.seq / 64 + i) * 64))) = false ∧ NoDw s (logAt x d.seq / 64 + i)) ∧ Dest s t x.acc 16 aspa la old ∧ aspa / 64 ∉ [logAt x d.seq / 64, logAt x d.seq / 64 + 1] ∧ ws = [0, 1].map (fun i => (logAt x d.seq / 64 + i, bedLda (eLoc (s.mach.entry (pageOf ((logAt x d.seq / 64 + i) * 64)))) ((logAt x d.seq / 64 + i) * 64), lineOfBytes ent i)) ++ [(aspa / 64, la, putIn old aspa (bytesOf 4 ((x.nextSeq + 1) % 2 ^ 32) ++ bytesOf 2 (s.mach.tenant t).gen ++ bytesOf 1 0 ++ bytesOf 1 0 ++ bytesOf 8 ((x.count + 1) % 2 ^ 64)))] ∧ (∀ w ∈ ws, ∀ v ∈ ws, w.1 ≠ v.1 → w.2.1 / 64 ≠ v.2.1 / 64)) (edit (work []) (fun m => (m.setQueue 3 { m.queue 3 with live := [], tail := 1, sq := 0x1000, acc := 0x1040, log := 0x1100 }).setDl 0 0x40 { noLine with st := .e, data := BitVec.ofNat 512 2 })) 3 3 5 0x1000 0x1040 0x4100000040 2 0x1111 { (work []).mach.queue 3 with live := [], tail := 1, sq := 0x1000, acc := 0x1040, log := 0x1100 } (newDesc (bytesOf 64 2) 0 5) (bytesOf 64 2 ++ bytesOf 4 1 ++ bytesOf 2 0 ++ bytesOf 2 0 ++ List.replicate 12 0 ++ bytesOf 12 0 ++ bytesOf 32 0) [(0x44, 0x4100000100, lineOfBytes (bytesOf 64 2 ++ bytesOf 4 1 ++ bytesOf 2 0 ++ bytesOf 2 0 ++ List.replicate 12 0 ++ bytesOf 12 0 ++ bytesOf 32 0) 0), (0x45, 0x4100000140, lineOfBytes (bytesOf 64 2 ++ bytesOf 4 1 ++ bytesOf 2 0 ++ bytesOf 2 0 ++ List.replicate 12 0 ++ bytesOf 12 0 ++ bytesOf 32 0) 1), (0x41, 0x4100000040, putIn 0x1111 0x1040 (bytesOf 4 1 ++ bytesOf 2 0 ++ bytesOf 1 0 ++ bytesOf 1 0 ++ bytesOf 8 1))]) ∧
    ((fun (s : State) (queue : BitVec 13) (index : BitVec 8) (n t spa la : Nat) (old : Line) (x : Queue) (d : Desc) =>
      n = queue.toNat ∧ s.mach.queueOwner n = some t ∧ x = s.mach.queue n ∧ Idle s ∧ NoUncore s ∧ x.run[index.toNat]? = some d ∧ d.logged = false ∧ d.cancelled = false ∧ d.suspended = false ∧ d.heldLines = [] ∧ d.acks = [] ∧ d.pipe = none ∧ d.tag = none ∧ d.gen = (s.mach.tenant t).gen ∧ d.tenant = t ∧ s.mach.bulkReady x.quad = true ∧ x.held = [] ∧ slotFree x = true ∧ d.flags / 2 % 2 = 0 ∧ x.state ≠ 2 ∧ Dest s t (x.cq + 32 * x.cqTail) 32 spa la old) (edit (work []) (fun m => m.setQueue 3 { m.queue 3 with live := [], run := [{ newDesc (bytesOf 64 0x20) 0 5 with status := 1 }], cq := 0x1040 })) 3 0 3 5 0x1040 0x4100000040 0x1111 { (work []).mach.queue 3 with live := [], run := [{ newDesc (bytesOf 64 0x20) 0 5 with status := 1 }], cq := 0x1040 } { newDesc (bytesOf 64 0x20) 0 5 with status := 1 }) ∧
    ((fun (s : State) (queue : BitVec 13) (index : BitVec 8) =>
      Idle s ∧ ((s.mach.queue queue.toNat).run[index.toNat]? = none ∨ s.mach.bulkReady (s.mach.queue queue.toNat).quad = false)) up 5 0) ∧
    ((fun (s : State) (queue : BitVec 13) (index : BitVec 8) (n t p spa la tpa ta lla l0 : Nat) (old told lold : Line) (x : Queue) (d : Desc) (c : CMsg) (tag : List Byte) =>
      n = queue.toNat ∧ s.mach.queueOwner n = some t ∧ x = s.mach.queue n ∧ Idle s ∧ NoUncore s ∧ x.run = [d] ∧ index = 0 ∧ d.logged = true ∧ d.cancelled = false ∧ d.suspended = false ∧ d.heldLines = [] ∧ d.acks = [] ∧ d.status = 0 ∧ d.op ∈ [0x05, 0x09] ∧ d.tag = some tag ∧ tag.length = 16 ∧ bitsOf d.ivctl 5 1 = 0 ∧ d.pipe = some p ∧ s.mach.pipe x.quad p = ⟨some c, []⟩ ∧ c.queue = n ∧ c.seq = d.seq ∧ d.gen = (s.mach.tenant t).gen ∧ d.tenant = t ∧ s.mach.durableTenant t = false ∧ s.mach.bulkReady x.quad = true ∧ x.held = [] ∧ slotFree x = true ∧ d.flags / 2 % 2 = 0 ∧ x.state = 1 ∧ l0 = logAt x d.seq + 64 ∧ l0 % 64 = 0 ∧ Dest s t (x.cq + 32 * x.cqTail) 32 spa la old ∧ Dest s t (d.aad + 16) 16 tpa ta told ∧ Target s (l0 / 64) lla lold ∧ spa / 64 ≠ tpa / 64 ∧ spa / 64 ≠ l0 / 64 ∧ tpa / 64 ≠ l0 / 64 ∧ la / 64 ≠ ta / 64 ∧ la / 64 ≠ lla / 64 ∧ ta / 64 ≠ lla / 64) (edit (work []) (fun m => (m.setPipe 0 2 ⟨some ⟨3, 0, none, false, false, 0, [], [], [], 20, 0, ⟨0, 0, 0, 0⟩⟩, []⟩).setQueue 3 { m.queue 3 with live := [], run := [{ newDesc (desc 5 0 20 0x1000 0x1080 20 0 0x10C0) 0 5 with logged := true, pipe := some 2, out := 20, tag := some (bytesOf 16 0x55AA) }], cq := 0x1040, log := 0xFC0 })) 3 0 3 5 2 0x1040 0x4100000040 0x10D0 0x41000000C0 0x4100000000 0x1000 0x1111 0x1133 0x1100 { (work []).mach.queue 3 with live := [], run := [{ newDesc (desc 5 0 20 0x1000 0x1080 20 0 0x10C0) 0 5 with logged := true, pipe := some 2, out := 20, tag := some (bytesOf 16 0x55AA) }], cq := 0x1040, log := 0xFC0 } { newDesc (desc 5 0 20 0x1000 0x1080 20 0 0x10C0) 0 5 with logged := true, pipe := some 2, out := 20, tag := some (bytesOf 16 0x55AA) } ⟨3, 0, none, false, false, 0, [], [], [], 20, 0, ⟨0, 0, 0, 0⟩⟩ (bytesOf 16 0x55AA)) ∧
    ((fun (s : State) (q : Fin 4) (pipe : Fin 6) (i : Instr) (c : CMsg) (rest : List CMsg) (d : Desc) =>
      (i = .messageResume q pipe ∧ s.mach.urgentWaits q.val (decide (4 ≤ pipe.val)) = false ∨ i = .suspendTimeout q pipe) ∧ s.mach.pipe q.val pipe.val = ⟨none, c :: rest⟩ ∧ (s.mach.queue c.queue).run.find? (fun d => d.logged && d.seq == c.seq && d.pipe == some pipe.val) = some d ∧ s.mach.keySame c (d.op == 0x06 || d.op == 0x0A) = true) (edit (work []) (fun m => (m.setPipe 1 2 ⟨none, [⟨3, 7, none, false, false, 4, [], [], [], 3, 0, ⟨0, 0, 0, 0⟩⟩]⟩).setQueue 3 { m.queue 3 with live := [], run := [{ newDesc (bytesOf 64 5) 0 with seq := 7, logged := true, suspended := true, pipe := some 2 }] })) 1 2 (.messageResume 1 2) ⟨3, 7, none, false, false, 4, [], [], [], 3, 0, ⟨0, 0, 0, 0⟩⟩ [] { newDesc (bytesOf 64 5) 0 with seq := 7, logged := true, suspended := true, pipe := some 2 }) ∧
    ((fun (s : State) (q : Fin 4) (pipe : Fin 6) =>
      ((s.mach.pipe q.val pipe.val).run ≠ none ∨ (s.mach.pipe q.val pipe.val).saved = [])) up 1 2) := by
  decide +kernel

/-- What the clauses of TenantCommandsComplete assume holds somewhere. -/
theorem witness_TenantCommandsComplete :
    ((fun (s : State) (src : Src) (tenant : BitVec 11) (cfg : TenantCfg) (i : Instr) (t : Nat) (x : Tenant) =>
      MayWrite s src 12 .ten 0 ∧ Idle s ∧ s.mach.tenReady = true ∧ s.mach.on R.TEN_TCMD_BUSY = false ∧ t = tenant.toNat ∧ s.mach.mirrorFed = false ∧ cfg.keys.length = 8 ∧ cfg.kind.val ≠ 3 ∧ (i = .tenCreate src tenant cfg ∧ (s.mach.tenant t).state = 0 ∧ (cfg.kind.val = 1 → ∀ e ∈ s.dev.tenants, e.2.state = 0 ∨ e.2.kind ≠ 1 ∨ e.2.ld ≠ cfg.ld.toNat) ∧ x = { s.mach.tenant t with state := 1, attached := false, consent := false, kind := cfg.kind.val, durable := cfg.durable, rset := cfg.rset.toNat, queues := cfg.queues.toNat, qbase := cfg.qbase.toNat, bw := cfg.bw.toNat, lant := cfg.lant.toNat, ld := cfg.ld.toNat, keys := cfg.keys.map (fun k => k.map BitVec.toNat), qBed := cfg.bed.toNat, qFrame := cfg.frame.toNat, qShed := cfg.shed.toNat, unbound := (List.range 8).map (fun n => if (cfg.keys.getD n none).isSome then 0 else s.mach.get (R.TEN_TKEY_SLOT.at n)) } ∨ i = .tenResize src tenant cfg ∧ (s.mach.tenant t).state = 1 ∧ ((s.mach.tenant t).durable = true → cfg.durable = true ∨ (s.mach.tenant t).consent = true) ∧ (∀ k < (s.mach.tenant t).queues, cfg.queues.toNat ≤ k → (s.mach.queue ((s.mach.tenant t).qbase + k)).state = 0) ∧ x = { s.mach.tenant t with durable := cfg.durable, queues := cfg.queues.toNat, bw := cfg.bw.toNat, lant := cfg.lant.toNat, keys := cfg.keys.map (fun k => k.map BitVec.toNat), qBed := cfg.bed.toNat, qFrame := cfg.frame.toNat, qShed := cfg.shed.toNat, unbound := (List.range 8).map (fun n => if (cfg.keys.getD n none).isSome then 0 else keyWord (s.mach.tenant t) n % 2 ^ 12) }) ∧ badConfig x = false ∧ s.mach.overdraws t x = false ∧ s.mach.clash t x = false) up .mc 5 ⟨0, false, 1, 2, 3, 4, 5, 6, List.replicate 8 (some 17), 7, 8, 9⟩ (.tenCreate .mc 5 ⟨0, false, 1, 2, 3, 4, 5, 6, List.replicate 8 (some 17), 7, 8, 9⟩) 5 ⟨1, false, false, 0, 0, false, 1, 2, 3, 4, 5, 6, List.replicate 8 (some 17), List.replicate 8 0, 7, 8, 9, 0, 0, 0, 0⟩) ∧
    ((fun (s : State) (src : Src) (tenant : BitVec 11) (i : Instr) (t st op : Nat) =>
      MayWrite s src 12 .ten 0 ∧ Idle s ∧ s.mach.tenReady = true ∧ s.mach.on R.TEN_TCMD_BUSY = false ∧ t = tenant.toNat ∧ t ≠ 0 ∧ (s.mach.tenant t).state = 1 ∧ (i = .tenReset src tenant ∧ st = 2 ∧ op = 3 ∨ i = .tenantDestroy src tenant ∧ (s.mach.tenant t).attached = false ∧ st = 3 ∧ op = 4) ∧ (∀ k < (s.mach.tenant t).queues, ∀ d ∈ (s.mach.queue ((s.mach.tenant t).qbase + k)).run, d.logged = false ∨ d.cancelled = true)) (work []) .mc 5 (.tenReset .mc 5) 5 2 3) ∧
    ((fun (s : State) (src : Src) (tenant : BitVec 11) (i : Instr) (t st op : Nat) =>
      MayWrite s src 12 .ten 0 ∧ Idle s ∧ s.mach.tenReady = true ∧ s.mach.on R.TEN_TCMD_BUSY = false ∧ t = tenant.toNat ∧ t ≠ 0 ∧ (s.mach.tenant t).state = 1 ∧ (i = .tenReset src tenant ∧ st = 2 ∧ op = 3 ∨ i = .tenantDestroy src tenant ∧ (s.mach.tenant t).attached = false ∧ st = 3 ∧ op = 4)) (edit (work []) (fun m => m.setQueue 3 { m.queue 3 with run := [{ newDesc (bytesOf 64 1) 0 5 with logged := true }] })) .mc 5 (.tenantDestroy .mc 5) 5 3 4) ∧
    ((fun (s : State) (tenant : BitVec 11) (t op : Nat) (x : Tenant) =>
      Idle s ∧ t = tenant.toNat ∧ s.dev.tenCmd = some (op, t) ∧ s.mach.mirrorFed = false ∧ (∀ e ∈ s.dev.lds, e.2.flr = false) ∧ (∀ k < (s.mach.tenant t).queues, (s.mach.queue ((s.mach.tenant t).qbase + k)).nextSeq = 0 ∧ (s.mach.queue ((s.mach.tenant t).qbase + k)).live = []) ∧ ((s.mach.tenant t).state = 2 ∧ op = 3 ∧ x = { s.mach.tenant t with state := 1, gen := ((s.mach.tenant t).gen + 1) % 2 ^ 16 } ∨ (s.mach.tenant t).state = 3 ∧ op = 4 ∧ x = { s.mach.tenant t with state := 0, gen := ((s.mach.tenant t).gen + 1) % 2 ^ 16, attached := false, consent := false, queues := 0, qbase := 0, rset := 0, qBed := 0, qFrame := 0, qShed := 0, durable := false })) (edit (work []) (fun m => { (m.setTenant 5 { m.tenant 5 with state := 2 }).setQueue 3 { m.queue 3 with live := [] } with tenCmd := some (3, 5) })) 5 5 3 { (work []).mach.tenant 5 with gen := 1 }) ∧
    ((fun (s : State) (tenant : BitVec 11) (t op : Nat) (x : Tenant) =>
      Idle s ∧ t = tenant.toNat ∧ s.dev.tenCmd = some (op, t) ∧ s.mach.mirrorFed = false ∧ ((s.mach.tenant t).state = 2 ∧ op = 3 ∧ x = { s.mach.tenant t with state := 1, gen := ((s.mach.tenant t).gen + 1) % 2 ^ 16 } ∨ (s.mach.tenant t).state = 3 ∧ op = 4 ∧ x = { s.mach.tenant t with state := 0, gen := ((s.mach.tenant t).gen + 1) % 2 ^ 16, attached := false, consent := false, queues := 0, qbase := 0, rset := 0, qBed := 0, qFrame := 0, qShed := 0, durable := false })) (edit (work []) (fun m => { (m.setTenant 5 { m.tenant 5 with state := 3 }).setQueue 3 { m.queue 3 with nextSeq := 1, log := 0x1100 } with tenCmd := some (4, 5) })) 5 5 4 { (work []).mach.tenant 5 with state := 0, gen := 1, attached := false, consent := false, queues := 0, qbase := 0, rset := 0, qBed := 0, qFrame := 0, qShed := 0, durable := false }) ∧
    ((fun (s : State) (src : Src) (tenant : BitVec 11) (t : Nat) =>
      MayWrite s src 12 .ten 0 ∧ Idle s ∧ s.mach.tenReady = true ∧ s.mach.on R.TEN_TCMD_BUSY = false ∧ t = tenant.toNat ∧ t ≠ 0 ∧ (s.mach.tenant t).state = 1 ∧ (s.mach.tenant t).kind = 1 ∧ (s.mach.tenant t).attached = false ∧ t ∉ s.dev.attached ∧ (∀ e ∈ s.dev.filter, e.2.tenant ≠ t)) (edit (work []) (fun m => m.setTenant 5 { m.tenant 5 with kind := 1 })) .mc 5 5) ∧
    ((fun (s : State) (src : Src) (tenant : BitVec 11) (t : Nat) =>
      MayWrite s src 12 .ten 0 ∧ Idle s ∧ s.mach.tenReady = true ∧ s.mach.on R.TEN_TCMD_BUSY = false ∧ t = tenant.toNat ∧ t ≠ 0 ∧ (s.mach.tenant t).state = 1 ∧ (s.mach.tenant t).kind = 1 ∧ (s.mach.tenant t).attached = false) (edit (work []) (fun m => { m.setTenant 5 { m.tenant 5 with kind := 1 } with filter := [(0x40, ⟨.x, 2, [2], 5, 0⟩)] })) .mc 5 5) ∧
    ((fun (s : State) (src : Src) (tenant : BitVec 11) (t : Nat) =>
      MayWrite s src 12 .ten 0 ∧ Idle s ∧ s.mach.tenReady = true ∧ s.mach.on R.TEN_TCMD_BUSY = false ∧ t = tenant.toNat ∧ t ≠ 0 ∧ (s.mach.tenant t).state = 1 ∧ (s.mach.tenant t).attached = true ∧ s.mach.mirrorFed = false) (edit (work []) (fun m => { m.setTenant 5 { m.tenant 5 with kind := 1, attached := true } with attached := [5] })) .mc 5 5) ∧
    ((fun (s : State) (src : Src) (tenant : BitVec 11) (i : Instr) (t r : Nat) =>
      MayWrite s src 12 .ten 0 ∧ Idle s ∧ s.mach.tenReady = true ∧ s.mach.on R.TEN_TCMD_BUSY = false ∧ t = tenant.toNat ∧ i ∈ [Instr.tenReset src tenant, .tenantDestroy src tenant, .tenAttach src tenant, .tenDetach src tenant] ∧ ((t = 0 ∧ r = 7) ∨ (t ≠ 0 ∧ (s.mach.tenant t).state ≠ 1 ∧ r = 1))) up .mc 5 (.tenReset .mc 5) 5 1) ∧
    ((fun (s : State) (tenant : BitVec 11) =>
      Idle s ∧ (s.mach.tenant tenant.toNat).state ∉ [2, 3] ∧ (∀ e ∈ s.dev.lds, e.2.flr = false)) up 5) := by
  decide +kernel

/-- What the clauses of CopiesAndHintsComplete assume holds somewhere. -/
theorem witness_CopiesAndHintsComplete :
    ((fun (s : State) (queue : BitVec 13) (i : Instr) (n op t : Nat) (d : Desc) (p : Option Nat) =>
      n = queue.toNat ∧ Starts s n op t d p ∧ (op, i) ∈ [(0x01, Instr.copy queue), (0x02, .fill queue), (0x0B, .promoteHint queue), (0x0C, .demoteHint queue), (0x0D, .persist queue), (0x0E, .bulkFence queue)]) (work (desc 1 0 20 0x9030 0x1085 0 0 0)) 3 (.copy 3) 3 1 5 { newDesc (desc 1 0 20 0x9030 0x1085 0 0 0) 0 5 with logged := true, waitAck := false } none) ∧
    ((fun (s : State) (queue : BitVec 13) (i : Instr) (n t spa la inp : Nat) (old : Line) (d : Desc) (b : List Byte) =>
      n = queue.toNat ∧ (i = .copy queue ∧ Starts s n 0x01 t d none ∧ Source s t d.src d.len b ∧ inp = d.len ∨ i = .fill queue ∧ Starts s n 0x02 t d none ∧ b = (List.range d.len).map (fun k => ((d.bytes.drop 48).take 8).getD (k % 8) 0) ∧ inp = 0) ∧ Dest s t d.dst d.len spa la old) (work (desc 1 0 20 0x1030 0x1085 0 0 0)) 3 (.copy 3) 3 5 0x1085 0x4100000080 20 0x1122 { newDesc (desc 1 0 20 0x1030 0x1085 0 0 0) 0 5 with logged := true, waitAck := false } ((bytesOf 64 0x1100).drop 48 ++ (bytesOf 64 0x1111).take 4)) ∧
    ((fun (s : State) (queue : BitVec 13) (i : Instr) (n t : Nat) (d : Desc) =>
      n = queue.toNat ∧ s.dev.rstale = [] ∧ s.mach.acceptMode ≠ 4 ∧ s.mach.acceptMode ≠ 6 ∧ (i = .persist queue ∧ Starts s n 0x0D t d none ∧ (∀ k < linesIn d.dst d.len, (viewed s t (max d.dst ((d.dst / 64 + k) * 64)) false).isSome = true ∧ ∀ spa ∈ viewed s t (max d.dst ((d.dst / 64 + k) * 64)) false, eTier (s.mach.entry (pageOf spa)) ≠ tierNone ∧ s.mach.tierReady (homeOf spa) = true ∧ s.mach.mapUnreadable (pageOf spa) = false ∧ s.mach.writeNotReady spa = false ∧ NoDw s (spa / 64) ∧ s.mach.ownerLine (spa / 64) = none ∧ s.mach.mscLine (spa / 64) = none ∧ (∀ x ∈ s.dev.lines, x.1 % 2 ^ 42 = spa / 64 → x.2.st ≠ LSt.m ∧ x.2.st ≠ LSt.o ∧ x.2.writers = []) ∧ (s.dev.filter.find (spa / 64)).all (fun f => f.st != FSt.o) = true) ∨ i = .bulkFence queue ∧ Starts s n 0x0E t d none)) (work (desc 0x0E 0 0 0 0 0 0 0)) 3 (.bulkFence 3) 3 5 { newDesc (desc 0x0E 0 0 0 0 0 0 0) 0 5 with logged := true, waitAck := false }) ∧
    ((fun (s : State) (queue : BitVec 13) (n t spa p e k : Nat) (d : Desc) =>
      n = queue.toNat ∧ Starts s n 0x0B t d none ∧ d.len = 4096 ∧ s.dev.rstale = [] ∧ viewed s t d.src false = some spa ∧ p = pageOf spa ∧ e = s.mach.entry p ∧ s.mach.tierReady (homeOf p) = true ∧ s.mach.mapUnreadable p = false ∧ eTenant e = t ∧ eState e = stStable ∧ eTier e = tierFrame ∧ s.mach.bedNow p = true ∧ s.mach.promoteQuota p = false ∧ s.mach.freeMoveSlot (homeOf p) = some k) (edit (work (desc 0x0B 0 4096 0x1000 0 0 0 0)) (fun m => { m.setEntry 0x1000 (attrs (eMove entryReset tierFrame (0x4100001 * 8) 1 false) 5 false false false) with frames := [(0x4100001, 3)] })) 3 3 5 0x1000 0x1000 (attrs (eMove entryReset tierFrame (0x4100001 * 8) 1 false) 5 false false false) 64 { newDesc (desc 0x0B 0 4096 0x1000 0 0 0 0) 0 5 with logged := true, waitAck := false }) ∧
    ((fun (s : State) (queue : BitVec 13) (n t spa p e k x : Nat) (d : Desc) =>
      n = queue.toNat ∧ Starts s n 0x0C t d none ∧ d.len = 4096 ∧ s.dev.rstale = [] ∧ viewed s t d.src false = some spa ∧ p = pageOf spa ∧ e = s.mach.entry p ∧ s.mach.tierReady (homeOf p) = true ∧ s.mach.mapUnreadable p = false ∧ eTenant e = t ∧ eState e = stStable ∧ eTier e = tierBed ∧ ePin e = false ∧ s.mach.freeMoveSlot (homeOf p) = some k ∧ s.mach.mirrorFed = false ∧ x = d.auxLen % 4 ∧ s.mach.hasRoom (s.mach.acctTenant p) (if x = 1 then tierFrame else tierShed) (homeOf p) = true ∧ (x = 1 → s.mach.act R.TIER_POLICY_FRAME_EN (homeOf p) = 1) ∧ (∀ i < 64, s.mach.ownerLine (p / 64 + i) = some (0, false))) (edit (work (desc 0x0C 0 4096 0x1000 0 1 0 0)) (fun m => { m with lines := (List.range 64).map (fun i => (0x40 + i, { noLine with st := .m })) })) 3 3 5 0x1000 0x1000 (attrs (eMove entryReset tierBed 0x4100000 0 false) 5 false false false) 64 1 { newDesc (desc 0x0C 0 4096 0x1000 0 1 0 0) 0 5 with logged := true, waitAck := false }) ∧
    ((fun (s : State) (queue : BitVec 13) =>
      s.mach.canStart queue.toNat = none) up 5) := by
  decide +kernel

/-- What the clauses of StreamsAndCiphersComplete assume holds somewhere. -/
theorem witness_StreamsAndCiphersComplete :
    ((fun (s : State) (queue : BitVec 13) (i : Instr) (n op t : Nat) (d : Desc) (p : Option Nat) =>
      n = queue.toNat ∧ Starts s n op t d p ∧ (op, i) ∈ [(0x03, Instr.compress queue), (0x04, .decompress queue), (0x05, .encrypt queue), (0x06, .decrypt queue), (0x07, .hash queue), (0x08, .mac queue), (0x09, .pack queue), (0x0A, .unpack queue)]) (work (desc 7 0 3 0x1000 0x9080 32 4 0)) 3 (.hash 3) 3 7 5 { newDesc (desc 7 0 3 0x1000 0x9080 32 4 0) 0 5 with logged := true, waitAck := false } (some 4)) ∧
    ((fun (s : State) (queue : BitVec 13) (i : Instr) (n t q spa la : Nat) (old : Line) (d : Desc) (b o : List Byte) =>
      n = queue.toNat ∧ q = (s.mach.queue n).quad ∧ fmt d ≠ 4 ∧ s.mach.aliased t d = false ∧ Source s t d.src d.len b ∧ Dest s t d.dst d.auxLen spa la old ∧ (i = .compress queue ∧ Starts s n 0x03 t d none ∧ o = Crypto.toBytes (Stream.compress (fmt d) (level d) (Crypto.ofB b)) ∨ i = .decompress queue ∧ Starts s n 0x04 t d none ∧ (Stream.decompress (fmt d) (multi d) (Crypto.ofB b)).reason = 0 ∧ o = Crypto.toBytes (Stream.decompress (fmt d) (multi d) (Crypto.ofB b)).out.toList) ∧ o.length = d.auxLen) (work (desc 3 0x10 0 0x1000 0x1080 2 0 0)) 3 (.compress 3) 3 5 0 0x1080 0x4100000080 0x1122 { newDesc (desc 3 0x10 0 0x1000 0x1080 2 0 0) 0 5 with logged := true, waitAck := false } [] [3, 0]) ∧
    ((fun (s : State) (queue : BitVec 13) (i : Instr) (n t q k spa la pk : Nat) (old : Line) (d : Desc) (b cb : List Byte) (enc : Bool) =>
      n = queue.toNat ∧ q = (s.mach.queue n).quad ∧ cmode d ≠ 0 ∧ (i = .encrypt queue ∧ enc = true ∧ Starts s n 0x05 t d (some pk) ∨ i = .decrypt queue ∧ enc = false ∧ Starts s n 0x06 t d (some pk)) ∧ (s.mach.checkKey t d).toOption = some k ∧ (s.mach.slot k).limit = 0 ∧ Source s t d.aad 64 cb ∧ (cpbOf cb).rest = 0 ∧ Source s t d.src d.len b ∧ Dest s t d.dst d.len spa la old ∧ k ∉ memSlots s [(spa / 64, la, old)]) (work (desc 5 0 20 0x1000 0x1080 20 2 0x10C0)) 3 (.encrypt 3) 3 5 0 20 0x1080 0x4100000080 0 0x1122 { newDesc (desc 5 0 20 0x1000 0x1080 20 2 0x10C0) 0 5 with logged := true, waitAck := false } (bytesOf 20 0x1100) (bytesOf 64 0x1133) true) ∧
    ((fun (s : State) (queue : BitVec 13) (i : Instr) (n t q k spa la pk : Nat) (old : Line) (d : Desc) (b cb aad ct : List Byte) =>
      n = queue.toNat ∧ q = (s.mach.queue n).quad ∧ cmode d = 0 ∧ bitsOf d.ivctl 5 1 = 0 ∧ (i = .encrypt queue ∧ Starts s n 0x05 t d (some pk) ∧ ct = s.mach.cipher k d (cpbOf cb) true b ∧ ct.length = d.len ∨ i = .pack queue ∧ Starts s n 0x09 t d (some pk) ∧ fmt d ≠ 4 ∧ (Crypto.toBytes (Stream.compress (fmt d) (level d) (Crypto.ofB b))).length = d.auxLen ∧ ct = s.mach.cipher k d (cpbOf cb) true (Crypto.toBytes (Stream.compress (fmt d) (level d) (Crypto.ofB b))) ∧ ct.length = d.auxLen) ∧ (s.mach.checkKey t d).toOption = some k ∧ (s.mach.slot k).limit = 0 ∧ Source s t d.aad 64 cb ∧ (cpbOf cb).rest = 0 ∧ (cpbOf cb).aadLen ≤ 65536 ∧ Source s t (cpbOf cb).aadAddr (cpbOf cb).aadLen aad ∧ s.mach.aliased t d = false ∧ Source s t d.src d.len b ∧ Dest s t d.dst (outLen d) spa la old ∧ k ∉ memSlots s [(spa / 64, la, old)]) (work (desc 9 0x10 0 0x1000 0x1080 2 0 0x10C0)) 3 (.pack 3) 3 5 0 20 0x1080 0x4100000080 0 0x1122 { newDesc (desc 9 0x10 0 0x1000 0x1080 2 0 0x10C0) 0 5 with logged := true, waitAck := false } [] (bytesOf 64 0x1133) [] [203, 13]) ∧
    ((fun (s : State) (queue : BitVec 13) (n t q k spa la pk : Nat) (old : Line) (d : Desc) (b cb aad o : List Byte) =>
      n = queue.toNat ∧ q = (s.mach.queue n).quad ∧ fmt d ≠ 4 ∧ Starts s n 0x0A t d (some pk) ∧ (s.mach.checkKey t d).toOption = some k ∧ (s.mach.slot k).limit = 0 ∧ Source s t d.aad 64 cb ∧ (cpbOf cb).rest = 0 ∧ (cpbOf cb).aadLen ≤ 65536 ∧ Source s t (cpbOf cb).aadAddr (cpbOf cb).aadLen aad ∧ s.mach.aliased t d = false ∧ Source s t d.src d.len b ∧ Dest s t d.dst d.auxLen spa la old ∧ k ∉ memSlots s [(spa / 64, la, old)] ∧ (Stream.decompress (fmt d) (multi d) (Crypto.ofB (s.mach.cipher k d (cpbOf cb) false b))).reason = 0 ∧ o = Crypto.toBytes (Stream.decompress (fmt d) (multi d) (Crypto.ofB (s.mach.cipher k d (cpbOf cb) false b))).out.toList ∧ o.length = d.auxLen ∧ s.mach.tagOf k d (cpbOf cb) aad b = (cpbOf cb).tag.take (tagLen d) ++ List.replicate (16 - tagLen d) 0) (edit (work (desc 0x0A 0 8 0x1000 0x1080 3 0 0x10C0)) (fun m => (m.setDl 0 0x40 { noLine with st := .m, data := 2600763758488784585 }).setDl 0 0x43 { noLine with st := .m, data := 105117450113705672885263018768828584897299556059334421954322306596079883260211 })) 3 3 5 0 20 0x1080 0x4100000080 0 0x1122 { newDesc (desc 0x0A 0 8 0x1000 0x1080 3 0 0x10C0) 0 5 with logged := true, waitAck := false } (bytesOf 8 2600763758488784585) (bytesOf 64 105117450113705672885263018768828584897299556059334421954322306596079883260211) [] [0xAA, 0xBB, 0xCC]) ∧
    ((fun (s : State) (queue : BitVec 13) (i : Instr) (n t q spa la pk : Nat) (old : Line) (d : Desc) (b o : List Byte) (key : Option (Nat × Nat)) =>
      n = queue.toNat ∧ q = (s.mach.queue n).quad ∧ Source s t d.src d.len b ∧ Dest s t d.dst (outLen d) spa la old ∧ (i = .hash queue ∧ Starts s n 0x07 t d (some pk) ∧ key = none ∧ o = Crypto.toBytes (if cmode d = 4 then Crypto.sha Crypto.sha256P (Crypto.ofB b) else Crypto.sha Crypto.sha384P (Crypto.ofB b)) ∨ i = .mac queue ∧ Starts s n 0x08 t d (some pk) ∧ (∃ k ∈ (s.mach.checkKey t d).toOption, key = some (k, (s.mach.slot k).gen) ∧ (s.mach.slot k).limit = 0 ∧ k ∉ memSlots s [(spa / 64, la, old)] ∧ o = Crypto.toBytes (match cmode d with | 3 => Crypto.cmac (s.mach.keyBytes k) (Crypto.ofB b) | 6 => Crypto.hmac Crypto.sha256P (s.mach.keyBytes k) (Crypto.ofB b) | _ => Crypto.hmac Crypto.sha384P (s.mach.keyBytes k) (Crypto.ofB b))))) (work (desc 7 0 3 0x1000 0x1080 32 4 0)) 3 (.hash 3) 3 5 0 0x1080 0x4100000080 4 0x1122 { newDesc (desc 7 0 3 0x1000 0x1080 32 4 0) 0 5 with logged := true, waitAck := false } (bytesOf 3 0x1100) (Crypto.toBytes (Crypto.sha Crypto.sha256P (Crypto.ofB (bytesOf 3 0x1100)))) none) ∧
    ((fun (s : State) (queue : BitVec 13) =>
      s.mach.canStart queue.toNat = none) up 5) := by
  decide +kernel

/-- What the clauses of PairControlComplete assume holds somewhere. -/
theorem witness_PairControlComplete :
    ((fun (s : State) (src : Src) =>
      MayWrite s src 12 .pkg 0 ∧ s.mach.mode = 3 ∧ s.mach.pairState = 0 ∧ s.mach.on R.PKG_PAIR_CTL_ENABLE = true ∧ s.mach.guyAny = true) (sets up [(R.PKG_PAIR_CTL_ENABLE, 1), (R.GUY_STATUS_UP, 1)]) .mc) ∧
    ((fun (s : State) (src : Src) =>
      MayWrite s src 12 .pkg 0) up .mc) ∧
    ((fun (s : State) (h : Hello) (tx rx kek x : Nat) =>
      s.mach.guyAny = true ∧ s.mach.pairState = 1 ∧ s.dev.pair.step = 2 ∧ s.mach.helloResult h = 0 ∧ s.fuses.serial < h.serial.toNat ∧ s.mach.on R.SEED_DRBG_HEALTHY = true ∧ (s.mach.slot tx).limit = 0 ∧ tx = s.mach.get R.PKG_PAIR_KEYS_TX ∧ rx = s.mach.get R.PKG_PAIR_KEYS_RX ∧ kek = s.mach.pairKek ∧ (s.mach.slot kek).limit = 0 ∧ (s.mach.slot 12).state = 0 ∧ (s.mach.slot 13).state = 0 ∧ (∀ x ∈ s.dev.tenants, x.2.durable = false) ∧ (∀ x ∈ s.dev.pmap, eDur (s.mach.entry (x.1 * 4096)) = false) ∧ s.mach.mirrorMode = true ∧ x = (Mach.streams.filter (fun q => s.mach.guyOn (s.mach.streamPort q))).length ∧ s.mach.acceptMode ≠ 6) (edit (sets up [(R.PKG_PAIR_CTL_ENABLE, 1), (R.GUY_STATUS_UP, 1), (R.PKG_PAIR_STATE_STATE, 1), (R.PKG_PAIR_KEYS_KEK, 16), (R.PKG_PAIR_KEYS_TX, 17), (R.PKG_PAIR_KEYS_RX, 18), (R.PKG_PAIR_KEYS_PSHED0, 19), (R.PKG_PAIR_KEYS_PSHED1, 20)]) (fun m => { (([0, 1, 2, 3].foldl (fun m q => m.set R.TIER_LAYOUT_MIRROR 1 q) m).hset R.HDR_CONTROL_ENABLE .guy 1).setSlot 16 ⟨1, 1, 2 ^ useWrap + 2 ^ useUnwrap + 2 ^ useMirror, 0, false, 1, 0, 0, 0, 0, List.replicate 32 1⟩ with pair := { m.pair with step := 2, cmd := 1 } })) ⟨9, 2, 6, 3, 1, 0, 0, [], [], [], [], [], 0⟩ 17 18 16 4) ∧
    ((fun (s : State) (h : Hello) =>
      s.mach.guyAny = true ∧ (s.mach.pairState = 1 ∧ s.dev.pair.step = 2 ∨ s.mach.pairState = 0 ∧ s.mach.mode = 3 ∧ s.mach.on R.PKG_PAIR_CTL_ENABLE = true) ∧ s.mach.helloResult h ≠ 0 ∧ s.mach.mode ≠ 5 ∧ s.mach.mode ≠ 6) (edit (sets up [(R.PKG_PAIR_CTL_ENABLE, 1), (R.GUY_STATUS_UP, 1), (R.PKG_PAIR_STATE_STATE, 1)]) (fun m => { m with pair := { m.pair with step := 2, cmd := 1, inb := [(1, ⟨1, false, .sync, none⟩)] } })) ⟨9, 2, 0, 3, 1, 0, 0, [], [], [], [], [], 0⟩) ∧
    ((fun (s : State) (h : Hello) =>
      s.mach.guyAny = true ∧ s.mach.pairState = 1 ∧ s.dev.pair.step = 2 ∧ s.mach.helloResult h ≠ 0 ∧ s.mach.mode = 5 ∨ s.mach.mode = 6) (edit (sets up [(R.PKG_MODE_MODE, 6), (R.GUY_STATUS_UP, 1), (R.PKG_PAIR_STATE_STATE, 1)]) (fun m => { m with pair := { m.pair with step := 2, cmd := 1, inb := [(1, ⟨1, false, .sync, none⟩)] } })) ⟨9, 2, 0, 3, 1, 0, 0, [], [], [], [], [], 0⟩) ∧
    ((fun (s : State) (src : Src) =>
      MayWrite s src 12 .pkg 0 ∧ s.mach.mode = 4 ∧ s.mach.pairState = 3) (edit (sets up [(R.PKG_PAIR_STATE_STATE, 3), (R.PKG_MODE_MODE, 4)]) (fun m => { m with pair := { m.pair with next := [(2, 7)], syncAcked := [1, 3] } })) .mc) ∧
    ((fun (s : State) (src : Src) (i : Instr) =>
      (i = .takeover src ∧ MayWrite s src 12 .pkg 0 ∨ i = .autoTakeoverExpire ∧ s.mach.on R.PKG_PAIR_CTL_AUTO_TAKEOVER = true ∧ s.mach.guyAny = false) ∧ s.mach.mode = 6 ∧ s.mach.pairState = 4 ∧ s.dev.pair.deciding = false ∧ s.mach.partnerAlive = false ∧ s.mach.on R.PKG_PAIR_STATE_FENCE_IN = false) (sets up [(R.PKG_PAIR_STATE_STATE, 4), (R.PKG_MODE_MODE, 6)]) .mc (.takeover .mc)) ∧
    ((fun (s : State) (token : BitVec 63) =>
      (s.dev.pair.deciding = true ∨ s.mach.pairState = 5 ∨ s.mach.on R.PKG_PAIR_STATE_FENCE_OUT = true)) (edit (sets up [(R.PKG_PAIR_STATE_STATE, 4), (R.PKG_MODE_MODE, 6)]) (fun m => { m with pair := { m.pair with deciding := true } })) 0x1234) ∧
    ((fun (s : State) =>
      Idle s ∧ s.dev.pair.deciding = true ∧ s.mach.mode = 6 ∧ (s.mach.on R.PKG_PAIR_STATE_FENCE_IN = false ∨ s.fuses.serial < s.mach.get R.PKG_FENCE_TOKEN_TOKEN) ∧ (∀ q < 4, s.mach.outRing q = []) ∧ s.dev.pair.inb = [] ∧ s.dev.pair.owed = [] ∧ s.dev.pair.shCtx = [] ∧ s.dev.pair.attaches = [] ∧ s.mach.windowPages = []) (edit (sets up [(R.PKG_PAIR_STATE_STATE, 4), (R.PKG_MODE_MODE, 6)]) (fun m => { m with pair := { m.pair with deciding := true } }))) ∧
    ((fun (s : State) (src : Src) =>
      MayWrite s src 12 .pkg 0 ∧ s.mach.mode = 5 ∧ s.mach.pairState = 5 ∧ s.mach.guyAny = true ∧ s.dev.taken = [] ∧ s.mach.windowPages = []) (sets up [(R.PKG_PAIR_STATE_STATE, 5), (R.PKG_MODE_MODE, 5), (R.GUY_STATUS_UP, 1)]) .mc) ∧
    ((fun (s : State) =>
      s.mach.pairState = 7 ∧ s.mach.mode = 5 ∧ s.dev.pair.step = 1 ∧ s.dev.taken = [] ∧ s.mach.windowPages = []) (edit (sets up [(R.PKG_PAIR_STATE_STATE, 7), (R.PKG_MODE_MODE, 5), (R.PKG_PAIR_STATE_FENCE_OUT, 1)]) (fun m => { m with pair := { m.pair with step := 1 } }))) ∧
    ((fun (s : State) =>
      Idle s ∧ (s.mach.pairState = 7 → s.mach.mode = 6 → s.dev.pair.inb = [] ∧ s.dev.pair.shCtx = [])) (sets up [(R.PKG_PAIR_STATE_STATE, 4), (R.PKG_MODE_MODE, 6), (R.PKG_PAIR_STATE_FENCE_IN, 1)])) ∧
    ((fun (s : State) =>
      s.dev.pair.deciding = true ∧ s.mach.mode = 6) (edit (sets up [(R.PKG_PAIR_STATE_STATE, 4), (R.PKG_MODE_MODE, 6)]) (fun m => { m with pair := { m.pair with deciding := true, inb := [(1, ⟨1, false, .context 5 1 0 0 [] [], none⟩)] } }))) ∧
    ((fun (s : State) (token : BitVec 63) =>
      2 ≤ s.mach.mode ∧ s.mach.mode < 12 ∧ s.mach.mode ≠ 9 ∧ s.dev.pair.deciding = false ∧ s.mach.pairState ≠ 5 ∧ s.mach.on R.PKG_PAIR_STATE_FENCE_OUT = false) (sets up [(R.PKG_PAIR_STATE_STATE, 4), (R.PKG_MODE_MODE, 6)]) 0x1234) ∧
    ((fun (s : State) (src : Src) =>
      MayWrite s src 12 .pkg 0 ∧ s.mach.mode = 5 ∧ s.mach.pairState = 5 ∧ s.mach.guyAny = true) (edit (sets hosted [(R.PKG_PAIR_STATE_STATE, 5), (R.PKG_MODE_MODE, 5), (R.GUY_STATUS_UP, 1)]) (fun m => { m with taken := [5] })) .mc) ∧
    ((fun (s : State) =>
      s.mach.pairState = 7 ∧ s.mach.mode = 5 ∧ s.dev.pair.step = 1 ∧ s.mach.takenIdle = true ∧ (∀ k ∈ s.mach.takenLds, (s.mach.ldFn k).released = true)) (edit (sets hosted [(R.PKG_PAIR_STATE_STATE, 7), (R.PKG_MODE_MODE, 5), (R.GUY_STATUS_UP, 1)]) (fun m => { (m.setLd 192 { m.ldFn 192 with draining := true, released := true }).setQueue 3 { m.queue 3 with live := [] } with taken := [5], pair := { m.pair with step := 1 } }))) ∧
    ((fun (s : State) =>
      s.mach.pairState = 7 ∧ s.mach.mode = 6) (edit (sets up [(R.PKG_PAIR_STATE_STATE, 7), (R.PKG_MODE_MODE, 6), (R.PKG_PAIR_STATE_FENCE_IN, 1)]) (fun m => { m with pair := { m.pair with inb := [(1, ⟨1, false, .context 5 1 0 0 [] [], none⟩)] } }))) := by
  decide +kernel

/-- What the clauses of MirrorStreamComplete assume holds somewhere. -/
theorem witness_MirrorStreamComplete :
    ((fun (s : State) (q : Fin 4) (b : Batch) (r : MRec) (rx : Nat) =>
      s.mach.mirrorTakes = true ∧ s.mach.mirrorMode = true ∧ b.cipher.length ≤ 65536 ∧ s.mach.batchAt q.val = none ∧ s.mach.inboundBytes q.val + b.cipher.length ≤ 124 * 2 ^ 20 ∧ rx = s.mach.get R.PKG_PAIR_KEYS_RX ∧ s.mach.openBatch q.val b = some [r] ∧ (s.mach.slot rx).limit = 0 ∧ s.dev.pair.held.getD q.val 0 < r.seq) (edit (sets up [(R.PKG_PAIR_STATE_STATE, 3), (R.PKG_MODE_MODE, 4), (R.PKG_PAIR_KEYS_RX, 18)]) (fun m => m.setSlot 18 ⟨1, 1, 2 ^ useMirror, 0, true, 1, 0, 0, 0, 0, (List.range 32).map (BitVec.ofNat 8)⟩)) 2 ⟨1, 1, [219, 228, 129, 236, 111, 56, 55, 147, 139, 122, 6, 215, 140, 82, 109, 104], [157, 94, 231, 252, 73, 165, 122, 44, 153, 195, 97, 165, 79, 61, 33, 82]⟩ ⟨1, false, .sync, none⟩ 18) ∧
    ((fun (s : State) (q : Fin 4) (seq : Word) =>
      Idle s ∧ s.mach.mirrorMode = true ∧ (∀ r ∈ s.mach.outRing q.val, r.seq ≤ seq.toNat → r.forDur = none ∧ (match r.body with | .sync => false | .accept .. => false | _ => true) = true) ∧ (∃ k ∈ [0, 1, 2, 3], k ∉ s.dev.pair.syncAcked)) (edit (sets up [(R.PKG_PAIR_STATE_STATE, 3), (R.PKG_MODE_MODE, 4)]) (fun m => m.setOut 2 [⟨5, false, .map 0 0 1 false, none⟩, ⟨6, false, .map 0 0 1 false, none⟩])) 2 5) ∧
    ((fun (s : State) (q : Fin 4) (seq : Word) =>
      s.mach.mirrorMode = true ∧ s.mach.pairState = 2 ∧ (∃ r ∈ s.mach.outRing q.val, r.body = .sync ∧ r.seq ≤ seq.toNat) ∧ q.val ∈ s.dev.pair.syncOut ∧ (∀ k < 4, k = q.val ∨ k ∈ s.dev.pair.syncAcked) ∧ (∀ k < 4, k ∈ s.dev.pair.syncIn)) (edit (sets up [(R.PKG_PAIR_STATE_STATE, 2), (R.PKG_MODE_MODE, 3)]) (fun m => (m.setPair { m.pair with syncOut := [0, 1, 2, 3], syncAcked := [0, 1, 3], syncIn := [0, 1, 2, 3], cmd := 1 }).setOut 2 [⟨5, false, .sync, none⟩])) 2 5) ∧
    ((fun (s : State) (q : Fin 4) (seq : Word) =>
      s.mach.mode = 4 ∧ s.mach.pairState = 3 ∧ s.dev.pair.cmd = 2 ∧ (∃ r ∈ s.mach.outRing q.val, r.body = .sync ∧ r.seq ≤ seq.toNat) ∧ q.val ∈ s.dev.pair.syncOut ∧ (∀ k < 4, k = q.val ∨ k ∈ s.dev.pair.syncAcked) ∧ (∀ k < 4, k ∈ s.dev.pair.syncIn)) (edit (sets up [(R.PKG_PAIR_STATE_STATE, 3), (R.PKG_PAIR_STATE_WAS_PAIRED, 1), (R.PKG_MODE_MODE, 4)]) (fun m => (m.setPair { m.pair with syncOut := [0, 1, 2, 3], syncAcked := [0, 1, 3], syncIn := [0, 1, 2, 3], cmd := 2 }).setOut 2 [⟨5, false, .sync, none⟩])) 2 5) ∧
    ((fun (s : State) (q : Fin 4) (i : Instr) (r : MRec) (p : PairSt) =>
      Idle s ∧ s.mach.homeUp = true ∧ s.dev.pair.inb.find? (fun x => x.1 == q.val) = some (q.val, r) ∧ i = (match r.body with | .context .. => .contextRecord q | .queue .. => .queueRecord q | .range .. => .rangeRecord q | .key .. => .keyRecord q | _ => .syncRecord q) ∧ (match r.body with | .context _ op _ _ _ _ => op != 3 && op != 4 | .queue .. => true | .range .. => true | .key n _ gone _ => !gone && n != 12 && n != 13 | .sync => s.mach.pairState == 2 && !s.dev.pair.syncIn.contains q.val && [0, 1, 2, 3].any (fun k => !s.dev.pair.syncAcked.contains k) | _ => false) = true ∧ p = (match r.body with | .context t _ _ _ _ _ => { s.dev.pair with shCtx := s.dev.pair.shCtx.ins t r.body } | .queue n _ _ => { s.dev.pair with shQueue := s.dev.pair.shQueue.ins n r.body } | .range rs n _ _ _ => { s.dev.pair with shRange := s.dev.pair.shRange.ins (rs * 8 + n) r.body } | .key n _ _ _ => { s.dev.pair with shKey := s.dev.pair.shKey.ins n r.body } | _ => { s.dev.pair with syncIn := s.dev.pair.syncIn ++ [q.val] })) (window [(1, ⟨1, false, .context 5 1 0 0 [] [], none⟩)]) 1 (.contextRecord 1) ⟨1, false, .context 5 1 0 0 [] [], none⟩ { (window [(1, ⟨1, false, .context 5 1 0 0 [] [], none⟩)]).dev.pair with shCtx := [(5, .context 5 1 0 0 [] [])] }) ∧
    ((fun (s : State) (q : Fin 4) (r : MRec) (t op gen cfg : Nat) (ks qs : List Nat) =>
      Idle s ∧ s.mach.homeUp = true ∧ s.dev.pair.inb.find? (fun x => x.1 == q.val) = some (q.val, r) ∧ r.body = .context t op gen cfg ks qs ∧ op = 3 ∨ op = 4) (window [(1, ⟨1, false, .context 5 4 0 0 [] [], none⟩)]) 1 ⟨1, false, .context 5 4 0 0 [] [], none⟩ 5 4 0 0 [] []) ∧
    ((fun (s : State) (q : Fin 4) (r : MRec) (a t w la : Nat) (d : Line) =>
      Idle s ∧ NoUncore s ∧ s.mach.homeUp = true ∧ s.dev.pair.inb.find? (fun x => x.1 == q.val) = some (q.val, r) ∧ r.body = .line a t d false ∧ s.mach.applyAt a = some w ∧ BedPage s (w / 64) ∧ s.mach.lineBusy (w / 64) = false ∧ NoDw s (w / 64) ∧ eDur (s.mach.entry (pageOf (w / 64 * 64))) = false ∧ la = bedLda (eLoc (s.mach.entry (pageOf (w / 64 * 64)))) (w / 64 * 64) ∧ w % 64 = 0) (window [(1, ⟨1, false, .line 0x40 5 0x1234 false, none⟩)]) 1 ⟨1, false, .line 0x40 5 0x1234 false, none⟩ 0x40 5 0x40000040 0x4100000040 0x1234) ∧
    ((fun (s : State) (q : Fin 4) (i : Instr) (r : MRec) (a t w e new : Nat) (sl own : Bool) =>
      Idle s ∧ s.mach.homeUp = true ∧ s.dev.pair.inb.find? (fun x => x.1 == q.val) = some (q.val, r) ∧ s.mach.applyAt a = some w ∧ w % 4096 = 0 ∧ e = s.mach.entry w ∧ s.mach.pageMoving w = false ∧ (i = .pageRecord q ∧ r.body = .page a t sl true false [] ∧ eTier e = tierNone ∧ new = eSetState (eMove (attrs entryReset t own false sl) tierBed 0 0 false) stZero ∨ i = .mapRecord q ∧ r.body = .map a t 1 sl ∧ eTier e = tierNone ∧ new = attrs entryReset t own false sl ∨ i = .mapRecord q ∧ r.body = .map a t 4 sl ∧ eTier e ≠ tierNone ∧ new = attrs e t (own && eDur e) (own && ePin e) sl) ∧ own = !s.mach.inMirrorWindow w ∧ (∀ x ∈ s.dev.filter, pageOf (x.1 * 64) ≠ w) ∧ (∀ x ∈ s.dev.msc, pageOf (x.1 * 64) ≠ w) ∧ (∀ x ∈ s.dev.lines, pageOf (x.1 % 2 ^ 42 * 64) ≠ w)) (window [(1, ⟨1, false, .map 0x2000 5 1 true, none⟩)]) 1 (.mapRecord 1) ⟨1, false, .map 0x2000 5 1 true, none⟩ 0x2000 5 0x40002000 3 (attrs entryReset 5 false false true) true false) ∧
    ((fun (s : State) (q : Fin 4) (r : MRec) (a t w e new : Nat) (sl : Bool) =>
      Idle s ∧ s.mach.homeUp = true ∧ s.dev.pair.inb.find? (fun x => x.1 == q.val) = some (q.val, r) ∧ s.mach.applyAt a = some w ∧ w % 4096 = 0 ∧ e = s.mach.entry w ∧ s.mach.pageMoving w = false ∧ (∀ x ∈ s.dev.filter, pageOf (x.1 * 64) ≠ w) ∧ (r.body = .map a t 2 sl ∧ new = tierNone ∨ r.body = .map a t 3 sl ∧ eTier e ≠ tierNone ∧ new = eSetState (eMove e tierBed 0 0 false) stZero)) (window [(1, ⟨1, false, .map 0x0 5 2 true, none⟩)]) 1 ⟨1, false, .map 0x0 5 2 true, none⟩ 0x0 5 0x40000000 (eMove entryReset tierBed 0x4100000 0 false) tierNone true) ∧
    ((fun (s : State) (q : Fin 4) (i : Instr) (r : MRec) (n g sq ix size w l la la1 : Nat) (ph : Bool) (ent rec : List Byte) (old : Line) (p : PairSt) (ws : List (Nat × Nat × Line)) =>
      Idle s ∧ NoUncore s ∧ s.mach.homeUp = true ∧ s.dev.pair.inb.find? (fun x => x.1 == q.val) = some (q.val, r) ∧ s.mach.shadowLog n = some (w, size) ∧ w % 64 = 0 ∧ l = (w + 128 * (sq % size)) / 64 ∧ (i = .acceptRecord q ∧ r.body = .accept n g sq ent ∧ ent.length = 96 ∧ BedPage s l ∧ NoDw s l ∧ s.mach.lineBusy l = false ∧ eDur (s.mach.entry (pageOf (l * 64))) = false ∧ la = bedLda (eLoc (s.mach.entry (pageOf (l * 64)))) (l * 64) ∧ Target s (l + 1) la1 old ∧ la / 64 ≠ la1 / 64 ∧ ws = [(l, la, lineOfBytes ent 0), (l + 1, la1, putIn old 0 (ent.drop 64))] ∧ p = { s.dev.pair with shAcc := s.dev.pair.shAcc.ins n r.body } ∨ i = .completeRecord q ∧ r.body = .complete n g sq ix ph rec ∧ rec.length = 32 ∧ Target s (l + 1) la1 old ∧ s.mach.chanReady la1 = true ∧ ws = [(l + 1, la1, putIn (putIn old 0 [2]) 32 rec)] ∧ p = { s.dev.pair with shDone := s.dev.pair.shDone.ins (n * 2 ^ 16 + sq % size) r.body, shLast := s.dev.pair.shLast.ins n r.body })) (window [(1, ⟨1, false, .accept 3 1 0 (bytesOf 96 7), none⟩)]) 1 (.acceptRecord 1) ⟨1, false, .accept 3 1 0 (bytesOf 96 7), none⟩ 3 1 0 0 64 0x40000100 0x1000004 0x4100000100 0x4100000140 false (bytesOf 96 7) [] 0x77 { (window []).dev.pair with inb := [(1, ⟨1, false, .accept 3 1 0 (bytesOf 96 7), none⟩)], shAcc := [(3, .accept 3 1 0 (bytesOf 96 7))] } [(0x1000004, 0x4100000100, lineOfBytes (bytesOf 96 7) 0), (0x1000005, 0x4100000140, putIn 0x77 0 ((bytesOf 96 7).drop 64))]) ∧
    ((fun (s : State) (q : Fin 4) (r : MRec) =>
      s.mach.homeUp = true ∧ s.dev.pair.inb.find? (fun x => x.1 == q.val) = some (q.val, r) ∧ r.body = .sync ∧ s.mach.pairState = 2 ∧ (∀ k < 4, k ∈ s.dev.pair.syncAcked) ∧ (∀ k < 4, k = q.val ∨ k ∈ s.dev.pair.syncIn)) (edit (window [(2, ⟨1, false, .sync, none⟩)]) (fun m => m.setPair { m.pair with syncOut := [0, 1, 2, 3], syncAcked := [0, 1, 2, 3], syncIn := [0, 1, 3], cmd := 1 })) 2 ⟨1, false, .sync, none⟩) ∧
    ((fun (s : State) (q : Fin 4) (seq : Word) (b : Batch) =>
      Idle s ∧ s.dev.pair.inb.find? (fun x => x.1 == q.val) = none) up 1 5 ⟨1, 1, [], []⟩) := by
  decide +kernel

/-- What the clauses of HylarLinksComplete assume holds somewhere. -/
theorem witness_HylarLinksComplete :
    ((fun (s : State) (die : Fin 12) (atDie : Bool) (flit b : List Byte) (ctl crc : BitVec 32) (e i d k : Nat) (x : HylEnd) =>
      e = atDie.toNat ∧ (i, d) = hylPage die.val e ∧ k = 2 * die.val + e ∧ x = s.mach.hylEnd k ∧ s.mach.on R.HYL_LINK_STATUS_UP i d = true ∧ s.mach.on R.HYL_LINK_STATUS_TRAINING i d = false ∧ b = (flit ++ List.replicate 88 0).take 88 ∧ Wire.crc32 (b ++ bytesOf 4 ctl.toNat) = crc.toNat ∧ bitsOf ctl.toNat 0 12 = x.expect ∧ bitsOf ctl.toNat 24 1 = 0 ∧ x.runs < max 1 (s.mach.act R.HYL_LINK_CTL_REPLAY_LIMIT i d) ∧ (Wire.nat b 8 1 % 64 = 0 ∨ ((nodeAt (if atDie then die.val else 12) (if atDie then 60 else bridgeLocal die.val)).isSome = true ∧ (s.mach.exitOf (if atDie then die.val else 12) (bitsOf (ofBytes (b.take 24)) 43 11)).isSome = true ∧ ∀ j < 4, ∀ p < 4, s.mach.get (R.FAB_PCFG_EN.at p) j (if atDie then die.val else 12) = 0))) up 2 false (bytesOf 24 (3 * 2 ^ 43 + 2 ^ 64)) ((bytesOf 24 (3 * 2 ^ 43 + 2 ^ 64) ++ List.replicate 88 0).take 88) 0 2352714382 0 2 12 4 noHyl) ∧
    ((fun (s : State) (die : Fin 12) (atDie : Bool) (flit b : List Byte) (ctl crc : BitVec 32) (e i d k : Nat) =>
      e = atDie.toNat ∧ (i, d) = hylPage die.val e ∧ k = 2 * die.val + e ∧ s.mach.on R.HYL_LINK_STATUS_UP i d = true ∧ s.mach.on R.HYL_LINK_STATUS_TRAINING i d = false ∧ b = (flit ++ List.replicate 88 0).take 88 ∧ Wire.crc32 (b ++ bytesOf 4 ctl.toNat) ≠ crc.toNat) up 2 false (bytesOf 24 (3 * 2 ^ 43 + 2 ^ 64)) ((bytesOf 24 (3 * 2 ^ 43 + 2 ^ 64) ++ List.replicate 88 0).take 88) 0 5 0 2 12 4) ∧
    ((fun (s : State) (die : Fin 12) =>
      s.mach.on R.HYL_LINK_STATUS_TRAINING die.val = true ∧ s.mach.on R.HYL_LINK_STATUS_UP die.val = true) (edit up (fun m => m.hylRetrain 5)) 5) ∧
    ((fun (s : State) (die : Fin 12) =>
      s.mach.on R.HYL_LINK_STATUS_TRAINING die.val = true ∧ s.mach.on R.HYL_LINK_STATUS_UP die.val = true ∧ (s.mach.hylEnd (2 * die.val)).fails + 1 < min (max 1 (s.mach.act R.HYL_LINK_CTL_RETRAIN_LIMIT die.val)) (max 1 (s.mach.act R.HYL_LINK_CTL_RETRAIN_LIMIT 0 die.val))) (edit (sets up [(R.HYL_LINK_CTL_RETRAIN_LIMIT, 3)]) (fun m => (m.set R.HYL_LINK_STATUS_TRAINING 1 0).set R.HYL_LINK_STATUS_TRAINING 1 0 0)) 0) ∧
    ((fun (s : State) (die : Fin 12) (i : Instr) (cause : Nat) =>
      s.mach.on R.HYL_LINK_STATUS_UP die.val = true ∧ (i = .hylarRetrainDone die false ∧ cause = 5 ∧ s.mach.on R.HYL_LINK_STATUS_TRAINING die.val = true ∧ min (max 1 (s.mach.act R.HYL_LINK_CTL_RETRAIN_LIMIT die.val)) (max 1 (s.mach.act R.HYL_LINK_CTL_RETRAIN_LIMIT 0 die.val)) ≤ (s.mach.hylEnd (2 * die.val)).fails + 1 ∨ i = .fwdClockLoss die ∧ cause = 4)) up 3 (.fwdClockLoss 3) 4) ∧
    ((fun (s : State) (die : Fin 12) (atDie : Bool) (flit b : List Byte) (ctl crc : BitVec 32) (e i d k : Nat) =>
      e = atDie.toNat ∧ (i, d) = hylPage die.val e ∧ k = 2 * die.val + e ∧ s.mach.on R.HYL_LINK_STATUS_UP i d = true ∧ s.mach.on R.HYL_LINK_STATUS_TRAINING i d = false ∧ b = (flit ++ List.replicate 88 0).take 88 ∧ Wire.crc32 (b ++ bytesOf 4 ctl.toNat) = crc.toNat) up 2 false (bytesOf 24 (3 * 2 ^ 43 + 2 ^ 64)) ((bytesOf 24 (3 * 2 ^ 43 + 2 ^ 64) ++ List.replicate 88 0).take 88) 0 2352714382 0 2 12 4) ∧
    ((fun (s : State) (die : Fin 12) (atDie : Bool) (flit : List Byte) (ctl crc : BitVec 32) (e i d : Nat) =>
      e = atDie.toNat ∧ (i, d) = hylPage die.val e) up 2 false [] 0 5 0 2 12) := by
  decide +kernel

/-- What the clauses of GuylineFramesComplete assume holds somewhere. -/
theorem witness_GuylineFramesComplete :
    ((fun (s : State) (port : Fin 2) (h : FrameHdr) (q : Fin 4) (payload : List Byte) =>
      Arrives s port.val 1 h q.val payload) (sets up [(R.GUY_STATUS_UP, 1)]) 0 ⟨false, false, 0, 0, 0, 3544854810⟩ 2 [1, 2, 3]) ∧
    ((fun (s : State) (port : Fin 2) (h : FrameHdr) (page : StatusPage) (offset : Fin 32) (mode : BitVec 4) (data : List Byte) =>
      Arrives s port.val 3 h 0 (statusBytes page offset.val mode.toNat data) ∧ (mode ≠ 9 ∨ s.mach.pairState ≠ 3) ∧ s.mach.mode ≠ 6) (sets up [(R.GUY_STATUS_UP, 1)]) 0 ⟨false, false, 0, 0, 0, 2975356555⟩ .lant 3 4 [7]) ∧
    ((fun (s : State) (port : Fin 2) (h : FrameHdr) (page : StatusPage) (offset : Fin 32) (mode : BitVec 4) (data : List Byte) =>
      Arrives s port.val 3 h 0 (statusBytes page offset.val mode.toNat data)) (sets up [(R.GUY_STATUS_UP, 1), (R.PKG_MODE_MODE, 6)]) 0 ⟨false, false, 0, 0, 0, 2975356555⟩ .lant 3 4 [7]) ∧
    ((fun (s : State) (port : Fin 2) (h : FrameHdr) (n : Nat) =>
      n = port.val ∧ Arrives s n 4 h 0 (controlBytes 1 0 0 (s.mach.get R.GUY_PEER_SERIAL n)) ∧ s.mach.on R.GUY_STATUS_LEADER n = true) (sets up [(R.GUY_STATUS_UP, 1), (R.GUY_STATUS_LEADER, 1)]) 0 ⟨false, false, 0, 0, 0, 2444781498⟩ 0) ∧
    ((fun (s : State) (port : Fin 2) (h : FrameHdr) (lanes : Byte) (n : Nat) =>
      n = port.val ∧ Arrives s n 4 h 0 (controlBytes 2 lanes.toNat 0 (s.mach.get R.GUY_PEER_SERIAL n)) ∧ s.mach.on R.GUY_STATUS_LEADER n = true ∧ (s.mach.guy n).retrain = false) (edit (sets up [(R.GUY_STATUS_UP, 1), (R.GUY_STATUS_LEADER, 1)]) (fun m => m.setGuy 0 { noGuy with lanes := List.range 13, peerLanes := 16 })) 0 ⟨false, false, 0, 0, 0, 3759426667⟩ 8 0) ∧
    ((fun (s : State) (port : Fin 2) (h : FrameHdr) (lanes : Byte) (pseq : BitVec 16) (n : Nat) =>
      n = port.val ∧ Arrives s n 4 h 0 (controlBytes 3 lanes.toNat pseq.toNat (s.mach.get R.GUY_PEER_SERIAL n)) ∧ s.mach.on R.GUY_STATUS_LEADER n = false ∧ (s.mach.guy n).nextPair ∉ (s.mach.guy n).pairs) (sets up [(R.GUY_STATUS_UP, 1)]) 0 ⟨false, false, 0, 0, 0, 405214874⟩ 8 5 0) ∧
    ((fun (s : State) (port : Fin 2) (h : FrameHdr) (lanes : Byte) (pseq : BitVec 16) (i : Instr) (op a b : Nat) =>
      Arrives s port.val 4 h 0 (controlBytes op a b (s.mach.get R.GUY_PEER_SERIAL port.val)) ∧ (i = .retrainReq port h ∧ (op, a, b) = (1, 0, 0) ∧ s.mach.on R.GUY_STATUS_LEADER port.val = false ∨ i = .widthReq port h lanes ∧ (op, a, b) = (2, lanes.toNat, 0) ∧ (s.mach.on R.GUY_STATUS_LEADER port.val = false ∨ (s.mach.guy port.val).retrain = true) ∨ i = .widthGrant port h lanes pseq ∧ (op, a, b) = (3, lanes.toNat, pseq.toNat) ∧ s.mach.on R.GUY_STATUS_LEADER port.val = true)) (sets up [(R.GUY_STATUS_UP, 1)]) 0 ⟨false, false, 0, 0, 0, 2444781498⟩ 0 0 (.retrainReq 0 ⟨false, false, 0, 0, 0, 2444781498⟩) 1 0 0) ∧
    ((fun (s : State) (port : Fin 2) (lane : Fin 16) (h : PairHdr) (n : Nat) (g : GuyPort) =>
      n = port.val ∧ g = s.mach.guy n ∧ Nat.xor (Nat.xor (Nat.xor (Nat.xor (h.pseq.toNat % 256) (h.pseq.toNat / 256)) h.lane.toNat) h.active.toNat) 0x5A = h.check.toNat ∧ g.pairs = [] ∧ h.pseq.toNat = g.nextPair) (edit up (fun m => m.setGuy 1 { noGuy with grant := some (8, 0) })) 1 3 ⟨0, 3, 16, 73, 1, 0⟩ 1 { noGuy with grant := some (8, 0) }) ∧
    ((fun (s : State) (port : Fin 2) (lane : Fin 16) (h : PairHdr) (n k : Nat) =>
      n = port.val ∧ k = (s.mach.guy n).bad.getD lane.val 0 + 1 ∧ k < 4 ∧ Nat.xor (Nat.xor (Nat.xor (Nat.xor (h.pseq.toNat % 256) (h.pseq.toNat / 256)) h.lane.toNat) h.active.toNat) 0x5A ≠ h.check.toNat) up 1 3 ⟨0, 3, 16, 74, 1, 0⟩ 1 1) ∧
    ((fun (s : State) (port : Fin 2) (lane : Fin 16) (h : PairHdr) (n c : Nat) (g : GuyPort) =>
      n = port.val ∧ g = s.mach.guy n ∧ 3 ≤ g.bad.getD lane.val 0 ∧ Nat.xor (Nat.xor (Nat.xor (Nat.xor (h.pseq.toNat % 256) (h.pseq.toNat / 256)) h.lane.toNat) h.active.toNat) 0x5A ≠ h.check.toNat ∧ c = (g.lanes.filter (· != lane.val)).length ∧ (g.lanes.contains lane.val = true → s.mach.guyUp n = true → 4 ≤ c)) (edit (sets up [(R.GUY_STATUS_UP, 1), (R.GUY_STATUS_LEADER, 1), (R.GUY_STATUS_ACTIVE, 8)]) (fun m => m.setGuy 0 { noGuy with lanes := List.range 8, bad := [(3, 3)] })) 0 3 ⟨0, 3, 16, 74, 1, 0⟩ 0 7 { noGuy with lanes := List.range 8, bad := [(3, 3)] }) ∧
    ((fun (s : State) (port : Fin 2) (lane : Fin 16) (h : PairHdr) (n : Nat) =>
      n = port.val ∧ Nat.xor (Nat.xor (Nat.xor (Nat.xor (h.pseq.toNat % 256) (h.pseq.toNat / 256)) h.lane.toNat) h.active.toNat) 0x5A = h.check.toNat) (edit up (fun m => m.setGuy 1 { noGuy with pairs := [1, 3] })) 1 3 ⟨0, 3, 16, 73, 1, 0⟩ 1) ∧
    ((fun (s : State) (port : Fin 2) (h : FrameHdr) (q : Fin 4) (data payload : List Byte) (entries : List (Fin 4 × Word)) (page : StatusPage) (offset : Fin 32)
    (mode : BitVec 4) (lanes : Byte) (pseq : BitVec 16) (i : Instr) (kind stream n peer : Nat) =>
      n = port.val ∧ peer = s.mach.get R.GUY_PEER_SERIAL n ∧ (i, kind, stream, payload) ∈ [ (.dataFrame port h q data, 1, q.val, data), (.ackFrame port h entries, 2, 0, ackBytes (entries.take 14)), (.statusFrame port h page offset mode data, 3, 0, statusBytes page offset.val mode.toNat data), (.retrainReq port h, 4, 0, controlBytes 1 0 0 peer), (.widthReq port h lanes, 4, 0, controlBytes 2 lanes.toNat 0 peer), (.widthGrant port h lanes pseq, 4, 0, controlBytes 3 lanes.toNat pseq.toNat peer)]) (sets up [(R.GUY_STATUS_UP, 1)]) 0 ⟨false, false, 0, 0, 0, 5⟩ 0 [] (controlBytes 1 0 0 0) [] .pkg 0 0 0 0 (.retrainReq 0 ⟨false, false, 0, 0, 0, 5⟩) 4 0 0 0) := by
  decide +kernel

/-- What the clauses of GuylineTrainingComplete assume holds somewhere. -/
theorem witness_GuylineTrainingComplete :
    ((fun (s : State) (port : Fin 2) (crc : BitVec 32) (serial : BitVec 63) (majors minor lanes peerPort : Byte) (mode : BitVec 4) (n : Nat) =>
      n = port.val ∧ Wire.crc32 (frameBytes 5 ⟨false, false, 0, 0, 0, 0⟩ 0 (trainBytes serial.toNat majors.toNat minor.toNat lanes.toNat peerPort.toNat mode.toNat)) = crc.toNat ∧ s.mach.guyOn n = true ∧ s.mach.on R.GUY_STATUS_TRAINING n = true ∧ s.mach.trainCause n serial.toNat majors.toNat = 0) (edit (sets up [(R.GUY_STATUS_TRAINING, 1)]) (fun m => m.hset R.HDR_CONTROL_ENABLE .guy 1)) 0 2225299053 9 2 0 16 1 4 0) ∧
    ((fun (s : State) (port : Fin 2) (crc : BitVec 32) (serial : BitVec 63) (majors minor lanes peerPort : Byte) (mode : BitVec 4) (n c : Nat) =>
      n = port.val ∧ Wire.crc32 (frameBytes 5 ⟨false, false, 0, 0, 0, 0⟩ 0 (trainBytes serial.toNat majors.toNat minor.toNat lanes.toNat peerPort.toNat mode.toNat)) = crc.toNat ∧ s.mach.guyOn n = true ∧ s.mach.on R.GUY_STATUS_TRAINING n = true ∧ s.mach.trainCause n serial.toNat majors.toNat = c ∧ c ≠ 0) (edit (sets up [(R.GUY_STATUS_TRAINING, 1), (R.PKG_PAIR_STATE_STATE, 4)]) (fun m => m.hset R.HDR_CONTROL_ENABLE .guy 1)) 0 2225299053 9 2 0 16 1 4 0 2) ∧
    ((fun (s : State) (port : Fin 2) (lanes : BitVec 16) (n w : Nat) (g : GuyPort) =>
      n = port.val ∧ g = s.mach.guy n ∧ w = widthFor (min (lanesOf lanes).length g.peerLanes) ∧ w ≠ 0 ∧ s.mach.guyOn n = true ∧ s.mach.on R.GUY_STATUS_TRAINING n = true ∧ g.trained = true ∧ s.mach.mode ≠ 6 ∧ (∀ q < 4, s.mach.outRing q = [])) (edit (sets up [(R.GUY_STATUS_TRAINING, 1), (R.GUY_WIDTH_REQ, 8)]) (fun m => (m.hset R.HDR_CONTROL_ENABLE .guy 1).setGuy 0 { noGuy with trained := true, peerLanes := 14 })) 0 0xFFFF 0 12 { noGuy with trained := true, peerLanes := 14 }) ∧
    ((fun (s : State) (port : Fin 2) (lanes : BitVec 16) (n w : Nat) (g : GuyPort) =>
      n = port.val ∧ g = s.mach.guy n ∧ w = widthFor (min (lanesOf lanes).length g.peerLanes) ∧ w ≠ 0 ∧ s.mach.guyOn n = true ∧ s.mach.on R.GUY_STATUS_TRAINING n = true ∧ g.trained = true) (edit (sets up [(R.GUY_STATUS_TRAINING, 1), (R.GUY_WIDTH_REQ, 8), (R.PKG_MODE_MODE, 6), (R.PKG_PAIR_STATE_STATE, 4)]) (fun m => ((m.hset R.HDR_CONTROL_ENABLE .guy 1).setGuy 0 { noGuy with trained := true, peerLanes := 14, peerMode := 6 }).setOut 2 [⟨5, false, .map 0 0 1 false, none⟩])) 0 0xFFFF 0 12 { noGuy with trained := true, peerLanes := 14, peerMode := 6 }) ∧
    ((fun (s : State) (port : Fin 2) (lanes : BitVec 16) (n : Nat) =>
      n = port.val ∧ (s.mach.guyOn n = false ∨ s.mach.on R.GUY_STATUS_TRAINING n = false ∨ (s.mach.guy n).trained = false ∨ min (lanesOf lanes).length (s.mach.guy n).peerLanes < 4)) up 0 0xFFFF 0) ∧
    ((fun (s : State) (src : Src) (port : Fin 2) (n : Nat) =>
      n = port.val ∧ MayWrite s src 12 .guy n ∧ s.mach.guyUp n = true) (sets up [(R.GUY_STATUS_UP, 1), (R.GUY_STATUS_LEADER, 1)]) .mc 0 0) ∧
    ((fun (s : State) (src : Src) (port : Fin 2) (lanes : BitVec 5) (n w : Nat) (g : GuyPort) =>
      n = port.val ∧ w = lanes.toNat ∧ g = s.mach.guy n ∧ MayWrite s src 12 .guy n ∧ w ∈ [4, 8, 12, 16] ∧ (s.mach.guyUp n = true → g.retrain = false)) (edit (sets up [(R.GUY_STATUS_UP, 1), (R.GUY_STATUS_LEADER, 1)]) (fun m => m.setGuy 0 { noGuy with lanes := List.range 16, peerLanes := 16 })) .mc 0 8 0 8 { noGuy with lanes := List.range 16, peerLanes := 16 }) ∧
    ((fun (s : State) (port : Fin 2) (i : Instr) (n : Nat) (g : GuyPort) =>
      n = port.val ∧ g = s.mach.guy n ∧ (i = .guyRetrainTimeout port ∧ g.retrain = true ∨ i = .downWindowEnd port ∧ s.mach.guyUp n = true ∧ s.mach.act R.GUY_CTL_DOWN_COUNT n < g.window) ∧ s.mach.hon R.HDR_STATUS_COMMIT_PENDING .guy n = false ∧ (s.mach.guyUp (1 - n) = true ∧ (∀ q < 4, s.mach.outRing q = []) ∨ s.mach.guyUp (1 - n) = false ∧ s.mach.pairState = 0)) (edit (sets up [(R.GUY_STATUS_UP, 1)]) (fun m => m.setGuy 0 { noGuy with retrain := true })) 0 (.guyRetrainTimeout 0) 0 { noGuy with retrain := true }) ∧
    ((fun (s : State) (port : Fin 2) (i : Instr) (n : Nat) (g : GuyPort) =>
      n = port.val ∧ g = s.mach.guy n ∧ (i = .guyRetrainTimeout port ∧ g.retrain = true ∨ i = .downWindowEnd port ∧ s.mach.guyUp n = true ∧ s.mach.act R.GUY_CTL_DOWN_COUNT n < g.window)) (edit (sets up [(R.GUY_STATUS_UP, 1), (R.PKG_PAIR_STATE_STATE, 3), (R.PKG_MODE_MODE, 4)]) (fun m => m.setGuy 0 { noGuy with retrain := true })) 0 (.guyRetrainTimeout 0) 0 { noGuy with retrain := true }) ∧
    ((fun (s : State) (port : Fin 2) (n : Nat) =>
      n = port.val ∧ s.mach.hon R.HDR_STATUS_COMMIT_PENDING .guy n = false ∧ (s.mach.guy n).window ≤ s.mach.act R.GUY_CTL_DOWN_COUNT n) (edit up (fun m => m.setGuy 0 { noGuy with window := 16 })) 0 0) ∧
    ((fun (s : State) (port : Fin 2) (n : Nat) =>
      n = port.val ∧ (s.mach.guy n).window ≤ s.mach.act R.GUY_CTL_DOWN_COUNT n) (edit up (fun m => (m.setGuy 0 { noGuy with window := 16 }).hset R.HDR_STATUS_COMMIT_PENDING .guy 1)) 0 0) ∧
    ((fun (s : State) =>
      s.mach.pairState ≠ 3) (sets up [(R.PKG_PARTNER_VIEW_VALID, 1)])) ∧
    ((fun (s : State) =>
      s.mach.pairState = 3 ∧ s.mach.mode = 4) (sets up [(R.PKG_PARTNER_VIEW_VALID, 1), (R.PKG_PAIR_STATE_STATE, 3), (R.PKG_MODE_MODE, 4)])) ∧
    ((fun (s : State) =>
      s.mach.mode ≠ 0) up) ∧
    ((fun (s : State) (port : Fin 2) (serial : BitVec 63) (mode : BitVec 4) =>
      s.mach.mode ≠ 0) up 1 9 6) ∧
    ((fun (s : State) =>
      s.mach.pairState = 3) (sets up [(R.PKG_PARTNER_VIEW_VALID, 1), (R.PKG_PAIR_STATE_STATE, 3), (R.PKG_MODE_MODE, 8)])) ∧
    ((fun (s : State) (port : Fin 2) (crc : BitVec 32) (serial : BitVec 63) (majors minor lanes peerPort : Byte) (mode : BitVec 4) (n : Nat) (ok : Bool) =>
      n = port.val ∧ ok = (Wire.crc32 (frameBytes 5 ⟨false, false, 0, 0, 0, 0⟩ 0 (trainBytes serial.toNat majors.toNat minor.toNat lanes.toNat peerPort.toNat mode.toNat)) == crc.toNat)) up 0 5 9 2 0 16 1 4 0 false) ∧
    ((fun (s : State) (src : Src) (port : Fin 2) (w : BitVec 5) (n : Nat) =>
      n = port.val) up .mc 0 5 0) := by
  decide +kernel

/-- What the clauses of PortCommandsComplete assume holds somewhere. -/
theorem witness_PortCommandsComplete :
    ((fun (s : State) (port : Fin 64) (rate : Fin 5) (width : Fin 17) (flit cxlmem fl cx : Bool) (p g w r : Nat) =>
      p = port.val ∧ g = p / 4 ∧ s.mach.pgOn g = true ∧ s.mach.portExists p = true ∧ s.mach.portGet R.PG_PORT_CTL_LINK_DISABLE p ≠ 1 ∧ w = portWidth (s.mach.portLanes p) width.val ∧ w ≠ 0 ∧ fl = (if s.mach.portUp p then s.mach.portGet R.PG_PORT_STATUS_FLIT p == 1 else flit || rate.val == 4) ∧ cx = (if s.mach.portUp p then s.mach.portGet R.PG_PORT_STATUS_CXLMEM p == 1 else cxlmem && s.mach.on R.PG_CFG_CXL g) ∧ r = min (if fl then rate.val else min rate.val 3) (s.mach.get R.PG_CFG_MAX_RATE g)) (edit (sets up [(R.PG_CFG_MAX_RATE, 3), (R.PG_CFG_CXL, 1)]) (fun m => m.hset R.HDR_STATUS_COMMIT_PENDING .pg 1)) 0 4 9 true true true true 0 0 8 3) ∧
    ((fun (s : State) (port : Fin 64) (dropped : Bool) (p g : Nat) (dpc : Bool) =>
      p = port.val ∧ g = p / 4 ∧ s.mach.isUpstream g = false ∧ s.mach.portExists p = true ∧ s.mach.portUp p = true ∧ dpc = (s.mach.act (R.PG_PORT_CTL_DPC_EN.at (p % 4)) g == 1) ∧ (dropped = true ∨ dpc = true) ∧ (∀ n < 64, s.mach.get (R.TIER_SHELF_CFG_PORT.at n) = p → s.mach.shelfState n ≠ 2 ∧ s.mach.shelfState n ≠ 3)) (edit rooted (fun m => { m with devq := [⟨0, 0, 0xFF0030000000, 3, 0, some 5, 4, true, 0, 2, some 5⟩] })) 5 true 5 1 true) ∧
    ((fun (s : State) (port : Fin 64) (dropped : Bool) (p g : Nat) (dpc : Bool) =>
      p = port.val ∧ g = p / 4 ∧ s.mach.isUpstream g = false ∧ s.mach.portExists p = true ∧ s.mach.portUp p = true ∧ dpc = (s.mach.act (R.PG_PORT_CTL_DPC_EN.at (p % 4)) g == 1)) (edit rooted (fun m => (m.setShelfState 2 2).set (R.TIER_SHELF_CFG_PORT.at 2) 5)) 5 true 5 1 true) ∧
    ((fun (s : State) (src : Src) (port : Fin 64) (p g : Nat) =>
      p = port.val ∧ g = p / 4 ∧ MayWrite s src 12 .pg g ∧ s.mach.portExists p = true) (edit rooted (fun m => m.portSet R.PG_PORT_STATUS_CONTAINED 5 1)) .mc 5 5 1) ∧
    ((fun (s : State) (src : Src) (port : Fin 64) (p : Nat) =>
      p = port.val ∧ MayWrite s src 12 .pg (p / 4) ∧ s.mach.portUp p = true) rooted .mc 5 5) ∧
    ((fun (s : State) (port : Fin 64) (rid : BitVec 16) (a : Word) (len : Fin 4097) (p g n spa : Nat) =>
      p = port.val ∧ g = p / 4 ∧ s.mach.portUp p = true ∧ s.mach.portContained p = false ∧ s.mach.isUpstream g = false ∧ s.mach.pgOn g = true ∧ s.mach.mode ≠ 9 ∧ NoUncore s ∧ s.mach.binding p rid.toNat = some n ∧ s.dev.rstale = [] ∧ 0 < len.val ∧ (s.mach.lookup (s.mach.get (R.PG_BIND_RSET.at n) g) a.toNat false).2.toOption = some spa ∧ (∀ i < linesIn spa len.val, (s.mach.ownerLine (spa / 64 + i)).map (·.2) = some false)) rooted 5 0x100 0x1074 24 5 1 2 0x1074) ∧
    ((fun (s : State) (port : Fin 64) (rid : BitVec 16) (a : Word) (d : List Byte) (p g n spa la : Nat) (old : Line) =>
      p = port.val ∧ g = p / 4 ∧ s.mach.portUp p = true ∧ s.mach.portContained p = false ∧ s.mach.isUpstream g = false ∧ s.mach.pgOn g = true ∧ s.mach.mode ≠ 9 ∧ NoUncore s ∧ s.mach.on R.PG_MSIWIN_V g = false ∧ s.mach.binding p rid.toNat = some n ∧ Idle s ∧ s.dev.rstale = [] ∧ (s.mach.lookup (s.mach.get (R.PG_BIND_RSET.at n) g) a.toNat true).2.toOption = some spa ∧ 0 < d.length ∧ spa % 64 + d.length ≤ 64 ∧ Target s (spa / 64) la old) rooted 5 0x100 0x1084 [1, 2, 3] 5 1 2 0x1084 0x4100000080 0x1122) ∧
    ((fun (s : State) (port : Fin 64) (rid : BitVec 16) (a : Word) (data : BitVec 15) (p g n cid : Nat) =>
      p = port.val ∧ g = p / 4 ∧ s.mach.portUp p = true ∧ s.mach.portContained p = false ∧ s.mach.isUpstream g = false ∧ s.mach.pgOn g = true ∧ s.mach.mode ≠ 9 ∧ s.mach.on R.PG_MSIWIN_V g = true ∧ s.mach.get R.PG_MSIWIN_BASE g * 4096 ≤ a.toNat ∧ a.toNat < s.mach.get R.PG_MSIWIN_BASE g * 4096 + 4096 ∧ s.mach.binding p rid.toNat = some n ∧ s.mach.get (R.PG_BIND_IRQ_OK.at n) g = 1 ∧ cid = data.toNat % 512 ∧ cid / 32 < 12 ∧ cid % 32 < s.fuses.coresPerDie ∧ s.mach.dieUp (cid / 32) = true) (edit rooted (fun m => ((m.set R.PG_MSIWIN_V 1 1).set R.PG_MSIWIN_BASE 0xFEE00 1).releaseCore 0 0x1000)) 5 0x100 0xFEE00010 0x600 5 1 2 0) ∧
    ((fun (s : State) (port : Fin 64) (d : DevMsg) (r : List DevMsg) (c rd : Nat) =>
      takeFirst (fun d : DevMsg => d.k != 2 && d.port == some port.val) s.dev.devq = some (d, r) ∧ c = d.cid ∧ d.rd = some rd ∧ s.mach.dieUp (dieOf c) = true ∧ (s.mach.core c).run ≠ .stopped ∧ (s.mach.core c).run ≠ .parked ∧ d.lg < 4 ∧ bitsOf (s.mach.sreg c 0x101) 0 8 = 0) (edit run (fun m => { m with devq := [⟨0, 0, 0xFF0030000000, 3, 0, some 5, 4, true, 0, 2, some 9⟩] })) 9 ⟨0, 0, 0xFF0030000000, 3, 0, some 5, 4, true, 0, 2, some 9⟩ [] 0 5) ∧
    ((fun (s : State) (port : Fin 64) (d : DevMsg) (r : List DevMsg) (c : Nat) =>
      takeFirst (fun d : DevMsg => d.k != 2 && d.port == some port.val) s.dev.devq = some (d, r) ∧ c = d.cid ∧ d.rd = none ∧ d.ne = true ∧ s.mach.dieUp (dieOf c) = true ∧ (s.mach.core c).run ≠ .stopped ∧ (s.mach.core c).run ≠ .parked ∧ (s.mach.core c).dfail = none) (edit run (fun m => { m.modCore 0 (fun c => { c with trk := [⟨0xFF0030000000, 3, 2⟩] }) with devq := [⟨1, 0, 0xFF0030000000, 3, 7, none, 4, true, 0, 2, some 9⟩] })) 9 ⟨1, 0, 0xFF0030000000, 3, 7, none, 4, true, 0, 2, some 9⟩ [] 0) ∧
    ((fun (s : State) (shelf : Fin 64) (n g back : Nat) (format : Bool) =>
      n = shelf.val ∧ s.dev.pitch.find n = some (format, g) ∧ back = (s.mach.shelf n).before) (edit up (fun m => { (m.setShelfState 2 1).setShelf 2 { noShelf with before := 5, ident := 9 } with pitch := [(2, true, 0)] })) 2 2 0 5 true) ∧
    ((fun (s : State) (shelf : Fin 64) (n : Nat) =>
      n = shelf.val ∧ s.mach.shelfState n = 3 ∧ (s.mach.shelf n).phase = 4 ∧ (∀ r ∈ s.dev.journal, r.shelf ≠ n) ∧ (∀ r ∈ s.dev.shelfReads, r.shelf ≠ n)) (edit up (fun m => (m.setShelfState 2 3).setShelf 2 { noShelf with phase := 4, mapped := true })) 2 2) ∧
    ((fun (s : State) (shelf : Fin 64) (page : BitVec 36) (u : Fin 8) =>
      (∃ r ∈ s.dev.shelfReads, r.shelf = shelf.val ∧ r.page = page.toNat * 4096 ∧ r.unit = u.val ∧ r.req.isSome = true)) (edit up (fun m => { m with shelfReads := [⟨2, 0x1000, 3, some { k := .rdCur, src := 60, line := 0x40 }, none⟩] })) 2 1 3) ∧
    ((fun (s : State) (src : Src) (port : Fin 64) (rate : Fin 5) (width : Fin 17) (flit cxlmem dropped : Bool) (rid : BitVec 16) (req : DevReq) (shelf : Fin 64) (p g : Nat) =>
      p = port.val ∧ g = p / 4) up .mc 5 3 4 false false true 0 (.read 0 4) 2 5 1) ∧
    ((fun (s : State) (port : Fin 64) (rid : BitVec 16) (req : DevReq) (p g : Nat) =>
      p = port.val ∧ g = p / 4 ∧ s.mach.portUp p = true ∧ s.mach.portContained p = false ∧ s.mach.isUpstream g = false ∧ s.mach.pgOn g = true ∧ s.mach.mode ≠ 9 ∧ s.mach.on R.PG_MSIWIN_V g = false ∧ s.mach.binding p rid.toNat = none) rooted 5 0x7777 (.read 0x1074 24) 5 1) := by
  decide +kernel

/-- What the clauses of PitchCommandsComplete assume holds somewhere. -/
theorem witness_PitchCommandsComplete :
    ((fun (s : State) (src : Src) (group : Fin 16) (shelf : Fin 64) (format : Bool) (g n st : Nat) =>
      g = group.val ∧ n = shelf.val ∧ MayWrite s src 12 .pg g ∧ s.mach.mode ≠ 9 ∧ s.mach.pgHeld g = false ∧ (s.mach.mode ≠ 2 ∨ s.dev.repitch.contains n = true) ∧ s.mach.on R.PG_SHELF_PITCH_BUSY g = false ∧ s.mach.get (R.TIER_SHELF_CFG_PORT.at n) / 4 = g ∧ s.mach.allTiersReady = true ∧ st = s.mach.shelfState n ∧ st ∈ [0, 4, 5]) up .mc 0 2 true 0 2 0) ∧
    ((fun (s : State) (src : Src) (group : Fin 16) (shelf : Fin 64) (format : Bool) (g n r : Nat) =>
      g = group.val ∧ n = shelf.val ∧ MayWrite s src 12 .pg g ∧ s.mach.on R.PG_SHELF_PITCH_BUSY g = false ∧ (s.mach.get (R.TIER_SHELF_CFG_PORT.at n) / 4 ≠ g ∧ r = 12 ∨ s.mach.get (R.TIER_SHELF_CFG_PORT.at n) / 4 = g ∧ r = 1 ∧ (s.mach.mode = 9 ∨ s.mach.pgHeld g = true ∨ s.mach.mode = 2 ∧ s.dev.repitch.contains n = false ∨ s.mach.allTiersReady = false ∨ s.mach.shelfState n ∉ [0, 4, 5]))) up .mc 1 2 true 1 2 12) ∧
    ((fun (s : State) (shelf : Fin 64) (n p st : Nat) =>
      n = shelf.val ∧ p = s.mach.get (R.TIER_SHELF_CFG_PORT.at n) ∧ s.mach.portUp p = true ∧ s.mach.portGet R.PG_PORT_STATUS_CXLMEM p = 1 ∧ st = s.mach.shelfState n ∧ st ∈ [4, 5] ∧ s.mach.mode ≠ 9 ∧ s.mach.pgHeld (p / 4) = false ∧ (s.mach.mode ≠ 2 ∨ s.dev.repitch.contains n = true) ∧ (s.mach.on (R.TIER_SHELF_CFG_AUTOPITCH.at n) = true ∨ s.dev.repitch.contains n = true) ∧ s.mach.allTiersReady = true ∧ s.mach.on R.PG_SHELF_PITCH_BUSY (p / 4) = false) (edit (sets up [(R.PG_PORT_STATUS_UP, 1), (R.PG_PORT_STATUS_CXLMEM, 1), (R.TIER_SHELF_CFG_AUTOPITCH.at 2, 1)]) (fun m => m.setShelfState 2 4)) 2 2 0 4) ∧
    ((fun (s : State) (shelf : Fin 64) (f : ShelfFound) (n g p back cap r : Nat) (format gone : Bool) (b : List Byte) =>
      n = shelf.val ∧ s.mach.mode ≠ 9 ∧ s.dev.pitch.find n = some (format, g) ∧ back = (s.mach.shelf n).before ∧ p = s.mach.get (R.TIER_SHELF_CFG_PORT.at n) ∧ cap = f.capGib.toNat ∧ b = (f.label ++ List.replicate 64 0).take 64 ∧ gone = (f.linkLost || !s.mach.portUp p || s.mach.portContained p) ∧ (gone = true ∧ r = 2 ∨ gone = false ∧ s.mach.portGet R.PG_PORT_STATUS_CXLMEM p = 0 ∧ r = 3 ∨ gone = false ∧ s.mach.portGet R.PG_PORT_STATUS_CXLMEM p ≠ 0 ∧ (cap = 0 ∨ 2048 < cap) ∧ r = 4 ∨ gone = false ∧ s.mach.portGet R.PG_PORT_STATUS_CXLMEM p ≠ 0 ∧ 0 < cap ∧ cap ≤ 2048 ∧ back = 0 ∧ (format = false ∧ r = 5 ∨ format = true ∧ s.mach.pairState ≠ 0 ∧ Wire.nat b 0 4 = 0x5EEDF07E ∧ Wire.nat b 16 8 % 2 ^ 63 = s.mach.get R.PKG_PAIR_PEER_SERIAL ∧ r = 6))) (edit up (fun m => { (m.setShelfState 2 1).setShelf 2 { noShelf with before := 5, ident := 9 } with pitch := [(2, true, 0)] })) 2 ⟨true, 0, []⟩ 2 0 0 5 0 2 true true (List.replicate 64 0)) ∧
    ((fun (s : State) (shelf : Fin 64) (f : ShelfFound) (n g p cap k : Nat) (format : Bool) (b : List Byte) =>
      Idle s ∧ s.mach.mode ≠ 9 ∧ k = 12 + (b.getD 6 0).toNat % 2 ∧ n = shelf.val ∧ s.dev.pitch.find n = some (format, g) ∧ f.linkLost = false ∧ p = s.mach.get (R.TIER_SHELF_CFG_PORT.at n) ∧ s.mach.portUp p = true ∧ s.mach.portContained p = false ∧ s.mach.portGet R.PG_PORT_STATUS_CXLMEM p = 1 ∧ cap = f.capGib.toNat ∧ 0 < cap ∧ cap ≤ 2048 ∧ b = (f.label ++ List.replicate 64 0).take 64 ∧ (s.mach.shelf n).before ∈ [4, 5] ∧ s.mach.labelCheck n cap b = 0 ∧ s.mach.shelfPages n = [] ∧ (∀ r ∈ s.dev.journal, r.shelf ≠ n)) (edit (sets up [(R.PG_PORT_STATUS_UP, 1), (R.PG_PORT_STATUS_CXLMEM, 1)]) (fun m => { ((m.setShelfState 2 1).setShelf 2 { noShelf with before := 5, ident := 9 }).setSlot 12 ⟨1, 1, 2 ^ useShed, 0, true, 1, 0, 0, 0, 0, List.replicate 32 1⟩ with pitch := [(2, true, 0)] })) 2 ⟨false, 4, [126, 240, 237, 94, 1, 0, 0, 2, 9, 0, 0, 0, 0, 0, 0, 0, 1, 0, 0, 0, 0, 0, 0, 0, 15, 15, 15, 0, 14, 15, 15, 0, 0, 0, 0, 0, 0, 0, 0, 0, 0, 0, 0, 0, 0, 0, 0, 0, 139, 213, 100, 58, 197, 173, 23, 33, 23, 177, 86, 93, 239, 190, 183, 151]⟩ 2 0 0 4 12 true [126, 240, 237, 94, 1, 0, 0, 2, 9, 0, 0, 0, 0, 0, 0, 0, 1, 0, 0, 0, 0, 0, 0, 0, 15, 15, 15, 0, 14, 15, 15, 0, 0, 0, 0, 0, 0, 0, 0, 0, 0, 0, 0, 0, 0, 0, 0, 0, 139, 213, 100, 58, 197, 173, 23, 33, 23, 177, 86, 93, 239, 190, 183, 151]) ∧
    ((fun (s : State) (shelf : Fin 64) (f : ShelfFound) (n g p cap : Nat) (format : Bool) (b : List Byte) =>
      s.mach.mode ≠ 9 ∧ n = shelf.val ∧ s.dev.pitch.find n = some (format, g) ∧ f.linkLost = false ∧ p = s.mach.get (R.TIER_SHELF_CFG_PORT.at n) ∧ s.mach.portUp p = true ∧ s.mach.portContained p = false ∧ s.mach.portGet R.PG_PORT_STATUS_CXLMEM p = 1 ∧ cap = f.capGib.toNat ∧ 0 < cap ∧ cap ≤ 2048 ∧ b = (f.label ++ List.replicate 64 0).take 64 ∧ ((s.mach.shelf n).before ≠ 0 ∧ s.mach.labelCheck n cap b = 0 ∨ (s.mach.shelf n).before = 0 ∧ format = true ∧ s.mach.smapFits cap = true ∧ (s.mach.pairState = 0 ∨ Wire.nat b 0 4 ≠ 0x5EEDF07E ∨ Wire.nat b 16 8 % 2 ^ 63 ≠ s.mach.get R.PKG_PAIR_PEER_SERIAL))) (edit (sets up [(R.PG_PORT_STATUS_UP, 1), (R.PG_PORT_STATUS_CXLMEM, 1)]) (fun m => { ((((((m.set R.TIER_LAYOUT_SMAP_GIB 1 0).set R.TIER_LAYOUT_SMAP_GIB 1 1).set R.TIER_LAYOUT_SMAP_GIB 1 2).set R.TIER_LAYOUT_SMAP_GIB 1 3).setShelfState 2 1).setShelf 2 { noShelf with before := 0 }).setSlot 12 ⟨1, 1, 2 ^ useShed, 0, true, 1, 0, 0, 0, 0, List.replicate 32 1⟩ with pitch := [(2, true, 0)] })) 2 ⟨false, 4, []⟩ 2 0 0 4 true (List.replicate 64 0)) ∧
    ((fun (s : State) (src : Src) (group : Fin 16) (shelf : Fin 64) (format : Bool) (f : ShelfFound) (g n : Nat) =>
      g = group.val ∧ n = shelf.val) (edit up (fun m => m.set R.PG_SHELF_PITCH_BUSY 1 2)) .mc 2 5 true ⟨false, 0, []⟩ 2 5) := by
  decide +kernel

/-- What the clauses of HostMemoryAndResetsComplete assume holds somewhere. -/
theorem witness_HostMemoryAndResetsComplete :
    ((fun (s : State) (group : Fin 16) (ld : Fin 64) (dpa : BitVec 64) (data : Line) (mask : BitVec 64) (k t a spa : Nat) (l : Line) =>
      Idle s ∧ NoUncore s ∧ k = ldOf group ld ∧ s.mach.ldThere k = true ∧ s.mach.ldState k = 2 ∧ s.mach.boundTo k = some t ∧ s.dev.rstale = [] ∧ a = dpa.toNat / 64 * 64 ∧ viewed s t a false = some spa ∧ s.mach.ownerLine (spa / 64) = some (l, false)) hosted 3 0 0x1044 0 0 192 5 0x1040 0x1040 0x1111) ∧
    ((fun (s : State) (group : Fin 16) (ld : Fin 64) (dpa : BitVec 64) (data : Line) (mask : BitVec 64) (k t a spa : Nat) =>
      Idle s ∧ k = ldOf group ld ∧ s.mach.ldThere k = true ∧ s.mach.ldState k = 2 ∧ s.mach.boundTo k = some t ∧ s.dev.rstale = [] ∧ a = dpa.toNat / 64 * 64 ∧ viewed s t a false = some spa) hosted 3 0 0x1144 0 0 192 5 0x1140 0x1140) ∧
    ((fun (s : State) (group : Fin 16) (ld : Fin 64) (dpa : BitVec 64) (data : Line) (mask : BitVec 64) (k t a spa la : Nat) (old : Line) =>
      Idle s ∧ NoUncore s ∧ k = ldOf group ld ∧ s.mach.ldThere k = true ∧ s.mach.mode ≠ 8 ∧ s.mach.ldState k = 2 ∧ s.mach.boundTo k = some t ∧ s.dev.rstale = [] ∧ a = dpa.toNat / 64 * 64 ∧ viewed s t a true = some spa ∧ Target s (spa / 64) la old) hosted 3 0 0x1044 0xFFEE 2 192 5 0x1040 0x1040 0x4100000040 0x1111) ∧
    ((fun (s : State) (group : Fin 16) (ld : Fin 64) (write : Bool) (dpa : BitVec 64) (data : Line) (mask : BitVec 64) (k a : Nat) (x : LdFn) =>
      k = ldOf group ld ∧ s.mach.ldThere k = true ∧ (s.mach.mode ≠ 8 ∨ write = false) ∧ s.mach.ldState k ≠ 2 ∧ a = dpa.toNat / 64 * 64 ∧ x = s.mach.ldFn k) (edit hosted (fun m => m.setTenant 5 { m.tenant 5 with attached := false })) 3 0 false 0x1044 0 0 192 0x1040 { ldReset with mse := true, stamp := 7 }) ∧
    ((fun (s : State) (group : Fin 16) (ld : Fin 64) (write : Bool) (dpa : BitVec 64) (data : Line) (mask : BitVec 64) (k t a c : Nat) (x : LdFn) =>
      k = ldOf group ld ∧ s.mach.ldThere k = true ∧ (s.mach.mode ≠ 8 ∨ write = false) ∧ s.mach.ldState k = 2 ∧ s.mach.boundTo k = some t ∧ a = dpa.toNat / 64 * 64 ∧ x = s.mach.ldFn k ∧ s.dev.rstale = [] ∧ (match (s.mach.lookup (s.mach.tenant t).rset a write).2 with | .error e => e == c | .ok _ => false) = true) hosted 3 0 false 0x40000000 0 0 192 5 0x40000000 1 { ldReset with mse := true, stamp := 7 }) ∧
    ((fun (s : State) (group : Fin 16) (g : Nat) =>
      g = group.val ∧ s.mach.isUpstream g = true) (edit hosted (fun m => m.setOut 1 [⟨1, false, .line 0x40 5 0 false, some (hostKey 192 0x1040)⟩])) 3 3) ∧
    ((fun (s : State) (group : Fin 16) (ld : Fin 64) (k : Nat) =>
      k = ldOf group ld ∧ s.mach.ldThere k = true) hosted 3 0 192) ∧
    ((fun (s : State) (group : Fin 16) (ld : Fin 64) (k : Nat) =>
      k = ldOf group ld ∧ s.mach.ldThere k = true ∧ (∀ t ∈ s.mach.boundTo k, s.mach.ldField R.EP_LD_MGR k = 1)) (edit hosted (fun m => m.setTenant 5 { m.tenant 5 with state := 0 })) 3 0 192) ∧
    ((fun (s : State) (group : Fin 16) (ld : Fin 64) (k t : Nat) =>
      k = ldOf group ld ∧ s.mach.ldThere k = true ∧ s.mach.boundTo k = some t ∧ s.mach.ldField R.EP_LD_MGR k ≠ 1) hosted 3 0 192 5) ∧
    ((fun (s : State) (port : Fin 64) (p g : Nat) =>
      p = port.val ∧ g = p / 4 ∧ s.mach.isUpstream g = true ∧ s.mach.portUp p = true) (edit hosted (fun m => m.setOut 1 [⟨1, false, .line 0x40 5 0 false, some (hostKey 192 0x1040)⟩])) 12 12 3) ∧
    ((fun (s : State) (port : Fin 64) (rate : Fin 5) (width : Fin 17) (flit mld fl cx : Bool) (p g w r : Nat) =>
      p = port.val ∧ g = p / 4 ∧ s.mach.isUpstream g = true ∧ s.mach.pgOn g = true ∧ s.mach.portExists p = true ∧ s.mach.portGet R.PG_PORT_CTL_LINK_DISABLE p ≠ 1 ∧ w = portWidth (s.mach.portLanes p) width.val ∧ w ≠ 0 ∧ fl = (if s.mach.portUp p then s.mach.portGet R.PG_PORT_STATUS_FLIT p == 1 else flit || rate.val == 4) ∧ cx = (if s.mach.portUp p then s.mach.portGet R.PG_PORT_STATUS_CXLMEM p == 1 else s.mach.on R.PG_CFG_CXL g) ∧ r = min (if fl then rate.val else min rate.val 3) (s.mach.get R.PG_CFG_MAX_RATE g)) (edit hosted (fun m => m.set R.PG_PORT_STATUS_UP 0 3)) 12 2 16 true true true false 12 3 16 2) ∧
    ((fun (s : State) (src : Src) (group : Fin 16) (ld : Fin 64) (k : Nat) (i : Instr) =>
      k = ldOf group ld ∧ (s.mach.ldFn k).draining = true ∧ (i = .hostRelease group ld ∧ s.mach.ldThere k = true ∨ i = .forceRelease src group ld ∧ MayWrite s src 12 .ep group.val)) (edit hosted (fun m => m.setLd 192 { m.ldFn 192 with draining := true })) .mc 3 0 192 (.hostRelease 3 0)) ∧
    ((fun (s : State) (src : Src) (group : Fin 16) (ld port : Fin 64) (write : Bool) (dpa : BitVec 64) (data : Line) (mask : BitVec 64) (rate : Fin 5) (width : Fin 17)
    (flit mld : Bool) (k g : Nat) =>
      k = ldOf group ld ∧ g = port.val / 4) up .mc 3 0 4 true 0x1000 0 0xFF 3 4 true true 192 1) := by
  decide +kernel

/-- What the clauses of MailboxAndConfigurationComplete assume holds somewhere. -/
theorem witness_MailboxAndConfigurationComplete :
    ((fun (s : State) (group : Fin 16) (ld : Fin 64) (log : Fin 4) (handles : List (BitVec 16)) (policy : BitVec 32) (ns : Word) (opcode : BitVec 16) (i : Instr) (k : Nat) (x y : LdFn) =>
      k = ldOf group ld ∧ s.mach.ldThere k = true ∧ x = s.mach.ldFn k ∧ (i = .identifyMemoryDevice group ld ∧ y = { x with mail := .identify (s.mach.shownCapacity k) } ∨ i = .getEventRecords group ld log ∧ y = { x with mail := .records (x.logs.filter (fun e => e.log == log.val)) } ∨ i = .clearEventRecords group ld log handles ∧ y = { x with mail := .done, logs := x.logs.filter (fun e => !(e.log == log.val && (handles.map BitVec.toNat).contains e.handle)) } ∨ i = .getEventInterruptPolicy group ld ∧ y = { x with mail := .policy x.policy } ∨ i = .setEventInterruptPolicy group ld policy ∧ y = { x with mail := .done, policy := policy.toNat } ∨ i = .getTimestamp group ld ∧ y = { x with mail := .time (if x.stamp = 0 then 0 else x.stamp + (s.dev.time + 2 ^ 48 - x.stampAt) % 2 ^ 48 * 5 / 12) } ∨ i = .setTimestamp group ld ns ∧ y = { x with mail := .done, stamp := ns.toNat, stampAt := s.dev.time } ∨ i = .unsupportedCommand group ld opcode ∧ y = { x with mail := .unsupported })) hosted 3 0 1 [] 0 0 0 (.identifyMemoryDevice 3 0) 192 { ldReset with mse := true, stamp := 7 } { ldReset with mse := true, stamp := 7, mail := .identify (2 ^ 28) }) ∧
    ((fun (s : State) (group : Fin 16) (ld : Fin 64) (i : Instr) (k : Nat) =>
      k = ldOf group ld ∧ s.mach.ldThere k = true ∧ i ∈ [Instr.getHealthInfo group ld, Instr.getSupportedLogs group ld, Instr.getLog group ld]) hosted 3 0 (.getHealthInfo 3 0) 192) ∧
    ((fun (s : State) (port : Fin 64) (i : Instr) (p : Nat) (a : MailAnswer) =>
      p = port.val ∧ s.mach.isUpstream (p / 4) = true ∧ s.mach.portUp p = true ∧ (s.mach.pgPort p).mld = true ∧ s.mach.mode ≠ 9 ∧ (i, a) ∈ [(Instr.getLdInfo port, .ldInfo ((s.mach.fmUnits p).foldl (· + ·) 0 * 2 ^ 28) 16), (Instr.getLdAllocations port, .allocations (s.mach.fmUnits p)), (Instr.setLdAllocations port, .unsupported)]) (edit hosted (fun m => m.setPg 12 { m.pgPort 12 with mld := true })) 12 (.getLdInfo 12) 12 (.ldInfo (2 ^ 28) 16)) ∧
    ((fun (s : State) (group : Fin 16) (ld : Fin 64) (k : Nat) (x : LdFn) =>
      k = ldOf group ld ∧ x = s.mach.ldFn k ∧ s.mach.ldThere k = true ∧ x.ltrEn = true ∧ s.mach.ltrValue k ≠ x.ltrLast ∧ (match x.ltrAt with | none => true | some t => decide (max 1 (s.mach.act R.EP_LTR_CTL_MIN_INTERVAL_US (k / 64)) * 2400 ≤ (s.dev.time + 2 ^ 48 - t) % 2 ^ 48)) = true) (edit hosted (fun m => m.setLd 192 { ldReset with ltrEn := true, ltrLast := 9 })) 3 0 192 { ldReset with ltrEn := true, ltrLast := 9 }) ∧
    ((fun (s : State) (group : Fin 16) (ld : Fin 64) (w : HostWrite) (k : Nat) (x y : LdFn) =>
      k = ldOf group ld ∧ s.mach.ldThere k = true ∧ x = s.mach.ldFn k ∧ x.flr = false ∧ (match w with | .doorbell .. => false | _ => true) = true ∧ y = (match w with | .command mse bme => { x with mse := mse, bme := bme } | .bar n v => { x with bars := x.bars.ins n.val (barValue n.val v.toNat) } | .rom v => { x with bars := x.bars.ins 6 (barValue 6 v.toNat) } | .msixControl on mask => { x with msixOn := on, msixMask := mask } | .vector n a d mask => if x.mse then { x with msix := x.msix.ins n.toNat (a.toNat, d.toNat, mask) } else x | .ltrEnable on => { x with ltrEn := on } | .hdm base size => if x.mse then { x with hdm := some (base.toNat, size.toNat) } else x | .power d3 => { x with d3 := d3 } | .doorbell .. => x)) hosted 3 0 (.vector 4 0xFEE0 7 false) 192 { ldReset with mse := true, stamp := 7 } { ldReset with mse := true, stamp := 7, msix := [(4, 0xFEE0, 7, false)] }) ∧
    ((fun (s : State) (group : Fin 16) (ld : Fin 64) (off : BitVec 23) (lg : Fin 4) (v : Word) (k t : Nat) (x : LdFn) =>
      k = ldOf group ld ∧ s.mach.ldThere k = true ∧ x = s.mach.ldFn k ∧ t = off.toNat / 0x1000 ∧ (x.flr = true ∨ x.mse = false ∨ x.d3 = true ∨ off.toNat % 2 ^ lg.val ≠ 0 ∨ s.mach.decodesPage k t = false ∨ s.mach.ldState k = 1 ∨ (s.mach.tenant t).state = 0 ∨ 0xF08 ≤ off.toNat % 0x1000)) hosted 3 0 0x6000 3 9 192 6 { ldReset with mse := true, stamp := 7 }) ∧
    ((fun (s : State) (group : Fin 16) (ld : Fin 64) (off : BitVec 23) (lg : Fin 4) (v : Word) (k t n : Nat) (x : LdFn) =>
      k = ldOf group ld ∧ s.mach.ldThere k = true ∧ x = s.mach.ldFn k ∧ t = off.toNat / 0x1000 ∧ x.flr = false ∧ x.mse = true ∧ x.d3 = false ∧ off.toNat % 2 ^ lg.val = 0 ∧ s.mach.decodesPage k t = true ∧ s.mach.ldState k ≠ 1 ∧ (s.mach.tenant t).state ≠ 0 ∧ (off.toNat % 0x1000 = 0xF00 ∧ 2 ≤ lg.val ∨ 1 ≤ lg.val ∧ off.toNat % 8 = 0 ∧ s.mach.localQueue t (off.toNat % 0x1000 / 16) = some n ∧ off.toNat % 0x1000 < 0xF00 ∧ (off.toNat / 8 % 2 = 0 ∨ Idle s ∧ (s.mach.queue n).held = [] ∧ (s.mach.queue n).state ≠ 2))) hosted 3 0 0x5F00 3 0x20000 192 5 3 { ldReset with mse := true, stamp := 7 }) ∧
    ((fun (s : State) (group : Fin 16) (ld port : Fin 64) (log : Fin 4) (handles : List (BitVec 16)) (policy : BitVec 32) (ns : Word) (opcode : BitVec 16) (w : HostWrite)
    (i : Instr) (k p : Nat) =>
      k = ldOf group ld ∧ p = port.val) up 3 0 4 0 [] 0 0 0 (.ltrEnable true) (.ltrSend 3 0) 192 4) := by
  decide +kernel

/-- What the clauses of LanternCommandsComplete assume holds somewhere. -/
theorem witness_LanternCommandsComplete :
    ((fun (s : State) =>
      s.mach.ringOn = false ∧ (∀ c ∈ s.dev.lant.coal, c.tenant = none)) (edit up (fun m => { m with lant := { m.lant with coal := [⟨5, 1, 2, 3, 0, 0, none, 0, true⟩, ⟨6, 1, 2, 0, 0, 0, none, 0, true⟩, ⟨7, 1, 2, 1, 0, 0, none, 0, true⟩], dropped := [(1, true), (2, false)] } }))) ∧
    ((fun (s : State) (c : CoalEntry) (spa la t : Nat) (old : Line) (r : EventRec) =>
      Idle s ∧ NoUncore s ∧ s.mach.ringOn = true ∧ s.dev.lant.replaying = false ∧ s.dev.lant.coal = [c] ∧ s.dev.lant.dropped = [] ∧ c.count ≠ 0 ∧ c.tenant = none ∧ s.mach.ringTakes 2 = true ∧ s.dev.lant.ringStopped = false ∧ t = s.mach.get R.LANT_RING_TAIL_TAIL ∧ spa = s.mach.get R.LANT_RING_BASE * 4096 + 32 * t ∧ Target s (spa / 64) la old ∧ r = ⟨c.typ, 2, c.sev, s.mach.on R.LANT_RING_TAIL_PHASE, true, false, false, c.cause, s.mach.get R.LANT_SEQ_NEXT, s.dev.time, c.source, none, c.count, c.detail, c.addr⟩) (edit (work []) (fun m => { (((m.hset R.HDR_CONTROL_ENABLE .lant 1).set R.LANT_RING_BASE 1).set R.LANT_RING_SIZE_LOG2 8).set R.LANT_RING_TAIL_TAIL 3 with lant := { m.lant with coal := [⟨5, 1, 2, 3, 9, 0, none, 0, true⟩] } })) ⟨5, 1, 2, 3, 9, 0, none, 0, true⟩ 0x1060 0x4100000040 3 0x1111 ⟨1, 2, 0, true, true, false, false, 2, 0, 0, 5, none, 3, 0, 9⟩) ∧
    ((fun (s : State) (slot : BitVec 11) (i : Instr) (a : SbAnswer) =>
      s.mach.mode ≠ 0 ∧ (i = .getEvents ∧ a = .events (s.dev.lant.sbq.take 8) ∨ i = .getStatus ∧ a = .status [putBits (s.mach.reg R.PKG_MODE_MODE.key) 10 1 (decide (s.mach.get R.PKG_STRUCK_MASK_DIES ≠ 0 ∧ 3 ≤ s.mach.mode ∧ s.mach.mode ≤ 7)).toNat, s.mach.reg R.PKG_STRUCK_MASK_DIES.key, s.mach.reg R.PKG_PAIR_STATE_STATE.key, s.mach.reg R.PKG_RESET_CAUSE_LAST.key, s.mach.reg R.LANT_STORE_STAT_CUR.key] ∨ i = .getStore slot ∧ a = .slots ((List.range 32).map (fun j => (s.dev.lant.store.find ((slot.toNat + j) % 2048)).elim (List.replicate 32 0) EventRec.bytes)))) up 0 .getEvents (.events [])) ∧
    ((fun (s : State) (seq : BitVec 32) =>
      s.mach.mode ≠ 0) up 5) ∧
    ((fun (s : State) (src : Src) (i : Instr) =>
      (i = .ackAlarm ∧ s.mach.mode ≠ 0 ∨ i = .alertPendClear src ∧ MayWrite s src 12 .lant 0)) (sets up [(R.LANT_ALARM_ALERT_PEND, 1)]) .mc .ackAlarm) ∧
    ((fun (s : State) (src : Src) (i : Instr) (lo hi : Nat) (fs : List Fld) =>
      MayWrite s src 12 .lant 0 ∧ (i, lo, hi, fs) ∈ [(Instr.clearBank0 src, 32, 736, [R.LANT_STORE_STAT_COUNT0]), (Instr.clearBank1 src, 736, 1440, [R.LANT_STORE_STAT_COUNT1]), (Instr.clearGeneral src, 1440, 2048, [R.LANT_STORE_STAT_GEN_WPTR, R.LANT_STORE_STAT_GEN_WRAPPED])] ∧ (∀ e ∈ s.dev.lant.store, e.1 < 2048)) (sets up [(R.LANT_STORE_STAT_COUNT0, 1)]) .mc (.clearBank0 .mc) 32 736 [R.LANT_STORE_STAT_COUNT0]) ∧
    ((fun (s : State) (src : Src) (head : BitVec 20) =>
      MayWrite s src 12 .lant 0 ∧ s.dev.lant.replaying = false) up .mc 9) ∧
    ((fun (s : State) (src : Src) (head : BitVec 20) =>
      MayWrite s src 12 .lant 0) (edit up (fun m => { m with lant := { m.lant with replaying := true } })) .mc 9) ∧
    ((fun (s : State) (die : Fin 13) (inst : Fin 4) =>
      inst.val < instances s.fuses die.val .fab ∧ (die.val = 12 ∨ s.mach.dieUp die.val = true)) up 12 3) ∧
    ((fun (s : State) (src : Src) (die : Fin 13) (inst : Fin 4) (k : Nat) =>
      MayWrite s src die.val .fab inst.val ∧ k = (die.val * 4 + inst.val) * 2048) (edit up (fun m => { m with trace := [(12 * 8192 + 2048 + 7, [1])] })) .mc 12 1 100352) ∧
    ((fun (s : State) (slot : BitVec 11) (seq : BitVec 32) (die : Fin 13) (inst : Fin 4) (i : Instr) =>
      True) State.reset 0 0 0 3 .getStatus) := by
  decide +kernel

/-- What the clauses of PerformanceCommandsComplete assume holds somewhere. -/
theorem witness_PerformanceCommandsComplete :
    ((fun (s : State) (c : Cid) (n : Fin 8) (rest : BitVec 6) (k g ovf irq : Nat) =>
      k = cidOf c ∧ s.mach.dieUp c.die.val = true ∧ g = s.mach.sreg k 0x101 ∧ ovf = s.mach.sreg k 0x102 ∧ irq = s.mach.sreg k 0x103 ∧ bitsOf g n.val 1 = 1) (edit run (fun m => ((m.setSreg 0 0x101 0x404).setSreg 0 0x103 69).modCore 0 (fun c => { c with run := .waiting }))) ⟨0, 0⟩ 2 5 0 0x404 0 69) ∧
    ((fun (s : State) (die : Fin 13) (inst : Fin 4) (n : Fin 4) (rest : BitVec 9) (i d ovf : Nat) =>
      i = inst.val ∧ d = die.val ∧ i < instances s.fuses d .pmu ∧ (d = 12 ∨ s.mach.dieUp d = true) ∧ bitsOf (s.mach.get R.PMU_UGLOBAL_EN i d) n.val 1 = 1 ∧ ovf = s.mach.get R.PMU_UGLOBAL_OVF i d) (sets up [(R.PMU_UGLOBAL_EN, 15), (R.PMU_UGLOBAL_FREEZE_ON_OVF, 1), (R.PMU_UGLOBAL_OVF, 2)]) 12 0 2 5 0 12 2) ∧
    ((fun (s : State) (c : Cid) (k n : Nat) (j : Bool) =>
      k = cidOf c ∧ s.mach.issuing k = true ∧ c.core.val < s.fuses.coresPerDie ∧ s.mach.tagOn k = true ∧ (s.mach.core k).tag.flight = none ∧ n = bitsOf (s.mach.sreg k 0x140) 1 5 ∧ j = (bitsOf (s.mach.sreg k 0x140) 6 1 == 1)) (edit run (fun m => m.setSreg 0 0x140 0x221)) ⟨0, 0⟩ 0 16 false) ∧
    ((fun (s : State) (c : Cid) (k d : Nat) (f : Nat × Nat) =>
      k = cidOf c ∧ s.mach.issuing k = true ∧ c.core.val < s.fuses.coresPerDie ∧ s.mach.tagOn k = true ∧ (s.mach.core k).tag.flight = some f ∧ (s.mach.core k).tag.wait = false ∧ d = s.mach.sreg k 0x144) (edit run (fun m => (m.setSreg 0 0x140 0x221).modCore 0 (fun c => { c with tag := { c.tag with flight := some (2, 0) } }))) ⟨0, 0⟩ 0 0 (2, 0)) ∧
    ((fun (s : State) (c : Cid) (r : TagRec) (k pl tn ring size tail ph spa la : Nat) (old : Line) (x : CoreSt) =>
      NoUncore s ∧ k = cidOf c ∧ x = s.mach.core k ∧ x.tag.flight = some (pl, tn) ∧ x.tag.wait = false ∧ ring = s.mach.sreg k 0x141 ∧ size = 2 ^ bitsOf ring 0 5 ∧ tail = s.mach.sreg k 0x143 % 2 ^ 16 ∧ ph = bitsOf (s.mach.sreg k 0x143) 16 1 ∧ (tail + 1 + size - s.mach.sreg k 0x142 % size) % size ≠ 0 ∧ spa = bitsOf ring 12 36 * 4096 + 64 * tail ∧ Target s (spa / 64) la old) (edit (work []) (fun m => ((m.releaseCore 0 0x1000).setSreg 0 0x141 0x1006).modCore 0 (fun c => { c with tag := { c.tag with flight := some (2, 0) } }))) ⟨0, 0⟩ ⟨true, none, 0x40, some 0x1000, none, true, false, false, false, false, false, 1, false, 3, 4, 5⟩ 0 2 0 0x1006 64 0 1 0x1000 0x4100000000 0x1100 { (run.mach.core 0) with tag := { (run.mach.core 0).tag with flight := some (2, 0) }, sr := [(0x141, 0x1006)] }) ∧
    ((fun (s : State) (c : Cid) (r : TagRec) (k size d : Nat) (f : Nat × Nat) (x : CoreSt) =>
      k = cidOf c ∧ x = s.mach.core k ∧ x.tag.flight = some f ∧ x.tag.wait = false ∧ size = 2 ^ bitsOf (s.mach.sreg k 0x141) 0 5 ∧ (s.mach.sreg k 0x143 % 2 ^ 16 + 1 + size - s.mach.sreg k 0x142 % size) % size = 0 ∧ d = s.mach.sreg k 0x144) (edit run (fun m => (m.setSreg 0 0x142 1).modCore 0 (fun c => { c with tag := { c.tag with flight := some (2, 0) } }))) ⟨0, 0⟩ ⟨true, none, 0x40, none, none, true, false, false, false, false, false, 1, false, 3, 4, 5⟩ 0 64 0 (2, 0) { (run.mach.core 0) with tag := { (run.mach.core 0).tag with flight := some (2, 0) }, sr := [(0x142, 1)] }) ∧
    ((fun (s : State) (c : Cid) (r : TagRec) (k : Nat) (f : Nat × Nat) (x : CoreSt) =>
      k = cidOf c ∧ x = s.mach.core k ∧ x.tag.flight = some f) (edit run (fun m => (m.setSreg 0 0x140 0x221).modCore 0 (fun c => { c with tag := { c.tag with flight := some (2, 0), wait := true } }))) ⟨0, 0⟩ ⟨true, none, 0x40, none, none, true, false, false, false, false, false, 1, false, 3, 4, 5⟩ 0 (2, 0) { (run.mach.core 0) with tag := { (run.mach.core 0).tag with flight := some (2, 0), wait := true }, sr := [(0x140, 0x221)] }) ∧
    ((fun (s : State) (die : Fin 13) (inst : Fin 4) (i d : Nat) =>
      i = inst.val ∧ d = die.val ∧ i < instances s.fuses d .pmu ∧ (d = 12 ∨ s.mach.dieUp d = true) ∧ s.mach.on R.PMU_SNAP_AT_ARM i d = true ∧ (s.dev.time + 2 ^ 48 - s.mach.get R.PMU_SNAP_AT_TIME i d) % 2 ^ 48 < 2 ^ 47) (edit (sets up [(R.PMU_SNAP_AT_ARM, 1), (R.PMU_SNAP_AT_TIME, 8), (R.PMU_UCNT_COUNT.at 2, 77)]) (fun m => { m with time := 9 })) 12 0 0 12) ∧
    ((fun (s : State) (c : Cid) (r : TagRec) (n : Fin 8) (u inst : Fin 4) (rest : BitVec 6) (urest : BitVec 9) (die : Fin 13) (k i d : Nat) =>
      k = cidOf c ∧ i = inst.val ∧ d = die.val) up ⟨0, 0⟩ ⟨true, none, 0x40, none, none, true, false, false, false, false, false, 1, false, 3, 4, 5⟩ 0 0 0 0 0 12 0 0 12) := by
  decide +kernel

/-- What the clauses of ElectricalCommandsComplete assume holds somewhere. -/
theorem witness_ElectricalCommandsComplete :
    ((fun (s : State) (temps : List (Fin 13 × BitVec 16)) (T : Nat → Int) (thr low : Int) =>
      2 ≤ s.mach.mode ∧ temps.all (fun t => decide (t.2.toInt < 16 * (min 120 (s.mach.act R.PKG_THERM_CTL_ALERT_C) : Nat))) = true ∧ (∀ k < 13, T k = ((temps.find? (fun t => t.1.val == k)).map (fun t => t.2.toInt)).getD (s.mach.tempOf k)) ∧ thr = 16 * (min 105 (s.mach.act R.PKG_THERM_CTL_THROTTLE_C) : Nat) ∧ low = thr - 16 * (s.mach.act R.PKG_THERM_CTL_HYST_C : Nat) ∧ s.fuses.coresPerDie ≤ 20 ∧ (∀ d < 12, s.dev.tcap.getD d 0 ≤ 3) ∧ (∀ k ∈ s.mach.capped, s.dev.pcap.getD k 0 ≤ 3)) (edit up (fun m => { m.releaseCore 65 0 with tcap := [(1, 2)], pcap := [(65, 3), (5, 1)] })) [(2, 1600), (12, 3)] (fun k => if k = 2 then 1600 else if k = 12 then 3 else 0) 1600 1552) ∧
    ((fun (s : State) (temps : List (Fin 13 × BitVec 16)) =>
      2 ≤ s.mach.mode) up [(2, 2000), (12, 3)]) ∧
    ((fun (s : State) (power : BitVec 16) (limit lo hi : Nat) (cap : Nat → Nat) =>
      2 ≤ s.mach.mode ∧ s.fuses.coresPerDie ≤ 20 ∧ limit = 8 * max s.fuses.tdpMin (min s.fuses.tdpMax (s.mach.act R.PKG_POWER_LIMIT_LIMIT_W)) ∧ (∀ c ∈ s.mach.capped, cap c = s.dev.pcap.getD c 0 ∧ cap c ≤ 3) ∧ lo = s.mach.capped.foldl (fun a c => min a (cap c)) 3 ∧ hi = s.mach.capped.foldl (fun a c => max a (cap c)) 0 ∧ (∀ d < 12, s.dev.tcap.getD d 0 ≤ 3)) (edit up (fun m => { (m.releaseCore 65 0).releaseCore 66 0 with tcap := [(1, 2)], pcap := [(65, 3), (66, 1)] })) 0xFFFF 4800 1 3 (fun c => if c = 65 then 3 else 1)) ∧
    ((fun (s : State) =>
      s.mach.mode ≠ 0) up) ∧
    ((fun (s : State) =>
      s.mach.mode ≠ 0) up) ∧
    ((fun (s : State) (rail : Rail) =>
      s.dev.pins.pwrgood = true ∧ (match rail with | .cd k => bitsOf (s.mach.get R.PKG_DIE_STATE_PARKED) k.val 1 == 0 && s.dev.dieOp.getD k.val 0 != 4 | _ => true) = true) up (.cd 4)) ∧
    ((fun (s : State) (t : Int) (f : Nat) =>
      2 ≤ s.mach.mode ∧ (∃ k ∈ List.range 13, s.mach.on (R.PKG_DIE_TEMP_VALID.at k) = true ∧ s.mach.tempOf k = t) ∧ (∀ k < 13, s.mach.on (R.PKG_DIE_TEMP_VALID.at k) = true → s.mach.tempOf k ≤ t) ∧ f = s.dev.lifeFrac + lifeRate t) (edit (sets up [(R.PKG_DIE_TEMP_VALID.at 3, 1), (R.PKG_DIE_TEMP_TEMP.at 3, 1280)]) (fun m => { m with lifeFrac := 224 * 2 ^ 48 })) 1280 (225 * 2 ^ 48)) ∧
    ((fun (s : State) =>
      2 ≤ s.mach.mode ∧ (∀ k < 13, s.mach.on (R.PKG_DIE_TEMP_VALID.at k) = false)) up) ∧
    ((fun (s : State) =>
      2 ≤ s.mach.mode) (sets up [(R.PKG_LIFE_USED_EQ, 5)])) ∧
    ((fun (s : State) (code : Byte) (i : Instr) (x : TapInsn) =>
      s.mach.tapOn = true ∧ (i, x) ∈ [(Instr.tapReset, .idcode), (Instr.tapIdcode, .idcode), (Instr.tapSamplePreload, .samplePreload), (Instr.tapExtest, .extest), (Instr.tapClamp, .clamp), (Instr.tapHighz, .highz), (Instr.tapIjtag, .ijtag), (Instr.tapBypass code, match code.toNat with | 1 => .idcode | 2 => .samplePreload | 3 => .extest | 4 => .clamp | 5 => .highz | 0x20 => .ijtag | _ => TapInsn.bypass)]) up 0xFF .tapReset .idcode) ∧
    ((fun (s : State) (data : List Bool) (held ins k : Nat) =>
      s.mach.tapOn = true ∧ held = Nat.lor (s.mach.get R.PKG_STRUCK_MASK_DIES) (s.mach.get R.PKG_DIE_STATE_PARKED) ∧ ins = s.mach.get R.TAP_SEGMENTS_INSERTED - Nat.land (s.mach.get R.TAP_SEGMENTS_INSERTED) held ∧ k = (match s.dev.tap.insn with | .idcode => 0 | .samplePreload => 1 | .extest => if s.mach.mode = 11 then 1 else 3 | .ijtag => if s.mach.mode = 11 ∨ s.mach.on R.TAP_ACCESS_INSTR_EN = true then 2 else 3 | _ => 3)) up [] 0 0 0) ∧
    ((fun (s : State) (temps : List (Fin 13 × BitVec 16)) (power : BitVec 16) (rail : Rail) (code : Byte) (data : List Bool) (i : Instr) =>
      True) State.reset [] 5 .iod 0xFF [] .lifeSave) := by
  decide +kernel

/-- What the clauses of StepRunsFrontCommand assume holds somewhere. -/
theorem witness_StepRunsFrontCommand :
    ((fun s : State =>
      s.pending = []) State.reset) := by
  decide +kernel

/-- What the clauses of ResetState assume holds somewhere. -/
theorem witness_ResetState :
    ((fun (die : Fin 14) (b : Block) (inst : Fin 64) =>
      instances Fuses.reset die.val b > inst.val) 12 .tier 3) := by
  decide +kernel

/-- What the clauses of EveryStepKeepsInvariant assume holds somewhere. -/
theorem witness_EveryStepKeepsInvariant :
    ((fun (fu : Fuses) (s : State) =>
      Inv fu s) Fuses.reset { up with pending := [.rootPllLock] }) := by
  decide +kernel

/-- What the clauses of HomeQuadrantOfPages assume holds somewhere. -/
theorem witness_HomeQuadrantOfPages :
    ((fun spa i =>
      i < 2) 0x200000001000 1) ∧
    ((fun a b =>
      a / 4096 = b / 4096) 0x1000 0x1fff) := by
  decide +kernel

/-- What the clauses of QuadrantLineNumbers assume holds somewhere. -/
theorem witness_QuadrantLineNumbers :
    ((fun a b =>
      a / 2 ^ 14 = b / 2 ^ 14 ∧ homeOf a = homeOf b) 0x5000 0x5800) ∧
    ((fun a b =>
      a < 2 ^ 48 ∧ b < 2 ^ 48 ∧ homeOf a = homeOf b ∧ qlineOf a = qlineOf b) 0x5000 0x5001) := by
  decide +kernel

/-- What the clauses of PartnerPagesReadOnes assume holds somewhere. -/
theorem witness_PartnerPagesReadOnes :
    ((fun (s : State) (src : Src) (a : BitVec 28) =>
      a.toNat / 0x1000000 = 13 ∧ s.mach.on R.PKG_PARTNER_VIEW_VALID = false) up (.core 0) 0xD000000) ∧
    ((fun (s : State) (c : Cid) (port : Option (Fin 64)) (d : DevMsg) =>
      s.mach.devNext (cidOf c) = some d ∧ d.k = 0 ∧ 0xFF000D000000 ≤ d.spa ∧ d.spa < 0xFF000E000000 ∧ s.mach.on R.PKG_PARTNER_VIEW_VALID = false) (edit up (fun m => { m with devq := [⟨0, 0, 0xFF000D000000, 3, 0, some 1, 4, false, 0, 2, none⟩] })) ⟨0, 0⟩ none ⟨0, 0, 0xFF000D000000, 3, 0, some 1, 4, false, 0, 2, none⟩) := by
  decide +kernel

/-- What the clauses of AccessClassesHold assume holds somewhere. -/
theorem witness_AccessClassesHold :
    ((fun (s : State) (pl : Fin 3) (a : BitVec 28) (b : Block) =>
      pl.val < 2 ∧ blockOfCode (a.toNat / 0x40000 % 0x40) = some b ∧ a.toNat / 0x1000000 ≤ 12 ∧ (a.toNat / 0x1000000 < 12 → s.mach.dieUp (a.toNat / 0x1000000) = true) ∧ a.toNat / 0x1000 % 0x40 < instances s.fuses (a.toNat / 0x1000000) b) up 1 0xC040100 .clk) ∧
    ((fun (s : State) (src : Src) (a : BitVec 28) (h : Half) (v : Word) (b : Block) =>
      2 ≤ s.mach.mode ∧ a.toNat % 8 = 0 ∧ blockOfCode (a.toNat / 0x40000 % 0x40) = some b ∧ a.toNat / 0x1000000 ≤ 12 ∧ (a.toNat / 0x1000000 < 12 → s.mach.dieUp (a.toNat / 0x1000000) = true) ∧ a.toNat / 0x1000 % 0x40 < instances s.fuses (a.toNat / 0x1000000) b ∧ (isHigh src = false ∨ ((b = .mgmt ∨ b = .tap) ∧ isMc src = false))) up (.core 2) 0xC080100 .whole 5 .mgmt) := by
  decide +kernel

/-- What the clauses of ErrorRecordsFill assume holds somewhere. -/
theorem witness_ErrorRecordsFill :
    ((fun (m : Mach) (e : ErrRec) (k : Nat) =>
      RealErr e ∧ k = pageOff e.die e.blk e.inst + recBase e.blk ∧ m.reg k % 2 = 0) up.mach ⟨12, .bulk, 2, 16, 2, some 64, 5, some 7, false⟩ (pageOff 12 .bulk 2 + 0x200)) ∧
    ((fun (m : Mach) (e : ErrRec) (k : Nat) =>
      RealErr e ∧ k = pageOff e.die e.blk e.inst + recBase e.blk ∧ m.reg k % 2 = 1) (up.mach.recordErr ⟨12, .bulk, 2, 16, 2, some 64, 5, some 7, false⟩).1 ⟨12, .bulk, 2, 3, 2, none, 9, none, false⟩ (pageOff 12 .bulk 2 + 0x200)) ∧
    ((fun (m : Mach) (e : ErrRec) (k : Nat) =>
      RealErr e ∧ k = pageOff e.die e.blk e.inst) up.mach ⟨12, .bulk, 2, 16, 2, some 64, 5, some 7, false⟩ (pageOff 12 .bulk 2)) := by
  decide +kernel

/-- What the clauses of ErrorsReact assume holds somewhere. -/
theorem witness_ErrorsReact :
    ((fun (m : Mach) (e : ErrRec) =>
      m.errs = [e] ∧ m.evs = [] ∧ e.sev < 3 ∧ m.maskedErr e = true) ((up.mach.setReg (pageOff 12 .bulk 2 + 0x30) 0x10000).err ⟨.bulk, 16⟩ 2 2) ⟨12, .bulk, 2, 16, 2, none, 0, none, false⟩) ∧
    ((fun (m : Mach) (e : ErrRec) (k : Nat) =>
      m.errs = [e] ∧ m.evs = [] ∧ e.sev < 3 ∧ m.maskedErr e = false ∧ k = pageOff e.die e.blk e.inst + recBase e.blk ∧ m.reg k % 2 = 1 ∧ e.sev ≤ bitsOf (m.reg (k + 0x20)) 1 2 ∧ m.lant.coal.length < 64 ∧ (∀ c ∈ m.lant.coal, c.source = sourceOf e.die e.blk e.inst → c.typ = 1 → c.cause ≠ e.cause)) ((up.mach.setReg (pageOff 12 .bulk 2 + 0x200) 5).setReg (pageOff 12 .bulk 2 + 0x220) 5 |>.err ⟨.bulk, 16⟩ 2 2) ⟨12, .bulk, 2, 16, 2, none, 0, none, false⟩ (pageOff 12 .bulk 2 + 0x200)) ∧
    ((fun (m : Mach) (e : ErrRec) (v : EventRec) =>
      m.errs = [e] ∧ m.evs = [] ∧ (e.sev = 1 ∨ e.sev = 2) ∧ m.maskedErr e = false ∧ m.reg (pageOff e.die e.blk e.inst + recBase e.blk) % 2 = 0 ∧ m.second = none ∧ m.ringOn = false ∧ m.lant.trings = [] ∧ m.mode ≠ 0 ∧ m.lant.sbq.length < 224 ∧ v = m.errEvent e (m.get R.LANT_SEQ_NEXT)) ((up.mach.hset R.HDR_CONTROL_ENABLE .lant 0).err ⟨.bulk, 16⟩ 2 2) ⟨12, .bulk, 2, 16, 2, none, 0, none, false⟩ ((up.mach).errEvent ⟨12, .bulk, 2, 16, 2, none, 0, none, false⟩ (up.mach.get R.LANT_SEQ_NEXT))) ∧
    ((fun (m : Mach) (e : ErrRec) =>
      m.errs = [e] ∧ m.evs = [] ∧ e.sev = 3 ∧ m.reg (pageOff e.die e.blk e.inst + recBase e.blk) % 2 = 0 ∧ m.second = none ∧ m.ringOn = false ∧ m.lant.trings = [] ∧ m.mode ∈ [2, 3, 4, 5, 6, 7, 8, 10, 11]) ((up.mach.hset R.HDR_CONTROL_ENABLE .lant 0).err ⟨.hyl, 16⟩ 3 2) ⟨12, .hyl, 2, 16, 3, none, 0, none, false⟩) ∧
    ((fun (m : Mach) (e : ErrRec) (n : Nat) =>
      e.sev = 3 ∧ m.reg (pageOff e.die e.blk e.inst + recBase e.blk) % 2 = 0 ∧ m.maskedErr e = false ∧ m.lant.incident = true ∧ m.ringOn = false ∧ m.lant.trings = [] ∧ m.mode ∈ [2, 3, 4, 5, 6, 7, 8, 10, 11] ∧ n = m.bankCount (m.get R.LANT_STORE_STAT_CUR) ∧ n < 704) (({ up.mach with lant := { up.mach.lant with incident := true } } : Mach).hset R.HDR_CONTROL_ENABLE .lant 0) ⟨12, .hyl, 2, 16, 3, none, 0, none, false⟩ 0) := by
  decide +kernel

/-- What the clauses of FrozenStopsThePackage assume holds somewhere. -/
theorem witness_FrozenStopsThePackage :
    ((fun (m : Mach) (c : Nat) =>
      m.mode ∈ [2, 3, 4, 5, 6, 7, 8, 10, 11]) up.mach 1) := by
  decide +kernel

/-- What the clauses of RoutesReachTheirRouter assume holds somewhere. -/
theorem witness_RoutesReachTheirRouter :
    ((fun (l : List Nat) (i : Nat) =>
      l.length ≤ 10 ∧ (∀ c ∈ l, c < 8)) [1, 1, 4, 3] 2) := by
  decide +kernel

/-- What the clauses of RangeLookupTakesLowestBlock assume holds somewhere. -/
theorem witness_RangeLookupTakesLowestBlock :
    ((fun (m : Mach) (set a : Nat) (w : Bool) =>
      2 ^ 48 ≤ a) up.mach 0 0x1000000000000 true) ∧
    ((fun (m : Mach) (set a : Nat) (w : Bool) =>
      a < 2 ^ 48 ∧ m.rstale = [] ∧ (∀ n < 8, ¬ Covers (m.rblock set n) a)) up.mach 0 0x1000 true) ∧
    ((fun (m : Mach) (set a : Nat) (w : Bool) (n spa : Nat) (b : RBlock) =>
      a < 2 ^ 48 ∧ m.rstale = [] ∧ n < 8 ∧ b = m.rblock set n ∧ Covers b a ∧ (∀ j < n, ¬ Covers (m.rblock set j) a) ∧ spa = b.target + (a - b.base)) ((up.mach.putBlock 5 2 ⟨true, true, false, 0x200000, 0x40000000, 0⟩).putBlock 5 3 ⟨true, true, true, 0, 0, 8⟩ |> fun m => { m with rstale := [] }) 5 0x200040 false 2 0x40000040 ⟨true, true, false, 0x200000, 0x40000000, 0⟩) ∧
    ((fun (m : Mach) (set a spa : Nat) (w : Bool) =>
      (m.lookup set a w).2.toOption = some spa) ((up.mach.putBlock 5 2 ⟨true, true, false, 0x200000, 0x40000000, 0⟩) |> fun m => { m with rstale := [] }) 5 0x200040 0x40000040 false) := by
  decide +kernel

/-- The pair of packages at step 2 of a formation, with the KEK in slot 16. -/
def forming : State := edit (sets up [(R.PKG_PAIR_CTL_ENABLE, 1), (R.GUY_STATUS_UP, 1), (R.PKG_PAIR_STATE_STATE, 1), (R.PKG_PAIR_KEYS_KEK, 16), (R.PKG_PAIR_KEYS_TX, 17), (R.PKG_PAIR_KEYS_RX, 18), (R.PKG_PAIR_KEYS_PSHED0, 19), (R.PKG_PAIR_KEYS_PSHED1, 20)]) (fun m => { (([0, 1, 2, 3].foldl (fun m q => m.set R.TIER_LAYOUT_MIRROR 1 q) m).hset R.HDR_CONTROL_ENABLE .guy 1).setSlot 16 ⟨1, 1, 2 ^ useWrap + 2 ^ useUnwrap + 2 ^ useMirror, 0, false, 1, 0, 0, 0, 0, (List.range 32).map (BitVec.ofNat 8)⟩ with pair := { m.pair with step := 2, cmd := 1 } })

/-- A HELLO with both keys. -/
def helloKeys : Hello := ⟨0, 2, 6, 3, 1, 0, 0, [], [], [], wrapped.map (BitVec.ofNat 8), wrapped.map (BitVec.ofNat 8), 0⟩

/-- A pair key unwraps to what its wrapped form holds. -/
theorem forming_unwraps : forming.mach.unwrapPair (wrapped.map (BitVec.ofNat 8)) = some (1, 0, 0, (List.range 32).map (BitVec.ofNat 8)) := by
  have hk : Crypto.ofB (forming.mach.slot forming.mach.pairKek).key = List.range 32 := by decide +kernel
  have hb : Crypto.ofB (wrapped.map (BitVec.ofNat 8)) = wrapped := by decide +kernel
  rw [Mach.unwrapPair, if_neg (by decide +kernel), hk, hb, wrapped_opens]
  decide +kernel

/-- What the clause of PairControlComplete about the keys of a HELLO assumes holds somewhere. -/
theorem witness_PairKeys :
    forming.mach.guyAny = true ∧ forming.mach.pairState = 1 ∧ forming.dev.pair.step = 2 ∧ forming.mach.helloResult helloKeys = 0 ∧
      helloKeys.serial.toNat ≤ forming.fuses.serial ∧ forming.mach.unwrapPair helloKeys.keyToPeer = some (1, 0, 0, (List.range 32).map (BitVec.ofNat 8)) ∧
      forming.mach.unwrapPair helloKeys.keyFromPeer = some (1, 0, 0, (List.range 32).map (BitVec.ofNat 8)) ∧
      17 = forming.mach.get R.PKG_PAIR_KEYS_TX ∧ 18 = forming.mach.get R.PKG_PAIR_KEYS_RX ∧ (forming.mach.slot 12).state = 0 ∧ (forming.mach.slot 13).state = 0 ∧
      (∀ x ∈ forming.dev.tenants, x.2.durable = false) ∧ (∀ x ∈ forming.dev.pmap, eDur (forming.mach.entry (x.1 * 4096)) = false) ∧ forming.mach.acceptMode ≠ 6 :=
  ⟨by decide +kernel, by decide +kernel, by decide +kernel, by decide +kernel, by decide +kernel, forming_unwraps, forming_unwraps, by decide +kernel,
    by decide +kernel, by decide +kernel, by decide +kernel, by decide +kernel, by decide +kernel, by decide +kernel⟩

/-- A wrapped key lies in line 0x80 of memory, and slot 17 holds its KEK. -/
def importing : State := edit up (fun m => (m.setSlot 17 ⟨1, 1, 2 ^ useUnwrap, 0, false, 0, 0, 0, 0, 0, (List.range 32).map (BitVec.ofNat 8)⟩).setDl 0 0x80 { noLine with st := .e, data := BitVec.ofNat 512 (ofBytes (wrapped.map (BitVec.ofNat 8))) })

/-- The line a wrapped key lies in. -/
def keyLine : Line := BitVec.ofNat 512 (ofBytes (wrapped.map (BitVec.ofNat 8)))

/-- What it unwraps to. -/
def plainKey : List Nat := List.range 32 ++ [1, 0, 1, 0] ++ List.replicate 12 0

/-- What the clause of SeedCommandsComplete about IMPORT assumes holds somewhere. -/
theorem witness_Import :
    MayWrite importing .mc 12 .seed 0 ∧ Idle importing ∧ NoUncore importing ∧ importing.mach.seedReady = true ∧ (importing.mach.slot 20).state = 0 ∧
      importing.mach.kekOk 17 useUnwrap = true ∧ (importing.mach.slot 17).limit = 0 ∧ importing.mach.managed (0x80 * 64) = true ∧
      importing.mach.ownerLine 0x80 = some (keyLine, false) ∧ importing.mach.durableTenant (bitsOf 1 13 11) = false ∧
      Crypto.kwUnwrap (Crypto.ofB (importing.mach.slot 17).key) (Crypto.ofB ((bytesOf 64 keyLine.toNat).take 56)) = some plainKey ∧
      blobNat plainKey 32 1 = 1 ∧ blobNat plainKey 34 1 ≤ 4 ∧ blobNat plainKey 34 1 ≠ 3 := by
  have hk : Crypto.ofB (importing.mach.slot 17).key = List.range 32 := by decide +kernel
  have hb : Crypto.ofB ((bytesOf 64 keyLine.toNat).take 56) = wrapped := by decide +kernel
  rw [hk, hb, wrapped_opens]
  exact ⟨by decide +kernel, by decide +kernel, by decide +kernel, by decide +kernel, by decide +kernel, by decide +kernel, by decide +kernel, by decide +kernel,
    by decide +kernel, by decide +kernel, rfl, by decide +kernel, by decide +kernel, by decide +kernel⟩

/-- A page of zeros, 64 lines held, and a descriptor that compresses it as a frame into the page `work` maps. -/
def zeros : State := edit (work (desc 3 4 4096 0x2000 0x1080 28 0 0)) (fun m =>
  forN 64 (fun i m => m.setDl 0 (0x80 + i) { noLine with st := .e }) m)

/-- The bytes that descriptor reads. -/
def zeroBytes : List Byte := (List.range (linesIn 0x2000 4096)).flatMap (fun i => (partOf zeros 5 0x2000 4096 i).getD [])

def zeroDesc : Desc := { newDesc (desc 3 4 4096 0x2000 0x1080 28 0 0) 0 5 with logged := true, waitAck := false }

/-- What the clause of StreamsAndCiphersComplete about frames assumes holds somewhere. -/
theorem witness_FrameStream :
    fmt zeroDesc = 4 ∧ Starts zeros 3 0x03 5 zeroDesc none ∧ zeros.mach.aliased 5 zeroDesc = false ∧ Source zeros 5 zeroDesc.src zeroDesc.len zeroBytes ∧
      Dest zeros 5 zeroDesc.dst zeroDesc.auxLen 0x1080 0x4100000080 0x1122 ∧
      (Frame.encode 3 16 (pageOfBytes zeroBytes)).bytes.length = zeroDesc.auxLen :=
  ⟨by decide +kernel, by decide +kernel, by decide +kernel, ⟨by decide +kernel, by decide +kernel, rfl⟩, by decide +kernel, by decide +kernel⟩

/-- A port with two map records of quadrant 2 unacknowledged. -/
def unacked : State :=
  edit (sets up [(R.PKG_PAIR_STATE_STATE, 3), (R.PKG_MODE_MODE, 4), (R.GUY_STATUS_UP, 1)])
    (fun m => m.setOut 2 [⟨5, false, .map 0 0 1 false, none⟩, ⟨6, false, .map 0 0 1 false, none⟩])

/-- What the clause of GuylineFramesComplete about ACK frames assumes holds somewhere: for one entry, record 5 of quadrant 2. -/
theorem witness_AckFrame :
    Arrives unacked 0 2 ⟨false, false, 0, 0, 0, 1323364038⟩ 0 (ackBytes (([(2, 5)] : List (Fin 4 × Word)).take 14)) ∧ Idle unacked ∧
      unacked.mach.mirrorMode = true ∧
      ([(2, 5)] : List (Fin 4 × Word)) = (if unacked.mach.get R.PKG_PAIR_STATE_FEATURES / 2 % 2 = 1 then ([(2, 5)] : List (Fin 4 × Word)).take 14
        else ([(2, 5)] : List (Fin 4 × Word)).take 1) ∧
      (∀ e ∈ ([(2, 5)] : List (Fin 4 × Word)), ∀ r ∈ unacked.mach.outRing e.1.val, r.seq ≤ e.2.toNat →
        r.forDur = none ∧ (match r.body with | .sync => false | .accept .. => false | _ => true) = true) ∧
      (∃ k ∈ [0, 1, 2, 3], k ∉ unacked.dev.pair.syncAcked) := by
  refine ⟨by decide +kernel, by decide +kernel, by decide +kernel, by decide +kernel, fun e he => ?_, by decide +kernel⟩
  obtain rfl := List.mem_singleton.mp he
  decide +kernel

end Sys2Proof.Tests
end

section
/-! SUPPORT. What one step can do: it applies a command's effect to the working machine, or it moves package time on. -/
namespace Sys2Proof.Machine

/-! ### Every command is one effect -/

/-- The dispatch gives every command one effect on the working machine, the same in every state; the state around it is left to
`State.close`. -/
theorem exec_eq_cmd (c : Instr) : ∃ f : Mach → Mach, ∀ s, exec c s = s.cmd f := by
  cases c
  all_goals
    dsimp only [exec]
    exact ⟨_, fun _ => rfl⟩

theorem cmd_eq_next (s : State) (f : Mach → Mach) : s.cmd f = .next (s.close (f s.mach).leave) := rfl

theorem step_of_nil {s : State} (h : s.pending = []) : step s = .next s.tick := by
  rw [step, h]

theorem step_of_cons {s : State} {c : Instr} {rest : List Instr} (h : s.pending = c :: rest) :
    step s = exec c { s with pending := rest } := by
  rw [step, h]

/-- A step moves package time on, or takes the command at the front off the queue and performs its effect on the rest. -/
theorem step_cases (s : State) :
    step s = .next s.tick ∨
      ∃ c rest f, s.pending = c :: rest ∧ (∀ t, exec c t = t.cmd f) ∧ step s = State.cmd { s with pending := rest } f := by
  cases hp : s.pending with
  | nil => exact .inl (step_of_nil hp)
  | cons c rest =>
    obtain ⟨f, hf⟩ := exec_eq_cmd c
    exact .inr ⟨c, rest, f, rfl, hf, (step_of_cons hp).trans (hf _)⟩

/-! ### The invariant -/

theorem Inv.tick {fu : Fuses} {s : State} (h : Inv fu s) : Inv fu s.tick := h

/-- Whatever bytes a working machine has written, closing over it stores them one by one, which keeps the canonical form (log 1). -/
theorem Inv.close {fu : Fuses} {s : State} (h : Inv fu s) (m : Mach) : Inv fu (s.close m) := by
  obtain ⟨hmem, hfuses⟩ := h
  exact ⟨by rw [State.close_mem]; exact Memory.wf_commit m.wr hmem, by rw [State.close_fuses, hfuses]⟩

/-- Settles O51: storage changes only when the state is closed over what a command has written, and the fused values never do. -/
theorem everyStepKeepsInvariant : Obligations.EveryStepKeepsInvariant := by
  intro fu s h
  obtain ht | ⟨c, rest, f, -, -, hs⟩ := step_cases s
  · exact ⟨s.tick, ht, h.tick⟩
  · have hrest : Inv fu { s with pending := rest } := h
    exact ⟨_, hs.trans (cmd_eq_next _ f), hrest.close _⟩

end Sys2Proof.Machine
end
